-- ==== Sys2Proof/Word.lean ====
section
/-! DEFINITION. The word types of the Jexvel 6 (spec/11_scalar.md R200, R201): 64-bit registers, bytes, 32-bit slots. -/

namespace Sys2Proof

/-- A 64-bit integer register or CSR (R8, R197). -/
abbrev Word := BitVec 64

/-- A byte of memory or scratchpad. -/
abbrev Byte := BitVec 8

end Sys2Proof
end

