-- ==== Sys2Proof/Syntax.lean ====
section
/-! DEFINITION. The instruction set and the module's other steps: one constructor of Instr per row of
spec/opcode_table.json. Encoded rows carry the operand fields of spec/10_encoding.md (R179 to R196); rows without an
encoding are steps of the module's other agents and carry what the step is about. -/

namespace Sys2Proof

/-- A packet of the package network or the Soltar fabric (spec/09_network.md R155, R169; spec/17 R324). A hop is the pair
(vc, port) of R156; `rsv` are its reserved bits. `inPort` is the port and virtual channel on which the packet arrived at the
node that takes the hop, none when it was injected there. `legs` are the hops of the package network that it has still to take before its next
fabric hop or its endpoint (vc, port; R165). `sender`, `pc`, `arg`, `cnt`, `inj` (its hops as injected), `msg` and `total` (its message, and the
packets of that) are what its sender's interface knows of it for a report (R387). -/
structure Packet where
  hc      : Nat
  hp      : Nat
  hops    : List (Nat × Nat × Nat)
  part    : Nat
  src     : Nat
  dst     : Nat
  kind    : Nat
  seq     : Nat
  k0      : Nat
  k1      : Nat
  payload : List (BitVec 8)
  inPort  : Option (Nat × Nat)
  sender  : Nat
  pc      : Nat
  arg     : Nat
  cnt     : Nat
  legs    : List (Nat × Nat)
  inj     : List (Nat × Nat × Nat)
  msg     : Nat
  total   : Nat
  deriving DecidableEq, Repr

/-- A port of a Soltar switch as the topology map lists it (spec/09_network.md R166, R171): its plane, its number, the module and the module port
that its cable leads to, its registers and its link. -/
structure SwitchPort where
  plane : Nat
  sw    : Nat
  mod   : Nat
  port  : Nat
  rko   : Nat
  rki   : Nat
  prt   : Nat
  up    : Bool
  deriving DecidableEq, Repr

/-- An error that the check codes of a core find (spec/25_faults_data.md R379): the item (structure, register or bank, element or slot), whether it
is uncorrectable, and the lane. -/
structure SoftError where
  kind : Nat
  num  : Nat
  elem : Nat
  hard : Bool
  lane : Nat
  deriving DecidableEq, Repr

/-- A core at its issue turn, with the errors that its check codes find then (spec/04_scheduling.md R62, spec/25_faults_data.md R379). -/
structure CoreTurn where
  core   : Nat
  errors : List SoftError
  deriving DecidableEq, Repr

/-- The sequence number that an acknowledgment names, and what an MSIG's count exceeded its counter by (spec/09_network.md R170,
spec/24_faults_execution.md R364). -/
structure AckOf where
  seq    : Nat
  excess : Nat
  deriving DecidableEq, Repr

/-- A slice whose channel is scrubbed, with the lines in which an error is found: corrected, or (true) uncorrectable (spec/25_faults_data.md R384). -/
structure ScrubOf where
  slice  : Nat
  errors : List (Nat × Bool)
  deriving DecidableEq, Repr

/-- A block that is assigned to a world (spec/23_host_security.md R355): a cluster; group `g` of 8 slices of a cluster; the copy engine of a
core; the host interface; the 16 fabric ports from 16g on. -/
inductive Block where
  | cluster (cl : Nat)
  | slices (cl g : Nat)
  | engine (cl core : Nat)
  | hostInterface
  | ports (g : Nat)
  deriving DecidableEq, Repr

/-- The clusters of a partition, and the blocks of the module that are in the secure world (spec/23_host_security.md R352, R355). -/
structure BoundTo where
  clus   : Nat
  secure : List Block
  deriving DecidableEq, Repr

/-- A report on a failed message (spec/26_faults_network.md R387). -/
structure Report where
  rtype : Nat
  hop   : Nat
  why   : Nat
  kind  : Nat
  seq   : Nat
  pc    : Nat
  arg   : Nat
  cnt   : Nat
  route : List (BitVec 8)
  deriving DecidableEq, Repr

/-- A region register (spec/23_host_security.md R355): PA[51:16] of the first and last 64 KiB. -/
structure Region where
  valid  : Bool
  secure : Bool
  base   : Nat
  lim    : Nat
  deriving DecidableEq, Repr

/-- The rows of spec/opcode_table.json. -/
inductive Instr where
  /-- MODULE_RESET (R5). Module reset sets every field to its reset value, keeping the kept fields. -/
  | moduleReset
  /-- BLOCK_READY (R358, R395). A block becomes usable during bring-up and its readiness bit is set; `failed` is the measurement
  index of a boot stage whose signature check failed, 0 for none. -/
  | blockReady (bit failed : Nat)
  /-- JSTART (R354). A host write of jstart with the descriptor's address; with none, the start that such a write has made due: the module reads
  and checks the job descriptor and starts the job. -/
  | jstart (slot : Nat) (desc : Option Nat)
  /-- JCTL_CANCEL (R352). A host write of jctl.cancel cancels the job record. -/
  | jctlCancel (slot : Nat)
  /-- JCTL_HOLD (R352). A host write of jctl.hold pre-empts every hart of the job and keeps it unplaced. -/
  | jctlHold (slot : Nat)
  /-- JCTL_RESUME (R352). A host write of jctl.resume returns held harts to their queues. -/
  | jctlResume (slot : Nat)
  /-- DCLR (R397). A host write of 1 to dclr clears the dusk record. -/
  | dclr
  /-- HOST_REGISTER_WRITE (R350). A host write to a BAR 0 register without behaviour of its own updates it or is ignored. -/
  | hostRegisterWrite (off val : Nat)
  /-- HOST_READ (R154). A host read through BAR 2 is served at its slice after earlier host writes. -/
  | hostRead (space addr len tag : Nat)
  /-- HOST_POSTED_WRITE (R154). A host posted write through BAR 2 becomes visible at its slice in order. -/
  | hostPostedWrite (addr : Nat) (bytes : List (BitVec 8)) (relaxed : Bool)
  /-- HOST_ACCESS_AFTER_CLAIM (R143). A host access that waited at claimed bytes is served once the claim is released. -/
  | hostAccessAfterClaim (k : Nat)
  /-- HOST_CLAIM_TIMEOUT (R378). A host access waiting 100 µs on a claim ends without touching the bytes. -/
  | hostClaimTimeout (k : Nat)
  /-- TDISP_EXIT_RUN (R351). A TDISP interface leaving RUN cancels the partition's running job. -/
  | tdispExitRun (slot : Nat)
  /-- HOST_LINK_FAILURE (R393). An IDE integrity failure or link loss moves every interface out of RUN. -/
  | hostLinkFailure (why : Nat)
  /-- GET_VERSION (R357). The security processor answers an SPDM GET_VERSION request. -/
  | getVersion
  /-- GET_CAPABILITIES (R357). The security processor answers an SPDM GET_CAPABILITIES request. -/
  | getCapabilities
  /-- NEGOTIATE_ALGORITHMS (R357). The security processor answers an SPDM NEGOTIATE_ALGORITHMS request. -/
  | negotiateAlgorithms (hash : Nat)
  /-- GET_DIGESTS (R357). The security processor answers an SPDM GET_DIGESTS request. -/
  | getDigests
  /-- GET_CERTIFICATE (R357). The security processor returns a certificate chain from slot 0 or 1. -/
  | getCertificate (chain off len : Nat)
  /-- CHALLENGE (R357). The security processor answers an SPDM CHALLENGE with dual signatures. -/
  | challenge (slot nonce : Nat)
  /-- GET_MEASUREMENTS (R357). The security processor returns signed measurements. -/
  | getMeasurements (slot index nonce : Nat)
  /-- KEY_EXCHANGE (R357). The security processor answers an SPDM KEY_EXCHANGE. -/
  | keyExchange (slot share : Nat)
  /-- FINISH (R357). The security processor completes an SPDM session and exports its secret. -/
  | finish (slot : Nat)
  /-- COUNT_DOWN (R31). A count-down or CCADD arrives at a work record and is applied in order of arrival. -/
  | countDown (slot handle n : Nat) (issuer : Option Nat)
  /-- HART_CANCEL (R53). A cancellation takes effect in a hart at its next interruption point. -/
  | hartCancel (hid : Nat)
  /-- CANCELLATION_COMPLETE (R54). Once affected harts stop and engine writes land, the record reads cancelled and counts its parent down. -/
  | cancellationComplete (slot handle : Nat)
  /-- LAUNCH_PLACEMENT (R59). Each clk a cluster's placer places harts of its first highest-priority launch. -/
  | launchPlacement (cl core grant : Nat)
  /-- PREEMPTION (R50). Once the scoreboard shows every tile register clear, the hart's context is saved. -/
  | preemption (hid : Nat)
  /-- ISSUE_TURN (R63). At a convoy boundary the issue selector gives the next turn to one ready hart. -/
  | issueTurn (cl : Nat) (core : CoreTurn)
  /-- LANE_COUNT_CHANGE (R65). The power controller sets a core's active lane count at a convoy boundary. -/
  | laneCountChange (cl core lanes : Nat)
  /-- CLOCK_STRETCH (R74). The controller stretches a timetabled domain's clock at a segment or period boundary. -/
  | clockStretch (cl n : Nat)
  /-- PERIOD_BOUNDARY (R75). The phase's period count expires and tick advances. -/
  | periodBoundary (cl : Nat)
  /-- PERIOD_LIMIT (R57). A phase's period limit elapses and its work passes on or is cancelled. -/
  | periodLimit (slot : Nat)
  /-- DAYBREAK_PULSE (R70). 64 clk after the last arming or arrival, the daybreak pulse starts a segment. -/
  | daybreakPulse (cl : Nat)
  /-- BANK_TWILIGHT (R22). A slice bank idle for 4,096 clk falls to its retention voltage. -/
  | bankTwilight (cl slice bank : Nat)
  /-- BANK_WAKE (R22). A twilight bank becomes awake 40 clk after its first access. -/
  | bankWake (cl slice bank : Nat)
  /-- ASYNC_INTERRUPT (R364). A pending asynchronous source is taken at a convoy boundary while ie is 1. -/
  | asyncInterrupt
  /-- CLAIM_ARRIVAL (R141). A claim reaches its home slice and is accepted or raises an exception on overlap. -/
  | claimArrival (hid va n : Nat)
  /-- ATOMIC_ARRIVAL (R147). An immediate atomic takes effect at its home slice as it arrives. -/
  | atomicArrival (hid va op w operand : Nat)
  /-- COPY_ENGINE_OPERATION (R282). The copy engine performs an issued operation's accesses in issue order. -/
  | copyEngineOperation (hid : Nat)
  /-- FEED_QUEUE_FILL_RESUME (R119). A fill waiting for room resumes as the consumer advances. -/
  | feedQueueFillResume (hid fq : Nat)
  /-- COLLECTIVE_DRAIN (R148). When every live hart has reached a collective FENCEV, the slices apply the pending ordered atomics. -/
  | collectiveDrain (slot launch : Nat)
  /-- BARRIER_RELEASE (R310). After the last arrival and its scratchpad accesses, BAR releases every waiter. -/
  | barrierRelease (slot launch k : Nat)
  /-- HALT_COMPLETE (R318). When engine operations finish and the drain ends, the hart stops and its launch is counted down. -/
  | haltComplete (hid : Nat)
  /-- PACKET_HOP (R160). A packet arriving at a node is checked against its hop and forwarded or refused. -/
  | packetHop (p : Packet)
  /-- PUT_PACKET (R322). A put packet arrives and its words are written at the destination. -/
  | putPacket (p : Packet)
  /-- GET_REQUEST (R322). A get request arrives and the destination reads and returns the bytes. -/
  | getRequest (p : Packet)
  /-- GET_REPLY (R322). A get reply arrives and its words are written locally, then lcc is counted down. -/
  | getReply (p : Packet)
  /-- SIGNAL_PACKET (R322). A signal arrives and counts the named record down. -/
  | signalPacket (p : Packet)
  /-- ACKNOWLEDGMENT (R170). An end-to-end acknowledgment arrives and the sender releases the packet. -/
  | acknowledgment (dst : Nat) (seq : AckOf)
  /-- MESSAGE_CLAIM_TIMEOUT (R378). A message access waiting 100 µs at claimed bytes is refused. -/
  | messageClaimTimeout (k : Nat)
  /-- REPORT_ARRIVAL (R385). A report reaching the sender is written to the next fault-queue slot or held. -/
  | reportArrival (hid : Nat) (r : Report)
  /-- RETRANSMIT_TIMEOUT (R391). With no acknowledgment after 50 µs the packet is retransmitted, or given up after four. -/
  | retransmitTimeout (dst seq : Nat)
  /-- FLIT_CRC_ERROR (R390). A flit failing its CRC is retried from the last acknowledged flit. -/
  | flitCrcError (port tries : Nat)
  /-- LINK_DOWN (R388). A link dies and packets held on it return as dead hops. -/
  | linkDown (port : Nat)
  /-- VIEW_UPDATE (R173). The management controller rewrites a partition view under its generation count. -/
  | viewUpdate (slot : Nat) (changes : List SwitchPort)
  /-- LOG_RECORD_WRITE (R328). When ring space is available the slice writes a pad or record, its seal and the tail. -/
  | logRecordWrite (hid : Nat)
  /-- MTIMER_EXPIRY (R329). mtimer µs after the oldest unsignalled record the slice sends MSI-X. -/
  | mtimerExpiry (desc : Nat)
  /-- PARTITION_RESET (R392). A partition's endpoints stop injecting and enter sink mode. -/
  | partitionReset (slot why : Nat)
  /-- PARTITION_DRAIN_END (R392). After the drain the controller closes the partition's ports and leaves sink mode. -/
  | partitionDrainEnd (slot us : Nat)
  /-- THERMAL_LEVEL_CHANGE (R396). A die temperature, power or coolant reading raises the health level. -/
  | thermalLevelChange (lvl why reading : Nat)
  /-- LEVEL_FALL (R396). A level falls after its cause has been absent for 1 s. -/
  | levelFall (lvl why reading : Nat)
  /-- THERMAL_TRIP (R396). A die above 120 °C or 10 s at level 2 writes a dusk event and resets the module. -/
  | thermalTrip (why reading : Nat)
  /-- LANE_RETIREMENT (R381). The controller retires a failing lane and lowers lmax at the next convoy boundary; the period's corrections, none for a
  failed self-test. -/
  | laneRetirement (cl core lane : Nat) (corrections : Option Nat)
  /-- SCRUB (R384). Each slice scrubs its whole channel once every 24 hours. -/
  | scrub (cl : Nat) (slice : ScrubOf)
  /-- ILLEGAL_INSTRUCTION (R180). A fetched word that is a reserved encoding or no instruction takes the illegal-instruction trap. -/
  | illegalInstruction (word pos : Nat)
  /-- FETCH_FAULT (R183). A fetch from an unmapped, non-executable or rejected address takes the fetch fault before anything performs. -/
  | fetchFault (va pos : Nat)
  /-- TDISP_ENTER_RUN (R351). A partition's TDISP interface enters the RUN state, after which it accepts secure start writes. -/
  | tdispEnterRun (slot : Nat)
  /-- PARTITION_BINDING (R352). The management controller binds a partition to a job slot and writes its jpart, port partitions and region registers. -/
  | partitionBinding (slot part : Nat) (clus : BoundTo) (regions : List Region)
  /-- HOST_WINDOW_COMPLETION (R393). The host returns a completion or an error for a device access to the host window, or the completion times out. -/
  | hostWindowCompletion (pa len err : Nat) (write : Bool)
  /-- UNSUPPORTED_SPDM_REQUEST (R395). An SPDM request that the responder cannot serve receives an SPDM ERROR response. -/
  | unsupportedSpdmRequest (code : Nat)
  /-- LUI (R201). Writes the sign-extended upper immediate shifted left by 12 into xd. -/
  | lui (d : Nat) (imm : Nat)
  /-- AUIPC (R201). Writes pc plus the sign-extended upper immediate into xd. -/
  | auipc (d : Nat) (imm : Nat)
  /-- JAL (R201). Writes pc + 4 into xd and jumps pc-relative, trapping on a misaligned or continuing-word target. -/
  | jal (d : Nat) (off : Int)
  /-- JALR (R201). Writes pc + 4 into xd and jumps to (xa + imm) with bit 0 cleared. -/
  | jalr (d : Nat) (a : Nat) (imm : Int)
  /-- BEQ (R201). Branches pc-relative when xa equals xb. -/
  | beq (a : Nat) (b : Nat) (off : Int)
  /-- BNE (R201). Branches pc-relative when xa differs from xb. -/
  | bne (a : Nat) (b : Nat) (off : Int)
  /-- BLT (R201). Branches when xa is less than xb, signed. -/
  | blt (a : Nat) (b : Nat) (off : Int)
  /-- BGE (R201). Branches when xa is greater than or equal to xb, signed. -/
  | bge (a : Nat) (b : Nat) (off : Int)
  /-- BLTU (R201). Branches when xa is less than xb, unsigned. -/
  | bltu (a : Nat) (b : Nat) (off : Int)
  /-- BGEU (R201). Branches when xa is greater than or equal to xb, unsigned. -/
  | bgeu (a : Nat) (b : Nat) (off : Int)
  /-- LB (R204). Loads one byte sign-extended as a plain load. -/
  | lb (d : Nat) (a : Nat) (imm : Int)
  /-- LH (R204). Loads two aligned bytes sign-extended as a plain load. -/
  | lh (d : Nat) (a : Nat) (imm : Int)
  /-- LW (R204). Loads four aligned bytes sign-extended as a plain load. -/
  | lw (d : Nat) (a : Nat) (imm : Int)
  /-- LD (R204). Loads eight aligned bytes as a plain load. -/
  | ld (d : Nat) (a : Nat) (imm : Int)
  /-- LBU (R204). Loads one byte zero-extended as a plain load. -/
  | lbu (d : Nat) (a : Nat) (imm : Int)
  /-- LHU (R204). Loads two aligned bytes zero-extended as a plain load. -/
  | lhu (d : Nat) (a : Nat) (imm : Int)
  /-- LWU (R204). Loads four aligned bytes zero-extended as a plain load. -/
  | lwu (d : Nat) (a : Nat) (imm : Int)
  /-- SB (R205). Stores one byte as a plain store, to scratchpad or into the write-combining buffer under a claim. -/
  | sb (a : Nat) (b : Nat) (off : Int)
  /-- SH (R205). Stores two aligned bytes as a plain store. -/
  | sh (a : Nat) (b : Nat) (off : Int)
  /-- SW (R205). Stores four aligned bytes as a plain store. -/
  | sw (a : Nat) (b : Nat) (off : Int)
  /-- SD (R205). Stores eight aligned bytes as a plain store. -/
  | sd (a : Nat) (b : Nat) (off : Int)
  /-- ADDI (R201). Writes xa plus the immediate into xd. -/
  | addi (d : Nat) (a : Nat) (imm : Int)
  /-- SLTI (R201). Writes 1 into xd when xa is less than the immediate, signed. -/
  | slti (d : Nat) (a : Nat) (imm : Int)
  /-- SLTIU (R201). Writes 1 into xd when xa is less than the immediate, unsigned. -/
  | sltiu (d : Nat) (a : Nat) (imm : Int)
  /-- XORI (R201). Writes xa XOR the immediate into xd. -/
  | xori (d : Nat) (a : Nat) (imm : Int)
  /-- ORI (R201). Writes xa OR the immediate into xd. -/
  | ori (d : Nat) (a : Nat) (imm : Int)
  /-- ANDI (R201). Writes xa AND the immediate into xd. -/
  | andi (d : Nat) (a : Nat) (imm : Int)
  /-- SLLI (R201). Shifts xa left by a 6-bit amount into xd. -/
  | slli (d : Nat) (a : Nat) (s : Nat)
  /-- SRLI (R201). Shifts xa right logically by a 6-bit amount into xd. -/
  | srli (d : Nat) (a : Nat) (s : Nat)
  /-- SRAI (R201). Shifts xa right arithmetically by a 6-bit amount into xd. -/
  | srai (d : Nat) (a : Nat) (s : Nat)
  /-- ADD (R201). Writes xa + xb modulo 2^64 into xd. -/
  | add (d : Nat) (a : Nat) (b : Nat)
  /-- SUB (R201). Writes xa − xb modulo 2^64 into xd. -/
  | sub (d : Nat) (a : Nat) (b : Nat)
  /-- SLL (R201). Shifts xa left by xb[5:0]. -/
  | sll (d : Nat) (a : Nat) (b : Nat)
  /-- SLT (R201). Writes 1 when xa < xb, signed. -/
  | slt (d : Nat) (a : Nat) (b : Nat)
  /-- SLTU (R201). Writes 1 when xa < xb, unsigned. -/
  | sltu (d : Nat) (a : Nat) (b : Nat)
  /-- XOR (R201). Writes xa XOR xb. -/
  | xor (d : Nat) (a : Nat) (b : Nat)
  /-- SRL (R201). Shifts xa right logically by xb[5:0]. -/
  | srl (d : Nat) (a : Nat) (b : Nat)
  /-- SRA (R201). Shifts xa right arithmetically by xb[5:0]. -/
  | sra (d : Nat) (a : Nat) (b : Nat)
  /-- OR (R201). Writes xa OR xb. -/
  | or (d : Nat) (a : Nat) (b : Nat)
  /-- AND (R201). Writes xa AND xb. -/
  | and (d : Nat) (a : Nat) (b : Nat)
  /-- MUL (R201). Writes the low 64 bits of xa × xb. -/
  | mul (d : Nat) (a : Nat) (b : Nat)
  /-- MULH (R201). Writes the high 64 bits of the signed × signed product. -/
  | mulh (d : Nat) (a : Nat) (b : Nat)
  /-- MULHSU (R201). Writes the high 64 bits of the signed × unsigned product. -/
  | mulhsu (d : Nat) (a : Nat) (b : Nat)
  /-- MULHU (R201). Writes the high 64 bits of the unsigned × unsigned product. -/
  | mulhu (d : Nat) (a : Nat) (b : Nat)
  /-- DIV (R202). Writes the signed quotient toward zero, never trapping. -/
  | div (d : Nat) (a : Nat) (b : Nat)
  /-- DIVU (R202). Writes the unsigned quotient, never trapping. -/
  | divu (d : Nat) (a : Nat) (b : Nat)
  /-- REM (R202). Writes the signed remainder with the dividend's sign, never trapping. -/
  | rem (d : Nat) (a : Nat) (b : Nat)
  /-- REMU (R202). Writes the unsigned remainder, never trapping. -/
  | remu (d : Nat) (a : Nat) (b : Nat)
  /-- ADDIW (R201). Adds the immediate to xa[31:0] and sign-extends the 32-bit result. -/
  | addiw (d : Nat) (a : Nat) (imm : Int)
  /-- SLLIW (R201). Shifts xa[31:0] left by a 5-bit amount and sign-extends. -/
  | slliw (d : Nat) (a : Nat) (s : Nat)
  /-- SRLIW (R201). Shifts xa[31:0] right logically by a 5-bit amount and sign-extends. -/
  | srliw (d : Nat) (a : Nat) (s : Nat)
  /-- SRAIW (R201). Shifts xa[31:0] right arithmetically by a 5-bit amount and sign-extends. -/
  | sraiw (d : Nat) (a : Nat) (s : Nat)
  /-- ADDW (R201). Adds 32-bit values and sign-extends. -/
  | addw (d : Nat) (a : Nat) (b : Nat)
  /-- SUBW (R201). Subtracts 32-bit values and sign-extends. -/
  | subw (d : Nat) (a : Nat) (b : Nat)
  /-- SLLW (R201). Shifts a 32-bit value left by xb[4:0] and sign-extends. -/
  | sllw (d : Nat) (a : Nat) (b : Nat)
  /-- SRLW (R201). Shifts a 32-bit value right logically by xb[4:0] and sign-extends. -/
  | srlw (d : Nat) (a : Nat) (b : Nat)
  /-- SRAW (R201). Shifts a 32-bit value right arithmetically by xb[4:0] and sign-extends. -/
  | sraw (d : Nat) (a : Nat) (b : Nat)
  /-- MULW (R201). Multiplies 32-bit values and sign-extends the low 32 bits. -/
  | mulw (d : Nat) (a : Nat) (b : Nat)
  /-- DIVW (R202). Divides 32-bit signed values and sign-extends, never trapping. -/
  | divw (d : Nat) (a : Nat) (b : Nat)
  /-- DIVUW (R202). Divides 32-bit unsigned values and sign-extends, never trapping. -/
  | divuw (d : Nat) (a : Nat) (b : Nat)
  /-- REMW (R202). Writes the 32-bit signed remainder sign-extended, never trapping. -/
  | remw (d : Nat) (a : Nat) (b : Nat)
  /-- REMUW (R202). Writes the 32-bit unsigned remainder sign-extended, never trapping. -/
  | remuw (d : Nat) (a : Nat) (b : Nat)
  /-- FENCE (R206). Acts as a fence of .hart scope that orders, drains and synchronises nothing. -/
  | fence (d : Nat) (a : Nat) (f : Nat) (p : Nat) (s : Nat)
  /-- ECALL (R206). Takes the environment-call trap with tepc at the instruction. -/
  | ecall
  /-- EBREAK (R206). Takes the breakpoint trap with tepc at the instruction. -/
  | ebreak
  /-- CSRRW (R207). Writes xa into a listed CSR and returns its old value, after earlier convoys complete. -/
  | csrrw (d : Nat) (csr : Nat) (a : Nat)
  /-- CSRRS (R207). Sets the CSR bits that are 1 in xa and returns the old value. -/
  | csrrs (d : Nat) (csr : Nat) (a : Nat)
  /-- CSRRC (R207). Clears the CSR bits that are 1 in xa and returns the old value. -/
  | csrrc (d : Nat) (csr : Nat) (a : Nat)
  /-- CSRRWI (R207). Writes a 5-bit zero-extended immediate into a CSR and returns the old value. -/
  | csrrwi (d : Nat) (csr : Nat) (uimm : Nat)
  /-- CSRRSI (R207). Sets CSR bits from a 5-bit immediate and returns the old value. -/
  | csrrsi (d : Nat) (csr : Nat) (uimm : Nat)
  /-- CSRRCI (R207). Clears CSR bits from a 5-bit immediate and returns the old value. -/
  | csrrci (d : Nat) (csr : Nat) (uimm : Nat)
  /-- STRIP (R222). Advances the listed pointers by the old vl and sets vl to min(xd, grant, cap), writing the remainder to xd. -/
  | strip (d : Nat) (p : Nat)
  /-- VSETC (R223). Writes vlc with min(xa, 4096) to select the two-dimensional view. -/
  | vsetc (a : Nat)
  /-- PSET (R224). Loads a pointer register with an address and an element size. -/
  | pset (d : Nat) (a : Nat) (s : Nat)
  /-- PGET (R224). Writes a pointer register's address into xd. -/
  | pget (d : Nat) (a : Nat)
  /-- VLOOP (R14). Decrements the count, rotates vrot, rewrites m4 and branches while a stage mask is active. -/
  | vloop (e : Nat) (a : Nat) (off : Int)
  /-- VBANY (R226). Branches when the named mask has an active element below vl. -/
  | vbany (k : Nat) (off : Int)
  /-- VBNONE (R226). Branches when the named mask has no active element below vl. -/
  | vbnone (k : Nat) (off : Int)
  /-- VSETT (R221). Writes vtype from its fields and sets vl to 0. -/
  | vsett (t : Nat) (g : Nat) (p : Nat) (s : Nat) (n : Nat) (l : Nat) (o : Nat) (f : Nat)
  /-- VLD (R228). Loads unit-stride units into a vector register as a plain load. -/
  | vld (c : Bool) (mk : Nat) (d : Nat) (a : Nat)
  /-- VLDS (R228). Loads strided units into a vector register. -/
  | vlds (c : Bool) (mk : Nat) (d : Nat) (a : Nat) (b : Nat)
  /-- VLDX (R228). Loads indexed units into a vector register. -/
  | vldx (c : Bool) (mk : Nat) (d : Nat) (a : Nat) (b : Nat)
  /-- VLDF (R46). Loads unit-stride units, shortening vl at the first faulting element after the first. -/
  | vldf (c : Bool) (mk : Nat) (d : Nat) (a : Nat)
  /-- VLDXF (R46). Loads indexed units, shortening vl at the first faulting element after the first. -/
  | vldxf (c : Bool) (mk : Nat) (d : Nat) (a : Nat) (b : Nat)
  /-- VST (R228). Stores unit-stride units with final rounding as a plain store. -/
  | vst (c : Bool) (mk : Nat) (d : Nat) (a : Nat)
  /-- VSTS (R228). Stores strided units with final rounding. -/
  | vsts (c : Bool) (mk : Nat) (d : Nat) (a : Nat) (b : Nat)
  /-- VSTX (R228). Stores indexed units with final rounding, the highest element winning a shared byte. -/
  | vstx (c : Bool) (mk : Nat) (d : Nat) (a : Nat) (b : Nat)
  /-- VLDP (R232). Loads whole slots lane-aligned from a peer or own scratchpad. -/
  | vldp (c : Bool) (mk : Nat) (d : Nat) (a : Nat)
  /-- VSTP (R232). Stores whole slots lane-aligned into a peer or own scratchpad. -/
  | vstp (c : Bool) (mk : Nat) (d : Nat) (a : Nat)
  /-- VSPILL (R233). Writes a register as an image block of data and tail planes. -/
  | vspill (c : Bool) (mk : Nat) (d : Nat) (a : Nat)
  /-- VRELOAD (R233). Reads an image block back into a register with its tails. -/
  | vreload (c : Bool) (mk : Nat) (d : Nat) (a : Nat)
  /-- QLD (R235). Fills a scale bank with 512 scale bytes of a tensor through the copy engine. -/
  | qld (c : Bool) (t : Nat) (d : Nat) (a : Nat)
  /-- VLDT (R234). Loads densely packed t8, t6 or e2m1 codes into subwords. -/
  | vldt (c : Bool) (mk : Nat) (d : Nat) (a : Nat) (f : Nat)
  /-- VMV (R238). Copies active elements of one register to another with tails. -/
  | vmv (c : Bool) (mk : Nat) (d : Nat) (a : Nat)
  /-- VMVX (R238). Writes an integer register's low bits into every active element. -/
  | vmvx (c : Bool) (mk : Nat) (d : Nat) (a : Nat)
  /-- VMVS (R239). Writes unit k of a vector register into xd. -/
  | vmvs (c : Bool) (d : Nat) (a : Nat) (b : Nat)
  /-- VSLIDEU (R238). Slides elements up by k positions. -/
  | vslideu (c : Bool) (mk : Nat) (d : Nat) (a : Nat) (b : Nat)
  /-- VSLIDED (R238). Slides elements down by k positions, reading fill beyond vl. -/
  | vslided (c : Bool) (mk : Nat) (d : Nat) (a : Nat) (b : Nat)
  /-- VGATH (R238). Gathers elements of a register by an index register through the lane network. -/
  | vgath (c : Bool) (mk : Nat) (d : Nat) (a : Nat) (b : Nat)
  /-- VCOMP (R238). Compresses the active elements to the front of the destination. -/
  | vcomp (c : Bool) (mk : Nat) (d : Nat) (a : Nat)
  /-- VEXPD (R238). Expands consecutive source elements into the active positions. -/
  | vexpd (c : Bool) (mk : Nat) (d : Nat) (a : Nat)
  /-- VSEL (R238). Selects each element from va where the mask is 1 and from vb elsewhere. -/
  | vsel (c : Bool) (mk : Nat) (d : Nat) (a : Nat) (b : Nat)
  /-- VPACK (R240). Interleaves subwords of two registers into packed slots. -/
  | vpack (c : Bool) (mk : Nat) (d : Nat) (a : Nat) (b : Nat)
  /-- VUNPK (R240). Extracts one selected subword of each slot into the low bits. -/
  | vunpk (c : Bool) (mk : Nat) (d : Nat) (a : Nat) (s : Nat)
  /-- VIOTA (R238). Writes at each element the count of mask bits below it. -/
  | viota (c : Bool) (mk : Nat) (d : Nat) (a : Nat)
  /-- MAND (R243). Writes the AND of two masks. -/
  | mand (c : Bool) (d : Nat) (a : Nat) (b : Nat)
  /-- MOR (R243). Writes the OR of two masks. -/
  | mor (c : Bool) (d : Nat) (a : Nat) (b : Nat)
  /-- MXOR (R243). Writes the XOR of two masks. -/
  | mxor (c : Bool) (d : Nat) (a : Nat) (b : Nat)
  /-- MANDN (R243). Writes ma AND NOT mb. -/
  | mandn (c : Bool) (d : Nat) (a : Nat) (b : Nat)
  /-- MSET (R243). Writes one bit into every element of a mask up to VLMAX. -/
  | mset (c : Bool) (d : Nat) (v : Nat)
  /-- VCUT (R243). Clears a mask at and after the first active element of another mask. -/
  | vcut (c : Bool) (d : Nat) (a : Nat)
  /-- VPOPM (R243). Writes into xd the number of set mask bits below vl. -/
  | vpopm (c : Bool) (d : Nat) (a : Nat)
  /-- VADD (R247). Adds integer elements modulo 2^w. -/
  | vadd (c : Bool) (mk : Nat) (d : Nat) (a : Nat) (b : Nat)
  /-- VSUB (R247). Subtracts integer elements modulo 2^w. -/
  | vsub (c : Bool) (mk : Nat) (d : Nat) (a : Nat) (b : Nat)
  /-- VMUL (R247). Writes the low w bits of integer products. -/
  | vmul (c : Bool) (mk : Nat) (d : Nat) (a : Nat) (b : Nat)
  /-- VMULH (R247). Writes the high w bits of integer products. -/
  | vmulh (c : Bool) (mk : Nat) (d : Nat) (a : Nat) (b : Nat)
  /-- VDIV (R248). Writes integer quotients toward zero, setting DZ on a zero divisor. -/
  | vdiv (c : Bool) (mk : Nat) (d : Nat) (a : Nat) (b : Nat)
  /-- VREM (R248). Writes integer remainders with the dividend's sign. -/
  | vrem (c : Bool) (mk : Nat) (d : Nat) (a : Nat) (b : Nat)
  /-- VMIN (R247). Writes the smaller integer element. -/
  | vmin (c : Bool) (mk : Nat) (d : Nat) (a : Nat) (b : Nat)
  /-- VMAX (R247). Writes the larger integer element. -/
  | vmax (c : Bool) (mk : Nat) (d : Nat) (a : Nat) (b : Nat)
  /-- VAND (R247). Writes the bitwise AND of elements. -/
  | vand (c : Bool) (mk : Nat) (d : Nat) (a : Nat) (b : Nat)
  /-- VOR (R247). Writes the bitwise OR of elements. -/
  | vor (c : Bool) (mk : Nat) (d : Nat) (a : Nat) (b : Nat)
  /-- VXOR (R247). Writes the bitwise XOR of elements. -/
  | vxor (c : Bool) (mk : Nat) (d : Nat) (a : Nat) (b : Nat)
  /-- VSLL (R247). Shifts elements left. -/
  | vsll (c : Bool) (mk : Nat) (d : Nat) (a : Nat) (b : Nat)
  /-- VSRL (R247). Shifts elements right logically. -/
  | vsrl (c : Bool) (mk : Nat) (d : Nat) (a : Nat) (b : Nat)
  /-- VSRA (R247). Shifts elements right arithmetically. -/
  | vsra (c : Bool) (mk : Nat) (d : Nat) (a : Nat) (b : Nat)
  /-- VADDS (R248). Adds integer elements saturated to the format range, setting OF on saturation. -/
  | vadds (c : Bool) (mk : Nat) (d : Nat) (a : Nat) (b : Nat)
  /-- VADDS_SUB (R248). Subtracts integer elements saturated to the format range. -/
  | vaddsSub (c : Bool) (mk : Nat) (d : Nat) (a : Nat) (b : Nat)
  /-- VICMP (R248). Compares integer elements and writes a mask under a condition. -/
  | vicmp (c : Bool) (mk : Nat) (d : Nat) (a : Nat) (b : Nat) (y : Nat)
  /-- VFADD (R249). Adds floating-point images and rounds to odd into the format. -/
  | vfadd (c : Bool) (mk : Nat) (d : Nat) (a : Nat) (b : Nat)
  /-- VFSUB (R249). Subtracts floating-point images with round-to-odd. -/
  | vfsub (c : Bool) (mk : Nat) (d : Nat) (a : Nat) (b : Nat)
  /-- VFMUL (R249). Multiplies floating-point images with round-to-odd. -/
  | vfmul (c : Bool) (mk : Nat) (d : Nat) (a : Nat) (b : Nat)
  /-- VFFMA (R249). Computes x × y + vd with one round-to-odd. -/
  | vffma (c : Bool) (mk : Nat) (d : Nat) (a : Nat) (b : Nat)
  /-- VFMIN (R250). Chooses the smaller image unchanged. -/
  | vfmin (c : Bool) (mk : Nat) (d : Nat) (a : Nat) (b : Nat)
  /-- VFMAX (R250). Chooses the larger image unchanged. -/
  | vfmax (c : Bool) (mk : Nat) (d : Nat) (a : Nat) (b : Nat)
  /-- VFCMP (R250). Compares images and writes a mask under a condition. -/
  | vfcmp (c : Bool) (mk : Nat) (d : Nat) (a : Nat) (b : Nat) (y : Nat)
  /-- VFCMP_F (R250). Finalises both operands then compares them as IEEE values into a mask. -/
  | vfcmpF (c : Bool) (mk : Nat) (d : Nat) (a : Nat) (b : Nat) (y : Nat)
  /-- VFCVT (R251). Converts elements from a source format into the vtype format. -/
  | vfcvt (c : Bool) (mk : Nat) (d : Nat) (a : Nat) (f : Nat)
  /-- VFRND (R252). Applies final rounding under a mode and writes an image with zero tail. -/
  | vfrnd (c : Bool) (mk : Nat) (d : Nat) (a : Nat) (o : Nat)
  /-- VFCLS (R252). Writes the class mask of each element. -/
  | vfcls (c : Bool) (mk : Nat) (d : Nat) (a : Nat)
  /-- VFABS (R252). Clears the sign bit of each element, keeping the tail. -/
  | vfabs (c : Bool) (mk : Nat) (d : Nat) (a : Nat)
  /-- VFDIV (R249). Divides images with round-to-odd, setting DZ on division by zero. -/
  | vfdiv (c : Bool) (mk : Nat) (d : Nat) (a : Nat) (b : Nat)
  /-- VFSQRT (R253). Writes the square root rounded to odd. -/
  | vfsqrt (c : Bool) (mk : Nat) (d : Nat) (a : Nat)
  /-- VRSQE (R100). Writes a table seed of the reciprocal square root. -/
  | vrsqe (c : Bool) (mk : Nat) (d : Nat) (a : Nat)
  /-- VRCPE (R100). Writes a table seed of the reciprocal. -/
  | vrcpe (c : Bool) (mk : Nat) (d : Nat) (a : Nat)
  /-- VEXP (R253). Writes e^x rounded to odd. -/
  | vexp (c : Bool) (mk : Nat) (d : Nat) (a : Nat)
  /-- VLOG (R253). Writes ln x rounded to odd. -/
  | vlog (c : Bool) (mk : Nat) (d : Nat) (a : Nat)
  /-- VSIGM (R253). Writes the logistic sigmoid rounded to odd. -/
  | vsigm (c : Bool) (mk : Nat) (d : Nat) (a : Nat)
  /-- VTANH (R253). Writes tanh rounded to odd. -/
  | vtanh (c : Bool) (mk : Nat) (d : Nat) (a : Nat)
  /-- VREDSUM (R107). Sums the active elements in ascending order from an initial operand, rounding to odd each step. -/
  | vredsum (c : Bool) (mk : Nat) (d : Nat) (a : Nat) (b : Nat)
  /-- VREDTREE (R108). Sums the active elements by a fixed pairwise tree and adds the initial operand. -/
  | vredtree (c : Bool) (mk : Nat) (d : Nat) (a : Nat) (b : Nat)
  /-- VREDX (R260). Adds the active elements exactly into the hart's long accumulator. -/
  | vredx (c : Bool) (mk : Nat) (a : Nat) (q : Nat)
  /-- VRED (R257). Reduces the active elements by min, max, and or or. -/
  | vred (c : Bool) (mk : Nat) (d : Nat) (a : Nat) (o : Nat)
  /-- VSCAN (R258). Writes running add, max, and or or of the active elements. -/
  | vscan (c : Bool) (mk : Nat) (d : Nat) (a : Nat) (o : Nat)
  /-- VFFS (R259). Writes into xd the lowest set and active element index, or −1. -/
  | vffs (c : Bool) (mk : Nat) (d : Nat) (a : Nat)
  /-- LAGET (R109). Writes the long accumulator rounded to odd into an f register. -/
  | laget (c : Bool) (d : Nat) (f : Nat)
  /-- LACLR (R260). Clears the long accumulator and its indicators. -/
  | laclr (c : Bool)
  /-- SMX (R261). Computes one strip of an online softmax with running maximum and sum in three f registers. -/
  | smx (c : Bool) (mk : Nat) (d : Nat) (a : Nat) (b : Nat)
  /-- VRNG (R262). Writes Philox-4x32-10 words for counters xa + e. -/
  | vrng (c : Bool) (mk : Nat) (d : Nat) (a : Nat) (w : Nat)
  /-- VUTF (R263). Classifies each byte as a UTF-8 lead, continuation or invalid code. -/
  | vutf (c : Bool) (mk : Nat) (d : Nat) (a : Nat)
  /-- VTBL (R264). Looks up each subword in a table in the own scratchpad. -/
  | vtbl (c : Bool) (mk : Nat) (d : Nat) (a : Nat) (b : Nat)
  /-- VADD_P (R190). Adds integer subwords with a subword selector on operand b. -/
  | vaddP (c : Bool) (d : Nat) (a : Nat) (b : Nat) (s : Nat)
  /-- VSUB_P (R190). Subtracts integer subwords with a subword selector on operand b. -/
  | vsubP (c : Bool) (d : Nat) (a : Nat) (b : Nat) (s : Nat)
  /-- VMUL_P (R190). Multiplies integer subwords with a subword selector on operand b. -/
  | vmulP (c : Bool) (d : Nat) (a : Nat) (b : Nat) (s : Nat)
  /-- VMIN_P (R190). Takes integer subword minima with a subword selector on operand b. -/
  | vminP (c : Bool) (d : Nat) (a : Nat) (b : Nat) (s : Nat)
  /-- VFADD_P (R190). Adds floating subwords with a subword selector on operand b. -/
  | vfaddP (c : Bool) (d : Nat) (a : Nat) (b : Nat) (s : Nat)
  /-- VFSUB_P (R190). Subtracts floating subwords with a subword selector on operand b. -/
  | vfsubP (c : Bool) (d : Nat) (a : Nat) (b : Nat) (s : Nat)
  /-- VFMUL_P (R190). Multiplies floating subwords with a subword selector on operand b. -/
  | vfmulP (c : Bool) (d : Nat) (a : Nat) (b : Nat) (s : Nat)
  /-- VFFMA_P (R190). Fused multiply-adds floating subwords with a subword selector on operand b. -/
  | vffmaP (c : Bool) (d : Nat) (a : Nat) (b : Nat) (s : Nat)
  /-- VADD_VX (R247). Adds an integer register to each element. -/
  | vaddVx (c : Bool) (mk : Nat) (d : Nat) (a : Nat) (b : Nat)
  /-- VSUB_VX (R247). Subtracts an integer register from each element. -/
  | vsubVx (c : Bool) (mk : Nat) (d : Nat) (a : Nat) (b : Nat)
  /-- VMUL_VX (R247). Multiplies each element by an integer register, low bits. -/
  | vmulVx (c : Bool) (mk : Nat) (d : Nat) (a : Nat) (b : Nat)
  /-- VMULH_VX (R247). Multiplies each element by an integer register, high bits. -/
  | vmulhVx (c : Bool) (mk : Nat) (d : Nat) (a : Nat) (b : Nat)
  /-- VDIV_VX (R248). Divides each element by an integer register. -/
  | vdivVx (c : Bool) (mk : Nat) (d : Nat) (a : Nat) (b : Nat)
  /-- VREM_VX (R248). Writes each element's remainder by an integer register. -/
  | vremVx (c : Bool) (mk : Nat) (d : Nat) (a : Nat) (b : Nat)
  /-- VMIN_VX (R247). Takes the minimum of each element and an integer register. -/
  | vminVx (c : Bool) (mk : Nat) (d : Nat) (a : Nat) (b : Nat)
  /-- VMAX_VX (R247). Takes the maximum of each element and an integer register. -/
  | vmaxVx (c : Bool) (mk : Nat) (d : Nat) (a : Nat) (b : Nat)
  /-- VAND_VX (R247). ANDs each element with an integer register. -/
  | vandVx (c : Bool) (mk : Nat) (d : Nat) (a : Nat) (b : Nat)
  /-- VOR_VX (R247). ORs each element with an integer register. -/
  | vorVx (c : Bool) (mk : Nat) (d : Nat) (a : Nat) (b : Nat)
  /-- VXOR_VX (R247). XORs each element with an integer register. -/
  | vxorVx (c : Bool) (mk : Nat) (d : Nat) (a : Nat) (b : Nat)
  /-- VSLL_VX (R247). Shifts each element left by an integer register. -/
  | vsllVx (c : Bool) (mk : Nat) (d : Nat) (a : Nat) (b : Nat)
  /-- VSRL_VX (R247). Shifts each element right logically by an integer register. -/
  | vsrlVx (c : Bool) (mk : Nat) (d : Nat) (a : Nat) (b : Nat)
  /-- VSRA_VX (R247). Shifts each element right arithmetically by an integer register. -/
  | vsraVx (c : Bool) (mk : Nat) (d : Nat) (a : Nat) (b : Nat)
  /-- VADDS_VX (R248). Adds an integer register to each element with saturation. -/
  | vaddsVx (c : Bool) (mk : Nat) (d : Nat) (a : Nat) (b : Nat)
  /-- VICMP_VX (R248). Compares each element with an integer register into a mask. -/
  | vicmpVx (c : Bool) (mk : Nat) (d : Nat) (a : Nat) (b : Nat) (y : Nat)
  /-- VADD_VI (R247). Adds a 5-bit immediate to each element. -/
  | vaddVi (c : Bool) (mk : Nat) (d : Nat) (b : Nat) (imm : Int)
  /-- VMIN_VI (R247). Takes the minimum of each element and an immediate. -/
  | vminVi (c : Bool) (mk : Nat) (d : Nat) (b : Nat) (imm : Int)
  /-- VMAX_VI (R247). Takes the maximum of each element and an immediate. -/
  | vmaxVi (c : Bool) (mk : Nat) (d : Nat) (b : Nat) (imm : Int)
  /-- VAND_VI (R247). ANDs each element with an immediate. -/
  | vandVi (c : Bool) (mk : Nat) (d : Nat) (b : Nat) (imm : Int)
  /-- VOR_VI (R247). ORs each element with an immediate. -/
  | vorVi (c : Bool) (mk : Nat) (d : Nat) (b : Nat) (imm : Int)
  /-- VXOR_VI (R247). XORs each element with an immediate. -/
  | vxorVi (c : Bool) (mk : Nat) (d : Nat) (b : Nat) (imm : Int)
  /-- VSLL_VI (R247). Shifts each element left by an unsigned immediate. -/
  | vsllVi (c : Bool) (mk : Nat) (d : Nat) (b : Nat) (imm : Nat)
  /-- VSRL_VI (R247). Shifts each element right logically by an unsigned immediate. -/
  | vsrlVi (c : Bool) (mk : Nat) (d : Nat) (b : Nat) (imm : Nat)
  /-- VSRA_VI (R247). Shifts each element right arithmetically by an unsigned immediate. -/
  | vsraVi (c : Bool) (mk : Nat) (d : Nat) (b : Nat) (imm : Nat)
  /-- VADDS_VI (R248). Adds an immediate to each element with saturation. -/
  | vaddsVi (c : Bool) (mk : Nat) (d : Nat) (b : Nat) (imm : Int)
  /-- VICMP_VI (R248). Compares each element with an immediate into a mask. -/
  | vicmpVi (c : Bool) (mk : Nat) (d : Nat) (b : Nat) (imm : Int) (y : Nat)
  /-- VFADD_VF (R249). Adds a scalar image to each element with round-to-odd. -/
  | vfaddVf (c : Bool) (mk : Nat) (d : Nat) (a : Nat) (b : Nat)
  /-- VFSUB_VF (R249). Subtracts a scalar image from each element with round-to-odd. -/
  | vfsubVf (c : Bool) (mk : Nat) (d : Nat) (a : Nat) (b : Nat)
  /-- VFMUL_VF (R249). Multiplies each element by a scalar image with round-to-odd. -/
  | vfmulVf (c : Bool) (mk : Nat) (d : Nat) (a : Nat) (b : Nat)
  /-- VFFMA_VF (R244). Computes s × vb + vd with one round-to-odd. -/
  | vffmaVf (c : Bool) (mk : Nat) (d : Nat) (a : Nat) (b : Nat)
  /-- VFMIN_VF (R250). Chooses the smaller of each element and a scalar image. -/
  | vfminVf (c : Bool) (mk : Nat) (d : Nat) (a : Nat) (b : Nat)
  /-- VFMAX_VF (R250). Chooses the larger of each element and a scalar image. -/
  | vfmaxVf (c : Bool) (mk : Nat) (d : Nat) (a : Nat) (b : Nat)
  /-- VFCMP_VF (R250). Compares each element with a scalar image into a mask. -/
  | vfcmpVf (c : Bool) (mk : Nat) (d : Nat) (a : Nat) (b : Nat) (y : Nat)
  /-- VFCMP_F_VF (R250). Finalises then compares each element with a scalar image into a mask. -/
  | vfcmpFVf (c : Bool) (mk : Nat) (d : Nat) (a : Nat) (b : Nat) (y : Nat)
  /-- VFDIV_VF (R249). Divides each element by a scalar image with round-to-odd. -/
  | vfdivVf (c : Bool) (mk : Nat) (d : Nat) (a : Nat) (b : Nat)
  /-- FADD (R211). Adds two f-register images with round-to-odd. -/
  | fadd (g : Nat) (d : Nat) (a : Nat) (b : Nat)
  /-- FSUB (R211). Subtracts two f-register images with round-to-odd. -/
  | fsub (g : Nat) (d : Nat) (a : Nat) (b : Nat)
  /-- FMUL (R211). Multiplies two f-register images with round-to-odd. -/
  | fmul (g : Nat) (d : Nat) (a : Nat) (b : Nat)
  /-- FFMA (R211). Computes A × B + D with one round-to-odd. -/
  | ffma (g : Nat) (d : Nat) (a : Nat) (b : Nat)
  /-- FMIN (R212). Writes the smaller operand image unchanged. -/
  | fmin (g : Nat) (d : Nat) (a : Nat) (b : Nat)
  /-- FMAX (R212). Writes the larger operand image unchanged. -/
  | fmax (g : Nat) (d : Nat) (a : Nat) (b : Nat)
  /-- FCMP (R213). Writes −1, 0, 1 or 2 by image comparison into xd. -/
  | fcmp (g : Nat) (d : Nat) (a : Nat) (b : Nat)
  /-- FCMP_F (R213). Finalises both operands and compares them as IEEE values into xd. -/
  | fcmpF (g : Nat) (d : Nat) (a : Nat) (b : Nat)
  /-- FCVT (R214). Converts an f register from a source format to the operating format with round-to-odd. -/
  | fcvt (g : Nat) (d : Nat) (a : Nat) (s : Nat)
  /-- FRND (R215). Applies final rounding under a mode and writes an image with zero tail. -/
  | frnd (g : Nat) (d : Nat) (a : Nat) (o : Nat)
  /-- FCLS (R216). Writes the class mask of an f register into xd. -/
  | fcls (g : Nat) (d : Nat) (a : Nat)
  /-- FMVX (R217). Moves an encoding from an f register to xd, dropping the tail. -/
  | fmvx (g : Nat) (d : Nat) (a : Nat)
  /-- FMVF (R217). Moves xa's low bits into an f register with zero tail. -/
  | fmvf (g : Nat) (d : Nat) (a : Nat)
  /-- FLD (R218). Loads an encoding into an f register with zero tail. -/
  | fld (g : Nat) (d : Nat) (a : Nat) (off : Int)
  /-- FST (R218). Stores an f register with final rounding under vtype.mode. -/
  | fst (g : Nat) (d : Nat) (a : Nat) (off : Int)
  /-- FSPILL (R219). Writes an f register with its tail to a 16-byte image slot. -/
  | fspill (d : Nat) (a : Nat) (off : Int)
  /-- FFILL (R219). Reads an f register with its tail from a 16-byte image slot. -/
  | ffill (d : Nat) (a : Nat) (off : Int)
  /-- GFROMV (R267). Writes topology elements from the low 16 bits of vector slots. -/
  | gfromv (c : Bool) (mk : Nat) (d : Nat) (a : Nat)
  /-- GTOV (R267). Writes topology elements into vector slots zero-extended. -/
  | gtov (c : Bool) (mk : Nat) (d : Nat) (a : Nat)
  /-- TUP (R272). Combines values over each subtree by pointer doubling. -/
  | tup (c : Bool) (mk : Nat) (d : Nat) (a : Nat) (b : Nat) (y : Nat)
  /-- TDOWN (R272). Combines values along each root-to-element path by pointer doubling. -/
  | tdown (c : Bool) (mk : Nat) (d : Nat) (a : Nat) (b : Nat) (y : Nat)
  /-- TBCAST (R272). Broadcasts the value of the nearest active ancestor-or-self. -/
  | tbcast (c : Bool) (mk : Nat) (d : Nat) (a : Nat) (b : Nat)
  /-- TDEPTH (R272). Writes the depth of each element of a forest. -/
  | tdepth (c : Bool) (mk : Nat) (d : Nat) (a : Nat)
  /-- TANC (R272). Writes the index of the ancestor at a given distance. -/
  | tanc (c : Bool) (mk : Nat) (d : Nat) (a : Nat) (b : Nat)
  /-- TISANC (R272). Writes a mask bit where a candidate stands exactly k links above. -/
  | tisanc (c : Bool) (mk : Nat) (d : Nat) (a : Nat) (b : Nat)
  /-- TCONTRACT (R274). Writes the forest of the kept elements, each linked to its nearest kept ancestor. -/
  | tcontract (c : Bool) (d : Nat) (a : Nat) (b : Nat)
  /-- TCHECK (R271). Writes a mask of the elements that lie on or reach a cycle. -/
  | tcheck (c : Bool) (d : Nat) (a : Nat)
  /-- TIDSET (R278). Copies a 64-byte tensor-identifier entry from memory into the table after checking it. -/
  | tidset (c : Bool) (t : Nat) (a : Nat)
  /-- TIDGET (R278). Copies a tensor-identifier entry to 64 bytes of memory. -/
  | tidget (c : Bool) (t : Nat) (a : Nat)
  /-- WSET (R281). Declares a feed queue or staging window over scratchpad rows. -/
  | wset (c : Bool) (d : Nat) (a : Nat) (b : Nat)
  /-- TLD (R283). Queues a copy of a tensor into a feed queue or staging window. -/
  | tld (c : Bool) (t : Nat) (d : Nat) (a : Nat)
  /-- TST (R284). Queues a store of a staging window or accumulator tile to a tensor. -/
  | tst (c : Bool) (t : Nat) (d : Nat) (a : Nat)
  /-- BCOPY (R285). Queues a block copy between addresses or into a tile register, in a fixed direction. -/
  | bcopy (c : Bool) (g : Nat) (d : Nat) (a : Nat) (b : Nat)
  /-- OPA (R291). Accumulates an outer product of slots into an accumulator tile. -/
  | opa (c : Bool) (mk : Nat) (d : Nat) (a : Nat) (b : Nat) (y : Nat) (x : Nat)
  /-- TMM (R294). Runs N OPA steps from two feed queues into a tile under seqstate. -/
  | tmm (c : Bool) (d : Nat) (a : Nat) (q : Nat) (p : Nat)
  /-- ACLR (R297). Clears every cell of an accumulator tile. -/
  | aclr (c : Bool) (d : Nat)
  /-- ARDV (R297). Reads accumulator cells into a vector register. -/
  | ardv (c : Bool) (mk : Nat) (d : Nat) (a : Nat) (b : Nat)
  /-- AWRV (R297). Writes accumulator cells from a vector register. -/
  | awrv (c : Bool) (mk : Nat) (d : Nat) (a : Nat) (b : Nat)
  /-- ASAVE (R298). Stores a whole tile as an image block. -/
  | asave (c : Bool) (d : Nat) (a : Nat)
  /-- ARESTORE (R298). Loads a whole tile from an image block. -/
  | arestore (c : Bool) (d : Nat) (a : Nat)
  /-- TDIGEST (R286). Queues a SHA3-256 digest of a tensor in canonical order. -/
  | tdigest (c : Bool) (t : Nat) (a : Nat)
  /-- QSET (R280). Writes eight scales from xb into a scale bank. -/
  | qset (c : Bool) (d : Nat) (a : Nat) (b : Nat)
  /-- VGL (R302). Loads indexed units and takes links on their storage. -/
  | vgl (c : Bool) (mk : Nat) (d : Nat) (b : Nat) (y : Nat) (p : Nat)
  /-- VAMO_ADD (R301). Applies an immediate integer add atomic to each unit, returning old values. -/
  | vamoAdd (c : Bool) (mk : Nat) (d : Nat) (b : Nat) (y : Nat) (p : Nat)
  /-- VAMO_FADD (R301). Applies an immediate floating add atomic to each unit. -/
  | vamoFadd (c : Bool) (mk : Nat) (d : Nat) (b : Nat) (y : Nat) (p : Nat)
  /-- VAMO_MIN (R301). Applies an immediate min atomic to each unit. -/
  | vamoMin (c : Bool) (mk : Nat) (d : Nat) (b : Nat) (y : Nat) (p : Nat)
  /-- VAMO_MAX (R301). Applies an immediate max atomic to each unit. -/
  | vamoMax (c : Bool) (mk : Nat) (d : Nat) (b : Nat) (y : Nat) (p : Nat)
  /-- VAMO_AND (R301). Applies an immediate AND atomic to each unit. -/
  | vamoAnd (c : Bool) (mk : Nat) (d : Nat) (b : Nat) (y : Nat) (p : Nat)
  /-- VAMO_OR (R301). Applies an immediate OR atomic to each unit. -/
  | vamoOr (c : Bool) (mk : Nat) (d : Nat) (b : Nat) (y : Nat) (p : Nat)
  /-- VAMO_XOR (R301). Applies an immediate XOR atomic to each unit. -/
  | vamoXor (c : Bool) (mk : Nat) (d : Nat) (b : Nat) (y : Nat) (p : Nat)
  /-- VAMO_SWAP (R301). Applies an immediate swap atomic to each unit. -/
  | vamoSwap (c : Bool) (mk : Nat) (d : Nat) (b : Nat) (y : Nat) (p : Nat)
  /-- VAMOO_ADD (R305). Records pending ordered integer add elements for the next collective drain. -/
  | vamooAdd (mk : Nat) (d : Nat) (b : Nat) (p : Nat)
  /-- VAMOO_FADD (R305). Records pending ordered floating add elements. -/
  | vamooFadd (mk : Nat) (d : Nat) (b : Nat) (p : Nat)
  /-- VAMOO_MIN (R305). Records pending ordered min elements. -/
  | vamooMin (mk : Nat) (d : Nat) (b : Nat) (p : Nat)
  /-- VAMOO_MAX (R305). Records pending ordered max elements. -/
  | vamooMax (mk : Nat) (d : Nat) (b : Nat) (p : Nat)
  /-- VAMOO_AND (R305). Records pending ordered AND elements. -/
  | vamooAnd (mk : Nat) (d : Nat) (b : Nat) (p : Nat)
  /-- VAMOO_OR (R305). Records pending ordered OR elements. -/
  | vamooOr (mk : Nat) (d : Nat) (b : Nat) (p : Nat)
  /-- VAMOO_XOR (R305). Records pending ordered XOR elements. -/
  | vamooXor (mk : Nat) (d : Nat) (b : Nat) (p : Nat)
  /-- VAMOO_SWAP (R305). Records pending ordered swap elements. -/
  | vamooSwap (mk : Nat) (d : Nat) (b : Nat) (p : Nat)
  /-- VSC (R303). Stores each active unit whose link is intact and writes the failures into the mask. -/
  | vsc (c : Bool) (mk : Nat) (d : Nat) (b : Nat) (y : Nat) (p : Nat)
  /-- FAS (R304). Makes one fetch-add of a unit and writes exclusive prefix values to the elements. -/
  | fas (c : Bool) (mk : Nat) (d : Nat) (b : Nat) (y : Nat) (p : Nat)
  /-- AMOX_ADD (R306). Applies a scalar immediate add atomic, returning the old value in xd. -/
  | amoxAdd (d : Nat) (a : Nat) (w : Nat) (y : Nat)
  /-- AMOX_FADD (R306). Applies a scalar f32 add atomic on a 32-bit unit. -/
  | amoxFadd (d : Nat) (a : Nat) (w : Nat) (y : Nat)
  /-- AMOX_MIN (R306). Applies a scalar min atomic by the vtype format. -/
  | amoxMin (d : Nat) (a : Nat) (w : Nat) (y : Nat)
  /-- AMOX_MAX (R306). Applies a scalar max atomic by the vtype format. -/
  | amoxMax (d : Nat) (a : Nat) (w : Nat) (y : Nat)
  /-- AMOX_AND (R306). Applies a scalar AND atomic on raw bits. -/
  | amoxAnd (d : Nat) (a : Nat) (w : Nat) (y : Nat)
  /-- AMOX_OR (R306). Applies a scalar OR atomic on raw bits. -/
  | amoxOr (d : Nat) (a : Nat) (w : Nat) (y : Nat)
  /-- AMOX_XOR (R306). Applies a scalar XOR atomic on raw bits. -/
  | amoxXor (d : Nat) (a : Nat) (w : Nat) (y : Nat)
  /-- AMOX_SWAP (R306). Applies a scalar swap atomic on raw bits. -/
  | amoxSwap (d : Nat) (a : Nat) (w : Nat) (y : Nat)
  /-- LDAQ (R307). Loads 1 to 8 bytes as an acquire at a scope. -/
  | ldaq (d : Nat) (a : Nat) (w : Nat) (s : Nat)
  /-- STRL (R307). Stores 1 to 8 bytes as a release and drain point at a scope. -/
  | strl (d : Nat) (a : Nat) (w : Nat) (s : Nat)
  /-- FENCEV (R308). Drains, waits for engine operations, orders accesses at a scope and invalidates the route cache. -/
  | fencev (s : Nat)
  /-- FENCEV_COLL (R148). Drains and waits for every hart of the gang launch, then has the ordered atomics applied. -/
  | fencevColl (s : Nat)
  /-- FENCEL (R309). Drains the write-combining buffer and releases every claim of the hart. -/
  | fencel
  /-- LAUNCH (R315). Reads a launch block, drains, makes a launch record and returns its handle. -/
  | launch (d : Nat) (a : Nat)
  /-- GRAPHRUN (R316). Reads a graph block and its launch blocks and makes a graph record. -/
  | graphrun (d : Nat) (a : Nat)
  /-- CCADD (R317). Adds xb[31:0] to a record's completion counter. -/
  | ccadd (a : Nat) (b : Nat)
  /-- CCWAIT (R317). Waits not ready until a record's counter reads zero, then acquires. -/
  | ccwait (a : Nat)
  /-- CCREAD (R317). Writes a record's counter and state into xd. -/
  | ccread (d : Nat) (a : Nat)
  /-- CANCEL (R317). Sends a cancellation to the named record at the named level. -/
  | cancel (a : Nat) (l : Nat)
  /-- YIELD (R317). Ends the hart's issue turn while it stays ready. -/
  | yield
  /-- HALT (R318). Waits for engine operations, drains, and then ends the hart and counts its launch down. -/
  | halt
  /-- TTSTART (R320). Arms the core for a timetable image and waits for the daybreak pulse. -/
  | ttstart (a : Nat)
  /-- TTSYNC (R71). Ends a timetable segment at the domain barrier. -/
  | ttsync
  /-- MPUT (R322). Sends local bytes to a remote virtual address in packets. -/
  | mput (d : Nat) (a : Nat) (b : Nat)
  /-- MGET (R322). Requests remote bytes to be read and written to a local range. -/
  | mget (d : Nat) (a : Nat) (b : Nat)
  /-- MSIG (R322). Sends a count-down of a record at the destination. -/
  | msig (d : Nat) (a : Nat) (b : Nat)
  /-- MCHK (R325). Checks a route block against the partition view and writes a code. -/
  | mchk (d : Nat) (a : Nat)
  /-- LOGPUB (R328). Publishes a token log record into an ordinary host channel. -/
  | logpub (a : Nat) (b : Nat)
  /-- CPREC (R329). Publishes a completion record into a privileged channel. -/
  | cprec (a : Nat) (b : Nat)
  /-- TRET (R331). Returns from a trap to tepc and restores the interrupt enable. -/
  | tret
  /-- WAIT (R331). Leaves the hart not ready until an asynchronous source is pending. -/
  | wait
  /-- CTXSAVE (R332). Drains and writes the hart's context area. -/
  | ctxsave (a : Nat)
  /-- CTXLOAD (R332). Validates and loads a context area and continues at its saved pc. -/
  | ctxload (a : Nat)
  /-- TINV (R334). Invalidates translations of a range in every cache of the job. -/
  | tinv (a : Nat) (b : Nat)
  /-- BAR (R310). Waits at a gang barrier until every live hart has arrived. -/
  | bar (a : Nat)
  deriving DecidableEq, Repr

end Sys2Proof
end

