-- ==== Sys2Proof/WellFormed.lean ====
section
/-! DEFINITION. Which terms of Instr are instructions: every field within its width, no reserved code or value (R180, R186 to
R196), a CSR address that R197 lists (R178). -/

namespace Sys2Proof

/-- `v` fits a signed field of `w` bits. -/
abbrev inSigned (w : Nat) (v : Int) : Prop := -(2 : Int) ^ (w - 1) ≤ v ∧ v < (2 : Int) ^ (w - 1)

/-- The number of 1 bits among the low eight (STRIP's pointer mask, R186). -/
def popcount8 (p : Nat) : Nat :=
  p % 2 + p / 2 % 2 + p / 4 % 2 + p / 8 % 2 + p / 16 % 2 + p / 32 % 2 + p / 64 % 2 + p / 128 % 2

/-- A 32-bit or 64-bit format code (R77), for which VSETT's `pk` = 1 is reserved (R187). -/
abbrev wideFormat (f : Nat) : Prop := f = 0 ∨ f = 1 ∨ f = 18 ∨ f = 19 ∨ f = 22 ∨ f = 23

/-- A memory format of VLDT (R234). -/
abbrev denseFormat (f : Nat) : Prop := f = 6 ∨ f = 7 ∨ f = 8 ∨ f = 12

/-- A source format of VFCVT (R251). -/
abbrev convFormat (f : Nat) : Prop := f ≤ 8 ∨ (10 ≤ f ∧ f ≤ 12) ∨ (16 ≤ f ∧ f ≤ 23)

/-- A source format of FCVT (R214). -/
abbrev scalarSource (f : Nat) : Prop := f ≤ 5 ∨ (16 ≤ f ∧ f ≤ 23)

/-- A mode code (R189). -/
abbrev modeCode (o : Nat) : Prop := o ≤ 5 ∨ o = 7

/-- A T code of a feed queue or a staging window (R180). -/
abbrev windowCode (d : Nat) : Prop := d < 4 ∨ (16 ≤ d ∧ d < 24)

/-- A T code of an accumulator or a staging window: a source of TST (R284). -/
abbrev drainCode (d : Nat) : Prop := (8 ≤ d ∧ d < 16) ∨ (16 ≤ d ∧ d < 24)

/-- A CSR address of R197. -/
abbrev csrListed (c : Nat) : Prop := (0x800 ≤ c ∧ c ≤ 0x80F) ∨ (0x840 ≤ c ∧ c ≤ 0x847)

/-- A well-formed instruction, or a step of another agent whose parameters are in range. -/
def Instr.wf (i : Instr) : Bool :=
  match i with
  | .lui d imm => decide (d < 32 ∧ imm < 1048576)
  | .auipc d imm => decide (d < 32 ∧ imm < 1048576)
  | .jal d off => decide (d < 32 ∧ inSigned 21 off ∧ off % 2 = 0)
  | .jalr d a imm => decide (d < 32 ∧ a < 32 ∧ inSigned 12 imm)
  | .beq a b off => decide (a < 32 ∧ b < 32 ∧ inSigned 13 off ∧ off % 2 = 0)
  | .bne a b off => decide (a < 32 ∧ b < 32 ∧ inSigned 13 off ∧ off % 2 = 0)
  | .blt a b off => decide (a < 32 ∧ b < 32 ∧ inSigned 13 off ∧ off % 2 = 0)
  | .bge a b off => decide (a < 32 ∧ b < 32 ∧ inSigned 13 off ∧ off % 2 = 0)
  | .bltu a b off => decide (a < 32 ∧ b < 32 ∧ inSigned 13 off ∧ off % 2 = 0)
  | .bgeu a b off => decide (a < 32 ∧ b < 32 ∧ inSigned 13 off ∧ off % 2 = 0)
  | .lb d a imm => decide (d < 32 ∧ a < 32 ∧ inSigned 12 imm)
  | .lh d a imm => decide (d < 32 ∧ a < 32 ∧ inSigned 12 imm)
  | .lw d a imm => decide (d < 32 ∧ a < 32 ∧ inSigned 12 imm)
  | .ld d a imm => decide (d < 32 ∧ a < 32 ∧ inSigned 12 imm)
  | .lbu d a imm => decide (d < 32 ∧ a < 32 ∧ inSigned 12 imm)
  | .lhu d a imm => decide (d < 32 ∧ a < 32 ∧ inSigned 12 imm)
  | .lwu d a imm => decide (d < 32 ∧ a < 32 ∧ inSigned 12 imm)
  | .sb a b off => decide (a < 32 ∧ b < 32 ∧ inSigned 12 off)
  | .sh a b off => decide (a < 32 ∧ b < 32 ∧ inSigned 12 off)
  | .sw a b off => decide (a < 32 ∧ b < 32 ∧ inSigned 12 off)
  | .sd a b off => decide (a < 32 ∧ b < 32 ∧ inSigned 12 off)
  | .addi d a imm => decide (d < 32 ∧ a < 32 ∧ inSigned 12 imm)
  | .slti d a imm => decide (d < 32 ∧ a < 32 ∧ inSigned 12 imm)
  | .sltiu d a imm => decide (d < 32 ∧ a < 32 ∧ inSigned 12 imm)
  | .xori d a imm => decide (d < 32 ∧ a < 32 ∧ inSigned 12 imm)
  | .ori d a imm => decide (d < 32 ∧ a < 32 ∧ inSigned 12 imm)
  | .andi d a imm => decide (d < 32 ∧ a < 32 ∧ inSigned 12 imm)
  | .slli d a s => decide (d < 32 ∧ a < 32 ∧ s < 64)
  | .srli d a s => decide (d < 32 ∧ a < 32 ∧ s < 64)
  | .srai d a s => decide (d < 32 ∧ a < 32 ∧ s < 64)
  | .add d a b => decide (d < 32 ∧ a < 32 ∧ b < 32)
  | .sub d a b => decide (d < 32 ∧ a < 32 ∧ b < 32)
  | .sll d a b => decide (d < 32 ∧ a < 32 ∧ b < 32)
  | .slt d a b => decide (d < 32 ∧ a < 32 ∧ b < 32)
  | .sltu d a b => decide (d < 32 ∧ a < 32 ∧ b < 32)
  | .xor d a b => decide (d < 32 ∧ a < 32 ∧ b < 32)
  | .srl d a b => decide (d < 32 ∧ a < 32 ∧ b < 32)
  | .sra d a b => decide (d < 32 ∧ a < 32 ∧ b < 32)
  | .or d a b => decide (d < 32 ∧ a < 32 ∧ b < 32)
  | .and d a b => decide (d < 32 ∧ a < 32 ∧ b < 32)
  | .mul d a b => decide (d < 32 ∧ a < 32 ∧ b < 32)
  | .mulh d a b => decide (d < 32 ∧ a < 32 ∧ b < 32)
  | .mulhsu d a b => decide (d < 32 ∧ a < 32 ∧ b < 32)
  | .mulhu d a b => decide (d < 32 ∧ a < 32 ∧ b < 32)
  | .div d a b => decide (d < 32 ∧ a < 32 ∧ b < 32)
  | .divu d a b => decide (d < 32 ∧ a < 32 ∧ b < 32)
  | .rem d a b => decide (d < 32 ∧ a < 32 ∧ b < 32)
  | .remu d a b => decide (d < 32 ∧ a < 32 ∧ b < 32)
  | .addiw d a imm => decide (d < 32 ∧ a < 32 ∧ inSigned 12 imm)
  | .slliw d a s => decide (d < 32 ∧ a < 32 ∧ s < 32)
  | .srliw d a s => decide (d < 32 ∧ a < 32 ∧ s < 32)
  | .sraiw d a s => decide (d < 32 ∧ a < 32 ∧ s < 32)
  | .addw d a b => decide (d < 32 ∧ a < 32 ∧ b < 32)
  | .subw d a b => decide (d < 32 ∧ a < 32 ∧ b < 32)
  | .sllw d a b => decide (d < 32 ∧ a < 32 ∧ b < 32)
  | .srlw d a b => decide (d < 32 ∧ a < 32 ∧ b < 32)
  | .sraw d a b => decide (d < 32 ∧ a < 32 ∧ b < 32)
  | .mulw d a b => decide (d < 32 ∧ a < 32 ∧ b < 32)
  | .divw d a b => decide (d < 32 ∧ a < 32 ∧ b < 32)
  | .divuw d a b => decide (d < 32 ∧ a < 32 ∧ b < 32)
  | .remw d a b => decide (d < 32 ∧ a < 32 ∧ b < 32)
  | .remuw d a b => decide (d < 32 ∧ a < 32 ∧ b < 32)
  | .fence d a f p s => decide (d < 32 ∧ a < 32 ∧ f < 16 ∧ p < 16 ∧ s < 16)
  | .ecall => true
  | .ebreak => true
  | .csrrw d csr a => decide (d < 32 ∧ csr < 4096 ∧ a < 32 ∧ csrListed csr)
  | .csrrs d csr a => decide (d < 32 ∧ csr < 4096 ∧ a < 32 ∧ csrListed csr)
  | .csrrc d csr a => decide (d < 32 ∧ csr < 4096 ∧ a < 32 ∧ csrListed csr)
  | .csrrwi d csr uimm => decide (d < 32 ∧ csr < 4096 ∧ uimm < 32 ∧ csrListed csr)
  | .csrrsi d csr uimm => decide (d < 32 ∧ csr < 4096 ∧ uimm < 32 ∧ csrListed csr)
  | .csrrci d csr uimm => decide (d < 32 ∧ csr < 4096 ∧ uimm < 32 ∧ csrListed csr)
  | .strip d p => decide (d < 32 ∧ p < 256 ∧ popcount8 p ≤ 4)
  | .vsetc a => decide (a < 32)
  | .pset d a s => decide (d < 8 ∧ a < 32 ∧ s < 8 ∧ s ≤ 4)
  | .pget d a => decide (d < 32 ∧ a < 8)
  | .vloop e a off => decide (e < 4 ∧ a < 32 ∧ inSigned 10 off)
  | .vbany k off => decide (k < 8 ∧ inSigned 15 off)
  | .vbnone k off => decide (k < 8 ∧ inSigned 15 off)
  | .vsett t g p s n l o f => decide (t < 2 ∧ g < 16 ∧ p < 2 ∧ s < 8 ∧ n < 2 ∧ l < 16 ∧ o < 8 ∧ f < 32 ∧ (p = 0 ∨ ¬ wideFormat f))
  | .vld _ mk d a => decide (mk < 8 ∧ d < 32 ∧ a < 8)
  | .vlds _ mk d a b => decide (mk < 8 ∧ d < 32 ∧ a < 8 ∧ b < 32)
  | .vldx _ mk d a b => decide (mk < 8 ∧ d < 32 ∧ a < 8 ∧ b < 32)
  | .vldf _ mk d a => decide (mk < 8 ∧ d < 32 ∧ a < 8)
  | .vldxf _ mk d a b => decide (mk < 8 ∧ d < 32 ∧ a < 8 ∧ b < 32)
  | .vst _ mk d a => decide (mk < 8 ∧ d < 32 ∧ a < 8)
  | .vsts _ mk d a b => decide (mk < 8 ∧ d < 32 ∧ a < 8 ∧ b < 32)
  | .vstx _ mk d a b => decide (mk < 8 ∧ d < 32 ∧ a < 8 ∧ b < 32)
  | .vldp _ mk d a => decide (mk < 8 ∧ d < 32 ∧ a < 8)
  | .vstp _ mk d a => decide (mk < 8 ∧ d < 32 ∧ a < 8)
  | .vspill _ mk d a => decide (mk < 8 ∧ d < 32 ∧ a < 8)
  | .vreload _ mk d a => decide (mk < 8 ∧ d < 32 ∧ a < 8)
  | .qld _ t d a => decide (t < 256 ∧ d < 8 ∧ a < 32)
  | .vldt _ mk d a f => decide (mk < 8 ∧ d < 32 ∧ a < 8 ∧ f < 32 ∧ denseFormat f)
  | .vmv _ mk d a => decide (mk < 8 ∧ d < 32 ∧ a < 32)
  | .vmvx _ mk d a => decide (mk < 8 ∧ d < 32 ∧ a < 32)
  | .vmvs _ d a b => decide (d < 32 ∧ a < 32 ∧ b < 32)
  | .vslideu _ mk d a b => decide (mk < 8 ∧ d < 32 ∧ a < 32 ∧ b < 32)
  | .vslided _ mk d a b => decide (mk < 8 ∧ d < 32 ∧ a < 32 ∧ b < 32)
  | .vgath _ mk d a b => decide (mk < 8 ∧ d < 32 ∧ a < 32 ∧ b < 32)
  | .vcomp _ mk d a => decide (mk < 8 ∧ d < 32 ∧ a < 32 ∧ mk ≠ 0)
  | .vexpd _ mk d a => decide (mk < 8 ∧ d < 32 ∧ a < 32 ∧ mk ≠ 0)
  | .vsel _ mk d a b => decide (mk < 8 ∧ d < 32 ∧ a < 32 ∧ b < 32)
  | .vpack _ mk d a b => decide (mk < 8 ∧ d < 32 ∧ a < 32 ∧ b < 32)
  | .vunpk _ mk d a s => decide (mk < 8 ∧ d < 32 ∧ a < 32 ∧ s < 8)
  | .viota _ mk d a => decide (mk < 8 ∧ d < 32 ∧ a < 8)
  | .mand _ d a b => decide (d < 8 ∧ a < 8 ∧ b < 8)
  | .mor _ d a b => decide (d < 8 ∧ a < 8 ∧ b < 8)
  | .mxor _ d a b => decide (d < 8 ∧ a < 8 ∧ b < 8)
  | .mandn _ d a b => decide (d < 8 ∧ a < 8 ∧ b < 8)
  | .mset _ d v => decide (d < 8 ∧ v < 2)
  | .vcut _ d a => decide (d < 8 ∧ a < 8)
  | .vpopm _ d a => decide (d < 32 ∧ a < 8)
  | .vadd _ mk d a b => decide (mk < 8 ∧ d < 32 ∧ a < 32 ∧ b < 32)
  | .vsub _ mk d a b => decide (mk < 8 ∧ d < 32 ∧ a < 32 ∧ b < 32)
  | .vmul _ mk d a b => decide (mk < 8 ∧ d < 32 ∧ a < 32 ∧ b < 32)
  | .vmulh _ mk d a b => decide (mk < 8 ∧ d < 32 ∧ a < 32 ∧ b < 32)
  | .vdiv _ mk d a b => decide (mk < 8 ∧ d < 32 ∧ a < 32 ∧ b < 32)
  | .vrem _ mk d a b => decide (mk < 8 ∧ d < 32 ∧ a < 32 ∧ b < 32)
  | .vmin _ mk d a b => decide (mk < 8 ∧ d < 32 ∧ a < 32 ∧ b < 32)
  | .vmax _ mk d a b => decide (mk < 8 ∧ d < 32 ∧ a < 32 ∧ b < 32)
  | .vand _ mk d a b => decide (mk < 8 ∧ d < 32 ∧ a < 32 ∧ b < 32)
  | .vor _ mk d a b => decide (mk < 8 ∧ d < 32 ∧ a < 32 ∧ b < 32)
  | .vxor _ mk d a b => decide (mk < 8 ∧ d < 32 ∧ a < 32 ∧ b < 32)
  | .vsll _ mk d a b => decide (mk < 8 ∧ d < 32 ∧ a < 32 ∧ b < 32)
  | .vsrl _ mk d a b => decide (mk < 8 ∧ d < 32 ∧ a < 32 ∧ b < 32)
  | .vsra _ mk d a b => decide (mk < 8 ∧ d < 32 ∧ a < 32 ∧ b < 32)
  | .vadds _ mk d a b => decide (mk < 8 ∧ d < 32 ∧ a < 32 ∧ b < 32)
  | .vaddsSub _ mk d a b => decide (mk < 8 ∧ d < 32 ∧ a < 32 ∧ b < 32)
  | .vicmp _ mk d a b y => decide (mk < 8 ∧ d < 8 ∧ a < 32 ∧ b < 32 ∧ y < 4)
  | .vfadd _ mk d a b => decide (mk < 8 ∧ d < 32 ∧ a < 32 ∧ b < 32)
  | .vfsub _ mk d a b => decide (mk < 8 ∧ d < 32 ∧ a < 32 ∧ b < 32)
  | .vfmul _ mk d a b => decide (mk < 8 ∧ d < 32 ∧ a < 32 ∧ b < 32)
  | .vffma _ mk d a b => decide (mk < 8 ∧ d < 32 ∧ a < 32 ∧ b < 32)
  | .vfmin _ mk d a b => decide (mk < 8 ∧ d < 32 ∧ a < 32 ∧ b < 32)
  | .vfmax _ mk d a b => decide (mk < 8 ∧ d < 32 ∧ a < 32 ∧ b < 32)
  | .vfcmp _ mk d a b y => decide (mk < 8 ∧ d < 8 ∧ a < 32 ∧ b < 32 ∧ y < 4)
  | .vfcmpF _ mk d a b y => decide (mk < 8 ∧ d < 8 ∧ a < 32 ∧ b < 32 ∧ y < 4)
  | .vfcvt _ mk d a f => decide (mk < 8 ∧ d < 32 ∧ a < 32 ∧ f < 32 ∧ convFormat f)
  | .vfrnd _ mk d a o => decide (mk < 8 ∧ d < 32 ∧ a < 32 ∧ o < 32 ∧ modeCode o)
  | .vfcls _ mk d a => decide (mk < 8 ∧ d < 32 ∧ a < 32)
  | .vfabs _ mk d a => decide (mk < 8 ∧ d < 32 ∧ a < 32)
  | .vfdiv _ mk d a b => decide (mk < 8 ∧ d < 32 ∧ a < 32 ∧ b < 32)
  | .vfsqrt _ mk d a => decide (mk < 8 ∧ d < 32 ∧ a < 32)
  | .vrsqe _ mk d a => decide (mk < 8 ∧ d < 32 ∧ a < 32)
  | .vrcpe _ mk d a => decide (mk < 8 ∧ d < 32 ∧ a < 32)
  | .vexp _ mk d a => decide (mk < 8 ∧ d < 32 ∧ a < 32)
  | .vlog _ mk d a => decide (mk < 8 ∧ d < 32 ∧ a < 32)
  | .vsigm _ mk d a => decide (mk < 8 ∧ d < 32 ∧ a < 32)
  | .vtanh _ mk d a => decide (mk < 8 ∧ d < 32 ∧ a < 32)
  | .vredsum _ mk d a b => decide (mk < 8 ∧ d < 32 ∧ a < 32 ∧ b < 32)
  | .vredtree _ mk d a b => decide (mk < 8 ∧ d < 32 ∧ a < 32 ∧ b < 32)
  | .vredx _ mk a q => decide (mk < 8 ∧ a < 32 ∧ q < 8)
  | .vred _ mk d a o => decide (mk < 8 ∧ d < 32 ∧ a < 32 ∧ o < 4)
  | .vscan _ mk d a o => decide (mk < 8 ∧ d < 32 ∧ a < 32 ∧ o < 4)
  | .vffs _ mk d a => decide (mk < 8 ∧ d < 32 ∧ a < 8)
  | .laget _ d f => decide (d < 32 ∧ f < 32 ∧ f ≤ 5)
  | .laclr _ => true
  | .smx _ mk d a b => decide (mk < 8 ∧ d < 32 ∧ a < 32 ∧ b < 32 ∧ b ≤ 29)
  | .vrng _ mk d a w => decide (mk < 8 ∧ d < 32 ∧ a < 32 ∧ w < 4)
  | .vutf _ mk d a => decide (mk < 8 ∧ d < 32 ∧ a < 32)
  | .vtbl _ mk d a b => decide (mk < 8 ∧ d < 32 ∧ a < 32 ∧ b < 32)
  | .vaddP _ d a b s => decide (d < 32 ∧ a < 32 ∧ b < 32 ∧ s < 8)
  | .vsubP _ d a b s => decide (d < 32 ∧ a < 32 ∧ b < 32 ∧ s < 8)
  | .vmulP _ d a b s => decide (d < 32 ∧ a < 32 ∧ b < 32 ∧ s < 8)
  | .vminP _ d a b s => decide (d < 32 ∧ a < 32 ∧ b < 32 ∧ s < 8)
  | .vfaddP _ d a b s => decide (d < 32 ∧ a < 32 ∧ b < 32 ∧ s < 8)
  | .vfsubP _ d a b s => decide (d < 32 ∧ a < 32 ∧ b < 32 ∧ s < 8)
  | .vfmulP _ d a b s => decide (d < 32 ∧ a < 32 ∧ b < 32 ∧ s < 8)
  | .vffmaP _ d a b s => decide (d < 32 ∧ a < 32 ∧ b < 32 ∧ s < 8)
  | .vaddVx _ mk d a b => decide (mk < 8 ∧ d < 32 ∧ a < 32 ∧ b < 32)
  | .vsubVx _ mk d a b => decide (mk < 8 ∧ d < 32 ∧ a < 32 ∧ b < 32)
  | .vmulVx _ mk d a b => decide (mk < 8 ∧ d < 32 ∧ a < 32 ∧ b < 32)
  | .vmulhVx _ mk d a b => decide (mk < 8 ∧ d < 32 ∧ a < 32 ∧ b < 32)
  | .vdivVx _ mk d a b => decide (mk < 8 ∧ d < 32 ∧ a < 32 ∧ b < 32)
  | .vremVx _ mk d a b => decide (mk < 8 ∧ d < 32 ∧ a < 32 ∧ b < 32)
  | .vminVx _ mk d a b => decide (mk < 8 ∧ d < 32 ∧ a < 32 ∧ b < 32)
  | .vmaxVx _ mk d a b => decide (mk < 8 ∧ d < 32 ∧ a < 32 ∧ b < 32)
  | .vandVx _ mk d a b => decide (mk < 8 ∧ d < 32 ∧ a < 32 ∧ b < 32)
  | .vorVx _ mk d a b => decide (mk < 8 ∧ d < 32 ∧ a < 32 ∧ b < 32)
  | .vxorVx _ mk d a b => decide (mk < 8 ∧ d < 32 ∧ a < 32 ∧ b < 32)
  | .vsllVx _ mk d a b => decide (mk < 8 ∧ d < 32 ∧ a < 32 ∧ b < 32)
  | .vsrlVx _ mk d a b => decide (mk < 8 ∧ d < 32 ∧ a < 32 ∧ b < 32)
  | .vsraVx _ mk d a b => decide (mk < 8 ∧ d < 32 ∧ a < 32 ∧ b < 32)
  | .vaddsVx _ mk d a b => decide (mk < 8 ∧ d < 32 ∧ a < 32 ∧ b < 32)
  | .vicmpVx _ mk d a b y => decide (mk < 8 ∧ d < 8 ∧ a < 32 ∧ b < 32 ∧ y < 4)
  | .vaddVi _ mk d b imm => decide (mk < 8 ∧ d < 32 ∧ b < 32 ∧ inSigned 5 imm)
  | .vminVi _ mk d b imm => decide (mk < 8 ∧ d < 32 ∧ b < 32 ∧ inSigned 5 imm)
  | .vmaxVi _ mk d b imm => decide (mk < 8 ∧ d < 32 ∧ b < 32 ∧ inSigned 5 imm)
  | .vandVi _ mk d b imm => decide (mk < 8 ∧ d < 32 ∧ b < 32 ∧ inSigned 5 imm)
  | .vorVi _ mk d b imm => decide (mk < 8 ∧ d < 32 ∧ b < 32 ∧ inSigned 5 imm)
  | .vxorVi _ mk d b imm => decide (mk < 8 ∧ d < 32 ∧ b < 32 ∧ inSigned 5 imm)
  | .vsllVi _ mk d b imm => decide (mk < 8 ∧ d < 32 ∧ b < 32 ∧ imm < 32)
  | .vsrlVi _ mk d b imm => decide (mk < 8 ∧ d < 32 ∧ b < 32 ∧ imm < 32)
  | .vsraVi _ mk d b imm => decide (mk < 8 ∧ d < 32 ∧ b < 32 ∧ imm < 32)
  | .vaddsVi _ mk d b imm => decide (mk < 8 ∧ d < 32 ∧ b < 32 ∧ inSigned 5 imm)
  | .vicmpVi _ mk d b imm y => decide (mk < 8 ∧ d < 8 ∧ b < 32 ∧ inSigned 5 imm ∧ y < 4)
  | .vfaddVf _ mk d a b => decide (mk < 8 ∧ d < 32 ∧ a < 32 ∧ b < 32)
  | .vfsubVf _ mk d a b => decide (mk < 8 ∧ d < 32 ∧ a < 32 ∧ b < 32)
  | .vfmulVf _ mk d a b => decide (mk < 8 ∧ d < 32 ∧ a < 32 ∧ b < 32)
  | .vffmaVf _ mk d a b => decide (mk < 8 ∧ d < 32 ∧ a < 32 ∧ b < 32)
  | .vfminVf _ mk d a b => decide (mk < 8 ∧ d < 32 ∧ a < 32 ∧ b < 32)
  | .vfmaxVf _ mk d a b => decide (mk < 8 ∧ d < 32 ∧ a < 32 ∧ b < 32)
  | .vfcmpVf _ mk d a b y => decide (mk < 8 ∧ d < 8 ∧ a < 32 ∧ b < 32 ∧ y < 4)
  | .vfcmpFVf _ mk d a b y => decide (mk < 8 ∧ d < 8 ∧ a < 32 ∧ b < 32 ∧ y < 4)
  | .vfdivVf _ mk d a b => decide (mk < 8 ∧ d < 32 ∧ a < 32 ∧ b < 32)
  | .fadd g d a b => decide (g < 8 ∧ d < 32 ∧ a < 32 ∧ b < 32 ∧ g ≤ 5)
  | .fsub g d a b => decide (g < 8 ∧ d < 32 ∧ a < 32 ∧ b < 32 ∧ g ≤ 5)
  | .fmul g d a b => decide (g < 8 ∧ d < 32 ∧ a < 32 ∧ b < 32 ∧ g ≤ 5)
  | .ffma g d a b => decide (g < 8 ∧ d < 32 ∧ a < 32 ∧ b < 32 ∧ g ≤ 5)
  | .fmin g d a b => decide (g < 8 ∧ d < 32 ∧ a < 32 ∧ b < 32 ∧ g ≤ 5)
  | .fmax g d a b => decide (g < 8 ∧ d < 32 ∧ a < 32 ∧ b < 32 ∧ g ≤ 5)
  | .fcmp g d a b => decide (g < 8 ∧ d < 32 ∧ a < 32 ∧ b < 32 ∧ g ≤ 5)
  | .fcmpF g d a b => decide (g < 8 ∧ d < 32 ∧ a < 32 ∧ b < 32 ∧ g ≤ 5)
  | .fcvt g d a s => decide (g < 8 ∧ d < 32 ∧ a < 32 ∧ s < 32 ∧ g ≤ 5 ∧ scalarSource s)
  | .frnd g d a o => decide (g < 8 ∧ d < 32 ∧ a < 32 ∧ o < 32 ∧ g ≤ 5 ∧ modeCode o)
  | .fcls g d a => decide (g < 8 ∧ d < 32 ∧ a < 32 ∧ g ≤ 5)
  | .fmvx g d a => decide (g < 8 ∧ d < 32 ∧ a < 32 ∧ g ≤ 5)
  | .fmvf g d a => decide (g < 8 ∧ d < 32 ∧ a < 32 ∧ g ≤ 5)
  | .fld g d a off => decide (g < 8 ∧ d < 32 ∧ a < 32 ∧ inSigned 5 off ∧ g ≤ 5)
  | .fst g d a off => decide (g < 8 ∧ d < 32 ∧ a < 32 ∧ inSigned 5 off ∧ g ≤ 5)
  | .fspill d a off => decide (d < 32 ∧ a < 32 ∧ inSigned 5 off)
  | .ffill d a off => decide (d < 32 ∧ a < 32 ∧ inSigned 5 off)
  | .gfromv _ mk d a => decide (mk < 8 ∧ d < 8 ∧ a < 32)
  | .gtov _ mk d a => decide (mk < 8 ∧ d < 32 ∧ a < 8)
  | .tup _ mk d a b y => decide (mk < 8 ∧ d < 32 ∧ a < 32 ∧ b < 8 ∧ y < 4 ∧ y ≤ 2)
  | .tdown _ mk d a b y => decide (mk < 8 ∧ d < 32 ∧ a < 32 ∧ b < 8 ∧ y < 4 ∧ y ≤ 2)
  | .tbcast _ mk d a b => decide (mk < 8 ∧ d < 32 ∧ a < 32 ∧ b < 8)
  | .tdepth _ mk d a => decide (mk < 8 ∧ d < 32 ∧ a < 8)
  | .tanc _ mk d a b => decide (mk < 8 ∧ d < 32 ∧ a < 32 ∧ b < 8)
  | .tisanc _ mk d a b => decide (mk < 8 ∧ d < 8 ∧ a < 32 ∧ b < 8)
  | .tcontract _ d a b => decide (d < 8 ∧ a < 8 ∧ b < 8)
  | .tcheck _ d a => decide (d < 8 ∧ a < 8)
  | .tidset _ t a => decide (t < 256 ∧ a < 32)
  | .tidget _ t a => decide (t < 256 ∧ a < 32)
  | .wset _ d a b => decide (d < 32 ∧ a < 32 ∧ b < 32 ∧ windowCode d)
  | .tld _ t d a => decide (t < 256 ∧ d < 32 ∧ a < 32 ∧ windowCode d)
  | .tst _ t d a => decide (t < 256 ∧ d < 32 ∧ a < 32 ∧ drainCode d)
  | .bcopy _ g d a b => decide (g < 2 ∧ d < 32 ∧ a < 32 ∧ b < 32 ∧ (g = 0 ∨ windowCode d))
  | .opa _ mk d a b y x => decide (mk < 8 ∧ d < 8 ∧ a < 32 ∧ b < 32 ∧ y < 2 ∧ x < 2 ∧ (x = 0 ∨ a < 4) ∧ (y = 0 ∨ b < 4))
  | .tmm _ d a q p => decide (d < 8 ∧ a < 32 ∧ q < 4 ∧ p < 4)
  | .aclr _ d => decide (d < 8)
  | .ardv _ mk d a b => decide (mk < 8 ∧ d < 32 ∧ a < 8 ∧ b < 32)
  | .awrv _ mk d a b => decide (mk < 8 ∧ d < 8 ∧ a < 32 ∧ b < 32)
  | .asave _ d a => decide (d < 8 ∧ a < 8)
  | .arestore _ d a => decide (d < 8 ∧ a < 8)
  | .tdigest _ t a => decide (t < 256 ∧ a < 32)
  | .qset _ d a b => decide (d < 8 ∧ a < 32 ∧ b < 32)
  | .vgl _ mk d b y p => decide (mk < 8 ∧ d < 32 ∧ b < 32 ∧ y < 8 ∧ p < 4 ∧ y ≠ 4)
  | .vamoAdd _ mk d b y p => decide (mk < 8 ∧ d < 32 ∧ b < 32 ∧ y < 8 ∧ p < 4 ∧ y ≠ 4)
  | .vamoFadd _ mk d b y p => decide (mk < 8 ∧ d < 32 ∧ b < 32 ∧ y < 8 ∧ p < 4 ∧ y ≠ 4)
  | .vamoMin _ mk d b y p => decide (mk < 8 ∧ d < 32 ∧ b < 32 ∧ y < 8 ∧ p < 4 ∧ y ≠ 4)
  | .vamoMax _ mk d b y p => decide (mk < 8 ∧ d < 32 ∧ b < 32 ∧ y < 8 ∧ p < 4 ∧ y ≠ 4)
  | .vamoAnd _ mk d b y p => decide (mk < 8 ∧ d < 32 ∧ b < 32 ∧ y < 8 ∧ p < 4 ∧ y ≠ 4)
  | .vamoOr _ mk d b y p => decide (mk < 8 ∧ d < 32 ∧ b < 32 ∧ y < 8 ∧ p < 4 ∧ y ≠ 4)
  | .vamoXor _ mk d b y p => decide (mk < 8 ∧ d < 32 ∧ b < 32 ∧ y < 8 ∧ p < 4 ∧ y ≠ 4)
  | .vamoSwap _ mk d b y p => decide (mk < 8 ∧ d < 32 ∧ b < 32 ∧ y < 8 ∧ p < 4 ∧ y ≠ 4)
  | .vamooAdd mk d b p => decide (mk < 8 ∧ d < 32 ∧ b < 32 ∧ p < 4)
  | .vamooFadd mk d b p => decide (mk < 8 ∧ d < 32 ∧ b < 32 ∧ p < 4)
  | .vamooMin mk d b p => decide (mk < 8 ∧ d < 32 ∧ b < 32 ∧ p < 4)
  | .vamooMax mk d b p => decide (mk < 8 ∧ d < 32 ∧ b < 32 ∧ p < 4)
  | .vamooAnd mk d b p => decide (mk < 8 ∧ d < 32 ∧ b < 32 ∧ p < 4)
  | .vamooOr mk d b p => decide (mk < 8 ∧ d < 32 ∧ b < 32 ∧ p < 4)
  | .vamooXor mk d b p => decide (mk < 8 ∧ d < 32 ∧ b < 32 ∧ p < 4)
  | .vamooSwap mk d b p => decide (mk < 8 ∧ d < 32 ∧ b < 32 ∧ p < 4)
  | .vsc _ mk d b y p => decide (mk < 8 ∧ d < 32 ∧ b < 32 ∧ y < 8 ∧ p < 4 ∧ mk ≠ 0 ∧ y ≠ 4)
  | .fas _ mk d b y p => decide (mk < 8 ∧ d < 32 ∧ b < 32 ∧ y < 8 ∧ p < 4 ∧ y ≠ 4)
  | .amoxAdd d a w y => decide (d < 32 ∧ a < 32 ∧ w < 2 ∧ y < 8 ∧ y ≠ 4)
  | .amoxFadd d a w y => decide (d < 32 ∧ a < 32 ∧ w < 2 ∧ y < 8 ∧ y ≠ 4 ∧ w = 1)
  | .amoxMin d a w y => decide (d < 32 ∧ a < 32 ∧ w < 2 ∧ y < 8 ∧ y ≠ 4)
  | .amoxMax d a w y => decide (d < 32 ∧ a < 32 ∧ w < 2 ∧ y < 8 ∧ y ≠ 4)
  | .amoxAnd d a w y => decide (d < 32 ∧ a < 32 ∧ w < 2 ∧ y < 8 ∧ y ≠ 4)
  | .amoxOr d a w y => decide (d < 32 ∧ a < 32 ∧ w < 2 ∧ y < 8 ∧ y ≠ 4)
  | .amoxXor d a w y => decide (d < 32 ∧ a < 32 ∧ w < 2 ∧ y < 8 ∧ y ≠ 4)
  | .amoxSwap d a w y => decide (d < 32 ∧ a < 32 ∧ w < 2 ∧ y < 8 ∧ y ≠ 4)
  | .ldaq d a w s => decide (d < 32 ∧ a < 32 ∧ w < 4 ∧ s < 8 ∧ s ≠ 7)
  | .strl d a w s => decide (d < 32 ∧ a < 32 ∧ w < 4 ∧ s < 8 ∧ s ≠ 7)
  | .fencev s => decide (s < 8 ∧ s ≠ 7)
  | .fencevColl s => decide (s < 8 ∧ s ≠ 7)
  | .fencel => true
  | .launch d a => decide (d < 32 ∧ a < 32)
  | .graphrun d a => decide (d < 32 ∧ a < 32)
  | .ccadd a b => decide (a < 32 ∧ b < 32)
  | .ccwait a => decide (a < 32)
  | .ccread d a => decide (d < 32 ∧ a < 32)
  | .cancel a l => decide (a < 32 ∧ l < 8 ∧ l ≤ 3)
  | .yield => true
  | .halt => true
  | .ttstart a => decide (a < 32)
  | .ttsync => true
  | .mput d a b => decide (d < 32 ∧ a < 32 ∧ b < 32)
  | .mget d a b => decide (d < 32 ∧ a < 32 ∧ b < 32)
  | .msig d a b => decide (d < 32 ∧ a < 32 ∧ b < 32)
  | .mchk d a => decide (d < 32 ∧ a < 32)
  | .logpub a b => decide (a < 32 ∧ b < 32)
  | .cprec a b => decide (a < 32 ∧ b < 32)
  | .tret => true
  | .wait => true
  | .ctxsave a => decide (a < 32)
  | .ctxload a => decide (a < 32)
  | .tinv a b => decide (a < 32 ∧ b < 32)
  | .bar a => decide (a < 32)
  | .moduleReset => true
  | .blockReady bit failed => decide (bit < 16 ∧ failed < 5)
  | .jstart slot _ => decide (slot < 6)
  | .jctlCancel slot => decide (slot < 6)
  | .jctlHold slot => decide (slot < 6)
  | .jctlResume slot => decide (slot < 6)
  | .dclr => true
  | .hostRegisterWrite _ _ => true
  | .hostRead space _ _ _ => decide ((space = 0 ∨ space = 2))
  | .hostPostedWrite _ _ _ => true
  | .hostAccessAfterClaim _ => true
  | .hostClaimTimeout _ => true
  | .tdispExitRun _ => true
  | .hostLinkFailure _ => true
  | .getVersion => true
  | .getCapabilities => true
  | .negotiateAlgorithms _ => true
  | .getDigests => true
  | .getCertificate _ _ _ => true
  | .challenge _ _ => true
  | .getMeasurements _ _ _ => true
  | .keyExchange _ _ => true
  | .finish _ => true
  | .countDown _ _ _ _ => true
  | .hartCancel _ => true
  | .cancellationComplete _ _ => true
  | .launchPlacement _ _ _ => true
  | .preemption _ => true
  | .issueTurn _ _ => true
  | .laneCountChange _ _ lanes => decide ((lanes = 64 ∨ lanes = 32 ∨ lanes = 16))
  | .clockStretch _ n => decide (8 ≤ n ∧ n ≤ 32)
  | .periodBoundary _ => true
  | .periodLimit _ => true
  | .daybreakPulse _ => true
  | .bankTwilight _ _ _ => true
  | .bankWake _ _ _ => true
  | .asyncInterrupt => true
  | .claimArrival _ _ _ => true
  | .atomicArrival _ _ _ _ _ => true
  | .copyEngineOperation _ => true
  | .feedQueueFillResume _ _ => true
  | .collectiveDrain _ _ => true
  | .barrierRelease _ _ _ => true
  | .haltComplete _ => true
  | .packetHop _ => true
  | .putPacket _ => true
  | .getRequest _ => true
  | .getReply _ => true
  | .signalPacket _ => true
  | .acknowledgment _ _ => true
  | .messageClaimTimeout _ => true
  | .reportArrival _ _ => true
  | .retransmitTimeout _ _ => true
  | .flitCrcError _ _ => true
  | .linkDown _ => true
  | .viewUpdate _ _ => true
  | .logRecordWrite _ => true
  | .mtimerExpiry _ => true
  | .partitionReset _ _ => true
  | .partitionDrainEnd _ _ => true
  | .thermalLevelChange _ _ _ => true
  | .levelFall _ _ _ => true
  | .thermalTrip _ _ => true
  | .laneRetirement _ _ _ _ => true
  | .scrub _ _ => true
  | .illegalInstruction _ _ => true
  | .fetchFault _ _ => true
  | .tdispEnterRun _ => true
  | .partitionBinding _ _ _ _ => true
  | .hostWindowCompletion _ _ _ _ => true
  | .unsupportedSpdmRequest _ => true

end Sys2Proof
end

