-- ==== Sys2Proof/Decode.lean ====
section
/-! DEFINITION. The decoder and the encoder, from spec/10_encoding.md (R175 to R197) and spec/11_scalar.md (R200). A word
decodes to an instruction or is refused by name; every refused word raises the illegal-instruction trap (R180). -/

namespace Sys2Proof

/-- Why a word is no instruction. `length` is R175's bits 1:0; `major` an opcode R176 does not list; `base` a word under a base
opcode that R177 does not list; `code` a reserved function code (R185, R188, R191, R194); `field` a field or value that the role
tables do not allow (R180, R186, R189, R192, R193, R195); `csr` a CSR address R178 refuses; `short` fewer than four bytes. -/
inductive Reject where
  | short | length | major | base | code | field | csr
  deriving DecidableEq, Repr

/-- The low `n` bits `v` read as a two's complement number. -/
def signed (n v : Nat) : Int := if v < 2 ^ (n - 1) then (v : Int) else (v : Int) - 2 ^ n

/-- A signed number as the low `n` bits of a word. -/
def field (n : Nat) (v : Int) : Nat := (v % (2 : Int) ^ n).toNat

/-- An instruction whose reserved values have been checked, or the refusal `e`. -/
def need (ok : Bool) (i : Instr) (e : Reject) : Except Reject Instr := if ok then .ok i else .error e

/-- `i`, refused with `e` when it is not well formed. -/
def wf (i : Instr) (e : Reject) : Except Reject Instr := need i.wf i e

/-- BRANCH (R177, R201). -/
def decodeBranch (w : Nat) : Except Reject Instr :=
  match w / 4096 % 8 with
  | 0 => .ok (.beq (w / 32768 % 32) (w / 1048576 % 32) (signed 13 (w / 2147483648 % 2 * 4096 + w / 128 % 2 * 2048 + w / 33554432 % 64 * 32 + w / 256 % 16 * 2)))
  | 1 => .ok (.bne (w / 32768 % 32) (w / 1048576 % 32) (signed 13 (w / 2147483648 % 2 * 4096 + w / 128 % 2 * 2048 + w / 33554432 % 64 * 32 + w / 256 % 16 * 2)))
  | 4 => .ok (.blt (w / 32768 % 32) (w / 1048576 % 32) (signed 13 (w / 2147483648 % 2 * 4096 + w / 128 % 2 * 2048 + w / 33554432 % 64 * 32 + w / 256 % 16 * 2)))
  | 5 => .ok (.bge (w / 32768 % 32) (w / 1048576 % 32) (signed 13 (w / 2147483648 % 2 * 4096 + w / 128 % 2 * 2048 + w / 33554432 % 64 * 32 + w / 256 % 16 * 2)))
  | 6 => .ok (.bltu (w / 32768 % 32) (w / 1048576 % 32) (signed 13 (w / 2147483648 % 2 * 4096 + w / 128 % 2 * 2048 + w / 33554432 % 64 * 32 + w / 256 % 16 * 2)))
  | 7 => .ok (.bgeu (w / 32768 % 32) (w / 1048576 % 32) (signed 13 (w / 2147483648 % 2 * 4096 + w / 128 % 2 * 2048 + w / 33554432 % 64 * 32 + w / 256 % 16 * 2)))
  | _ => .error .base

/-- LOAD (R177, R201). -/
def decodeLoad (w : Nat) : Except Reject Instr :=
  match w / 4096 % 8 with
  | 0 => .ok (.lb (w / 128 % 32) (w / 32768 % 32) (signed 12 (w / 1048576 % 4096)))
  | 1 => .ok (.lh (w / 128 % 32) (w / 32768 % 32) (signed 12 (w / 1048576 % 4096)))
  | 2 => .ok (.lw (w / 128 % 32) (w / 32768 % 32) (signed 12 (w / 1048576 % 4096)))
  | 3 => .ok (.ld (w / 128 % 32) (w / 32768 % 32) (signed 12 (w / 1048576 % 4096)))
  | 4 => .ok (.lbu (w / 128 % 32) (w / 32768 % 32) (signed 12 (w / 1048576 % 4096)))
  | 5 => .ok (.lhu (w / 128 % 32) (w / 32768 % 32) (signed 12 (w / 1048576 % 4096)))
  | 6 => .ok (.lwu (w / 128 % 32) (w / 32768 % 32) (signed 12 (w / 1048576 % 4096)))
  | _ => .error .base

/-- STORE (R177, R201). -/
def decodeStore (w : Nat) : Except Reject Instr :=
  match w / 4096 % 8 with
  | 0 => .ok (.sb (w / 32768 % 32) (w / 1048576 % 32) (signed 12 (w / 33554432 % 128 * 32 + w / 128 % 32)))
  | 1 => .ok (.sh (w / 32768 % 32) (w / 1048576 % 32) (signed 12 (w / 33554432 % 128 * 32 + w / 128 % 32)))
  | 2 => .ok (.sw (w / 32768 % 32) (w / 1048576 % 32) (signed 12 (w / 33554432 % 128 * 32 + w / 128 % 32)))
  | 3 => .ok (.sd (w / 32768 % 32) (w / 1048576 % 32) (signed 12 (w / 33554432 % 128 * 32 + w / 128 % 32)))
  | _ => .error .base

/-- JALR (R177, R201). -/
def decodeJalr (w : Nat) : Except Reject Instr :=
  match w / 4096 % 8 with
  | 0 => .ok (.jalr (w / 128 % 32) (w / 32768 % 32) (signed 12 (w / 1048576 % 4096)))
  | _ => .error .base

/-- MISC-MEM: FENCE alone (R177). -/
def decodeMiscMem (w : Nat) : Except Reject Instr :=
  match w / 4096 % 8 with
  | 0 => .ok (.fence (w / 128 % 32) (w / 32768 % 32) (w / 268435456 % 16) (w / 16777216 % 16) (w / 1048576 % 16))
  | _ => .error .base

/-- OP-IMM (R177, R201). -/
def decodeOpImm (w : Nat) : Except Reject Instr :=
  match w / 4096 % 8 with
  | 0 => .ok (.addi (w / 128 % 32) (w / 32768 % 32) (signed 12 (w / 1048576 % 4096)))
  | 1 => if w / 67108864 % 64 == 0 then .ok (.slli (w / 128 % 32) (w / 32768 % 32) (w / 1048576 % 64)) else .error .base
  | 2 => .ok (.slti (w / 128 % 32) (w / 32768 % 32) (signed 12 (w / 1048576 % 4096)))
  | 3 => .ok (.sltiu (w / 128 % 32) (w / 32768 % 32) (signed 12 (w / 1048576 % 4096)))
  | 4 => .ok (.xori (w / 128 % 32) (w / 32768 % 32) (signed 12 (w / 1048576 % 4096)))
  | 5 => if w / 67108864 % 64 == 0 then .ok (.srli (w / 128 % 32) (w / 32768 % 32) (w / 1048576 % 64)) else if w / 67108864 % 64 == 16 then .ok (.srai (w / 128 % 32) (w / 32768 % 32) (w / 1048576 % 64)) else .error .base
  | 6 => .ok (.ori (w / 128 % 32) (w / 32768 % 32) (signed 12 (w / 1048576 % 4096)))
  | 7 => .ok (.andi (w / 128 % 32) (w / 32768 % 32) (signed 12 (w / 1048576 % 4096)))
  | _ => .error .base

/-- OP-IMM-32 (R177, R201). -/
def decodeOpImm32 (w : Nat) : Except Reject Instr :=
  match w / 4096 % 8 with
  | 0 => .ok (.addiw (w / 128 % 32) (w / 32768 % 32) (signed 12 (w / 1048576 % 4096)))
  | 1 => if w / 33554432 % 128 == 0 then .ok (.slliw (w / 128 % 32) (w / 32768 % 32) (w / 1048576 % 32)) else .error .base
  | 5 => if w / 33554432 % 128 == 0 then .ok (.srliw (w / 128 % 32) (w / 32768 % 32) (w / 1048576 % 32)) else if w / 33554432 % 128 == 32 then .ok (.sraiw (w / 128 % 32) (w / 32768 % 32) (w / 1048576 % 32)) else .error .base
  | _ => .error .base

/-- OP: base and M (R177, R201). -/
def decodeOp (w : Nat) : Except Reject Instr :=
  match w / 4096 % 8 with
  | 0 => if w / 33554432 % 128 == 0 then .ok (.add (w / 128 % 32) (w / 32768 % 32) (w / 1048576 % 32)) else if w / 33554432 % 128 == 32 then .ok (.sub (w / 128 % 32) (w / 32768 % 32) (w / 1048576 % 32)) else if w / 33554432 % 128 == 1 then .ok (.mul (w / 128 % 32) (w / 32768 % 32) (w / 1048576 % 32)) else .error .base
  | 1 => if w / 33554432 % 128 == 0 then .ok (.sll (w / 128 % 32) (w / 32768 % 32) (w / 1048576 % 32)) else if w / 33554432 % 128 == 1 then .ok (.mulh (w / 128 % 32) (w / 32768 % 32) (w / 1048576 % 32)) else .error .base
  | 2 => if w / 33554432 % 128 == 0 then .ok (.slt (w / 128 % 32) (w / 32768 % 32) (w / 1048576 % 32)) else if w / 33554432 % 128 == 1 then .ok (.mulhsu (w / 128 % 32) (w / 32768 % 32) (w / 1048576 % 32)) else .error .base
  | 3 => if w / 33554432 % 128 == 0 then .ok (.sltu (w / 128 % 32) (w / 32768 % 32) (w / 1048576 % 32)) else if w / 33554432 % 128 == 1 then .ok (.mulhu (w / 128 % 32) (w / 32768 % 32) (w / 1048576 % 32)) else .error .base
  | 4 => if w / 33554432 % 128 == 0 then .ok (.xor (w / 128 % 32) (w / 32768 % 32) (w / 1048576 % 32)) else if w / 33554432 % 128 == 1 then .ok (.div (w / 128 % 32) (w / 32768 % 32) (w / 1048576 % 32)) else .error .base
  | 5 => if w / 33554432 % 128 == 0 then .ok (.srl (w / 128 % 32) (w / 32768 % 32) (w / 1048576 % 32)) else if w / 33554432 % 128 == 32 then .ok (.sra (w / 128 % 32) (w / 32768 % 32) (w / 1048576 % 32)) else if w / 33554432 % 128 == 1 then .ok (.divu (w / 128 % 32) (w / 32768 % 32) (w / 1048576 % 32)) else .error .base
  | 6 => if w / 33554432 % 128 == 0 then .ok (.or (w / 128 % 32) (w / 32768 % 32) (w / 1048576 % 32)) else if w / 33554432 % 128 == 1 then .ok (.rem (w / 128 % 32) (w / 32768 % 32) (w / 1048576 % 32)) else .error .base
  | 7 => if w / 33554432 % 128 == 0 then .ok (.and (w / 128 % 32) (w / 32768 % 32) (w / 1048576 % 32)) else if w / 33554432 % 128 == 1 then .ok (.remu (w / 128 % 32) (w / 32768 % 32) (w / 1048576 % 32)) else .error .base
  | _ => .error .base

/-- OP-32: base and M (R177, R201). -/
def decodeOp32 (w : Nat) : Except Reject Instr :=
  match w / 4096 % 8 with
  | 0 => if w / 33554432 % 128 == 0 then .ok (.addw (w / 128 % 32) (w / 32768 % 32) (w / 1048576 % 32)) else if w / 33554432 % 128 == 32 then .ok (.subw (w / 128 % 32) (w / 32768 % 32) (w / 1048576 % 32)) else if w / 33554432 % 128 == 1 then .ok (.mulw (w / 128 % 32) (w / 32768 % 32) (w / 1048576 % 32)) else .error .base
  | 1 => if w / 33554432 % 128 == 0 then .ok (.sllw (w / 128 % 32) (w / 32768 % 32) (w / 1048576 % 32)) else .error .base
  | 4 => if w / 33554432 % 128 == 1 then .ok (.divw (w / 128 % 32) (w / 32768 % 32) (w / 1048576 % 32)) else .error .base
  | 5 => if w / 33554432 % 128 == 0 then .ok (.srlw (w / 128 % 32) (w / 32768 % 32) (w / 1048576 % 32)) else if w / 33554432 % 128 == 32 then .ok (.sraw (w / 128 % 32) (w / 32768 % 32) (w / 1048576 % 32)) else if w / 33554432 % 128 == 1 then .ok (.divuw (w / 128 % 32) (w / 32768 % 32) (w / 1048576 % 32)) else .error .base
  | 6 => if w / 33554432 % 128 == 1 then .ok (.remw (w / 128 % 32) (w / 32768 % 32) (w / 1048576 % 32)) else .error .base
  | 7 => if w / 33554432 % 128 == 1 then .ok (.remuw (w / 128 % 32) (w / 32768 % 32) (w / 1048576 % 32)) else .error .base
  | _ => .error .base

/-- SYSTEM: ECALL, EBREAK and the CSR instructions (R177, R178). -/
def decodeSystem (w : Nat) : Except Reject Instr :=
  match w / 4096 % 8 with
  | 0 => if w / 128 % 32 == 0 && w / 32768 % 131072 == 0 then .ok (.ecall) else if w / 128 % 32 == 0 && w / 32768 % 131072 == 32 then .ok (.ebreak) else .error .base
  | 1 => wf (.csrrw (w / 128 % 32) (w / 1048576 % 4096) (w / 32768 % 32)) .csr
  | 2 => wf (.csrrs (w / 128 % 32) (w / 1048576 % 4096) (w / 32768 % 32)) .csr
  | 3 => wf (.csrrc (w / 128 % 32) (w / 1048576 % 4096) (w / 32768 % 32)) .csr
  | 5 => wf (.csrrwi (w / 128 % 32) (w / 1048576 % 4096) (w / 32768 % 32)) .csr
  | 6 => wf (.csrrsi (w / 128 % 32) (w / 1048576 % 4096) (w / 32768 % 32)) .csr
  | 7 => wf (.csrrci (w / 128 % 32) (w / 1048576 % 4096) (w / 32768 % 32)) .csr
  | _ => .error .base

/-- The function codes of custom0 (R185, R186). -/
def decodeCustom0 (w : Nat) : Except Reject Instr :=
  match 8 * (w / 536870912 % 8) + w / 4096 % 8 with
  | 0 => if w / 32768 % 32 == 0 && w / 268435456 % 2 == 1 then wf (.strip (w / 128 % 32) (w / 1048576 % 256)) .field else .error .field
  | 1 => if w / 128 % 32 == 0 && w / 1048576 % 512 == 256 then .ok (.vsetc (w / 32768 % 32)) else .error .field
  | 2 => if w / 1024 % 4 == 0 && w / 8388608 % 64 == 32 then wf (.pset (w / 128 % 8) (w / 32768 % 32) (w / 1048576 % 8)) .field else .error .field
  | 3 => if w / 262144 % 2048 == 1024 then .ok (.pget (w / 128 % 32) (w / 32768 % 8)) else .error .field
  | 4 => if w / 134217728 % 4 == 2 then .ok (.vloop (w / 33554432 % 4) (w / 32768 % 32) (signed 10 (w / 1048576 % 32 * 32 + w / 128 % 32))) else .error .field
  | 5 => if w / 268435456 % 2 == 1 then .ok (.vbany (w / 33554432 % 8) (signed 15 (w / 1048576 % 32 * 1024 + w / 32768 % 32 * 32 + w / 128 % 32))) else .error .field
  | 6 => if w / 268435456 % 2 == 1 then .ok (.vbnone (w / 33554432 % 8) (signed 15 (w / 1048576 % 32 * 1024 + w / 32768 % 32 * 32 + w / 128 % 32))) else .error .field
  | 8 => if w / 262144 % 128 == 0 then .ok (.vld (w / 268435456 % 2 == 1) (w / 33554432 % 8) (w / 128 % 32) (w / 32768 % 8)) else .error .field
  | 9 => if w / 262144 % 4 == 0 then .ok (.vlds (w / 268435456 % 2 == 1) (w / 33554432 % 8) (w / 128 % 32) (w / 32768 % 8) (w / 1048576 % 32)) else .error .field
  | 10 => if w / 262144 % 4 == 0 then .ok (.vldx (w / 268435456 % 2 == 1) (w / 33554432 % 8) (w / 128 % 32) (w / 32768 % 8) (w / 1048576 % 32)) else .error .field
  | 11 => if w / 262144 % 128 == 0 then .ok (.vldf (w / 268435456 % 2 == 1) (w / 33554432 % 8) (w / 128 % 32) (w / 32768 % 8)) else .error .field
  | 12 => if w / 262144 % 4 == 0 then .ok (.vldxf (w / 268435456 % 2 == 1) (w / 33554432 % 8) (w / 128 % 32) (w / 32768 % 8) (w / 1048576 % 32)) else .error .field
  | 13 => if w / 262144 % 128 == 0 then .ok (.vst (w / 268435456 % 2 == 1) (w / 33554432 % 8) (w / 128 % 32) (w / 32768 % 8)) else .error .field
  | 14 => if w / 262144 % 4 == 0 then .ok (.vsts (w / 268435456 % 2 == 1) (w / 33554432 % 8) (w / 128 % 32) (w / 32768 % 8) (w / 1048576 % 32)) else .error .field
  | 15 => if w / 262144 % 4 == 0 then .ok (.vstx (w / 268435456 % 2 == 1) (w / 33554432 % 8) (w / 128 % 32) (w / 32768 % 8) (w / 1048576 % 32)) else .error .field
  | 16 => if w / 262144 % 128 == 0 then .ok (.vldp (w / 268435456 % 2 == 1) (w / 33554432 % 8) (w / 128 % 32) (w / 32768 % 8)) else .error .field
  | 17 => if w / 262144 % 128 == 0 then .ok (.vstp (w / 268435456 % 2 == 1) (w / 33554432 % 8) (w / 128 % 32) (w / 32768 % 8)) else .error .field
  | 18 => if w / 262144 % 128 == 0 then .ok (.vspill (w / 268435456 % 2 == 1) (w / 33554432 % 8) (w / 128 % 32) (w / 32768 % 8)) else .error .field
  | 19 => if w / 262144 % 128 == 0 then .ok (.vreload (w / 268435456 % 2 == 1) (w / 33554432 % 8) (w / 128 % 32) (w / 32768 % 8)) else .error .field
  | 20 => if w / 1024 % 4 == 0 then .ok (.qld (w / 268435456 % 2 == 1) (w / 1048576 % 256) (w / 128 % 8) (w / 32768 % 32)) else .error .field
  | 21 => if w / 262144 % 4 == 0 then wf (.vldt (w / 268435456 % 2 == 1) (w / 33554432 % 8) (w / 128 % 32) (w / 32768 % 8) (w / 1048576 % 32)) .field else .error .field
  | 24 => if w / 1048576 % 32 == 0 then .ok (.vmv (w / 268435456 % 2 == 1) (w / 33554432 % 8) (w / 128 % 32) (w / 32768 % 32)) else .error .field
  | 25 => if w / 1048576 % 32 == 0 then .ok (.vmvx (w / 268435456 % 2 == 1) (w / 33554432 % 8) (w / 128 % 32) (w / 32768 % 32)) else .error .field
  | 26 => if w / 33554432 % 8 == 0 then .ok (.vmvs (w / 268435456 % 2 == 1) (w / 128 % 32) (w / 32768 % 32) (w / 1048576 % 32)) else .error .field
  | 27 => .ok (.vslideu (w / 268435456 % 2 == 1) (w / 33554432 % 8) (w / 128 % 32) (w / 32768 % 32) (w / 1048576 % 32))
  | 28 => .ok (.vslided (w / 268435456 % 2 == 1) (w / 33554432 % 8) (w / 128 % 32) (w / 32768 % 32) (w / 1048576 % 32))
  | 29 => .ok (.vgath (w / 268435456 % 2 == 1) (w / 33554432 % 8) (w / 128 % 32) (w / 32768 % 32) (w / 1048576 % 32))
  | 30 => if w / 1048576 % 32 == 0 then wf (.vcomp (w / 268435456 % 2 == 1) (w / 33554432 % 8) (w / 128 % 32) (w / 32768 % 32)) .field else .error .field
  | 31 => if w / 1048576 % 32 == 0 then wf (.vexpd (w / 268435456 % 2 == 1) (w / 33554432 % 8) (w / 128 % 32) (w / 32768 % 32)) .field else .error .field
  | 32 => .ok (.vsel (w / 268435456 % 2 == 1) (w / 33554432 % 8) (w / 128 % 32) (w / 32768 % 32) (w / 1048576 % 32))
  | 33 => .ok (.vpack (w / 268435456 % 2 == 1) (w / 33554432 % 8) (w / 128 % 32) (w / 32768 % 32) (w / 1048576 % 32))
  | 34 => if w / 8388608 % 4 == 0 then .ok (.vunpk (w / 268435456 % 2 == 1) (w / 33554432 % 8) (w / 128 % 32) (w / 32768 % 32) (w / 1048576 % 8)) else .error .field
  | 35 => if w / 262144 % 128 == 0 then .ok (.viota (w / 268435456 % 2 == 1) (w / 33554432 % 8) (w / 128 % 32) (w / 32768 % 8)) else .error .field
  | 40 => if w / 1024 % 4 == 0 && w / 262144 % 4 == 0 && w / 8388608 % 32 == 0 then .ok (.mand (w / 268435456 % 2 == 1) (w / 128 % 8) (w / 32768 % 8) (w / 1048576 % 8)) else .error .field
  | 41 => if w / 1024 % 4 == 0 && w / 262144 % 4 == 0 && w / 8388608 % 32 == 0 then .ok (.mor (w / 268435456 % 2 == 1) (w / 128 % 8) (w / 32768 % 8) (w / 1048576 % 8)) else .error .field
  | 42 => if w / 1024 % 4 == 0 && w / 262144 % 4 == 0 && w / 8388608 % 32 == 0 then .ok (.mxor (w / 268435456 % 2 == 1) (w / 128 % 8) (w / 32768 % 8) (w / 1048576 % 8)) else .error .field
  | 43 => if w / 1024 % 4 == 0 && w / 262144 % 4 == 0 && w / 8388608 % 32 == 0 then .ok (.mandn (w / 268435456 % 2 == 1) (w / 128 % 8) (w / 32768 % 8) (w / 1048576 % 8)) else .error .field
  | 44 => if w / 1024 % 4 == 0 && w / 65536 % 4096 == 0 then .ok (.mset (w / 268435456 % 2 == 1) (w / 128 % 8) (w / 32768 % 2)) else .error .field
  | 45 => if w / 1024 % 4 == 0 && w / 262144 % 1024 == 0 then .ok (.vcut (w / 268435456 % 2 == 1) (w / 128 % 8) (w / 32768 % 8)) else .error .field
  | 46 => if w / 262144 % 1024 == 0 then .ok (.vpopm (w / 268435456 % 2 == 1) (w / 128 % 32) (w / 32768 % 8)) else .error .field
  | _ => .error .code

/-- The function codes of custom1 (R188 to R190). -/
noncomputable def decodeCustom1 (w : Nat) : Except Reject Instr :=
  match 8 * (w / 536870912 % 8) + w / 4096 % 8 with
  | 0 => .ok (.vadd (w / 268435456 % 2 == 1) (w / 33554432 % 8) (w / 128 % 32) (w / 32768 % 32) (w / 1048576 % 32))
  | 1 => .ok (.vsub (w / 268435456 % 2 == 1) (w / 33554432 % 8) (w / 128 % 32) (w / 32768 % 32) (w / 1048576 % 32))
  | 2 => .ok (.vmul (w / 268435456 % 2 == 1) (w / 33554432 % 8) (w / 128 % 32) (w / 32768 % 32) (w / 1048576 % 32))
  | 3 => .ok (.vmulh (w / 268435456 % 2 == 1) (w / 33554432 % 8) (w / 128 % 32) (w / 32768 % 32) (w / 1048576 % 32))
  | 4 => .ok (.vdiv (w / 268435456 % 2 == 1) (w / 33554432 % 8) (w / 128 % 32) (w / 32768 % 32) (w / 1048576 % 32))
  | 5 => .ok (.vrem (w / 268435456 % 2 == 1) (w / 33554432 % 8) (w / 128 % 32) (w / 32768 % 32) (w / 1048576 % 32))
  | 6 => .ok (.vmin (w / 268435456 % 2 == 1) (w / 33554432 % 8) (w / 128 % 32) (w / 32768 % 32) (w / 1048576 % 32))
  | 7 => .ok (.vmax (w / 268435456 % 2 == 1) (w / 33554432 % 8) (w / 128 % 32) (w / 32768 % 32) (w / 1048576 % 32))
  | 8 => .ok (.vand (w / 268435456 % 2 == 1) (w / 33554432 % 8) (w / 128 % 32) (w / 32768 % 32) (w / 1048576 % 32))
  | 9 => .ok (.vor (w / 268435456 % 2 == 1) (w / 33554432 % 8) (w / 128 % 32) (w / 32768 % 32) (w / 1048576 % 32))
  | 10 => .ok (.vxor (w / 268435456 % 2 == 1) (w / 33554432 % 8) (w / 128 % 32) (w / 32768 % 32) (w / 1048576 % 32))
  | 11 => .ok (.vsll (w / 268435456 % 2 == 1) (w / 33554432 % 8) (w / 128 % 32) (w / 32768 % 32) (w / 1048576 % 32))
  | 12 => .ok (.vsrl (w / 268435456 % 2 == 1) (w / 33554432 % 8) (w / 128 % 32) (w / 32768 % 32) (w / 1048576 % 32))
  | 13 => .ok (.vsra (w / 268435456 % 2 == 1) (w / 33554432 % 8) (w / 128 % 32) (w / 32768 % 32) (w / 1048576 % 32))
  | 14 => .ok (.vadds (w / 268435456 % 2 == 1) (w / 33554432 % 8) (w / 128 % 32) (w / 32768 % 32) (w / 1048576 % 32))
  | 15 => .ok (.vaddsSub (w / 268435456 % 2 == 1) (w / 33554432 % 8) (w / 128 % 32) (w / 32768 % 32) (w / 1048576 % 32))
  | 16 => .ok (.vicmp (w / 268435456 % 2 == 1) (w / 33554432 % 8) (w / 128 % 8) (w / 32768 % 32) (w / 1048576 % 32) (w / 1024 % 4))
  | 20 => .ok (.vfadd (w / 268435456 % 2 == 1) (w / 33554432 % 8) (w / 128 % 32) (w / 32768 % 32) (w / 1048576 % 32))
  | 21 => .ok (.vfsub (w / 268435456 % 2 == 1) (w / 33554432 % 8) (w / 128 % 32) (w / 32768 % 32) (w / 1048576 % 32))
  | 22 => .ok (.vfmul (w / 268435456 % 2 == 1) (w / 33554432 % 8) (w / 128 % 32) (w / 32768 % 32) (w / 1048576 % 32))
  | 23 => .ok (.vffma (w / 268435456 % 2 == 1) (w / 33554432 % 8) (w / 128 % 32) (w / 32768 % 32) (w / 1048576 % 32))
  | 24 => .ok (.vfmin (w / 268435456 % 2 == 1) (w / 33554432 % 8) (w / 128 % 32) (w / 32768 % 32) (w / 1048576 % 32))
  | 25 => .ok (.vfmax (w / 268435456 % 2 == 1) (w / 33554432 % 8) (w / 128 % 32) (w / 32768 % 32) (w / 1048576 % 32))
  | 26 => .ok (.vfcmp (w / 268435456 % 2 == 1) (w / 33554432 % 8) (w / 128 % 8) (w / 32768 % 32) (w / 1048576 % 32) (w / 1024 % 4))
  | 27 => .ok (.vfcmpF (w / 268435456 % 2 == 1) (w / 33554432 % 8) (w / 128 % 8) (w / 32768 % 32) (w / 1048576 % 32) (w / 1024 % 4))
  | 28 => wf (.vfcvt (w / 268435456 % 2 == 1) (w / 33554432 % 8) (w / 128 % 32) (w / 32768 % 32) (w / 1048576 % 32)) .field
  | 29 => wf (.vfrnd (w / 268435456 % 2 == 1) (w / 33554432 % 8) (w / 128 % 32) (w / 32768 % 32) (w / 1048576 % 32)) .field
  | 30 => if w / 1048576 % 32 == 0 then .ok (.vfcls (w / 268435456 % 2 == 1) (w / 33554432 % 8) (w / 128 % 32) (w / 32768 % 32)) else .error .field
  | 31 => if w / 1048576 % 32 == 0 then .ok (.vfabs (w / 268435456 % 2 == 1) (w / 33554432 % 8) (w / 128 % 32) (w / 32768 % 32)) else .error .field
  | 32 => .ok (.vfdiv (w / 268435456 % 2 == 1) (w / 33554432 % 8) (w / 128 % 32) (w / 32768 % 32) (w / 1048576 % 32))
  | 33 => if w / 1048576 % 32 == 0 then .ok (.vfsqrt (w / 268435456 % 2 == 1) (w / 33554432 % 8) (w / 128 % 32) (w / 32768 % 32)) else .error .field
  | 34 => if w / 1048576 % 32 == 0 then .ok (.vrsqe (w / 268435456 % 2 == 1) (w / 33554432 % 8) (w / 128 % 32) (w / 32768 % 32)) else .error .field
  | 35 => if w / 1048576 % 32 == 0 then .ok (.vrcpe (w / 268435456 % 2 == 1) (w / 33554432 % 8) (w / 128 % 32) (w / 32768 % 32)) else .error .field
  | 36 => if w / 1048576 % 32 == 0 then .ok (.vexp (w / 268435456 % 2 == 1) (w / 33554432 % 8) (w / 128 % 32) (w / 32768 % 32)) else .error .field
  | 37 => if w / 1048576 % 32 == 0 then .ok (.vlog (w / 268435456 % 2 == 1) (w / 33554432 % 8) (w / 128 % 32) (w / 32768 % 32)) else .error .field
  | 38 => if w / 1048576 % 32 == 0 then .ok (.vsigm (w / 268435456 % 2 == 1) (w / 33554432 % 8) (w / 128 % 32) (w / 32768 % 32)) else .error .field
  | 39 => if w / 1048576 % 32 == 0 then .ok (.vtanh (w / 268435456 % 2 == 1) (w / 33554432 % 8) (w / 128 % 32) (w / 32768 % 32)) else .error .field
  | 40 => .ok (.vredsum (w / 268435456 % 2 == 1) (w / 33554432 % 8) (w / 128 % 32) (w / 32768 % 32) (w / 1048576 % 32))
  | 41 => .ok (.vredtree (w / 268435456 % 2 == 1) (w / 33554432 % 8) (w / 128 % 32) (w / 32768 % 32) (w / 1048576 % 32))
  | 42 => if w / 128 % 32 == 0 && w / 8388608 % 4 == 0 then .ok (.vredx (w / 268435456 % 2 == 1) (w / 33554432 % 8) (w / 32768 % 32) (w / 1048576 % 8)) else .error .field
  | 43 => if w / 4194304 % 8 == 0 then .ok (.vred (w / 268435456 % 2 == 1) (w / 33554432 % 8) (w / 128 % 32) (w / 32768 % 32) (w / 1048576 % 4)) else .error .field
  | 44 => if w / 4194304 % 8 == 0 then .ok (.vscan (w / 268435456 % 2 == 1) (w / 33554432 % 8) (w / 128 % 32) (w / 32768 % 32) (w / 1048576 % 4)) else .error .field
  | 45 => if w / 262144 % 128 == 0 then .ok (.vffs (w / 268435456 % 2 == 1) (w / 33554432 % 8) (w / 128 % 32) (w / 32768 % 8)) else .error .field
  | 46 => if w / 32768 % 32 == 0 && w / 33554432 % 8 == 0 then wf (.laget (w / 268435456 % 2 == 1) (w / 128 % 32) (w / 1048576 % 32)) .field else .error .field
  | 47 => if w / 128 % 32 == 0 && w / 32768 % 8192 == 0 then .ok (.laclr (w / 268435456 % 2 == 1)) else .error .field
  | 48 => wf (.smx (w / 268435456 % 2 == 1) (w / 33554432 % 8) (w / 128 % 32) (w / 32768 % 32) (w / 1048576 % 32)) .field
  | 49 => if w / 4194304 % 8 == 0 then .ok (.vrng (w / 268435456 % 2 == 1) (w / 33554432 % 8) (w / 128 % 32) (w / 32768 % 32) (w / 1048576 % 4)) else .error .field
  | 50 => if w / 1048576 % 32 == 0 then .ok (.vutf (w / 268435456 % 2 == 1) (w / 33554432 % 8) (w / 128 % 32) (w / 32768 % 32)) else .error .field
  | 51 => .ok (.vtbl (w / 268435456 % 2 == 1) (w / 33554432 % 8) (w / 128 % 32) (w / 32768 % 32) (w / 1048576 % 32))
  | 56 => .ok (.vaddP (w / 268435456 % 2 == 1) (w / 128 % 32) (w / 32768 % 32) (w / 1048576 % 32) (w / 33554432 % 8))
  | 57 => .ok (.vsubP (w / 268435456 % 2 == 1) (w / 128 % 32) (w / 32768 % 32) (w / 1048576 % 32) (w / 33554432 % 8))
  | 58 => .ok (.vmulP (w / 268435456 % 2 == 1) (w / 128 % 32) (w / 32768 % 32) (w / 1048576 % 32) (w / 33554432 % 8))
  | 59 => .ok (.vminP (w / 268435456 % 2 == 1) (w / 128 % 32) (w / 32768 % 32) (w / 1048576 % 32) (w / 33554432 % 8))
  | 60 => .ok (.vfaddP (w / 268435456 % 2 == 1) (w / 128 % 32) (w / 32768 % 32) (w / 1048576 % 32) (w / 33554432 % 8))
  | 61 => .ok (.vfsubP (w / 268435456 % 2 == 1) (w / 128 % 32) (w / 32768 % 32) (w / 1048576 % 32) (w / 33554432 % 8))
  | 62 => .ok (.vfmulP (w / 268435456 % 2 == 1) (w / 128 % 32) (w / 32768 % 32) (w / 1048576 % 32) (w / 33554432 % 8))
  | 63 => .ok (.vffmaP (w / 268435456 % 2 == 1) (w / 128 % 32) (w / 32768 % 32) (w / 1048576 % 32) (w / 33554432 % 8))
  | _ => .error .code

/-- The function codes of custom2 (R191 to R193). -/
noncomputable def decodeCustom2 (w : Nat) : Except Reject Instr :=
  match 8 * (w / 536870912 % 8) + w / 4096 % 8 with
  | 0 => .ok (.vaddVx (w / 268435456 % 2 == 1) (w / 33554432 % 8) (w / 128 % 32) (w / 32768 % 32) (w / 1048576 % 32))
  | 1 => .ok (.vsubVx (w / 268435456 % 2 == 1) (w / 33554432 % 8) (w / 128 % 32) (w / 32768 % 32) (w / 1048576 % 32))
  | 2 => .ok (.vmulVx (w / 268435456 % 2 == 1) (w / 33554432 % 8) (w / 128 % 32) (w / 32768 % 32) (w / 1048576 % 32))
  | 3 => .ok (.vmulhVx (w / 268435456 % 2 == 1) (w / 33554432 % 8) (w / 128 % 32) (w / 32768 % 32) (w / 1048576 % 32))
  | 4 => .ok (.vdivVx (w / 268435456 % 2 == 1) (w / 33554432 % 8) (w / 128 % 32) (w / 32768 % 32) (w / 1048576 % 32))
  | 5 => .ok (.vremVx (w / 268435456 % 2 == 1) (w / 33554432 % 8) (w / 128 % 32) (w / 32768 % 32) (w / 1048576 % 32))
  | 6 => .ok (.vminVx (w / 268435456 % 2 == 1) (w / 33554432 % 8) (w / 128 % 32) (w / 32768 % 32) (w / 1048576 % 32))
  | 7 => .ok (.vmaxVx (w / 268435456 % 2 == 1) (w / 33554432 % 8) (w / 128 % 32) (w / 32768 % 32) (w / 1048576 % 32))
  | 8 => .ok (.vandVx (w / 268435456 % 2 == 1) (w / 33554432 % 8) (w / 128 % 32) (w / 32768 % 32) (w / 1048576 % 32))
  | 9 => .ok (.vorVx (w / 268435456 % 2 == 1) (w / 33554432 % 8) (w / 128 % 32) (w / 32768 % 32) (w / 1048576 % 32))
  | 10 => .ok (.vxorVx (w / 268435456 % 2 == 1) (w / 33554432 % 8) (w / 128 % 32) (w / 32768 % 32) (w / 1048576 % 32))
  | 11 => .ok (.vsllVx (w / 268435456 % 2 == 1) (w / 33554432 % 8) (w / 128 % 32) (w / 32768 % 32) (w / 1048576 % 32))
  | 12 => .ok (.vsrlVx (w / 268435456 % 2 == 1) (w / 33554432 % 8) (w / 128 % 32) (w / 32768 % 32) (w / 1048576 % 32))
  | 13 => .ok (.vsraVx (w / 268435456 % 2 == 1) (w / 33554432 % 8) (w / 128 % 32) (w / 32768 % 32) (w / 1048576 % 32))
  | 14 => .ok (.vaddsVx (w / 268435456 % 2 == 1) (w / 33554432 % 8) (w / 128 % 32) (w / 32768 % 32) (w / 1048576 % 32))
  | 15 => .ok (.vicmpVx (w / 268435456 % 2 == 1) (w / 33554432 % 8) (w / 128 % 8) (w / 32768 % 32) (w / 1048576 % 32) (w / 1024 % 4))
  | 16 => .ok (.vaddVi (w / 268435456 % 2 == 1) (w / 33554432 % 8) (w / 128 % 32) (w / 1048576 % 32) (signed 5 (w / 32768 % 32)))
  | 17 => .ok (.vminVi (w / 268435456 % 2 == 1) (w / 33554432 % 8) (w / 128 % 32) (w / 1048576 % 32) (signed 5 (w / 32768 % 32)))
  | 18 => .ok (.vmaxVi (w / 268435456 % 2 == 1) (w / 33554432 % 8) (w / 128 % 32) (w / 1048576 % 32) (signed 5 (w / 32768 % 32)))
  | 19 => .ok (.vandVi (w / 268435456 % 2 == 1) (w / 33554432 % 8) (w / 128 % 32) (w / 1048576 % 32) (signed 5 (w / 32768 % 32)))
  | 20 => .ok (.vorVi (w / 268435456 % 2 == 1) (w / 33554432 % 8) (w / 128 % 32) (w / 1048576 % 32) (signed 5 (w / 32768 % 32)))
  | 21 => .ok (.vxorVi (w / 268435456 % 2 == 1) (w / 33554432 % 8) (w / 128 % 32) (w / 1048576 % 32) (signed 5 (w / 32768 % 32)))
  | 22 => .ok (.vsllVi (w / 268435456 % 2 == 1) (w / 33554432 % 8) (w / 128 % 32) (w / 1048576 % 32) (w / 32768 % 32))
  | 23 => .ok (.vsrlVi (w / 268435456 % 2 == 1) (w / 33554432 % 8) (w / 128 % 32) (w / 1048576 % 32) (w / 32768 % 32))
  | 24 => .ok (.vsraVi (w / 268435456 % 2 == 1) (w / 33554432 % 8) (w / 128 % 32) (w / 1048576 % 32) (w / 32768 % 32))
  | 25 => .ok (.vaddsVi (w / 268435456 % 2 == 1) (w / 33554432 % 8) (w / 128 % 32) (w / 1048576 % 32) (signed 5 (w / 32768 % 32)))
  | 26 => .ok (.vicmpVi (w / 268435456 % 2 == 1) (w / 33554432 % 8) (w / 128 % 8) (w / 1048576 % 32) (signed 5 (w / 32768 % 32)) (w / 1024 % 4))
  | 28 => .ok (.vfaddVf (w / 268435456 % 2 == 1) (w / 33554432 % 8) (w / 128 % 32) (w / 32768 % 32) (w / 1048576 % 32))
  | 29 => .ok (.vfsubVf (w / 268435456 % 2 == 1) (w / 33554432 % 8) (w / 128 % 32) (w / 32768 % 32) (w / 1048576 % 32))
  | 30 => .ok (.vfmulVf (w / 268435456 % 2 == 1) (w / 33554432 % 8) (w / 128 % 32) (w / 32768 % 32) (w / 1048576 % 32))
  | 31 => .ok (.vffmaVf (w / 268435456 % 2 == 1) (w / 33554432 % 8) (w / 128 % 32) (w / 32768 % 32) (w / 1048576 % 32))
  | 32 => .ok (.vfminVf (w / 268435456 % 2 == 1) (w / 33554432 % 8) (w / 128 % 32) (w / 32768 % 32) (w / 1048576 % 32))
  | 33 => .ok (.vfmaxVf (w / 268435456 % 2 == 1) (w / 33554432 % 8) (w / 128 % 32) (w / 32768 % 32) (w / 1048576 % 32))
  | 34 => .ok (.vfcmpVf (w / 268435456 % 2 == 1) (w / 33554432 % 8) (w / 128 % 8) (w / 32768 % 32) (w / 1048576 % 32) (w / 1024 % 4))
  | 35 => .ok (.vfcmpFVf (w / 268435456 % 2 == 1) (w / 33554432 % 8) (w / 128 % 8) (w / 32768 % 32) (w / 1048576 % 32) (w / 1024 % 4))
  | 36 => .ok (.vfdivVf (w / 268435456 % 2 == 1) (w / 33554432 % 8) (w / 128 % 32) (w / 32768 % 32) (w / 1048576 % 32))
  | 37 => if w / 268435456 % 2 == 0 then wf (.fadd (w / 33554432 % 8) (w / 128 % 32) (w / 32768 % 32) (w / 1048576 % 32)) .field else .error .field
  | 38 => if w / 268435456 % 2 == 0 then wf (.fsub (w / 33554432 % 8) (w / 128 % 32) (w / 32768 % 32) (w / 1048576 % 32)) .field else .error .field
  | 39 => if w / 268435456 % 2 == 0 then wf (.fmul (w / 33554432 % 8) (w / 128 % 32) (w / 32768 % 32) (w / 1048576 % 32)) .field else .error .field
  | 40 => if w / 268435456 % 2 == 0 then wf (.ffma (w / 33554432 % 8) (w / 128 % 32) (w / 32768 % 32) (w / 1048576 % 32)) .field else .error .field
  | 41 => if w / 268435456 % 2 == 0 then wf (.fmin (w / 33554432 % 8) (w / 128 % 32) (w / 32768 % 32) (w / 1048576 % 32)) .field else .error .field
  | 42 => if w / 268435456 % 2 == 0 then wf (.fmax (w / 33554432 % 8) (w / 128 % 32) (w / 32768 % 32) (w / 1048576 % 32)) .field else .error .field
  | 43 => if w / 268435456 % 2 == 0 then wf (.fcmp (w / 33554432 % 8) (w / 128 % 32) (w / 32768 % 32) (w / 1048576 % 32)) .field else .error .field
  | 44 => if w / 268435456 % 2 == 0 then wf (.fcmpF (w / 33554432 % 8) (w / 128 % 32) (w / 32768 % 32) (w / 1048576 % 32)) .field else .error .field
  | 45 => if w / 268435456 % 2 == 0 then wf (.fcvt (w / 33554432 % 8) (w / 128 % 32) (w / 32768 % 32) (w / 1048576 % 32)) .field else .error .field
  | 46 => if w / 268435456 % 2 == 0 then wf (.frnd (w / 33554432 % 8) (w / 128 % 32) (w / 32768 % 32) (w / 1048576 % 32)) .field else .error .field
  | 47 => if w / 1048576 % 32 == 0 && w / 268435456 % 2 == 0 then wf (.fcls (w / 33554432 % 8) (w / 128 % 32) (w / 32768 % 32)) .field else .error .field
  | 48 => if w / 1048576 % 32 == 0 && w / 268435456 % 2 == 0 then wf (.fmvx (w / 33554432 % 8) (w / 128 % 32) (w / 32768 % 32)) .field else .error .field
  | 49 => if w / 1048576 % 32 == 0 && w / 268435456 % 2 == 0 then wf (.fmvf (w / 33554432 % 8) (w / 128 % 32) (w / 32768 % 32)) .field else .error .field
  | 50 => if w / 268435456 % 2 == 0 then wf (.fld (w / 33554432 % 8) (w / 128 % 32) (w / 32768 % 32) (signed 5 (w / 1048576 % 32))) .field else .error .field
  | 51 => if w / 268435456 % 2 == 0 then wf (.fst (w / 33554432 % 8) (w / 128 % 32) (w / 32768 % 32) (signed 5 (w / 1048576 % 32))) .field else .error .field
  | 52 => if w / 33554432 % 16 == 0 then .ok (.fspill (w / 128 % 32) (w / 32768 % 32) (signed 5 (w / 1048576 % 32))) else .error .field
  | 53 => if w / 33554432 % 16 == 0 then .ok (.ffill (w / 128 % 32) (w / 32768 % 32) (signed 5 (w / 1048576 % 32))) else .error .field
  | 54 => if w / 1024 % 4 == 0 && w / 1048576 % 32 == 0 then .ok (.gfromv (w / 268435456 % 2 == 1) (w / 33554432 % 8) (w / 128 % 8) (w / 32768 % 32)) else .error .field
  | 55 => if w / 262144 % 128 == 0 then .ok (.gtov (w / 268435456 % 2 == 1) (w / 33554432 % 8) (w / 128 % 32) (w / 32768 % 8)) else .error .field
  | 56 => wf (.tup (w / 268435456 % 2 == 1) (w / 33554432 % 8) (w / 128 % 32) (w / 32768 % 32) (w / 1048576 % 8) (w / 8388608 % 4)) .field
  | 57 => wf (.tdown (w / 268435456 % 2 == 1) (w / 33554432 % 8) (w / 128 % 32) (w / 32768 % 32) (w / 1048576 % 8) (w / 8388608 % 4)) .field
  | 58 => if w / 8388608 % 4 == 0 then .ok (.tbcast (w / 268435456 % 2 == 1) (w / 33554432 % 8) (w / 128 % 32) (w / 32768 % 32) (w / 1048576 % 8)) else .error .field
  | 59 => if w / 262144 % 128 == 0 then .ok (.tdepth (w / 268435456 % 2 == 1) (w / 33554432 % 8) (w / 128 % 32) (w / 32768 % 8)) else .error .field
  | 60 => if w / 8388608 % 4 == 0 then .ok (.tanc (w / 268435456 % 2 == 1) (w / 33554432 % 8) (w / 128 % 32) (w / 32768 % 32) (w / 1048576 % 8)) else .error .field
  | 61 => if w / 1024 % 4 == 0 && w / 8388608 % 4 == 0 then .ok (.tisanc (w / 268435456 % 2 == 1) (w / 33554432 % 8) (w / 128 % 8) (w / 32768 % 32) (w / 1048576 % 8)) else .error .field
  | 62 => if w / 1024 % 4 == 0 && w / 262144 % 4 == 0 && w / 8388608 % 32 == 0 then .ok (.tcontract (w / 268435456 % 2 == 1) (w / 128 % 8) (w / 32768 % 8) (w / 1048576 % 8)) else .error .field
  | 63 => if w / 1024 % 4 == 0 && w / 262144 % 1024 == 0 then .ok (.tcheck (w / 268435456 % 2 == 1) (w / 128 % 8) (w / 32768 % 8)) else .error .field
  | _ => .error .code

/-- The function codes of custom3 (R194 to R196). -/
noncomputable def decodeCustom3 (w : Nat) : Except Reject Instr :=
  match 8 * (w / 536870912 % 8) + w / 4096 % 8 with
  | 0 => if w / 128 % 32 == 0 then .ok (.tidset (w / 268435456 % 2 == 1) (w / 1048576 % 256) (w / 32768 % 32)) else .error .field
  | 1 => if w / 128 % 32 == 0 then .ok (.tidget (w / 268435456 % 2 == 1) (w / 1048576 % 256) (w / 32768 % 32)) else .error .field
  | 2 => if w / 33554432 % 8 == 0 then wf (.wset (w / 268435456 % 2 == 1) (w / 128 % 32) (w / 32768 % 32) (w / 1048576 % 32)) .field else .error .field
  | 3 => wf (.tld (w / 268435456 % 2 == 1) (w / 1048576 % 256) (w / 128 % 32) (w / 32768 % 32)) .field
  | 4 => wf (.tst (w / 268435456 % 2 == 1) (w / 1048576 % 256) (w / 128 % 32) (w / 32768 % 32)) .field
  | 5 => if w / 33554432 % 4 == 0 then wf (.bcopy (w / 268435456 % 2 == 1) (w / 134217728 % 2) (w / 128 % 32) (w / 32768 % 32) (w / 1048576 % 32)) .field else .error .field
  | 6 => wf (.opa (w / 268435456 % 2 == 1) (w / 33554432 % 8) (w / 128 % 8) (w / 32768 % 32) (w / 1048576 % 32) (w / 2048 % 2) (w / 1024 % 2)) .field
  | 7 => if w / 4194304 % 64 == 0 then .ok (.tmm (w / 268435456 % 2 == 1) (w / 128 % 8) (w / 32768 % 32) (w / 1048576 % 4) (w / 1024 % 4)) else .error .field
  | 8 => if w / 1024 % 4 == 0 && w / 32768 % 8192 == 0 then .ok (.aclr (w / 268435456 % 2 == 1) (w / 128 % 8)) else .error .field
  | 9 => if w / 262144 % 4 == 0 then .ok (.ardv (w / 268435456 % 2 == 1) (w / 33554432 % 8) (w / 128 % 32) (w / 32768 % 8) (w / 1048576 % 32)) else .error .field
  | 10 => if w / 1024 % 4 == 0 then .ok (.awrv (w / 268435456 % 2 == 1) (w / 33554432 % 8) (w / 128 % 8) (w / 32768 % 32) (w / 1048576 % 32)) else .error .field
  | 11 => if w / 1024 % 4 == 0 && w / 262144 % 1024 == 0 then .ok (.asave (w / 268435456 % 2 == 1) (w / 128 % 8) (w / 32768 % 8)) else .error .field
  | 12 => if w / 1024 % 4 == 0 && w / 262144 % 1024 == 0 then .ok (.arestore (w / 268435456 % 2 == 1) (w / 128 % 8) (w / 32768 % 8)) else .error .field
  | 13 => if w / 128 % 32 == 0 then .ok (.tdigest (w / 268435456 % 2 == 1) (w / 1048576 % 256) (w / 32768 % 32)) else .error .field
  | 14 => if w / 1024 % 4 == 0 && w / 33554432 % 8 == 0 then .ok (.qset (w / 268435456 % 2 == 1) (w / 128 % 8) (w / 32768 % 32) (w / 1048576 % 32)) else .error .field
  | 15 => wf (.vgl (w / 268435456 % 2 == 1) (w / 33554432 % 8) (w / 128 % 32) (w / 1048576 % 32) (w / 131072 % 8) (w / 32768 % 4)) .field
  | 16 => wf (.vamoAdd (w / 268435456 % 2 == 1) (w / 33554432 % 8) (w / 128 % 32) (w / 1048576 % 32) (w / 131072 % 8) (w / 32768 % 4)) .field
  | 17 => wf (.vamoFadd (w / 268435456 % 2 == 1) (w / 33554432 % 8) (w / 128 % 32) (w / 1048576 % 32) (w / 131072 % 8) (w / 32768 % 4)) .field
  | 18 => wf (.vamoMin (w / 268435456 % 2 == 1) (w / 33554432 % 8) (w / 128 % 32) (w / 1048576 % 32) (w / 131072 % 8) (w / 32768 % 4)) .field
  | 19 => wf (.vamoMax (w / 268435456 % 2 == 1) (w / 33554432 % 8) (w / 128 % 32) (w / 1048576 % 32) (w / 131072 % 8) (w / 32768 % 4)) .field
  | 20 => wf (.vamoAnd (w / 268435456 % 2 == 1) (w / 33554432 % 8) (w / 128 % 32) (w / 1048576 % 32) (w / 131072 % 8) (w / 32768 % 4)) .field
  | 21 => wf (.vamoOr (w / 268435456 % 2 == 1) (w / 33554432 % 8) (w / 128 % 32) (w / 1048576 % 32) (w / 131072 % 8) (w / 32768 % 4)) .field
  | 22 => wf (.vamoXor (w / 268435456 % 2 == 1) (w / 33554432 % 8) (w / 128 % 32) (w / 1048576 % 32) (w / 131072 % 8) (w / 32768 % 4)) .field
  | 23 => wf (.vamoSwap (w / 268435456 % 2 == 1) (w / 33554432 % 8) (w / 128 % 32) (w / 1048576 % 32) (w / 131072 % 8) (w / 32768 % 4)) .field
  | 24 => if w / 131072 % 8 == 0 && w / 268435456 % 2 == 1 then .ok (.vamooAdd (w / 33554432 % 8) (w / 128 % 32) (w / 1048576 % 32) (w / 32768 % 4)) else .error .field
  | 25 => if w / 131072 % 8 == 0 && w / 268435456 % 2 == 1 then .ok (.vamooFadd (w / 33554432 % 8) (w / 128 % 32) (w / 1048576 % 32) (w / 32768 % 4)) else .error .field
  | 26 => if w / 131072 % 8 == 0 && w / 268435456 % 2 == 1 then .ok (.vamooMin (w / 33554432 % 8) (w / 128 % 32) (w / 1048576 % 32) (w / 32768 % 4)) else .error .field
  | 27 => if w / 131072 % 8 == 0 && w / 268435456 % 2 == 1 then .ok (.vamooMax (w / 33554432 % 8) (w / 128 % 32) (w / 1048576 % 32) (w / 32768 % 4)) else .error .field
  | 28 => if w / 131072 % 8 == 0 && w / 268435456 % 2 == 1 then .ok (.vamooAnd (w / 33554432 % 8) (w / 128 % 32) (w / 1048576 % 32) (w / 32768 % 4)) else .error .field
  | 29 => if w / 131072 % 8 == 0 && w / 268435456 % 2 == 1 then .ok (.vamooOr (w / 33554432 % 8) (w / 128 % 32) (w / 1048576 % 32) (w / 32768 % 4)) else .error .field
  | 30 => if w / 131072 % 8 == 0 && w / 268435456 % 2 == 1 then .ok (.vamooXor (w / 33554432 % 8) (w / 128 % 32) (w / 1048576 % 32) (w / 32768 % 4)) else .error .field
  | 31 => if w / 131072 % 8 == 0 && w / 268435456 % 2 == 1 then .ok (.vamooSwap (w / 33554432 % 8) (w / 128 % 32) (w / 1048576 % 32) (w / 32768 % 4)) else .error .field
  | 32 => wf (.vsc (w / 268435456 % 2 == 1) (w / 33554432 % 8) (w / 128 % 32) (w / 1048576 % 32) (w / 131072 % 8) (w / 32768 % 4)) .field
  | 33 => wf (.fas (w / 268435456 % 2 == 1) (w / 33554432 % 8) (w / 128 % 32) (w / 1048576 % 32) (w / 131072 % 8) (w / 32768 % 4)) .field
  | 34 => if w / 8388608 % 2 == 0 && w / 33554432 % 16 == 8 then wf (.amoxAdd (w / 128 % 32) (w / 32768 % 32) (w / 16777216 % 2) (w / 1048576 % 8)) .field else if w / 8388608 % 2 == 0 && w / 33554432 % 16 == 9 then wf (.amoxFadd (w / 128 % 32) (w / 32768 % 32) (w / 16777216 % 2) (w / 1048576 % 8)) .field else if w / 8388608 % 2 == 0 && w / 33554432 % 16 == 10 then wf (.amoxMin (w / 128 % 32) (w / 32768 % 32) (w / 16777216 % 2) (w / 1048576 % 8)) .field else if w / 8388608 % 2 == 0 && w / 33554432 % 16 == 11 then wf (.amoxMax (w / 128 % 32) (w / 32768 % 32) (w / 16777216 % 2) (w / 1048576 % 8)) .field else if w / 8388608 % 2 == 0 && w / 33554432 % 16 == 12 then wf (.amoxAnd (w / 128 % 32) (w / 32768 % 32) (w / 16777216 % 2) (w / 1048576 % 8)) .field else if w / 8388608 % 2 == 0 && w / 33554432 % 16 == 13 then wf (.amoxOr (w / 128 % 32) (w / 32768 % 32) (w / 16777216 % 2) (w / 1048576 % 8)) .field else if w / 8388608 % 2 == 0 && w / 33554432 % 16 == 14 then wf (.amoxXor (w / 128 % 32) (w / 32768 % 32) (w / 16777216 % 2) (w / 1048576 % 8)) .field else if w / 8388608 % 2 == 0 && w / 33554432 % 16 == 15 then wf (.amoxSwap (w / 128 % 32) (w / 32768 % 32) (w / 16777216 % 2) (w / 1048576 % 8)) .field else .error .field
  | 35 => if w / 8388608 % 4 == 0 && w / 134217728 % 4 == 2 then wf (.ldaq (w / 128 % 32) (w / 32768 % 32) (w / 33554432 % 4) (w / 1048576 % 8)) .field else .error .field
  | 36 => if w / 8388608 % 4 == 0 && w / 134217728 % 4 == 2 then wf (.strl (w / 128 % 32) (w / 32768 % 32) (w / 33554432 % 4) (w / 1048576 % 8)) .field else .error .field
  | 37 => if w / 128 % 32 == 0 && w / 32768 % 32 == 0 && w / 8388608 % 64 == 32 then wf (.fencev (w / 1048576 % 8)) .field else if w / 128 % 32 == 0 && w / 32768 % 32 == 0 && w / 8388608 % 64 == 36 then wf (.fencevColl (w / 1048576 % 8)) .field else .error .field
  | 38 => if w / 128 % 32 == 0 && w / 32768 % 16384 == 8192 then .ok (.fencel) else .error .field
  | 40 => if w / 1048576 % 512 == 256 then .ok (.launch (w / 128 % 32) (w / 32768 % 32)) else .error .field
  | 41 => if w / 1048576 % 512 == 256 then .ok (.graphrun (w / 128 % 32) (w / 32768 % 32)) else .error .field
  | 42 => if w / 128 % 32 == 0 && w / 33554432 % 16 == 8 then .ok (.ccadd (w / 32768 % 32) (w / 1048576 % 32)) else .error .field
  | 43 => if w / 128 % 32 == 0 && w / 1048576 % 512 == 256 then .ok (.ccwait (w / 32768 % 32)) else .error .field
  | 44 => if w / 1048576 % 512 == 256 then .ok (.ccread (w / 128 % 32) (w / 32768 % 32)) else .error .field
  | 45 => if w / 128 % 32 == 0 && w / 8388608 % 64 == 32 then wf (.cancel (w / 32768 % 32) (w / 1048576 % 8)) .field else .error .field
  | 46 => if w / 128 % 32 == 0 && w / 32768 % 16384 == 8192 then .ok (.yield) else .error .field
  | 47 => if w / 128 % 32 == 0 && w / 32768 % 16384 == 8192 then .ok (.halt) else .error .field
  | 48 => if w / 128 % 32 == 0 && w / 1048576 % 512 == 256 then .ok (.ttstart (w / 32768 % 32)) else .error .field
  | 49 => if w / 128 % 32 == 0 && w / 32768 % 16384 == 8192 then .ok (.ttsync) else .error .field
  | 50 => if w / 33554432 % 16 == 8 then .ok (.mput (w / 128 % 32) (w / 32768 % 32) (w / 1048576 % 32)) else .error .field
  | 51 => if w / 33554432 % 16 == 8 then .ok (.mget (w / 128 % 32) (w / 32768 % 32) (w / 1048576 % 32)) else .error .field
  | 52 => if w / 33554432 % 16 == 8 then .ok (.msig (w / 128 % 32) (w / 32768 % 32) (w / 1048576 % 32)) else .error .field
  | 53 => if w / 1048576 % 512 == 256 then .ok (.mchk (w / 128 % 32) (w / 32768 % 32)) else .error .field
  | 54 => if w / 128 % 32 == 0 && w / 33554432 % 16 == 8 then .ok (.logpub (w / 32768 % 32) (w / 1048576 % 32)) else .error .field
  | 55 => if w / 128 % 32 == 0 && w / 33554432 % 16 == 8 then .ok (.cprec (w / 32768 % 32) (w / 1048576 % 32)) else .error .field
  | 56 => if w / 128 % 32 == 0 && w / 32768 % 16384 == 8192 then .ok (.tret) else .error .field
  | 57 => if w / 128 % 32 == 0 && w / 32768 % 16384 == 8192 then .ok (.wait) else .error .field
  | 58 => if w / 128 % 32 == 0 && w / 1048576 % 512 == 256 then .ok (.ctxsave (w / 32768 % 32)) else .error .field
  | 59 => if w / 128 % 32 == 0 && w / 1048576 % 512 == 256 then .ok (.ctxload (w / 32768 % 32)) else .error .field
  | 60 => if w / 128 % 32 == 0 && w / 33554432 % 16 == 8 then .ok (.tinv (w / 32768 % 32) (w / 1048576 % 32)) else .error .field
  | 61 => if w / 128 % 32 == 0 && w / 1048576 % 512 == 256 then .ok (.bar (w / 32768 % 32)) else .error .field
  | _ => .error .code

/-- VSETT's C-form (R179, R187): it requires C = 1 (R182). -/
def decodeVsett (w : Nat) : Except Reject Instr :=
  if w / 268435456 % 2 == 1 then wf (.vsett (w / 524288 % 2) (w / 32768 % 16) (w / 536870912 % 2) (w / 33554432 % 8) (w / 16777216 % 2) (w / 1048576 % 16) (w / 4096 % 8) (w / 128 % 32)) .field else .error .field

/-- One 32-bit word. -/
noncomputable def decodeWord (w : Nat) : Except Reject Instr :=
  if w % 4 ≠ 3 then .error .length
  else match w % 128 with

  | 3 => decodeLoad w
  | 11 => if w / 1073741824 % 4 == 3 then decodeVsett w else decodeCustom0 w
  | 15 => decodeMiscMem w
  | 19 => decodeOpImm w
  | 23 => .ok (.auipc (w / 128 % 32) (w / 4096 % 1048576))
  | 27 => decodeOpImm32 w
  | 35 => decodeStore w
  | 43 => decodeCustom1 w
  | 51 => decodeOp w
  | 55 => .ok (.lui (w / 128 % 32) (w / 4096 % 1048576))
  | 59 => decodeOp32 w
  | 91 => decodeCustom2 w
  | 99 => decodeBranch w
  | 103 => decodeJalr w
  | 111 => .ok (.jal (w / 128 % 32) (signed 21 (w / 2147483648 % 2 * 1048576 + w / 4096 % 256 * 4096 + w / 1048576 % 2 * 2048 + w / 2097152 % 1024 * 2)))
  | 115 => decodeSystem w
  | 123 => decodeCustom3 w
  | _ => .error .major

/-- The first four bytes of `bs`, little-endian (R175), as an instruction, with the bytes after it. -/
noncomputable def decode (bs : List Byte) : Except Reject (Instr × List Byte) :=
  match bs with
  | b0 :: b1 :: b2 :: b3 :: rest =>
    match decodeWord (b0.toNat + 256 * b1.toNat + 65536 * b2.toNat + 16777216 * b3.toNat) with
    | .ok i => .ok (i, rest)
    | .error e => .error e
  | _ => .error .short

/-- A 32-bit word as the hardware stores it (R175). -/
def wordBytes (w : Nat) : List Byte :=
  [BitVec.ofNat 8 w, BitVec.ofNat 8 (w / 256), BitVec.ofNat 8 (w / 65536), BitVec.ofNat 8 (w / 16777216)]

/-- The instruction the decoder reads from a table row's bits. -/
noncomputable def decodeTableWord (nbits w : Nat) : Option Instr :=
  match decode (wordBytes (w % 2 ^ nbits % 4294967296)) with
  | .ok (i, _) => some i
  | .error _ => none

/-- The word of an instruction, none for a step that has no encoding. -/
def encode (i : Instr) : Option Nat :=
  match i with
  | .lui d imm => some (0x37 + d * 128 + imm * 4096)
  | .auipc d imm => some (0x17 + d * 128 + imm * 4096)
  | .jal d off => some (0x6f + d * 128 + field 21 off / 1048576 * 2147483648 + field 21 off / 4096 % 256 * 4096 + field 21 off / 2048 % 2 * 1048576 + field 21 off / 2 % 1024 * 2097152)
  | .jalr d a imm => some (0x67 + d * 128 + a * 32768 + field 12 imm * 1048576)
  | .beq a b off => some (0x63 + a * 32768 + b * 1048576 + field 13 off / 4096 * 2147483648 + field 13 off / 2048 % 2 * 128 + field 13 off / 32 % 64 * 33554432 + field 13 off / 2 % 16 * 256)
  | .bne a b off => some (0x1063 + a * 32768 + b * 1048576 + field 13 off / 4096 * 2147483648 + field 13 off / 2048 % 2 * 128 + field 13 off / 32 % 64 * 33554432 + field 13 off / 2 % 16 * 256)
  | .blt a b off => some (0x4063 + a * 32768 + b * 1048576 + field 13 off / 4096 * 2147483648 + field 13 off / 2048 % 2 * 128 + field 13 off / 32 % 64 * 33554432 + field 13 off / 2 % 16 * 256)
  | .bge a b off => some (0x5063 + a * 32768 + b * 1048576 + field 13 off / 4096 * 2147483648 + field 13 off / 2048 % 2 * 128 + field 13 off / 32 % 64 * 33554432 + field 13 off / 2 % 16 * 256)
  | .bltu a b off => some (0x6063 + a * 32768 + b * 1048576 + field 13 off / 4096 * 2147483648 + field 13 off / 2048 % 2 * 128 + field 13 off / 32 % 64 * 33554432 + field 13 off / 2 % 16 * 256)
  | .bgeu a b off => some (0x7063 + a * 32768 + b * 1048576 + field 13 off / 4096 * 2147483648 + field 13 off / 2048 % 2 * 128 + field 13 off / 32 % 64 * 33554432 + field 13 off / 2 % 16 * 256)
  | .lb d a imm => some (0x3 + d * 128 + a * 32768 + field 12 imm * 1048576)
  | .lh d a imm => some (0x1003 + d * 128 + a * 32768 + field 12 imm * 1048576)
  | .lw d a imm => some (0x2003 + d * 128 + a * 32768 + field 12 imm * 1048576)
  | .ld d a imm => some (0x3003 + d * 128 + a * 32768 + field 12 imm * 1048576)
  | .lbu d a imm => some (0x4003 + d * 128 + a * 32768 + field 12 imm * 1048576)
  | .lhu d a imm => some (0x5003 + d * 128 + a * 32768 + field 12 imm * 1048576)
  | .lwu d a imm => some (0x6003 + d * 128 + a * 32768 + field 12 imm * 1048576)
  | .sb a b off => some (0x23 + a * 32768 + b * 1048576 + field 12 off / 32 * 33554432 + field 12 off % 32 * 128)
  | .sh a b off => some (0x1023 + a * 32768 + b * 1048576 + field 12 off / 32 * 33554432 + field 12 off % 32 * 128)
  | .sw a b off => some (0x2023 + a * 32768 + b * 1048576 + field 12 off / 32 * 33554432 + field 12 off % 32 * 128)
  | .sd a b off => some (0x3023 + a * 32768 + b * 1048576 + field 12 off / 32 * 33554432 + field 12 off % 32 * 128)
  | .addi d a imm => some (0x13 + d * 128 + a * 32768 + field 12 imm * 1048576)
  | .slti d a imm => some (0x2013 + d * 128 + a * 32768 + field 12 imm * 1048576)
  | .sltiu d a imm => some (0x3013 + d * 128 + a * 32768 + field 12 imm * 1048576)
  | .xori d a imm => some (0x4013 + d * 128 + a * 32768 + field 12 imm * 1048576)
  | .ori d a imm => some (0x6013 + d * 128 + a * 32768 + field 12 imm * 1048576)
  | .andi d a imm => some (0x7013 + d * 128 + a * 32768 + field 12 imm * 1048576)
  | .slli d a s => some (0x1013 + d * 128 + a * 32768 + s * 1048576)
  | .srli d a s => some (0x5013 + d * 128 + a * 32768 + s * 1048576)
  | .srai d a s => some (0x40005013 + d * 128 + a * 32768 + s * 1048576)
  | .add d a b => some (0x33 + d * 128 + a * 32768 + b * 1048576)
  | .sub d a b => some (0x40000033 + d * 128 + a * 32768 + b * 1048576)
  | .sll d a b => some (0x1033 + d * 128 + a * 32768 + b * 1048576)
  | .slt d a b => some (0x2033 + d * 128 + a * 32768 + b * 1048576)
  | .sltu d a b => some (0x3033 + d * 128 + a * 32768 + b * 1048576)
  | .xor d a b => some (0x4033 + d * 128 + a * 32768 + b * 1048576)
  | .srl d a b => some (0x5033 + d * 128 + a * 32768 + b * 1048576)
  | .sra d a b => some (0x40005033 + d * 128 + a * 32768 + b * 1048576)
  | .or d a b => some (0x6033 + d * 128 + a * 32768 + b * 1048576)
  | .and d a b => some (0x7033 + d * 128 + a * 32768 + b * 1048576)
  | .mul d a b => some (0x2000033 + d * 128 + a * 32768 + b * 1048576)
  | .mulh d a b => some (0x2001033 + d * 128 + a * 32768 + b * 1048576)
  | .mulhsu d a b => some (0x2002033 + d * 128 + a * 32768 + b * 1048576)
  | .mulhu d a b => some (0x2003033 + d * 128 + a * 32768 + b * 1048576)
  | .div d a b => some (0x2004033 + d * 128 + a * 32768 + b * 1048576)
  | .divu d a b => some (0x2005033 + d * 128 + a * 32768 + b * 1048576)
  | .rem d a b => some (0x2006033 + d * 128 + a * 32768 + b * 1048576)
  | .remu d a b => some (0x2007033 + d * 128 + a * 32768 + b * 1048576)
  | .addiw d a imm => some (0x1b + d * 128 + a * 32768 + field 12 imm * 1048576)
  | .slliw d a s => some (0x101b + d * 128 + a * 32768 + s * 1048576)
  | .srliw d a s => some (0x501b + d * 128 + a * 32768 + s * 1048576)
  | .sraiw d a s => some (0x4000501b + d * 128 + a * 32768 + s * 1048576)
  | .addw d a b => some (0x3b + d * 128 + a * 32768 + b * 1048576)
  | .subw d a b => some (0x4000003b + d * 128 + a * 32768 + b * 1048576)
  | .sllw d a b => some (0x103b + d * 128 + a * 32768 + b * 1048576)
  | .srlw d a b => some (0x503b + d * 128 + a * 32768 + b * 1048576)
  | .sraw d a b => some (0x4000503b + d * 128 + a * 32768 + b * 1048576)
  | .mulw d a b => some (0x200003b + d * 128 + a * 32768 + b * 1048576)
  | .divw d a b => some (0x200403b + d * 128 + a * 32768 + b * 1048576)
  | .divuw d a b => some (0x200503b + d * 128 + a * 32768 + b * 1048576)
  | .remw d a b => some (0x200603b + d * 128 + a * 32768 + b * 1048576)
  | .remuw d a b => some (0x200703b + d * 128 + a * 32768 + b * 1048576)
  | .fence d a f p s => some (0xf + d * 128 + a * 32768 + f * 268435456 + p * 16777216 + s * 1048576)
  | .ecall => some (0x73)
  | .ebreak => some (0x100073)
  | .csrrw d csr a => some (0x1073 + d * 128 + csr * 1048576 + a * 32768)
  | .csrrs d csr a => some (0x2073 + d * 128 + csr * 1048576 + a * 32768)
  | .csrrc d csr a => some (0x3073 + d * 128 + csr * 1048576 + a * 32768)
  | .csrrwi d csr uimm => some (0x5073 + d * 128 + csr * 1048576 + uimm * 32768)
  | .csrrsi d csr uimm => some (0x6073 + d * 128 + csr * 1048576 + uimm * 32768)
  | .csrrci d csr uimm => some (0x7073 + d * 128 + csr * 1048576 + uimm * 32768)
  | .strip d p => some (0x1000000b + d * 128 + p * 1048576)
  | .vsetc a => some (0x1000100b + a * 32768)
  | .pset d a s => some (0x1000200b + d * 128 + a * 32768 + s * 1048576)
  | .pget d a => some (0x1000300b + d * 128 + a * 32768)
  | .vloop e a off => some (0x1000400b + e * 33554432 + a * 32768 + field 10 off / 32 * 1048576 + field 10 off % 32 * 128)
  | .vbany k off => some (0x1000500b + k * 33554432 + field 15 off / 1024 * 1048576 + field 15 off / 32 % 32 * 32768 + field 15 off % 32 * 128)
  | .vbnone k off => some (0x1000600b + k * 33554432 + field 15 off / 1024 * 1048576 + field 15 off / 32 % 32 * 32768 + field 15 off % 32 * 128)
  | .vsett t g p s n l o f => some (0xd000000b + t * 524288 + g * 32768 + p * 536870912 + s * 33554432 + n * 16777216 + l * 1048576 + o * 4096 + f * 128)
  | .vld c mk d a => some (0x2000000b + c.toNat * 268435456 + mk * 33554432 + d * 128 + a * 32768)
  | .vlds c mk d a b => some (0x2000100b + c.toNat * 268435456 + mk * 33554432 + d * 128 + a * 32768 + b * 1048576)
  | .vldx c mk d a b => some (0x2000200b + c.toNat * 268435456 + mk * 33554432 + d * 128 + a * 32768 + b * 1048576)
  | .vldf c mk d a => some (0x2000300b + c.toNat * 268435456 + mk * 33554432 + d * 128 + a * 32768)
  | .vldxf c mk d a b => some (0x2000400b + c.toNat * 268435456 + mk * 33554432 + d * 128 + a * 32768 + b * 1048576)
  | .vst c mk d a => some (0x2000500b + c.toNat * 268435456 + mk * 33554432 + d * 128 + a * 32768)
  | .vsts c mk d a b => some (0x2000600b + c.toNat * 268435456 + mk * 33554432 + d * 128 + a * 32768 + b * 1048576)
  | .vstx c mk d a b => some (0x2000700b + c.toNat * 268435456 + mk * 33554432 + d * 128 + a * 32768 + b * 1048576)
  | .vldp c mk d a => some (0x4000000b + c.toNat * 268435456 + mk * 33554432 + d * 128 + a * 32768)
  | .vstp c mk d a => some (0x4000100b + c.toNat * 268435456 + mk * 33554432 + d * 128 + a * 32768)
  | .vspill c mk d a => some (0x4000200b + c.toNat * 268435456 + mk * 33554432 + d * 128 + a * 32768)
  | .vreload c mk d a => some (0x4000300b + c.toNat * 268435456 + mk * 33554432 + d * 128 + a * 32768)
  | .qld c t d a => some (0x4000400b + c.toNat * 268435456 + t * 1048576 + d * 128 + a * 32768)
  | .vldt c mk d a f => some (0x4000500b + c.toNat * 268435456 + mk * 33554432 + d * 128 + a * 32768 + f * 1048576)
  | .vmv c mk d a => some (0x6000000b + c.toNat * 268435456 + mk * 33554432 + d * 128 + a * 32768)
  | .vmvx c mk d a => some (0x6000100b + c.toNat * 268435456 + mk * 33554432 + d * 128 + a * 32768)
  | .vmvs c d a b => some (0x6000200b + c.toNat * 268435456 + d * 128 + a * 32768 + b * 1048576)
  | .vslideu c mk d a b => some (0x6000300b + c.toNat * 268435456 + mk * 33554432 + d * 128 + a * 32768 + b * 1048576)
  | .vslided c mk d a b => some (0x6000400b + c.toNat * 268435456 + mk * 33554432 + d * 128 + a * 32768 + b * 1048576)
  | .vgath c mk d a b => some (0x6000500b + c.toNat * 268435456 + mk * 33554432 + d * 128 + a * 32768 + b * 1048576)
  | .vcomp c mk d a => some (0x6000600b + c.toNat * 268435456 + mk * 33554432 + d * 128 + a * 32768)
  | .vexpd c mk d a => some (0x6000700b + c.toNat * 268435456 + mk * 33554432 + d * 128 + a * 32768)
  | .vsel c mk d a b => some (0x8000000b + c.toNat * 268435456 + mk * 33554432 + d * 128 + a * 32768 + b * 1048576)
  | .vpack c mk d a b => some (0x8000100b + c.toNat * 268435456 + mk * 33554432 + d * 128 + a * 32768 + b * 1048576)
  | .vunpk c mk d a s => some (0x8000200b + c.toNat * 268435456 + mk * 33554432 + d * 128 + a * 32768 + s * 1048576)
  | .viota c mk d a => some (0x8000300b + c.toNat * 268435456 + mk * 33554432 + d * 128 + a * 32768)
  | .mand c d a b => some (0xa000000b + c.toNat * 268435456 + d * 128 + a * 32768 + b * 1048576)
  | .mor c d a b => some (0xa000100b + c.toNat * 268435456 + d * 128 + a * 32768 + b * 1048576)
  | .mxor c d a b => some (0xa000200b + c.toNat * 268435456 + d * 128 + a * 32768 + b * 1048576)
  | .mandn c d a b => some (0xa000300b + c.toNat * 268435456 + d * 128 + a * 32768 + b * 1048576)
  | .mset c d v => some (0xa000400b + c.toNat * 268435456 + d * 128 + v * 32768)
  | .vcut c d a => some (0xa000500b + c.toNat * 268435456 + d * 128 + a * 32768)
  | .vpopm c d a => some (0xa000600b + c.toNat * 268435456 + d * 128 + a * 32768)
  | .vadd c mk d a b => some (0x2b + c.toNat * 268435456 + mk * 33554432 + d * 128 + a * 32768 + b * 1048576)
  | .vsub c mk d a b => some (0x102b + c.toNat * 268435456 + mk * 33554432 + d * 128 + a * 32768 + b * 1048576)
  | .vmul c mk d a b => some (0x202b + c.toNat * 268435456 + mk * 33554432 + d * 128 + a * 32768 + b * 1048576)
  | .vmulh c mk d a b => some (0x302b + c.toNat * 268435456 + mk * 33554432 + d * 128 + a * 32768 + b * 1048576)
  | .vdiv c mk d a b => some (0x402b + c.toNat * 268435456 + mk * 33554432 + d * 128 + a * 32768 + b * 1048576)
  | .vrem c mk d a b => some (0x502b + c.toNat * 268435456 + mk * 33554432 + d * 128 + a * 32768 + b * 1048576)
  | .vmin c mk d a b => some (0x602b + c.toNat * 268435456 + mk * 33554432 + d * 128 + a * 32768 + b * 1048576)
  | .vmax c mk d a b => some (0x702b + c.toNat * 268435456 + mk * 33554432 + d * 128 + a * 32768 + b * 1048576)
  | .vand c mk d a b => some (0x2000002b + c.toNat * 268435456 + mk * 33554432 + d * 128 + a * 32768 + b * 1048576)
  | .vor c mk d a b => some (0x2000102b + c.toNat * 268435456 + mk * 33554432 + d * 128 + a * 32768 + b * 1048576)
  | .vxor c mk d a b => some (0x2000202b + c.toNat * 268435456 + mk * 33554432 + d * 128 + a * 32768 + b * 1048576)
  | .vsll c mk d a b => some (0x2000302b + c.toNat * 268435456 + mk * 33554432 + d * 128 + a * 32768 + b * 1048576)
  | .vsrl c mk d a b => some (0x2000402b + c.toNat * 268435456 + mk * 33554432 + d * 128 + a * 32768 + b * 1048576)
  | .vsra c mk d a b => some (0x2000502b + c.toNat * 268435456 + mk * 33554432 + d * 128 + a * 32768 + b * 1048576)
  | .vadds c mk d a b => some (0x2000602b + c.toNat * 268435456 + mk * 33554432 + d * 128 + a * 32768 + b * 1048576)
  | .vaddsSub c mk d a b => some (0x2000702b + c.toNat * 268435456 + mk * 33554432 + d * 128 + a * 32768 + b * 1048576)
  | .vicmp c mk d a b y => some (0x4000002b + c.toNat * 268435456 + mk * 33554432 + d * 128 + a * 32768 + b * 1048576 + y * 1024)
  | .vfadd c mk d a b => some (0x4000402b + c.toNat * 268435456 + mk * 33554432 + d * 128 + a * 32768 + b * 1048576)
  | .vfsub c mk d a b => some (0x4000502b + c.toNat * 268435456 + mk * 33554432 + d * 128 + a * 32768 + b * 1048576)
  | .vfmul c mk d a b => some (0x4000602b + c.toNat * 268435456 + mk * 33554432 + d * 128 + a * 32768 + b * 1048576)
  | .vffma c mk d a b => some (0x4000702b + c.toNat * 268435456 + mk * 33554432 + d * 128 + a * 32768 + b * 1048576)
  | .vfmin c mk d a b => some (0x6000002b + c.toNat * 268435456 + mk * 33554432 + d * 128 + a * 32768 + b * 1048576)
  | .vfmax c mk d a b => some (0x6000102b + c.toNat * 268435456 + mk * 33554432 + d * 128 + a * 32768 + b * 1048576)
  | .vfcmp c mk d a b y => some (0x6000202b + c.toNat * 268435456 + mk * 33554432 + d * 128 + a * 32768 + b * 1048576 + y * 1024)
  | .vfcmpF c mk d a b y => some (0x6000302b + c.toNat * 268435456 + mk * 33554432 + d * 128 + a * 32768 + b * 1048576 + y * 1024)
  | .vfcvt c mk d a f => some (0x6000402b + c.toNat * 268435456 + mk * 33554432 + d * 128 + a * 32768 + f * 1048576)
  | .vfrnd c mk d a o => some (0x6000502b + c.toNat * 268435456 + mk * 33554432 + d * 128 + a * 32768 + o * 1048576)
  | .vfcls c mk d a => some (0x6000602b + c.toNat * 268435456 + mk * 33554432 + d * 128 + a * 32768)
  | .vfabs c mk d a => some (0x6000702b + c.toNat * 268435456 + mk * 33554432 + d * 128 + a * 32768)
  | .vfdiv c mk d a b => some (0x8000002b + c.toNat * 268435456 + mk * 33554432 + d * 128 + a * 32768 + b * 1048576)
  | .vfsqrt c mk d a => some (0x8000102b + c.toNat * 268435456 + mk * 33554432 + d * 128 + a * 32768)
  | .vrsqe c mk d a => some (0x8000202b + c.toNat * 268435456 + mk * 33554432 + d * 128 + a * 32768)
  | .vrcpe c mk d a => some (0x8000302b + c.toNat * 268435456 + mk * 33554432 + d * 128 + a * 32768)
  | .vexp c mk d a => some (0x8000402b + c.toNat * 268435456 + mk * 33554432 + d * 128 + a * 32768)
  | .vlog c mk d a => some (0x8000502b + c.toNat * 268435456 + mk * 33554432 + d * 128 + a * 32768)
  | .vsigm c mk d a => some (0x8000602b + c.toNat * 268435456 + mk * 33554432 + d * 128 + a * 32768)
  | .vtanh c mk d a => some (0x8000702b + c.toNat * 268435456 + mk * 33554432 + d * 128 + a * 32768)
  | .vredsum c mk d a b => some (0xa000002b + c.toNat * 268435456 + mk * 33554432 + d * 128 + a * 32768 + b * 1048576)
  | .vredtree c mk d a b => some (0xa000102b + c.toNat * 268435456 + mk * 33554432 + d * 128 + a * 32768 + b * 1048576)
  | .vredx c mk a q => some (0xa000202b + c.toNat * 268435456 + mk * 33554432 + a * 32768 + q * 1048576)
  | .vred c mk d a o => some (0xa000302b + c.toNat * 268435456 + mk * 33554432 + d * 128 + a * 32768 + o * 1048576)
  | .vscan c mk d a o => some (0xa000402b + c.toNat * 268435456 + mk * 33554432 + d * 128 + a * 32768 + o * 1048576)
  | .vffs c mk d a => some (0xa000502b + c.toNat * 268435456 + mk * 33554432 + d * 128 + a * 32768)
  | .laget c d f => some (0xa000602b + c.toNat * 268435456 + d * 128 + f * 1048576)
  | .laclr c => some (0xa000702b + c.toNat * 268435456)
  | .smx c mk d a b => some (0xc000002b + c.toNat * 268435456 + mk * 33554432 + d * 128 + a * 32768 + b * 1048576)
  | .vrng c mk d a w => some (0xc000102b + c.toNat * 268435456 + mk * 33554432 + d * 128 + a * 32768 + w * 1048576)
  | .vutf c mk d a => some (0xc000202b + c.toNat * 268435456 + mk * 33554432 + d * 128 + a * 32768)
  | .vtbl c mk d a b => some (0xc000302b + c.toNat * 268435456 + mk * 33554432 + d * 128 + a * 32768 + b * 1048576)
  | .vaddP c d a b s => some (0xe000002b + c.toNat * 268435456 + d * 128 + a * 32768 + b * 1048576 + s * 33554432)
  | .vsubP c d a b s => some (0xe000102b + c.toNat * 268435456 + d * 128 + a * 32768 + b * 1048576 + s * 33554432)
  | .vmulP c d a b s => some (0xe000202b + c.toNat * 268435456 + d * 128 + a * 32768 + b * 1048576 + s * 33554432)
  | .vminP c d a b s => some (0xe000302b + c.toNat * 268435456 + d * 128 + a * 32768 + b * 1048576 + s * 33554432)
  | .vfaddP c d a b s => some (0xe000402b + c.toNat * 268435456 + d * 128 + a * 32768 + b * 1048576 + s * 33554432)
  | .vfsubP c d a b s => some (0xe000502b + c.toNat * 268435456 + d * 128 + a * 32768 + b * 1048576 + s * 33554432)
  | .vfmulP c d a b s => some (0xe000602b + c.toNat * 268435456 + d * 128 + a * 32768 + b * 1048576 + s * 33554432)
  | .vffmaP c d a b s => some (0xe000702b + c.toNat * 268435456 + d * 128 + a * 32768 + b * 1048576 + s * 33554432)
  | .vaddVx c mk d a b => some (0x5b + c.toNat * 268435456 + mk * 33554432 + d * 128 + a * 32768 + b * 1048576)
  | .vsubVx c mk d a b => some (0x105b + c.toNat * 268435456 + mk * 33554432 + d * 128 + a * 32768 + b * 1048576)
  | .vmulVx c mk d a b => some (0x205b + c.toNat * 268435456 + mk * 33554432 + d * 128 + a * 32768 + b * 1048576)
  | .vmulhVx c mk d a b => some (0x305b + c.toNat * 268435456 + mk * 33554432 + d * 128 + a * 32768 + b * 1048576)
  | .vdivVx c mk d a b => some (0x405b + c.toNat * 268435456 + mk * 33554432 + d * 128 + a * 32768 + b * 1048576)
  | .vremVx c mk d a b => some (0x505b + c.toNat * 268435456 + mk * 33554432 + d * 128 + a * 32768 + b * 1048576)
  | .vminVx c mk d a b => some (0x605b + c.toNat * 268435456 + mk * 33554432 + d * 128 + a * 32768 + b * 1048576)
  | .vmaxVx c mk d a b => some (0x705b + c.toNat * 268435456 + mk * 33554432 + d * 128 + a * 32768 + b * 1048576)
  | .vandVx c mk d a b => some (0x2000005b + c.toNat * 268435456 + mk * 33554432 + d * 128 + a * 32768 + b * 1048576)
  | .vorVx c mk d a b => some (0x2000105b + c.toNat * 268435456 + mk * 33554432 + d * 128 + a * 32768 + b * 1048576)
  | .vxorVx c mk d a b => some (0x2000205b + c.toNat * 268435456 + mk * 33554432 + d * 128 + a * 32768 + b * 1048576)
  | .vsllVx c mk d a b => some (0x2000305b + c.toNat * 268435456 + mk * 33554432 + d * 128 + a * 32768 + b * 1048576)
  | .vsrlVx c mk d a b => some (0x2000405b + c.toNat * 268435456 + mk * 33554432 + d * 128 + a * 32768 + b * 1048576)
  | .vsraVx c mk d a b => some (0x2000505b + c.toNat * 268435456 + mk * 33554432 + d * 128 + a * 32768 + b * 1048576)
  | .vaddsVx c mk d a b => some (0x2000605b + c.toNat * 268435456 + mk * 33554432 + d * 128 + a * 32768 + b * 1048576)
  | .vicmpVx c mk d a b y => some (0x2000705b + c.toNat * 268435456 + mk * 33554432 + d * 128 + a * 32768 + b * 1048576 + y * 1024)
  | .vaddVi c mk d b imm => some (0x4000005b + c.toNat * 268435456 + mk * 33554432 + d * 128 + b * 1048576 + field 5 imm * 32768)
  | .vminVi c mk d b imm => some (0x4000105b + c.toNat * 268435456 + mk * 33554432 + d * 128 + b * 1048576 + field 5 imm * 32768)
  | .vmaxVi c mk d b imm => some (0x4000205b + c.toNat * 268435456 + mk * 33554432 + d * 128 + b * 1048576 + field 5 imm * 32768)
  | .vandVi c mk d b imm => some (0x4000305b + c.toNat * 268435456 + mk * 33554432 + d * 128 + b * 1048576 + field 5 imm * 32768)
  | .vorVi c mk d b imm => some (0x4000405b + c.toNat * 268435456 + mk * 33554432 + d * 128 + b * 1048576 + field 5 imm * 32768)
  | .vxorVi c mk d b imm => some (0x4000505b + c.toNat * 268435456 + mk * 33554432 + d * 128 + b * 1048576 + field 5 imm * 32768)
  | .vsllVi c mk d b imm => some (0x4000605b + c.toNat * 268435456 + mk * 33554432 + d * 128 + b * 1048576 + imm * 32768)
  | .vsrlVi c mk d b imm => some (0x4000705b + c.toNat * 268435456 + mk * 33554432 + d * 128 + b * 1048576 + imm * 32768)
  | .vsraVi c mk d b imm => some (0x6000005b + c.toNat * 268435456 + mk * 33554432 + d * 128 + b * 1048576 + imm * 32768)
  | .vaddsVi c mk d b imm => some (0x6000105b + c.toNat * 268435456 + mk * 33554432 + d * 128 + b * 1048576 + field 5 imm * 32768)
  | .vicmpVi c mk d b imm y => some (0x6000205b + c.toNat * 268435456 + mk * 33554432 + d * 128 + b * 1048576 + field 5 imm * 32768 + y * 1024)
  | .vfaddVf c mk d a b => some (0x6000405b + c.toNat * 268435456 + mk * 33554432 + d * 128 + a * 32768 + b * 1048576)
  | .vfsubVf c mk d a b => some (0x6000505b + c.toNat * 268435456 + mk * 33554432 + d * 128 + a * 32768 + b * 1048576)
  | .vfmulVf c mk d a b => some (0x6000605b + c.toNat * 268435456 + mk * 33554432 + d * 128 + a * 32768 + b * 1048576)
  | .vffmaVf c mk d a b => some (0x6000705b + c.toNat * 268435456 + mk * 33554432 + d * 128 + a * 32768 + b * 1048576)
  | .vfminVf c mk d a b => some (0x8000005b + c.toNat * 268435456 + mk * 33554432 + d * 128 + a * 32768 + b * 1048576)
  | .vfmaxVf c mk d a b => some (0x8000105b + c.toNat * 268435456 + mk * 33554432 + d * 128 + a * 32768 + b * 1048576)
  | .vfcmpVf c mk d a b y => some (0x8000205b + c.toNat * 268435456 + mk * 33554432 + d * 128 + a * 32768 + b * 1048576 + y * 1024)
  | .vfcmpFVf c mk d a b y => some (0x8000305b + c.toNat * 268435456 + mk * 33554432 + d * 128 + a * 32768 + b * 1048576 + y * 1024)
  | .vfdivVf c mk d a b => some (0x8000405b + c.toNat * 268435456 + mk * 33554432 + d * 128 + a * 32768 + b * 1048576)
  | .fadd g d a b => some (0x8000505b + g * 33554432 + d * 128 + a * 32768 + b * 1048576)
  | .fsub g d a b => some (0x8000605b + g * 33554432 + d * 128 + a * 32768 + b * 1048576)
  | .fmul g d a b => some (0x8000705b + g * 33554432 + d * 128 + a * 32768 + b * 1048576)
  | .ffma g d a b => some (0xa000005b + g * 33554432 + d * 128 + a * 32768 + b * 1048576)
  | .fmin g d a b => some (0xa000105b + g * 33554432 + d * 128 + a * 32768 + b * 1048576)
  | .fmax g d a b => some (0xa000205b + g * 33554432 + d * 128 + a * 32768 + b * 1048576)
  | .fcmp g d a b => some (0xa000305b + g * 33554432 + d * 128 + a * 32768 + b * 1048576)
  | .fcmpF g d a b => some (0xa000405b + g * 33554432 + d * 128 + a * 32768 + b * 1048576)
  | .fcvt g d a s => some (0xa000505b + g * 33554432 + d * 128 + a * 32768 + s * 1048576)
  | .frnd g d a o => some (0xa000605b + g * 33554432 + d * 128 + a * 32768 + o * 1048576)
  | .fcls g d a => some (0xa000705b + g * 33554432 + d * 128 + a * 32768)
  | .fmvx g d a => some (0xc000005b + g * 33554432 + d * 128 + a * 32768)
  | .fmvf g d a => some (0xc000105b + g * 33554432 + d * 128 + a * 32768)
  | .fld g d a off => some (0xc000205b + g * 33554432 + d * 128 + a * 32768 + field 5 off * 1048576)
  | .fst g d a off => some (0xc000305b + g * 33554432 + d * 128 + a * 32768 + field 5 off * 1048576)
  | .fspill d a off => some (0xc000405b + d * 128 + a * 32768 + field 5 off * 1048576)
  | .ffill d a off => some (0xc000505b + d * 128 + a * 32768 + field 5 off * 1048576)
  | .gfromv c mk d a => some (0xc000605b + c.toNat * 268435456 + mk * 33554432 + d * 128 + a * 32768)
  | .gtov c mk d a => some (0xc000705b + c.toNat * 268435456 + mk * 33554432 + d * 128 + a * 32768)
  | .tup c mk d a b y => some (0xe000005b + c.toNat * 268435456 + mk * 33554432 + d * 128 + a * 32768 + b * 1048576 + y * 8388608)
  | .tdown c mk d a b y => some (0xe000105b + c.toNat * 268435456 + mk * 33554432 + d * 128 + a * 32768 + b * 1048576 + y * 8388608)
  | .tbcast c mk d a b => some (0xe000205b + c.toNat * 268435456 + mk * 33554432 + d * 128 + a * 32768 + b * 1048576)
  | .tdepth c mk d a => some (0xe000305b + c.toNat * 268435456 + mk * 33554432 + d * 128 + a * 32768)
  | .tanc c mk d a b => some (0xe000405b + c.toNat * 268435456 + mk * 33554432 + d * 128 + a * 32768 + b * 1048576)
  | .tisanc c mk d a b => some (0xe000505b + c.toNat * 268435456 + mk * 33554432 + d * 128 + a * 32768 + b * 1048576)
  | .tcontract c d a b => some (0xe000605b + c.toNat * 268435456 + d * 128 + a * 32768 + b * 1048576)
  | .tcheck c d a => some (0xe000705b + c.toNat * 268435456 + d * 128 + a * 32768)
  | .tidset c t a => some (0x7b + c.toNat * 268435456 + t * 1048576 + a * 32768)
  | .tidget c t a => some (0x107b + c.toNat * 268435456 + t * 1048576 + a * 32768)
  | .wset c d a b => some (0x207b + c.toNat * 268435456 + d * 128 + a * 32768 + b * 1048576)
  | .tld c t d a => some (0x307b + c.toNat * 268435456 + t * 1048576 + d * 128 + a * 32768)
  | .tst c t d a => some (0x407b + c.toNat * 268435456 + t * 1048576 + d * 128 + a * 32768)
  | .bcopy c g d a b => some (0x507b + c.toNat * 268435456 + g * 134217728 + d * 128 + a * 32768 + b * 1048576)
  | .opa c mk d a b y x => some (0x607b + c.toNat * 268435456 + mk * 33554432 + d * 128 + a * 32768 + b * 1048576 + y * 2048 + x * 1024)
  | .tmm c d a q p => some (0x707b + c.toNat * 268435456 + d * 128 + a * 32768 + q * 1048576 + p * 1024)
  | .aclr c d => some (0x2000007b + c.toNat * 268435456 + d * 128)
  | .ardv c mk d a b => some (0x2000107b + c.toNat * 268435456 + mk * 33554432 + d * 128 + a * 32768 + b * 1048576)
  | .awrv c mk d a b => some (0x2000207b + c.toNat * 268435456 + mk * 33554432 + d * 128 + a * 32768 + b * 1048576)
  | .asave c d a => some (0x2000307b + c.toNat * 268435456 + d * 128 + a * 32768)
  | .arestore c d a => some (0x2000407b + c.toNat * 268435456 + d * 128 + a * 32768)
  | .tdigest c t a => some (0x2000507b + c.toNat * 268435456 + t * 1048576 + a * 32768)
  | .qset c d a b => some (0x2000607b + c.toNat * 268435456 + d * 128 + a * 32768 + b * 1048576)
  | .vgl c mk d b y p => some (0x2000707b + c.toNat * 268435456 + mk * 33554432 + d * 128 + b * 1048576 + y * 131072 + p * 32768)
  | .vamoAdd c mk d b y p => some (0x4000007b + c.toNat * 268435456 + mk * 33554432 + d * 128 + b * 1048576 + y * 131072 + p * 32768)
  | .vamoFadd c mk d b y p => some (0x4000107b + c.toNat * 268435456 + mk * 33554432 + d * 128 + b * 1048576 + y * 131072 + p * 32768)
  | .vamoMin c mk d b y p => some (0x4000207b + c.toNat * 268435456 + mk * 33554432 + d * 128 + b * 1048576 + y * 131072 + p * 32768)
  | .vamoMax c mk d b y p => some (0x4000307b + c.toNat * 268435456 + mk * 33554432 + d * 128 + b * 1048576 + y * 131072 + p * 32768)
  | .vamoAnd c mk d b y p => some (0x4000407b + c.toNat * 268435456 + mk * 33554432 + d * 128 + b * 1048576 + y * 131072 + p * 32768)
  | .vamoOr c mk d b y p => some (0x4000507b + c.toNat * 268435456 + mk * 33554432 + d * 128 + b * 1048576 + y * 131072 + p * 32768)
  | .vamoXor c mk d b y p => some (0x4000607b + c.toNat * 268435456 + mk * 33554432 + d * 128 + b * 1048576 + y * 131072 + p * 32768)
  | .vamoSwap c mk d b y p => some (0x4000707b + c.toNat * 268435456 + mk * 33554432 + d * 128 + b * 1048576 + y * 131072 + p * 32768)
  | .vamooAdd mk d b p => some (0x7000007b + mk * 33554432 + d * 128 + b * 1048576 + p * 32768)
  | .vamooFadd mk d b p => some (0x7000107b + mk * 33554432 + d * 128 + b * 1048576 + p * 32768)
  | .vamooMin mk d b p => some (0x7000207b + mk * 33554432 + d * 128 + b * 1048576 + p * 32768)
  | .vamooMax mk d b p => some (0x7000307b + mk * 33554432 + d * 128 + b * 1048576 + p * 32768)
  | .vamooAnd mk d b p => some (0x7000407b + mk * 33554432 + d * 128 + b * 1048576 + p * 32768)
  | .vamooOr mk d b p => some (0x7000507b + mk * 33554432 + d * 128 + b * 1048576 + p * 32768)
  | .vamooXor mk d b p => some (0x7000607b + mk * 33554432 + d * 128 + b * 1048576 + p * 32768)
  | .vamooSwap mk d b p => some (0x7000707b + mk * 33554432 + d * 128 + b * 1048576 + p * 32768)
  | .vsc c mk d b y p => some (0x8000007b + c.toNat * 268435456 + mk * 33554432 + d * 128 + b * 1048576 + y * 131072 + p * 32768)
  | .fas c mk d b y p => some (0x8000107b + c.toNat * 268435456 + mk * 33554432 + d * 128 + b * 1048576 + y * 131072 + p * 32768)
  | .amoxAdd d a w y => some (0x9000207b + d * 128 + a * 32768 + w * 16777216 + y * 1048576)
  | .amoxFadd d a w y => some (0x9200207b + d * 128 + a * 32768 + w * 16777216 + y * 1048576)
  | .amoxMin d a w y => some (0x9400207b + d * 128 + a * 32768 + w * 16777216 + y * 1048576)
  | .amoxMax d a w y => some (0x9600207b + d * 128 + a * 32768 + w * 16777216 + y * 1048576)
  | .amoxAnd d a w y => some (0x9800207b + d * 128 + a * 32768 + w * 16777216 + y * 1048576)
  | .amoxOr d a w y => some (0x9a00207b + d * 128 + a * 32768 + w * 16777216 + y * 1048576)
  | .amoxXor d a w y => some (0x9c00207b + d * 128 + a * 32768 + w * 16777216 + y * 1048576)
  | .amoxSwap d a w y => some (0x9e00207b + d * 128 + a * 32768 + w * 16777216 + y * 1048576)
  | .ldaq d a w s => some (0x9000307b + d * 128 + a * 32768 + w * 33554432 + s * 1048576)
  | .strl d a w s => some (0x9000407b + d * 128 + a * 32768 + w * 33554432 + s * 1048576)
  | .fencev s => some (0x9000507b + s * 1048576)
  | .fencevColl s => some (0x9200507b + s * 1048576)
  | .fencel => some (0x9000607b)
  | .launch d a => some (0xb000007b + d * 128 + a * 32768)
  | .graphrun d a => some (0xb000107b + d * 128 + a * 32768)
  | .ccadd a b => some (0xb000207b + a * 32768 + b * 1048576)
  | .ccwait a => some (0xb000307b + a * 32768)
  | .ccread d a => some (0xb000407b + d * 128 + a * 32768)
  | .cancel a l => some (0xb000507b + a * 32768 + l * 1048576)
  | .yield => some (0xb000607b)
  | .halt => some (0xb000707b)
  | .ttstart a => some (0xd000007b + a * 32768)
  | .ttsync => some (0xd000107b)
  | .mput d a b => some (0xd000207b + d * 128 + a * 32768 + b * 1048576)
  | .mget d a b => some (0xd000307b + d * 128 + a * 32768 + b * 1048576)
  | .msig d a b => some (0xd000407b + d * 128 + a * 32768 + b * 1048576)
  | .mchk d a => some (0xd000507b + d * 128 + a * 32768)
  | .logpub a b => some (0xd000607b + a * 32768 + b * 1048576)
  | .cprec a b => some (0xd000707b + a * 32768 + b * 1048576)
  | .tret => some (0xf000007b)
  | .wait => some (0xf000107b)
  | .ctxsave a => some (0xf000207b + a * 32768)
  | .ctxload a => some (0xf000307b + a * 32768)
  | .tinv a b => some (0xf000407b + a * 32768 + b * 1048576)
  | .bar a => some (0xf000507b + a * 32768)
  | .moduleReset => none
  | .blockReady _ _ => none
  | .jstart _ _ => none
  | .jctlCancel _ => none
  | .jctlHold _ => none
  | .jctlResume _ => none
  | .dclr => none
  | .hostRegisterWrite _ _ => none
  | .hostRead _ _ _ _ => none
  | .hostPostedWrite _ _ _ => none
  | .hostAccessAfterClaim _ => none
  | .hostClaimTimeout _ => none
  | .tdispExitRun _ => none
  | .hostLinkFailure _ => none
  | .getVersion => none
  | .getCapabilities => none
  | .negotiateAlgorithms _ => none
  | .getDigests => none
  | .getCertificate _ _ _ => none
  | .challenge _ _ => none
  | .getMeasurements _ _ _ => none
  | .keyExchange _ _ => none
  | .finish _ => none
  | .countDown _ _ _ _ => none
  | .hartCancel _ => none
  | .cancellationComplete _ _ => none
  | .launchPlacement _ _ _ => none
  | .preemption _ => none
  | .issueTurn _ _ => none
  | .laneCountChange _ _ _ => none
  | .clockStretch _ _ => none
  | .periodBoundary _ => none
  | .periodLimit _ => none
  | .daybreakPulse _ => none
  | .bankTwilight _ _ _ => none
  | .bankWake _ _ _ => none
  | .asyncInterrupt => none
  | .claimArrival _ _ _ => none
  | .atomicArrival _ _ _ _ _ => none
  | .copyEngineOperation _ => none
  | .feedQueueFillResume _ _ => none
  | .collectiveDrain _ _ => none
  | .barrierRelease _ _ _ => none
  | .haltComplete _ => none
  | .packetHop _ => none
  | .putPacket _ => none
  | .getRequest _ => none
  | .getReply _ => none
  | .signalPacket _ => none
  | .acknowledgment _ _ => none
  | .messageClaimTimeout _ => none
  | .reportArrival _ _ => none
  | .retransmitTimeout _ _ => none
  | .flitCrcError _ _ => none
  | .linkDown _ => none
  | .viewUpdate _ _ => none
  | .logRecordWrite _ => none
  | .mtimerExpiry _ => none
  | .partitionReset _ _ => none
  | .partitionDrainEnd _ _ => none
  | .thermalLevelChange _ _ _ => none
  | .levelFall _ _ _ => none
  | .thermalTrip _ _ => none
  | .laneRetirement _ _ _ _ => none
  | .scrub _ _ => none
  | .illegalInstruction _ _ => none
  | .fetchFault _ _ => none
  | .tdispEnterRun _ => none
  | .partitionBinding _ _ _ _ => none
  | .hostWindowCompletion _ _ _ _ => none
  | .unsupportedSpdmRequest _ => none

end Sys2Proof
end

