-- ==== Sys2Proof/Config.lean ====
section
/-! DEFINITION. What the part fixes (spec/00_scope.md R1, spec/02_organisation.md R19) and the free values: choices and
values the spec leaves open. A free value is an opaque constant, so no proof can rest on what it is. -/

namespace Sys2Proof.Config

/-- Clusters of the module (R19). -/
def clusters : Nat := 6
/-- Cores of a cluster (R19). -/
def cores : Nat := 192
/-- Memory slices of a cluster (R19). -/
def slices : Nat := 64
/-- Pool rows of a core (R24). -/
def poolRows : Nat := 6144
/-- Fabric ports of the module (R166). -/
def fabricPorts : Nat := 96
/-- Claim entries, and link entries, of a slice (R144, R302). -/
def sliceEntries : Nat := 4096
/-- Bytes of a hart's write-combining buffer (R141). -/
def wcbBytes : Nat := 65536
/-- Pending ordered elements of a hart (R305). -/
def maxPending : Nat := 4096
/-- The default pool partition word (R35, R314). -/
def defaultPart : Nat := 0x04008040
/-- Bytes of main memory (R121). -/
def mainBytes : Nat := 0x18000000000
/-- First physical address of the host window (R121). -/
def hostBase : Nat := 0x8000000000000
/-- Physical addresses end here: 52 bits (R121). -/
def physEnd : Nat := 0x10000000000000
/-- Main-memory bytes of one cluster (R121). -/
def clusterBytes : Nat := 0x4000000000
/-- Events the dusk record keeps (R397). -/
def duskEvents : Nat := 8192

/-- FREE CHOICE (R130, log 11): which of the entries that a translation cache may hold for a page is used, by draw and page. -/
opaque keepsTranslation : Nat → Nat → Nat
/-- FREE CHOICE (R130, log 11): the entry that a full translation cache loses, by draw. -/
opaque evictsTranslation : Nat → Nat
/-- FREE VALUE (R356, log 12): what a byte of an ended secure job's memory reads as, by draw and physical address. -/
opaque deadByte : Nat → Nat → Byte
/-- FREE VALUE (R22, log 15): the bank of its slice that holds a line. -/
opaque lineBank : Nat → Nat
/-- FREE CHOICE (R49, log 49): the interruption point inside an instruction at which it lets another step in, by draw. -/
opaque stopPoint : Nat → Nat
/-- FREE CHOICE (R285, R288, log 49): the lines that a BCOPY moves in one turn of the copy engine, by draw. -/
opaque linesMoved : Nat → Nat
/-- FREE VALUE (R357, log 13): the RSA-3072 signature over a transcript. -/
opaque rsaSignature : List Byte → List Byte
/-- FREE VALUE (R357, log 13): the SLH-DSA signature over a transcript. -/
opaque slhSignature : List Byte → List Byte
/-- FREE VALUE (R357, log 13): the certificate chain in a slot. -/
opaque certificate : Nat → List Byte
/-- FREE VALUE (R357, log 13): the measured content of the boot stages, indexes 1 to 4. -/
opaque bootMeasurement : Nat → List Byte
/-- FREE VALUE (R356, R357, log 13): the security processor's random bytes, by draw. -/
opaque randomBytes : Nat → List Byte

/-- FREE CHOICE (R394, R395, log 13): whether the creation of a job key fails, by draw. -/
opaque keyCreationFails : Nat → Bool
/-- FREE CHOICE (R395, log 13): whether the erasure of a job key fails, by draw. -/
opaque keyEraseFails : Nat → Bool
/-- FREE VALUE (R356, R357, log 13): the exported secret of an SPDM session, by draw and the verifier's share. -/
opaque sessionSecret : Nat → Nat → List Byte
/-- FREE VALUE (R392, log 14): the µs that the drain of a reset partition takes, at most 25, by draw. -/
opaque drainMicros : Nat → Nat
/-- FREE CHOICE (R73, log 18): whether an access to a peer meets contention on a lane plane inside a timetabled segment, by draw. -/
opaque contends : Nat → Bool
/-- FREE CHOICE (R62, log 21): the core that takes the next issue turn, by draw; the model interleaves cores by turns. -/
opaque nextCore : Nat → Nat
/-- FREE CHOICE (R33, R59, log 21): the core from which a placer searches, by draw. -/
opaque placeCore : Nat → Nat
/-- FREE CHOICE (R37, log 21): the grant that the scheduler chooses, by draw. -/
opaque placeGrant : Nat → Nat

/-- FREE VALUE (R397, log 14): the µs that the time field of dusk event n holds. -/
opaque duskMicros : Nat → BitVec 48

/-- FREE VALUE (R73, R320, log 18): the cycle in the segment at which a hart runs out of entries. -/
opaque exhaustedCycle : Nat → BitVec 32

end Sys2Proof.Config
end

