-- ==== Sys2Proof/Machine/State.lean ====
section
/-! DEFINITION. The state of the module: every piece of state that spec/ names, as plain data, and the state right after
module reset (R4, R5). Sparse storage is a list of (key, value) pairs in one canonical form: keys strictly rising and no entry
equal to the storage's default (Machine/Ops.lean, `Map.wf`). -/

namespace Sys2Proof.Machine

/-- A 32-bit slot with its eight tail bits (R23, R93). -/
structure Slot where
  data : BitVec 32
  tail : BitVec 8
  deriving DecidableEq, Repr

/-- A cell of the matrix array: the compensated pair (s, e) of R104. -/
structure AccCell where
  s : Slot
  e : Slot
  deriving DecidableEq, Repr

/-- A feed queue or staging window (R117, R119, R281); `rows` = 0 when none is declared. `fill` and `used` count slots. -/
structure Window where
  row  : Nat
  rows : Nat
  fill : Nat
  used : Nat
  deriving DecidableEq, Repr

/-- A pointer p0 to p7 (R224). -/
structure Pointer where
  addr : BitVec 64
  size : Nat
  deriving DecidableEq, Repr

/-- The long accumulator of R109: 384 bits and the indicators NaN, +∞, −∞ and overflow. -/
structure LongAcc where
  bits : BitVec 384
  nan  : Bool
  pinf : Bool
  ninf : Bool
  ovf  : Bool
  deriving DecidableEq, Repr

/-- A partial value X(e) of a doubling instruction (R272): whether it is present (f of TBCAST and TCONTRACT), a value with its tail
(t, u or w), an element index (cur or rt), a number (d, k or the w of TCONTRACT), a second number (c), and the flags its
combinations raised (R270). -/
structure Partial where
  has   : Bool
  slot  : Slot
  cur   : Option Nat
  num   : Nat
  cand  : Nat
  flags : BitVec 5
  deriving DecidableEq, Repr

/-- The tree working state of an interrupted doubling instruction (R276): the word and `vl`, and for each element the pointer J, the
partial value X with its pending flags, and the act bit. -/
structure TreeState where
  word : Nat
  vl   : Nat
  ptr  : List (Option Nat)
  val  : List Partial
  act  : List Bool
  deriving DecidableEq, Repr

/-- What an engine operation does (R282): TLD, TST, BCOPY to an address, BCOPY to a tile register, QLD, TDIGEST, and the local
read of an MPUT (R322). -/
inductive EngineKind where
  | tld | tst | bcopy | bcopyTile | qld | tdigest | mput
  deriving DecidableEq, Repr

/-- An issued copy-engine operation (R282, R288): its member's address and word, operand values, the identifier entry as
captured at issue, the direction fixed at issue, the progress, the flags raised so far, the fault that stopped it (16 × code +
access, `tval`), and what it has read of a unit that it has not yet moved whole: the subwords of a slot (R283), the bytes of a line (R285), of a
digest's message (R286). -/
structure EngineOp where
  kind  : EngineKind
  pc    : Nat
  tcode : Nat
  a     : Nat
  b     : Nat
  d     : Nat
  entry : BitVec 512
  fmt   : Nat
  mode  : Nat
  sat   : Bool
  desc  : Bool
  done  : Nat
  flags : BitVec 5
  fault : Option (Nat × Nat)
  got   : List Nat
  deriving DecidableEq, Repr

/-- A pending ordered-atomic element (R305): physical and virtual address, operation, operand image (data of up to two slots and its
tail), `vtype.fmt`, `vtype.mode`, `vtype.sat`. -/
structure PendingAtomic where
  pa   : Nat
  va   : Nat
  op   : Nat
  data : Nat
  tail : Nat
  fmt  : Nat
  mode : Nat
  sat  : Bool
  deriving DecidableEq, Repr

/-- Where a hart stands (R49, R62). `vacant`: no hart. `stalled`: its next instruction waits on the scoreboard (R118).
`ccwait`, `waiting`, `atBar`, `atColl`, `ttStart`, `ttSync`, `logPub`, `msgRoom`, `halting`: the waits of R317, R331, R310, R308,
R320, R71, R328, R386 and R318; `logPub true`: its pad record is written. -/
inductive Status where
  | vacant | running | stalled
  | ccwait (handle : Nat)
  | waiting
  | atBar (k : Nat)
  | atColl
  | ttStart | ttSync
  | logPub (accepted : Bool)
  | msgRoom | halting
  deriving DecidableEq, Repr

/-- What a register held before a later member of the convoy wrote it, for the rows of earlier members that still read it (R40): a slot of a
vector register, a mask bit, an x register, a tensor identifier entry, or a window as it was declared. -/
inductive OldReg where
  | slot (reg n : Nat) (v : Slot)
  | bit (reg n : Nat) (v : Bool)
  | int (reg : Nat) (v : BitVec 64)
  | entry (t : Nat) (v : BitVec 512)
  | win (tcode : Nat) (w : Window)
  deriving DecidableEq, Repr

/-- A convoy in progress (R365; the model's own cursor, log 2): the address of its first member, the position of the member
being performed, whether its checks have passed, `vstart` at its start, whether it is restartable (R366), the element window of
a pass by rows (R41) or of an instruction that stops inside it (R49), the number of members (1: alone), whether the convoy began at an
interruption point (R182), the word of the member being performed, the words of a convoy of several members, its rows already
performed (pairs of member and row), the steps after which a TMM or a doubling instruction stops at an interruption point of R49, 0 for
none, the values that `vl` takes in the convoy: pairs of the member that gives it, 0 for the start, and the value (R46), the registers that
members have written and earlier members still read, each with the writer's position (R40), and the harts that its peer accesses reach (R116). -/
structure Cursor where
  pc      : BitVec 64
  pos     : Nat
  checked : Bool
  vstart  : BitVec 32
  nr      : Bool
  lo      : Nat
  hi      : Nat
  size    : Nat
  mid     : Bool
  word    : Nat
  words   : List Nat
  done    : List (Nat × Nat)
  stop    : Nat
  vls     : List (Nat × Nat)
  olds    : List (Nat × OldReg)
  reach   : List Nat
  deriving DecidableEq, Repr

/-- A hart's place in a timetable (R319, R320): the image with its header fields as read when the core was armed, segment, next entry,
whether a segment is running, whether a handler holds up the hart's arrival at the domain barrier (R73), and the `lcore` of a core whose
deviation it has yet to trap on. -/
structure TimePos where
  image  : Nat
  ncores : Nat
  nseg   : Nat
  ctab   : Nat
  stab   : Nat
  seg    : Nat
  entry  : Nat
  live   : Bool
  late   : Bool
  dev    : Option Nat
  deriving DecidableEq, Repr

/-- A poisoned item of the core's storage (R379): structure 1 to 5, with 8 for the tensor-identifier table, which shares structure 5 with
the scale banks; register, tile, bank or entry; element or slot. -/
structure Poison where
  kind : Nat
  num  : Nat
  elem : Nat
  deriving DecidableEq, Repr

/-- A hart: the registers of R34 and R197, and where it stands. -/
structure Hart where
  /-- x1 to x31 by number, zero when absent (R201); x0 has no storage. -/
  x : List (Nat × BitVec 64)
  pc : BitVec 64
  /-- f0 to f31: encoding in bits 63:0, S in bit 64, G in bit 65 (R208). -/
  f : List (Nat × BitVec 66)
  /-- Physical vector slots: key 32 × slot + register. -/
  v : List (Nat × Slot)
  /-- Physical masks m1 to m7, bit e = element e (R242). -/
  m : List (Nat × BitVec 4096)
  /-- Topology elements: key 8 × element + register; an absent element is 0x8000 (R34, R265). -/
  g : List (Nat × BitVec 16)
  p : List (Nat × Pointer)
  /-- Accumulator cells: key 8 × cell + tile. -/
  acc : List (Nat × AccCell)
  fq : List (Nat × Window)
  sw : List (Nat × Window)
  /-- Scales: key 512 × bank + index (R88). -/
  q : List (Nat × BitVec 8)
  /-- Tensor identifier entries of 64 bytes, little-endian (R124). -/
  tid : List (Nat × BitVec 512)
  /-- Scratchpad bytes by offset (R113). -/
  scratch : List Host.Cell
  vl : Nat
  vlc : Nat
  vtype : BitVec 64
  vstart : BitVec 32
  vfv : BitVec 32
  vrot : BitVec 3
  vdirty : BitVec 64
  vflags : BitVec 5
  gbase : Nat
  poolpart : BitVec 64
  lcore : Nat
  launchid : Nat
  rngkey : BitVec 64
  rngkeyh : BitVec 64
  tcause : BitVec 64
  tval : BitVec 64
  tepc : BitVec 64
  tstatus : BitVec 64
  tvec : BitVec 64
  tscratch : BitVec 64
  seqstate : BitVec 64
  raceaddr : BitVec 64
  long : LongAcc
  tree : Option TreeState
  /-- Write-combining buffer (R141): physical byte address, its value, and whether an engine operation wrote it last (R54). -/
  wcb : List (Nat × (BitVec 8 × Bool))
  /-- Line addresses of the buffer, oldest first (R142). -/
  wcbAge : List Nat
  pending : List PendingAtomic
  engine : List EngineOp
  /-- Scratchpad words linked by the latest VGL (R302). -/
  links : List Nat
  /-- The hart has issued an MPUT, MGET or MSIG, so that it has a fault queue (R385). -/
  sends : Bool
  /-- Fault queue: next slot, reports held by the network interface (R385, R386). -/
  fqNext : Nat
  held : List Report
  /-- Handles of counter underflows not yet taken (R364). -/
  underflows : List Nat
  poison : List Poison
  /-- Those of them that the hart brought from another place: its rows here carry no error (R379, R382). -/
  carried : List Poison
  /-- The context area that its pre-emption wrote (R50); where it lies is the module's own. -/
  area : List (BitVec 8)
  status : Status
  /-- Pre-empted, and held by the host (R50, R352). -/
  preempted : Bool
  /-- A pre-emption waits for the next TTSYNC (R73). -/
  preemptDue : Bool
  /-- A cancellation waits for the hart's next point of R49 (R53). -/
  cancelled : Bool
  /-- Identity in the model (claims and packets name it), and the core that holds its rows. -/
  hid : Nat
  cl : Nat
  core : Nat
  slot : Nat
  prio : Nat
  order : Nat
  age : Nat
  ageSince : Nat
  /-- Scalar instructions of this turn, and whether the turn is over (R62). -/
  turn : Nat
  turnOver : Bool
  time : Option TimePos
  /-- Where the convoy being performed stands. -/
  cur : Cursor
  /-- The pc is an interruption point inside a convoy: the next word may be a continuing word (R182, R331). -/
  resumeMid : Bool
  deriving DecidableEq, Repr

/-- The state of a work record (R32); `cancelling`: cancelled in order of arrival, the cancellation still under way. -/
inductive RecState where
  | running | cancelling | complete | cancelled
  deriving DecidableEq, Repr

/-- The fields of a launch block (R314). -/
structure LaunchBlock where
  entry  : Nat
  args   : Nat
  harts  : Nat
  prio   : Nat
  gang   : Bool
  legacy : Bool
  part   : Nat
  waits  : List Nat
  deriving DecidableEq, Repr

/-- A launch record (R30, R58). `graph` is its parent graph, none when it is stand-alone; `unplaced` is the first `lcore` not
yet placed; `queued` says that it stands in its cluster's queue, `ready` the order in which it became ready; `coll` and `bars`
are the `lcore`s that have arrived at the collective FENCEV and at each barrier (R148, R310); `halted` counts its harts that have
halted, and `pend` holds, by `lcore`, the ordered atomics that those left pending (R318). -/
structure Launch where
  id       : Nat
  block    : LaunchBlock
  graph    : Option Nat
  phase    : Nat
  cl       : Nat
  counter  : Nat
  state    : RecState
  unplaced : Nat
  queued   : Bool
  ready    : Nat
  coll     : List Nat
  bars     : List (Nat × List Nat)
  halted   : Nat
  pend     : List (Nat × List PendingAtomic)
  deriving DecidableEq, Repr

/-- A graph record (R30, R316). -/
structure Graph where
  id      : Nat
  phase   : Nat
  waits   : List Nat
  open_   : Bool
  counter : Nat
  state   : RecState
  deriving DecidableEq, Repr

/-- A phase of the phase list and its record (R30, R56, R353). -/
structure Phase where
  timed   : Bool
  lp      : Nat
  clus    : Nat
  plim    : Nat
  tt      : Nat
  counter : Nat
  state   : RecState
  begun   : Bool
  deriving DecidableEq, Repr

/-- A job record (R55, R353). `image` is the descriptor and phase list as read at the start write (R357). -/
structure Job where
  sec     : Bool
  strict  : Bool
  pgroot  : Nat
  view    : Nat
  chmask  : Nat
  tvec    : Nat
  rpt     : Nat
  phases  : List Phase
  cur     : Nat
  counter : Nat
  state   : RecState
  launches : List Launch
  graphs  : List Graph
  image   : List (BitVec 8)
  deriving DecidableEq, Repr

/-- A job slot (R352, R355, R394); `sink` and `why` belong to a reset of its partition (R392), `resets` are the causes of further resets that
came while it was under way, `report` is the report area of its last
job, `view` its view as last written (measurements 7 and 5 of R357), and `desc` the descriptor of a start in progress (R354). -/
structure JobSlot where
  st      : Nat
  jerr    : BitVec 64
  part    : Nat
  clus    : Nat
  held    : Bool
  tdisp   : Bool
  regions : List Region
  pendCancel : Bool
  pendHold   : Bool
  sink    : Bool
  why     : Nat
  resets  : List Nat
  report  : List (BitVec 8)
  view    : List (BitVec 8)
  desc    : Nat
  job     : Option Job
  deriving DecidableEq, Repr

/-- A core (R65, R380 to R382). `due` are lanes whose retirement waits for a TTSYNC, with their corrections (R383); `errs` are the
corrected errors of each lane in this period (R381). -/
structure CoreInfo where
  lanes   : Nat
  retired : List Nat
  lmax    : Nat
  rows    : Nat
  due     : List (Nat × Nat)
  errs    : List (Nat × Nat)
  deriving DecidableEq, Repr

/-- A cluster (R70 to R75): `tick`, the clock stretch n, the n that takes effect at the next boundary (0: none), the harts that have armed for and
arrived in its timetable. -/
structure ClusterInfo where
  tick    : Nat
  stretch : Nat
  next    : Nat
  armed   : List Nat
  arrived : List Nat
  deriving DecidableEq, Repr

/-- A port of the fabric (R159, R165, R168). -/
structure Port where
  rko : Nat
  rki : Nat
  prt : Nat
  up  : Bool
  deriving DecidableEq, Repr

/-- A record that waits to be written into its channel's ring (R327 to R329): its hart, its bytes, its `step` or `iter`, whether it is
a completion record, and once it is accepted the physical bytes that it and the tail word will be written to (R328). -/
structure LogReq where
  hid    : Nat
  bytes  : List (BitVec 8)
  step   : Nat
  cprec  : Bool
  pas    : List Nat
  tp     : List Nat
  deriving DecidableEq, Repr

/-- A channel descriptor in use (R328, R329): its physical address, its completion records since the last interrupt, and the records that
wait, oldest first. -/
structure Channel where
  desc  : Nat
  count : Nat
  queue : List LogReq
  deriving DecidableEq, Repr

/-- A message of a hart that has not ended (R322, R323): the packets not yet acknowledged, or the bytes not yet written by an MGET's
replies (`sent`: everything has been injected), the local record, the destination range of an MGET as translated at issue (offset and
physical address of each piece of a page), whether a packet has failed (R389), and the numbers of its hart for the dusk record. -/
structure Message where
  mid    : Nat
  hid    : Nat
  slot   : Nat
  kind   : Nat
  pc     : Nat
  arg    : Nat
  cnt    : Nat
  lcc    : Nat
  rva    : Nat
  rcc    : Nat
  route  : Nat
  len    : Nat
  left   : Nat
  sent   : Bool
  failed : Bool
  pas    : List (Nat × Nat)
  cl     : Nat
  launch : Nat
  lcore  : Nat
  deriving DecidableEq, Repr

/-- An MPUT of which some packets have been written here (R322, R389): sending module, message, offsets written, and the handle that its last packet
carried. -/
structure PutRecord where
  src : Nat
  msg : Nat
  got : List Nat
  rcc : Option Nat
  deriving DecidableEq, Repr

/-- A packet held until its acknowledgment (R170, R391). -/
structure Unacked where
  dst   : Nat
  seq   : Nat
  tries : Nat
  mid   : Nat
  slot  : Nat
  pkt   : Packet
  deriving DecidableEq, Repr

/-- A host or message access that waits: at claimed bytes (R143, R378), or behind an earlier one (R154, R323); `register` is a read of BAR 0. -/
inductive HostWait where
  | read (addr len tag : Nat)
  | register (addr len tag : Nat)
  | write (addr : Nat) (bytes : List (BitVec 8)) (relaxed : Bool)
  | packet (p : Packet)
  deriving DecidableEq, Repr

/-- What leaves the module for its host (the model's record of it, log 10). `status` of a read: 0 data, 1 Unsupported Request,
2 Completer Abort, 3 poisoned; `remote`, with its first flit, and `report` leave through a fabric port for another module. -/
inductive HostMsg where
  | completion (tag status : Nat) (bytes : List (BitVec 8))
  | aer (addr : Nat)
  | msix (vector : Nat)
  | spdm (code : Nat) (bytes : List (BitVec 8))
  | remote (p : Packet) (flit : List (BitVec 8))
  | report (p : Packet) (r : Report)
  deriving DecidableEq, Repr

/-- An event of the dusk record (R397, R398). -/
structure DuskEvent where
  n     : Nat
  time  : BitVec 64
  etype : Nat
  blk   : Nat
  inst  : Nat
  a     : BitVec 32
  b     : BitVec 64
  deriving DecidableEq, Repr

/-- The SPDM responder (R357): requests answered so far, the transcript, and the session of a key exchange. -/
structure Spdm where
  stage      : Nat
  transcript : List (BitVec 8)
  session    : Option (Nat × List (BitVec 8))
  draws      : Nat
  deriving DecidableEq, Repr

/-- An entry of a translation cache (R130): the cache (192 × cluster + core for the cache of a core, 1152 + cluster for that of the slices), the
slot of the job, first address and exponent of the range that the entry covers, and the entry. -/
structure Cached where
  cache : Nat
  slot : Nat
  va   : Nat
  bits : Nat
  leaf : BitVec 64
  deriving DecidableEq, Repr

/-- A route block held by the route cache of a core (R158): the core (192 × cluster + core), the address, and the 32 bytes read. -/
structure RouteEntry where
  core  : Nat
  addr  : Nat
  bytes : List (BitVec 8)
  deriving DecidableEq, Repr

/-- The module. `hart` stands at the issue slot, `others` are the remaining harts; `agenda` are the steps of the module's other
agents and of its surroundings that are due, oldest first (log 2). -/
structure State where
  hart     : Hart
  others   : List Hart
  agenda   : List Instr
  mem      : List Host.Cell
  claims   : List (Nat × Nat)
  /-- Links on off-core lines (R302): hart and line address, oldest first. -/
  links    : List (Nat × Nat)
  /-- Poisoned lines (R384), each with its structure of R379: 6 slice line, 7 main memory. -/
  poisoned : List (Nat × Nat)
  /-- The host-window bytes with writes that the host has not completed: the value without them, and theirs, oldest first (R393). -/
  window   : List (Nat × List (BitVec 8))
  /-- The home cluster of each host-window line in use, as the leaf of its page names it (R122, log 15). -/
  homes    : List (Nat × Nat)
  /-- Ranges of secure memory whose key is erased (R356): first byte, the byte after the last, and the draw of log 12. -/
  dead     : List (Nat × Nat × Nat)
  /-- The route caches of the cores (R158). -/
  routes   : List RouteEntry
  xlat     : List Cached
  cores    : List (Nat × CoreInfo)
  clusters : List (Nat × ClusterInfo)
  /-- Banks at retention voltage (R22): key 512 × cluster + 8 × slice + bank. -/
  twilight : List Nat
  scrubs   : List (Nat × Nat)
  /-- The corrected errors of each slice in this period (R398): key 64 × cluster + slice. -/
  fixes    : List (Nat × Nat)
  slots    : List JobSlot
  chans    : List Channel
  ports    : List (Nat × Port)
  /-- The topology map beyond the module: the ports of the Soltar switches (R171). -/
  topo     : List SwitchPort
  /-- The blocks that the controller has assigned to the secure world (R355, log 52). -/
  secureBlocks : List Block
  module_  : Nat
  seqs     : List (Nat × Nat)
  accepted : List (Nat × List Nat)
  /-- What acknowledgments of accepted packets have told of (R364): source module, sequence number, and the excess of its count-down. -/
  excesses : List (Nat × Nat × Nat)
  messages : List Message
  unacked  : List Unacked
  hostWait : List HostWait
  puts     : List PutRecord
  toHost   : List HostMsg
  readyReg : BitVec 16
  health   : Nat
  dsel     : BitVec 64
  dusk     : List DuskEvent
  dcnt     : Nat
  boots    : Nat
  spdm     : Spdm
  keys     : List Nat
  /-- Poisoned items saved by CTXSAVE, by the physical address of the area (R379; log 34). -/
  ctxPoison : List (Nat × List Poison)
  nextHid  : Nat
  nextMid  : Nat
  placed   : Nat
  freeN    : Nat
  deriving DecidableEq, Repr

/-- Why the machine stops with a fault. -/
inductive Fault where
  /-- Raised by a step of another agent that names a physical address of more than 52 bits, which the spec says does not exist
  (R121). Safe: the model stops. -/
  | noSuchAddress
  deriving DecidableEq, Repr

/-- Why the machine refuses a step. -/
inductive Refusal where
  /-- Raised by Machine/Dispatch.lean for a row that has no meaning yet. Safe: the model stops. -/
  | notModelled (mnemonic : String)
  deriving DecidableEq, Repr

/-- The cursor of an instruction that is no member of a longer convoy (log 2). -/
def Cursor.alone : Cursor := ⟨0, 0, false, 0, false, 0, 4096, 1, false, 0, [], [], 0, [], [], []⟩

/-- No hart: every register at its starting value of R34, `poolpart` the default word (R35), `gbase` 64 (R67). The values
of `pc`, `lcore` and `launchid`, which a launch gives, are 0 (log 1). -/
def Hart.vacant : Hart where
  x := []
  pc := 0
  f := []
  v := []
  m := []
  g := []
  p := []
  acc := []
  fq := []
  sw := []
  q := []
  tid := []
  scratch := []
  vl := 0
  vlc := 0
  vtype := 0
  vstart := 0
  vfv := 0
  vrot := 0
  vdirty := 0
  vflags := 0
  gbase := 64
  poolpart := 0x04008040
  lcore := 0
  launchid := 0
  rngkey := 0
  rngkeyh := 0
  tcause := 0
  tval := 0
  tepc := 0
  tstatus := 0
  tvec := 0
  tscratch := 0
  seqstate := 0
  raceaddr := 0
  long := ⟨0, false, false, false, false⟩
  tree := none
  wcb := []
  wcbAge := []
  pending := []
  engine := []
  links := []
  sends := false
  fqNext := 0
  held := []
  underflows := []
  poison := []
  carried := []
  area := []
  status := .vacant
  preempted := false
  preemptDue := false
  cancelled := false
  hid := 0
  cl := 0
  core := 0
  slot := 0
  prio := 0
  order := 0
  age := 0
  ageSince := 0
  turn := 0
  turnOver := false
  time := none
  cur := Cursor.alone
  resumeMid := false

/-- A job slot with no partition bound and no job (R352, R394); its interface is not in RUN (log 6). -/
def JobSlot.empty : JobSlot where
  st := 0
  jerr := 0
  part := 0
  clus := 0
  held := false
  tdisp := false
  regions := []
  pendCancel := false
  pendHold := false
  sink := false
  why := 0
  resets := []
  report := []
  view := []
  desc := 0
  job := none

/-- The module right after reset: no hart, no job, the fields at the values of their Reset columns; the values that the spec
does not give are those of logs 1 to 10, and for the topology map (`topo` empty: the controller has no view to write before a VIEW_UPDATE) and
the packets' sequence numbers (`seqs` empty: the first toward each destination is 0) those of logs 51 and 60 (DESIGN CHOICE). -/
def State.reset : State where
  hart := Hart.vacant
  others := []
  agenda := []
  mem := []
  claims := []
  links := []
  poisoned := []
  window := []
  homes := []
  dead := []
  routes := []
  xlat := []
  cores := []
  clusters := []
  twilight := []
  scrubs := []
  fixes := []
  slots := [JobSlot.empty, JobSlot.empty, JobSlot.empty, JobSlot.empty, JobSlot.empty, JobSlot.empty]
  chans := []
  ports := []
  topo := []
  secureBlocks := []
  module_ := 0
  seqs := []
  accepted := []
  excesses := []
  messages := []
  unacked := []
  hostWait := []
  puts := []
  toHost := []
  readyReg := 0
  health := 0
  dsel := 0
  dusk := []
  dcnt := 0
  boots := 0
  spdm := ⟨0, [], none, 0⟩
  keys := []
  ctxPoison := []
  nextHid := 1
  nextMid := 0
  placed := 0
  freeN := 0

end Sys2Proof.Machine
end

