-- ==== Sys2Proof/Machine/Store.lean ====
section
/-! DEFINITION. Storage: sparse maps in canonical form, the register files with their renaming (R14, R44), bytes, physical
memory with its slices (R121, R122), links (R302) and translation (R128 to R130). -/

namespace Sys2Proof.Machine

/-! ### Sparse maps -/

/-- The value at key `k`: the listed one, or the default `d`. -/
def mapGet {α : Type} (d : α) : List (Nat × α) → Nat → α
  | [], _ => d
  | (k', v) :: r, k => if k' = k then v else if k < k' then d else mapGet d r k

/-- The map with `v` at `k`, in canonical form: the entry of a default value is removed. -/
def mapSet {α : Type} [DecidableEq α] (d : α) : List (Nat × α) → Nat → α → List (Nat × α)
  | [], k, v => if v = d then [] else [(k, v)]
  | (k', v') :: r, k, v =>
    if k < k' then (if v = d then (k', v') :: r else (k, v) :: (k', v') :: r)
    else if k = k' then (if v = d then r.dropWhile (fun e => decide (e.1 ≤ k)) else (k, v) :: r)
    else (k', v') :: mapSet d r k v

/-- The canonical form: keys strictly rising from `lo` on, and no default value listed. -/
def mapWfFrom {α : Type} [DecidableEq α] (d : α) : Nat → List (Nat × α) → Bool
  | _, [] => true
  | lo, (k, v) :: r => decide (lo ≤ k) && decide (v ≠ d) && mapWfFrom d (k + 1) r

/-- The canonical form of a sparse map. -/
def mapWf {α : Type} [DecidableEq α] (d : α) (m : List (Nat × α)) : Bool := mapWfFrom d 0 m

/-- What a byte of main memory or of the host window that nothing has written reads as (log 5). -/
def unlisted : Byte := 0

/-- The canonical form of the memory. -/
def Memory.wf (m : List Host.Cell) : Bool := mapWf unlisted m

/-- The list with `f` applied to element `i`. -/
def modAt {α : Type} (f : α → α) : List α → Nat → List α
  | [], _ => []
  | a :: l, 0 => f a :: l
  | a :: l, i + 1 => a :: modAt f l i

/-- `n`, `n + 1`, … , `n + k − 1`. -/
def upFrom (n : Nat) : Nat → List Nat
  | 0 => []
  | k + 1 => n :: upFrom (n + 1) k

/-! ### Bytes -/

/-- Bits `h` down to `l` of `x` (R4). -/
def bits (x h l : Nat) : Nat := x / 2 ^ l % 2 ^ (h + 1 - l)

/-- Little-endian bytes as a number. -/
def leNat : List Byte → Nat
  | [] => 0
  | b :: r => b.toNat + 256 * leNat r

/-- The low `n` bytes of `v`, little-endian. -/
def leBytes (v : Nat) : Nat → List Byte
  | 0 => []
  | n + 1 => BitVec.ofNat 8 v :: leBytes (v / 256) n

/-- The low `w` bits of `v` sign-extended to 64 bits (R201). -/
def sx (v w : Nat) : Word :=
  let u := v % 2 ^ w
  if w = 0 then 0 else if u < 2 ^ (w - 1) then BitVec.ofNat 64 u else BitVec.ofInt 64 ((u : Int) - (2 : Int) ^ w)

/-- A signed number as a 64-bit address offset. -/
def ofInt (i : Int) : Word := BitVec.ofInt 64 i

/-! ### The register files -/

/-- x register `n`; x0 reads 0 (R201). -/
def Hart.getX (h : Hart) (n : Nat) : Word := if n = 0 then 0 else mapGet 0 h.x n

/-- A write of x register `n`; x0 discards it (R201). -/
def Hart.setX (h : Hart) (n : Nat) (v : Word) : Hart := if n = 0 then h else { h with x := mapSet 0 h.x n v }

/-- f register `n`: 66 bits (R208). -/
def Hart.getF (h : Hart) (n : Nat) : BitVec 66 := mapGet 0 h.f n

/-- A write of f register `n`. -/
def Hart.setF (h : Hart) (n : Nat) (v : BitVec 66) : Hart := { h with f := mapSet 0 h.f n v }

/-- The physical vector register that `n` names under `vrot` (R14, R44). -/
def Hart.physV (h : Hart) (n : Nat) : Nat := if n < 24 then n else 24 + (n - 24 + h.vrot.toNat) % 8

/-- The physical mask register that `n` names under `vrot` (R14, R44). -/
def Hart.physM (h : Hart) (n : Nat) : Nat := if n < 4 then n else 4 + (n - 4 + h.vrot.toNat) % 4

/-- A zero slot with tail 0b00. -/
def Slot.zero : Slot := ⟨0, 0⟩

/-- The key of slot `s` of physical vector register `n`. -/
def vKey (n s : Nat) : Nat := 32 * s + n

/-- The key of element or cell `e` of topology register or tile `n`. -/
def elemKey (n e : Nat) : Nat := 8 * e + n

/-- Slot `s` of vector register `n`. -/
def Hart.getSlot (h : Hart) (n s : Nat) : Slot := mapGet Slot.zero h.v (vKey (h.physV n) s)

/-- The poison list without the item (R379: a write of the whole slot or element clears it). -/
def Hart.cure (h : Hart) (kind num elem : Nat) : Hart :=
  if h.poison.isEmpty then h else { h with poison := h.poison.filter (· ≠ ⟨kind, num, elem⟩) }

/-- A write of slot `s` of vector register `n`. -/
def Hart.setSlot (h : Hart) (n s : Nat) (v : Slot) : Hart :=
  { h with v := mapSet Slot.zero h.v (vKey (h.physV n) s) v }.cure 1 (h.physV n) s

/-- Bit `i` of `vdirty` set (R51). -/
def Hart.dirty (h : Hart) (i : Nat) : Hart := { h with vdirty := h.vdirty ||| BitVec.ofNat 64 (2 ^ i) }

/-- The `vdirty` bit of vector register `n` set (R51). -/
def Hart.dirtyV (h : Hart) (n : Nat) : Hart := h.dirty (h.physV n)

/-- The bits of mask `n`; m0 is all-ones (R45, R242). -/
def Hart.getMask (h : Hart) (n : Nat) : BitVec 4096 := if n = 0 then BitVec.allOnes 4096 else mapGet 0 h.m (h.physM n)

/-- A write of the elements of mask `n` that `es` names, given the mask's new bits; m0 discards it (R45, R242). Sets the `vdirty` bit
(R51). -/
def Hart.setMask (h : Hart) (n : Nat) (v : BitVec 4096) (es : List Nat) : Hart :=
  if n = 0 then h
  else
    let k := { h with m := mapSet 0 h.m (h.physM n) v }.dirty (32 + h.physM n)
    if h.poison.isEmpty then k
    else { k with poison := h.poison.filter (fun p => !(p.kind = 1 && p.num = 32 + h.physM n && es.contains p.elem)) }

/-- Bit `e` of mask `n`. -/
def Hart.maskBit (h : Hart) (n e : Nat) : Bool := if n = 0 then true else (mapGet 0 h.m (h.physM n)).getLsbD e

/-- Element `e` of topology register `n` (R265). -/
def Hart.getG (h : Hart) (n e : Nat) : BitVec 16 := mapGet 0x8000 h.g (elemKey n e)

/-- A write of element `e` of topology register `n`. -/
def Hart.setG (h : Hart) (n e : Nat) (v : BitVec 16) : Hart :=
  { h with g := mapSet 0x8000 h.g (elemKey n e) v }.cure 4 n e

/-- Pointer `n`: address 0 and size 1 until PSET writes it (R34). -/
def Hart.getP (h : Hart) (n : Nat) : Pointer := mapGet ⟨0, 1⟩ h.p n

/-- A write of pointer `n` (R224). -/
def Hart.setP (h : Hart) (n : Nat) (v : Pointer) : Hart := { h with p := mapSet ⟨0, 1⟩ h.p n v }

/-- A cell of s = +0, e = +0 (R34). -/
def AccCell.zero : AccCell := ⟨Slot.zero, Slot.zero⟩

/-- Cell `c` of accumulator `n`. -/
def Hart.getAcc (h : Hart) (n c : Nat) : AccCell := mapGet AccCell.zero h.acc (elemKey n c)

/-- A write of cell `c` of accumulator `n`. -/
def Hart.setAcc (h : Hart) (n c : Nat) (v : AccCell) : Hart :=
  { h with acc := mapSet AccCell.zero h.acc (elemKey n c) v }.cure 3 n c

/-- No window declared. -/
def Window.none : Window := ⟨0, 0, 0, 0⟩

/-- Feed queue `n` (R117). -/
def Hart.getFq (h : Hart) (n : Nat) : Window := mapGet Window.none h.fq n
/-- A change of feed queue `n`. -/
def Hart.setFq (h : Hart) (n : Nat) (w : Window) : Hart := { h with fq := mapSet Window.none h.fq n w }
/-- Staging window `n` (R117). -/
def Hart.getSw (h : Hart) (n : Nat) : Window := mapGet Window.none h.sw n
/-- A change of staging window `n`. -/
def Hart.setSw (h : Hart) (n : Nat) (w : Window) : Hart := { h with sw := mapSet Window.none h.sw n w }

/-- Scale `i` of bank `n` (R88). -/
def Hart.getQ (h : Hart) (n i : Nat) : BitVec 8 := mapGet 0 h.q (512 * n + i)
/-- A write of scale `i` of bank `n`. -/
def Hart.setQ (h : Hart) (n i : Nat) (v : BitVec 8) : Hart := { h with q := mapSet 0 h.q (512 * n + i) v }.cure 5 n i

/-- Tensor identifier entry `t` (R124). -/
def Hart.getTid (h : Hart) (t : Nat) : BitVec 512 := mapGet 0 h.tid t
/-- A write of tensor identifier entry `t`. -/
def Hart.setTid (h : Hart) (t : Nat) (v : BitVec 512) : Hart := { h with tid := mapSet 0 h.tid t v }

/-- Scratchpad bytes [off, off + n) as a number, little-endian (R113). -/
def Hart.readScratch (h : Hart) (off n : Nat) : Nat := leNat ((upFrom off n).map (mapGet 0 h.scratch))

/-- The scratchpad with the bytes written from `off` on; scratchpad links on the words break (R302), poison clears (R379). -/
def Hart.writeScratch (h : Hart) (off : Nat) (bs : List Byte) : Hart :=
  let sc := (bs.foldl (fun (a : List Host.Cell × Nat) b => (mapSet 0 a.1 a.2 b, a.2 + 1)) (h.scratch, off)).1
  let links := if h.links.isEmpty then [] else h.links.filter (fun w => 4 * w + 4 ≤ off || off + bs.length ≤ 4 * w)
  let p := if h.poison.isEmpty then [] else
    h.poison.filter (fun p => !(p.kind = 2 && decide (off ≤ 4 * p.elem) && decide (4 * p.elem + 4 ≤ off + bs.length)))
  { h with scratch := sc, links := links, poison := p }

/-! ### Fields of the partition word, `vtype` and `tstatus` -/

/-- `regrows` of the partition word (R35). -/
def Hart.regrows (h : Hart) : Nat := bits h.poolpart.toNat 8 0
/-- VLMAX (R36). -/
def Hart.vlmax (h : Hart) : Nat := h.regrows * 32
/-- The tiles that exist (R36). -/
def Hart.tiles (h : Hart) : Nat := bits h.poolpart.toNat 17 9 / 8
/-- Scratchpad rows (R35). -/
def Hart.sprows (h : Hart) : Nat := bits h.poolpart.toNat 26 18 * 16
/-- `vtype.fmt` (R198). -/
def Hart.fmt (h : Hart) : Nat := bits h.vtype.toNat 4 0
/-- `vtype.pack` as subwords per slot (R198). -/
def Hart.pack (h : Hart) : Nat := 2 ^ bits h.vtype.toNat 6 5
/-- `vtype.blen` (R198). -/
def Hart.blen (h : Hart) : Nat := bits h.vtype.toNat 11 8
/-- `vtype.sr` (R198). -/
def Hart.sr (h : Hart) : Nat := bits h.vtype.toNat 14 12
/-- `vtype.mode` (R198). -/
def Hart.mode (h : Hart) : Nat := bits h.vtype.toNat 18 16
/-- `vtype.sat` (R198). -/
def Hart.sat (h : Hart) : Bool := bits h.vtype.toNat 19 19 == 1
/-- `vtype.dim2` (R198). -/
def Hart.dim2 (h : Hart) : Bool := bits h.vtype.toNat 20 20 == 1
/-- `vtype.cap` (R198). -/
def Hart.cap (h : Hart) : Nat := bits h.vtype.toNat 27 24
/-- `tstatus.ie` (R330). -/
def Hart.ie (h : Hart) : Bool := h.tstatus.getLsbD 4
/-- `tstatus.intrap` (R330). -/
def Hart.intrap (h : Hart) : Bool := h.tstatus.getLsbD 6
/-- `tstatus.mid` (R330). -/
def Hart.mid (h : Hart) : Bool := h.tstatus.getLsbD 7
/-- Flags ORed into `vflags` (R199). -/
def Hart.raise (h : Hart) (fl : BitVec 5) : Hart := { h with vflags := h.vflags ||| fl }

/-! ### Harts, cores and clusters -/

/-- The state with the hart at the issue slot changed. -/
def State.upd (s : State) (f : Hart → Hart) : State := { s with hart := f s.hart }

/-- Hart `hid`, wherever it stands. -/
def State.hartOf (s : State) (hid : Nat) : Option Hart :=
  if s.hart.hid = hid then some s.hart else s.others.find? (·.hid = hid)

/-- Every hart of the module. -/
def State.harts (s : State) : List Hart := (s.hart :: s.others).filter (fun h => h.status ≠ .vacant)

/-- Hart `hid` changed, wherever it stands. -/
def State.updHart (s : State) (hid : Nat) (f : Hart → Hart) : State :=
  if s.hart.hid = hid then { s with hart := f s.hart }
  else { s with others := s.others.map (fun h => if h.hid = hid then f h else h) }

/-- Every hart changed. -/
def State.mapHarts (s : State) (f : Hart → Hart) : State := { s with hart := f s.hart, others := s.others.map f }

/-- Hart `h` put at the issue slot, the hart there put in its place. -/
def State.swapIn (s : State) (h : Hart) : State :=
  { s with hart := h, others := s.others.map (fun x => if x.hid = h.hid then s.hart else x) }

/-- Hart `k` back at the issue slot, the hart there put back among the others; a hart that ended is dropped. -/
def State.swapOut (s : State) (k : Hart) : State :=
  let back := s.others.map (fun x => if x.hid = k.hid then s.hart else x)
  { s with hart := (s.others.find? (·.hid = k.hid)).getD k, others := back.filter (fun x => x.status ≠ .vacant) }

/-- `f` performed with hart `hid` at the issue slot, and the harts put back where they stood. -/
def State.on (s : State) (hid : Nat) (f : State → State) : State :=
  if s.hart.hid = hid then f s
  else match s.others.find? (·.hid = hid) with
    | none => s
    | some h => (f (s.swapIn h)).swapOut s.hart

/-- `f` performed with hart `hid` at the issue slot, when it gives a state. -/
def State.tryOn (s : State) (hid : Nat) (f : State → Option State) : Option State :=
  if s.hart.hid = hid then f s
  else match s.others.find? (·.hid = hid) with
    | none => none
    | some h => (f (s.swapIn h)).map (fun r => r.swapOut s.hart)

/-- A core as it stands after reset (R65, R380). -/
def CoreInfo.start : CoreInfo := ⟨64, [], 64, 384, [], []⟩
/-- Core `core` of cluster `cl`. -/
def State.coreOf (s : State) (cl core : Nat) : CoreInfo := mapGet CoreInfo.start s.cores (Config.cores * cl + core)
/-- A change of a core. -/
def State.setCore (s : State) (cl core : Nat) (c : CoreInfo) : State :=
  { s with cores := mapSet CoreInfo.start s.cores (Config.cores * cl + core) c }
/-- A cluster as it stands after reset (R74, R75). -/
def ClusterInfo.start : ClusterInfo := ⟨0, 8, 0, [], []⟩
/-- Cluster `cl`. -/
def State.clusterOf (s : State) (cl : Nat) : ClusterInfo := mapGet ClusterInfo.start s.clusters cl
/-- A change of a cluster. -/
def State.setCluster (s : State) (cl : Nat) (c : ClusterInfo) : State :=
  { s with clusters := mapSet ClusterInfo.start s.clusters cl c }


/-- A step of another agent becomes due, after those already due. -/
def State.post (s : State) (i : Instr) : State := { s with agenda := s.agenda ++ [i] }
/-- Several steps become due, in order. -/
def State.postAll (s : State) (is : List Instr) : State := { s with agenda := s.agenda ++ is }

/-- Job slot `i`. -/
def State.slotOf (s : State) (i : Nat) : JobSlot := s.slots.getD i JobSlot.empty
/-- The job slot whose partition has cluster `cl`. -/
def State.slotOfCluster (s : State) (cl : Nat) : Option Nat := (upFrom 0 6).find? (fun i => (s.slotOf i).clus / 2 ^ cl % 2 = 1)

/-! ### Ports (R159, R162, R163, R165, R168)

The spec numbers the fabric ports alone. In the model (log 51) fabric port p is p; the port of hub c on its die-to-die link to hub d is 96 + 6c + d;
hub c toward the I/O die is 200 + c and toward its own endpoints 210 + c; the I/O die toward hub c is 220 + c; hub c's port toward fabric
port p is 300 + p, and the port where its channel arrives 500 + p; the host link is 400; the port in direction d of the lane-plane router at
row r, column c of plane k of cluster l is 4096 + 4 × (192 × (64l + k) + 16r + c) + d. -/

/-- The number of a lane-plane router port (R162): cluster, plane, row, column, direction (0 east, 1 west, 2 south, 3 north). -/
def planePort (cl k r c d : Nat) : Nat := 4096 + 4 * (192 * (64 * cl + k) + 16 * r + c) + d

/-- The router one step away, none where the run leaves the mesh (R162, R163). -/
def meshStep (r c d : Nat) : Option (Nat × Nat) :=
  if d = 0 then (if c < 15 then some (r, c + 1) else none)
  else if d = 1 then (if 0 < c then some (r, c - 1) else none)
  else if d = 2 then (if r < 11 then some (r + 1, c) else none)
  else if 0 < r then some (r - 1, c) else none

/-- The opposite direction. -/
def opposite (d : Nat) : Nat := if d % 2 = 0 then d + 1 else d - 1

/-- `rko` of a lane-plane router port (R163). -/
def planeRank (r c d : Nat) : Nat := if d = 0 then c else if d = 1 then 15 - c else if d = 2 then 16 + r else 27 - r

/-- `rko` of a port as the firmware writes it (R163, R165, R168); 0 where no table gives a rank. -/
def rankOut (k : Nat) : Nat :=
  if k < 96 then 16
  else if k < 200 then 8
  else if k < 210 then 9
  else if k < 220 then 10
  else if k < 300 then 4
  else if k < 400 then 9
  else if k < 4096 then 0
  else planeRank ((k - 4096) / 4 % 192 / 16) ((k - 4096) / 4 % 16) ((k - 4096) % 4)

/-- `rki` of a port: the `rko` at the far end of its link (R159). -/
def rankIn (k : Nat) : Nat :=
  if k < 96 then 32
  else if k < 200 then 8
  else if k < 210 then 4
  else if k < 220 then 0
  else if k < 300 then 9
  else if k < 500 then 0
  else if k < 600 then 9
  else if k < 4096 then 0
  else
    let r := (k - 4096) / 4 % 192 / 16
    let c := (k - 4096) / 4 % 16
    let d := (k - 4096) % 4
    match meshStep r c d with
    | none => 0
    | some (r', c') => planeRank r' c' (opposite d)

/-- The clusters between or in which a port stands; none for the host link. -/
def portClusters (k : Nat) : List Nat :=
  if k < 96 then [k / 16]
  else if k < 200 then [(k - 96) / 6, (k - 96) % 6]
  else if k < 300 then [k % 10]
  else if k < 400 then [(k - 300) / 16]
  else if k < 500 then []
  else if k < 600 then [(k - 500) / 16]
  else [(k - 4096) / 4 / 192 / 64]

/-- The partition to which the binding of its clusters gives a port: theirs, 0xffff where they have none or not the same (R174). -/
def State.portPart (s : State) (k : Nat) : Nat :=
  match (portClusters k).map s.slotOfCluster with
  | some i :: r => if r.all (fun j => j = some i) then (s.slotOf i).part else 0xffff
  | _ => 0xffff

/-- A port as the firmware has written it from the map and the bindings, its link up (R159, R174, log 7). -/
def State.portStart (s : State) (k : Nat) : Port := ⟨rankOut k, rankIn k, s.portPart k, true⟩

/-- The port at which a channel that leaves through a port arrives. -/
def farPort (k : Nat) : Nat :=
  if 96 ≤ k && k < 200 then 96 + 6 * ((k - 96) % 6) + (k - 96) / 6 else if 300 ≤ k && k < 400 then k + 200 else k

/-- The registers and the link of a port. -/
def State.portAt (s : State) (k : Nat) : Port := match s.ports.find? (fun p => p.1 = k) with
  | none => s.portStart k
  | some p => p.2

/-- The check of R160 on an output port, after the reserved bits and the port's existence: none passes, else the type of the report and its `why`
(R388). `inp` is the port and channel of arrival, none for an injected packet. -/
def State.portCheck (s : State) (part vc : Nat) (inp : Option (Nat × Nat)) (o : Port) : Option (Nat × Nat) :=
  if !o.up then some (2, 0)
  else if o.prt ≠ part || part = 0xffff then some (1, 3)
  else match inp with
    | none => none
    | some (i, vin) => if vc > vin || (vc = vin && decide (o.rko > (s.portAt i).rki)) then none else some (1, 4)

/-- The hub hops that lead inside the module from an endpoint or a port of cluster `c` to the endpoints of cluster `d` on channel `vc` (R165). -/
def hubLegs (vc c d : Nat) : List (Nat × Nat) := (if c = d then [] else [(vc, 96 + 6 * c + d)]) ++ [(vc, 210 + d)]

/-- The checks of a package route, hop by hop, from the arrival `inp` on: the first that fails (R160, R165). -/
def State.legsCheck (s : State) (part : Nat) : Option (Nat × Nat) → List (Nat × Nat) → Option (Nat × Nat)
  | _, [] => none
  | inp, (vc, k) :: r => match s.portCheck part vc inp (s.portAt k) with
    | some x => some x
    | none => legsCheck s part (some (farPort k, vc)) r

/-- The package route of a memory access of a core of cluster `c` for partition `part` to a page whose home cluster is `d` passes: to the home slice, and
for the host window on to the I/O die (R122, R165). -/
def State.accessPasses (s : State) (part c pa d : Nat) : Bool :=
  (s.legsCheck part none (hubLegs 0 c d)).isNone && (pa < Config.hostBase || (s.legsCheck part none [(0, 200 + d)]).isNone)

/-- The package route of a host access to memory whose home cluster is `d` passes: out of the I/O die, then to the home slice (R165). -/
def State.hostPasses (s : State) (part d : Nat) : Bool := (s.legsCheck part none [(0, 220 + d), (0, 210 + d)]).isNone

/-- A change of a port; listed ports stand in ascending order. -/
def State.setPort (s : State) (k : Nat) (p : Port) : State :=
  { s with ports := s.ports.filter (fun q => decide (q.1 < k)) ++ (k, p) :: s.ports.filter (fun q => decide (k < q.1)) }
/-- A change of job slot `i`. -/
def State.updSlot (s : State) (i : Nat) (f : JobSlot → JobSlot) : State := { s with slots := modAt f s.slots i }
/-- The job of slot `i`. -/
def State.jobOf (s : State) (i : Nat) : Option Job := (s.slotOf i).job
/-- A change of the job of slot `i`. -/
def State.updJob (s : State) (i : Nat) (f : Job → Job) : State :=
  s.updSlot i (fun j => { j with job := j.job.map f })
/-- The launch record that a hart belongs to. -/
def State.launchOf (s : State) (h : Hart) : Option Launch :=
  match s.jobOf h.slot with
  | none => none
  | some j => j.launches.find? (·.id = h.launchid)

/-- The hart belongs to a gang launch (R60). -/
def State.inGang (s : State) (h : Hart) : Bool :=
  match s.launchOf h with
  | none => false
  | some l => l.block.gang

/-- The current phase of job slot `i`. -/
def State.phaseOf (s : State) (i : Nat) : Option Phase := match s.jobOf i with
  | none => none
  | some j => j.phases[j.cur]?

/-- The current phase of job slot `i` is timetabled (R56). -/
def State.timedIn (s : State) (i : Nat) : Bool := match s.phaseOf i with
  | none => false
  | some p => p.timed

/-- The launch of the hart is a legacy gang (R68). -/
def State.legacyOf (s : State) (h : Hart) : Bool := match s.launchOf h with
  | none => false
  | some l => l.block.legacy

/-- The active lane count of the hart's core: the one its controller chose (R65), 16 while the module is throttled in a dispatched phase
(R396); a legacy launch keeps the one it was given at a barrier (R68). -/
def State.lanes (s : State) : Nat :=
  let n := (s.coreOf s.hart.cl s.hart.core).lanes
  if decide (1 ≤ s.health) && !s.timedIn s.hart.slot && !s.legacyOf s.hart then min 16 n else n

/-- The grant that the next STRIP uses (R66). -/
def State.grant (s : State) : Nat := max 64 (s.hart.gbase * s.lanes / 64)

/-! ### Physical memory -/

/-- The line of a physical byte (R122). -/
def lineOf (pa : Nat) : Nat := pa / 128 * 128

/-- The home slice of a line within its cluster (R122). -/
def homeSlice (pa : Nat) : Nat :=
  bits pa 12 7 ^^^ bits pa 18 13 ^^^ bits pa 24 19 ^^^ bits pa 30 25 ^^^ bits pa 36 31 ^^^ bits pa 42 37 ^^^ bits pa 48 43
    ^^^ bits pa 50 49

/-- The cluster whose slices serve the line (R122): of main memory PA[40:38]; of the host window the one that the leaf of the page in use
names (log 15). -/
def State.homeCluster (s : State) (pa : Nat) : Nat :=
  if pa < Config.mainBytes then bits pa 40 38 else mapGet 0 s.homes (lineOf pa)

/-- The byte lies in main memory or in the host window (R121). -/
def physExists (pa : Nat) : Bool := decide (pa < Config.mainBytes) || (decide (Config.hostBase ≤ pa) && decide (pa < Config.physEnd))

/-- The byte lies in a range of memory whose key is erased (R356). -/
def covered (pa : Nat) (r : Nat × Nat × Nat) : Bool := decide (r.1 ≤ pa) && decide (pa < r.2.1)

/-- The ranges without the byte, which has been written anew. -/
def revive (d : List (Nat × Nat × Nat)) (pa : Nat) : List (Nat × Nat × Nat) :=
  d.flatMap (fun r => if covered pa r then [(r.1, pa, r.2.2), (pa + 1, r.2.1, r.2.2)].filter (fun q => decide (q.1 < q.2.1)) else [r])

/-- One byte of physical memory; of an ended secure job's memory it is ciphertext under no living key (R356, log 12). -/
def State.readByte (s : State) (pa : Nat) : Byte := match s.dead.find? (covered pa) with
  | some r => Config.deadByte r.2.2 pa
  | none => mapGet unlisted s.mem pa

/-- `n` bytes of physical memory as a number. -/
def State.readPhys (s : State) (pa n : Nat) : Nat := leNat ((upFrom pa n).map s.readByte)

/-- Breaks the links of every hart but `keep` on the lines of the bytes (R302). -/
def State.breakLinks (s : State) (keep : Nat) (pas : List Nat) : State :=
  if s.links.isEmpty then s
  else { s with links := s.links.filter (fun l => l.1 = keep || !(pas.any (fun p => lineOf p = l.2))) }

/-- A write of a byte of the host window is outstanding until the host completes it, behind those of the byte that are (R393). -/
def State.keepOld (s : State) (w : List (Nat × List Byte)) (b : Nat × Byte) : List (Nat × List Byte) :=
  if b.1 < Config.hostBase then w
  else if w.any (fun q => q.1 = b.1) then w.map (fun q => if q.1 = b.1 then (q.1, q.2 ++ [b.2]) else q)
  else w ++ [(b.1, [mapGet unlisted s.mem b.1, b.2])]

/-- Bytes performed at their home slices, in order: memory, links (R302), poison (a line written whole, R384). -/
def State.writeMem (s : State) (keep : Nat) (bs : List (Nat × Byte)) : State :=
  let s1 := s.breakLinks keep (bs.map (·.1))
  let p := if s.poisoned.isEmpty then [] else
    s.poisoned.filter (fun l => decide (bs.countP (fun b => lineOf b.1 = l.1) < 128))
  { s1 with
    mem := bs.foldl (fun m b => mapSet unlisted m b.1 b.2) s1.mem
    window := if bs.all (fun b => decide (b.1 < Config.hostBase)) then s.window else bs.foldl s.keepOld s.window
    dead := if s.dead.isEmpty then [] else bs.foldl (fun d b => revive d b.1) s.dead
    poisoned := p }

/-- Bytes from `pa` on performed at their home slices. -/
def State.writePhys (s : State) (keep pa : Nat) (bs : List Byte) : State :=
  s.writeMem keep ((upFrom pa bs.length).zip bs)

/-- The bank of the slice that serves a byte, as `twilight` numbers it (R22; which bank holds a line is free, log 15). -/
def State.bankKey (s : State) (pa : Nat) : Nat := 512 * s.homeCluster pa + 8 * homeSlice pa + Config.lineBank (lineOf pa) % 8

/-- Accesses reach the banks of the bytes: a bank at retention voltage begins to wake (R22). -/
def State.touch (s : State) (pas : List Nat) : State :=
  if s.twilight.isEmpty then s
  else ((pas.map s.bankKey).eraseDups.filter s.twilight.contains).foldl (fun s k =>
    let w := Instr.bankWake (k / 512) (k / 8 % 64) (k % 8)
    if s.agenda.contains w then s else s.post w) s

/-- The hart that claims the byte, 0 for none (R141). -/
def State.owner (s : State) (pa : Nat) : Nat := mapGet 0 s.claims pa

/-- The lowest byte of the list that a hart other than `hid` claims, with its owner (R143). -/
def State.raceAt (s : State) (hid : Nat) (pas : List Nat) : Option (Nat × Nat) :=
  if s.claims.isEmpty then none
  else match pas.find? (fun p => s.owner p ≠ 0 && s.owner p ≠ hid) with
    | none => none
    | some p => some (p, s.owner p)

/-- The claim entries of the slice that serves `pa`: one per claimed line per claiming hart (R144). -/
def State.sliceClaims (s : State) (pa : Nat) : Nat :=
  ((s.claims.filter (fun c => homeSlice c.1 = homeSlice pa && s.homeCluster c.1 = s.homeCluster pa)).map
    (fun c => (lineOf c.1, c.2))).eraseDups.length

/-! ### Translation -/

/-- The main-memory region rule of R355: the page's world matches its `sec` bit in the partition of slot `i`. -/
def State.secureAt (s : State) (i pa : Nat) : Bool :=
  match (s.slotOf i).regions.find? (fun r => r.valid && decide (r.base ≤ pa / 65536) && decide (pa / 65536 ≤ r.lim)) with
  | none => true
  | some r => r.secure

/-- The fault of a leaf at `level`, or the leaf (R129, R122, R355). -/
def checkLeaf (level leaf : Nat) : Except Nat Unit :=
  let pa := bits leaf 51 8 * 256
  let home := bits leaf 7 5
  if level ≥ 3 || bits leaf 63 52 ≠ 0 || pa % 2 ^ (16 + (if level = 0 then 0 else if level = 1 then 5 else 14)) ≠ 0 || home ≥ 6
    || (Config.hostBase ≤ pa && bits leaf 4 4 = 1) || (pa < Config.mainBytes && home ≠ bits pa 40 38)
  then .error 0x0c else .ok ()

/-- The exponent of the range that one entry of a table at `level` covers (R128). -/
def levelBits (level : Nat) : Nat := if level = 0 then 16 else 12 + 9 * level
/-- The level of the entries that cover a range of that exponent. -/
def bitsLevel (bs : Nat) : Nat := (bs - 12) / 9

/-- The physical address of `va` under a leaf. -/
def leafPa (bs leaf va : Nat) : Nat := bits leaf 51 8 * 256 / 2 ^ bs * 2 ^ bs + va % 2 ^ bs

/-- The address of the entry for `va` in the table at `t` of a level (R128). -/
def entryAddr (level t va : Nat) : Nat :=
  t + 8 * (if level = 0 then bits va 20 16 else bits va (20 + 9 * level) (12 + 9 * level))

/-- The leaf `e` read for `va` at a level: a page in a reserved range faults before the leaf's own form does (R121, R129, R368). -/
def leafEntry (va level e : Nat) : Except Nat (Nat × Nat) :=
  if !physExists (leafPa (levelBits level) e va) then .error 0x09
  else match checkLeaf level e with
    | .error c => .error c
    | .ok _ => .ok (levelBits level, e)

/-- The structure (6 or 7) of the poisoned line that a read of [pa, pa + n) meets (R379, R384). -/
def State.poisonAt (s : State) (pa n : Nat) : Option Nat :=
  if s.poisoned.isEmpty then none
  else (s.poisoned.find? (fun l => (upFrom pa n).any (fun p => l.1 = lineOf p))).map (·.2)

/-- The table entry at `pa` as a walk reads it; a poisoned line ends the walk with code 0x22 and its structure above the code, as it ends the access
that needs the walk (R384 names no walk: DESIGN CHOICE, log 15). -/
def State.readEntry (s : State) (pa : Nat) : Except Nat Nat :=
  match s.poisonAt pa 8 with
  | some k => .error (0x22 + 256 * k)
  | none => .ok (s.readPhys pa 8)

/-- The walk on from the entry `e` read at `level` (R128, R129): the page-size exponent and the leaf, or a fault code. -/
def walkEntry (s : State) (va : Nat) : Nat → Nat → Except Nat (Nat × Nat)
  | 0, e => if e % 2 = 0 then .error 0x0a else leafEntry va 0 e
  | l + 1, e =>
    if e % 2 = 0 then .error 0x0a
    else if bits e 3 1 ≠ 0 then leafEntry va (l + 1) e
    else if bits e 63 52 ≠ 0 || (l > 0 && bits e 11 8 ≠ 0) || bits e 7 5 ≠ 0 || bits e 51 8 * 256 ≥ Config.mainBytes
    then .error 0x0c
    else match s.readEntry (entryAddr l (bits e 51 8 * 256) va) with
      | .error c => .error c
      | .ok e' => walkEntry s va l e'

/-- The entries read by the walk on from the entry `e` of `level` at address `a`: exponent, entry and address (R130). -/
def entryPath (s : State) (va : Nat) : Nat → Nat → Nat → List (Nat × Nat × Nat)
  | 0, e, a => [(levelBits 0, e, a)]
  | l + 1, e, a => (levelBits (l + 1), e, a) :: (if e % 2 = 0 || bits e 3 1 ≠ 0 then []
      else let a' := entryAddr l (bits e 51 8 * 256) va
        entryPath s va l (s.readPhys a' 8) a')

/-- The entry of the root table for `va` (R128). -/
def rootEntry (s : State) (va t : Nat) : Nat := s.readPhys (entryAddr 4 t va) 8

/-- A fresh walk for job slot `i` (R128). -/
def State.walk (s : State) (i va : Nat) : Except Nat (Nat × Nat) :=
  match s.jobOf i with
  | none => .error 0x0a
  | some j => match s.readEntry (entryAddr 4 j.pgroot va) with
    | .error c => .error c
    | .ok e => walkEntry s va 4 e

/-- The translation caches that serve a hart: its core's, and its cluster's (R130). -/
def Hart.caches (h : Hart) : List Nat := [Config.cores * h.cl + h.core, Config.clusters * Config.cores + h.cl]

/-- The translation caches that serve the accesses of a job that no core makes (messages, the host interface): its clusters'. -/
def State.jobCaches (s : State) (i : Nat) : List Nat :=
  ((upFrom 0 Config.clusters).filter (fun c => (s.slotOf i).clus / 2 ^ c % 2 = 1)).map (fun c => Config.clusters * Config.cores + c)

/-- What the entries that the caches may still hold for `va` give, where it is not what a fresh walk gives (R130). -/
def State.staleIn (s : State) (cs : List Nat) (i va : Nat) : List (Except Nat (Nat × Nat)) :=
  if s.xlat.isEmpty then []
  else
    let fresh := s.walk i va
    ((s.xlat.filter (fun c => cs.contains c.cache && c.slot = i && va / 2 ^ c.bits = c.va / 2 ^ c.bits)).map
      (fun c => walkEntry s va (bitsLevel c.bits) c.leaf.toNat)).filter (fun r => decide (r.toOption ≠ fresh.toOption))

/-- The entry used for `va` by an access that the caches `cs` serve: the walk's, or what an entry that one of them may still hold gives (R130). -/
def State.entryIn (s : State) (cs : List Nat) (i va : Nat) : Except Nat (Nat × Nat) :=
  let fresh := s.walk i va
  match s.staleIn cs i va with
  | [] => fresh
  | c :: r => ((c :: r)[Config.keepsTranslation s.freeN (va / 65536) % (r.length + 2)]?).getD fresh

/-- What the caches of the hart may still hold for `va`, where it is not what a fresh walk gives. -/
def State.stale (s : State) (i va : Nat) : List (Except Nat (Nat × Nat)) := s.staleIn s.hart.caches i va
/-- The entry a hart of job slot `i` uses for `va` (R130). -/
def State.entryFor (s : State) (i va : Nat) : Except Nat (Nat × Nat) := s.entryIn s.hart.caches i va

/-- The physical address and leaf that an entry gives for an access of job slot `i` whose page must also meet `ok`, or a fault code, in the
order 0x09, 0x0a, 0x0c, 0x0b (R368). -/
def State.pageOf (s : State) (i va perm : Nat) (ok : Nat → Bool) (e : Except Nat (Nat × Nat)) : Except Nat (Nat × Nat) :=
  match e with
  | .error c => .error c
  | .ok (bs, leaf) =>
    let pa := leafPa bs leaf va
    if (pa < Config.mainBytes && s.secureAt i pa ≠ (bits leaf 4 4 == 1)) || !ok leaf then .error 0x0c
    else if bits leaf perm perm = 0 then .error 0x0b
    else .ok (pa, leaf)

/-- The translation of `va` for an access of the hart at the issue slot whose page must also meet `ok`. An access whose package route does not
pass goes nowhere (R160); what its hart then sees is open (R388 speaks of messages alone), and in the model it takes the address fault (DESIGN
CHOICE, log 51). -/
def State.translateWith (s : State) (i va perm : Nat) (ok : Nat → Bool) : Except Nat (Nat × Nat) :=
  match s.pageOf i va perm ok (s.entryFor i va) with
  | .error c => .error c
  | .ok (pa, leaf) => if s.accessPasses (s.slotOf i).part s.hart.cl pa (bits leaf 7 5) then .ok (pa, leaf) else .error 0x09

/-- The translation of `va` for an access of the hart at the issue slot, in job slot `i`. -/
def State.translate (s : State) (i va perm : Nat) : Except Nat (Nat × Nat) := s.translateWith i va perm (fun _ => true)

/-- The translation of `va` for an access of job slot `i` that no core makes. -/
def State.translateJob (s : State) (i va perm : Nat) : Except Nat (Nat × Nat) :=
  s.pageOf i va perm (fun _ => true) (s.entryIn (s.jobCaches i) i va)

/-- The entries that a cache can hold (R23, R130). -/
def cacheSize (c : Nat) : Nat := if c < Config.clusters * Config.cores then 128 else 16384

/-- An entry taken into its cache; a full cache loses one (a free choice, log 11). -/
def State.holdEntry (s : State) (c : Cached) : State :=
  if s.xlat.contains c then s
  else
    let n := s.xlat.countP (fun x => x.cache = c.cache)
    if n < cacheSize c.cache then { s with xlat := s.xlat ++ [c] }
    else match (s.xlat.filter (fun x => x.cache = c.cache))[Config.evictsTranslation s.freeN % n]? with
      | none => s
      | some x => { s with xlat := (s.xlat.filter (fun y => decide (y ≠ x))) ++ [c], freeN := s.freeN + 1 }

/-- The entry `e` of a walk for `va` as cache `c` holds it (R130). -/
def cachedAs (c i va : Nat) (e : Nat × Nat × Nat) : Cached := ⟨c, i, va / 2 ^ e.1 * 2 ^ e.1, e.1, BitVec.ofNat 64 e.2.1⟩

/-- The addresses of the entries that a walk reads from memory: those below the last that one of the caches `cs` holds (R128, R130). -/
def State.readAnew (s : State) (cs : List Nat) (i va : Nat) (path : List (Nat × Nat × Nat)) : List Nat :=
  (path.reverse.takeWhile (fun e => !(cs.any (fun c => s.xlat.contains (cachedAs c i va e))))).map (·.2.2)

/-- The caches `cs` hold the entries that the walks for the pages read, where those do not fault (R130, R369), and banks that those reads reach begin
to wake (R22); a free choice, once taken, is not taken again. -/
def State.fillIn (s : State) (cs : List Nat) (i : Nat) (vas : List Nat) : State :=
  vas.foldl (fun s va =>
    let s1 := if (s.staleIn cs i va).isEmpty then s else { s with freeN := s.freeN + 1 }
    match s.jobOf i with
    | none => s1
    | some j =>
      let path := entryPath s va 4 (rootEntry s va j.pgroot) (entryAddr 4 j.pgroot va)
      let s2 := s1.touch (s.readAnew cs i va path)
      match s.walk i va with
      | .ok _ => path.foldl (fun s e => cs.foldl (fun s c => s.holdEntry (cachedAs c i va e)) s) s2
      | .error _ => s2) s

/-- The caches that serve the hart hold the entries used for the pages. -/
def State.fill (s : State) (i : Nat) (vas : List Nat) : State := s.fillIn s.hart.caches i vas

end Sys2Proof.Machine
end

