-- ==== Sys2Proof/Machine/Formats.lean ====
section
/-! DEFINITION. Element formats (R77 to R79), their widths and packs, the validity of `vtype` (R78, R187), block shifts (R88). -/

namespace Sys2Proof.Machine

/-- Width of a format's code in memory, in bits (R77); 0 for a reserved code. -/
def fmtWidth (f : Nat) : Nat :=
  if f = 0 then 32 else if f = 1 then 64 else if f = 2 || f = 3 then 16 else if f = 4 || f = 5 then 8 else if f = 6 then 4
  else if f = 7 then 8 else if f = 8 then 6 else if f = 9 || f = 10 || f = 11 then 8 else if f = 12 then 4
  else if 16 ≤ f && f < 24 then 8 * 2 ^ (f % 4) else 0

/-- Width of an element in registers, in bits: `t6` takes eight (R77). -/
def regWidth (f : Nat) : Nat := if f = 8 then 8 else fmtWidth f

/-- Bytes of one element in memory for the alignment and units of R227: at least 1. -/
def fmtBytes (f : Nat) : Nat := max 1 (regWidth f / 8)

/-- The natural pack of a format: 32 divided by its register width (R283), 1 for wide formats. -/
def naturalPack (f : Nat) : Nat := if regWidth f = 0 then 1 else max 1 (32 / regWidth f)

/-- The format code is listed (R77). -/
def fmtListed (f : Nat) : Bool := f ≤ 12 || (16 ≤ f && f < 24)
/-- A 64-bit format (R79). -/
def fmtWide (f : Nat) : Bool := f = 1 || f = 19 || f = 23
/-- A floating-point format with images: codes 0 to 5 (R92). -/
def fmtFloat (f : Nat) : Bool := f ≤ 5
/-- An integer format (R87). -/
def fmtInt (f : Nat) : Bool := 16 ≤ f && f < 24
/-- A signed integer format (R87). -/
def fmtSigned (f : Nat) : Bool := 16 ≤ f && f < 20
/-- A scaled format (R88). -/
def fmtScaled (f : Nat) : Bool := f = 10 || f = 11 || f = 12

/-- The `vtype` is valid (R78, R187). -/
def Hart.vtypeOk (h : Hart) : Bool :=
  let f := h.fmt
  fmtListed f && f ≠ 9
    && (if f = 6 || f = 12 then h.pack = 8 else h.pack = 1 || (h.pack = naturalPack f && !fmtWide f))
    && h.blen ≤ 10 && h.sr ≤ 4 && h.mode ≤ 5 && h.cap ≤ 13

/-- The block shift of a `blen` or `sblen` code (R88). -/
def blockShift (c : Nat) : Nat := if c = 0 then 5 else c

/-- Slots of one element (R79). -/
def Hart.slotsPer (h : Hart) : Nat := if fmtWide h.fmt then 2 else 1

/-- Bytes of the memory unit of an element index (R227). -/
def Hart.unitBytes (h : Hart) : Nat := if h.pack > 1 then 4 else fmtBytes h.fmt

end Sys2Proof.Machine
end

