-- ==== Sys2Proof/Machine/Flags.lean ====
section
/-! DEFINITION. The flags of `vflags` (R199) and the flag rules of sums, wraps and integer conversions. -/

namespace Sys2Proof.Machine

/-- NV: invalid operation (R199). -/
def flNV : BitVec 5 := 16
/-- DZ: division by zero (R199). -/
def flDZ : BitVec 5 := 8
/-- OF: overflow (R199). -/
def flOF : BitVec 5 := 4
/-- UF: underflow (R199). -/
def flUF : BitVec 5 := 2
/-- NX: inexact (R199). -/
def flNX : BitVec 5 := 1
/-- No flag. -/
def flNone : BitVec 5 := 0

/-- A flag when a condition holds. -/
def flIf (c : Bool) (f : BitVec 5) : BitVec 5 := if c then f else 0

end Sys2Proof.Machine
end

