-- ==== Sys2Proof/Machine/Num.lean ====
section
/-! DEFINITION. Numbers: the exact value of an encoding or image (R80 to R94), round-to-odd into an image (R92), final rounding into
an encoding (R82, R85, R96, R97), exact arithmetic on values (R95), comparison (R101). -/

namespace Sys2Proof.Machine

/-- An exact value: a NaN (sign, signalling, the 52 leading fraction bits), an infinity (sign, whether it is an overflow marker), or
(−1)^sign × m × 2^e. -/
inductive Val where
  | nan (neg sig : Bool) (frac : Nat)
  | inf (neg marker : Bool)
  | num (neg : Bool) (m : Nat) (e : Int)
  deriving DecidableEq, Repr

/-- The canonical NaN (R81). -/
def Val.canon : Val := .nan false false (2 ^ 51)
/-- Zero of a sign. -/
def Val.zero (neg : Bool) : Val := .num neg 0 0
/-- An integer as a value. -/
def Val.ofInt (i : Int) : Val := .num (decide (i < 0)) i.natAbs 0

/-- Fraction bits f_F (table of R92; `e2m1` by R80). -/
def fracBits (f : Nat) : Nat :=
  if f = 0 then 23 else if f = 1 then 52 else if f = 2 then 10 else if f = 3 then 7 else if f = 4 || f = 10 then 3
  else if f = 5 || f = 11 then 2 else 1
/-- The exponent of the smallest normal value, emin_F (table of R92; `e2m1` by R80). -/
def expMin (f : Nat) : Int :=
  if f = 0 || f = 3 then -126 else if f = 1 then -1022 else if f = 2 || f = 5 || f = 11 then -14
  else if f = 4 || f = 10 then -6 else 0
/-- The exponent of the largest finite value. -/
def expMax (f : Nat) : Int :=
  if f = 0 || f = 3 then 127 else if f = 1 then 1023 else if f = 2 || f = 5 || f = 11 then 15
  else if f = 4 || f = 10 then 8 else 2
/-- The largest fraction field at `expMax`: `e4m3` keeps its all-ones code for NaN (R80). -/
def fracTop (f : Nat) : Nat := if f = 4 || f = 10 then 2 ^ fracBits f - 2 else 2 ^ fracBits f - 1
/-- The sign bit of a format as a number. -/
def signBit (f : Nat) (neg : Bool) : Nat := if neg then 2 ^ (fmtWidth f - 1) else 0
/-- The encoding magnitude of infinity; `e4m3` uses 0x7f for its markers and NaN (R94). -/
def infEnc (f : Nat) : Nat :=
  if f = 4 || f = 10 then 0x7f else (2 ^ (fmtWidth f - 1 - fracBits f) - 1) * 2 ^ fracBits f
/-- The largest finite encoding magnitude, of M_F. -/
def maxEnc (f : Nat) : Nat := ((expMax f - expMin f + 1).toNat) * 2 ^ fracBits f + fracTop f

/-- The NaN encoding that keeps a NaN's sign and leading fraction bits, made quiet (R95). -/
def nanEnc (f : Nat) (neg : Bool) (frac : Nat) : Nat :=
  signBit f neg + (if f = 4 || f = 10 then 0x7f
    else infEnc f + (frac / 2 ^ (52 - fracBits f) ||| 2 ^ (fracBits f - 1)))

/-- Floor of log2 of m × 2^e, for m > 0. -/
def flog2 (m : Nat) (e : Int) : Int := (Nat.log2 m : Int) + e

/-- m × 2^e as a multiple of 2^q: the floor, and whether it is exact. -/
def scaleTo (m : Nat) (e q : Int) : Nat × Bool :=
  if q ≤ e then (m * 2 ^ (e - q).toNat, true)
  else let d := 2 ^ (q - e).toNat
    (m / d, m % d == 0)

/-! ### Decoding -/

/-- The value of a tapered code of `k` magnitude bits (R83): NaR reads as a quiet NaN with sign 1 (R91). -/
def taperedVal (k code : Nat) : Val :=
  let neg := code / 2 ^ k % 2 == 1
  let mag := code % 2 ^ k
  if mag = 0 then (if neg then .nan true false (2 ^ 51) else .zero false)
  else
    let first := mag / 2 ^ (k - 1) % 2
    let run := ((upFrom 0 k).takeWhile (fun i => mag / 2 ^ (k - 1 - i) % 2 == first)).length
    let reg : Int := if first = 1 then (run : Int) - 1 else -(run : Int)
    let left := k - (run + 1)
    let ex := if left = 0 then 0 else mag / 2 ^ (left - 1) % 2
    let fb := left - 1
    .num neg (2 ^ fb + mag % 2 ^ fb) (2 * reg + ex - fb)

/-- The exact value of an encoding with its tail (R80 to R83, R87, R91, R92, R94). -/
def decodeVal (f enc tail : Nat) : Val :=
  if fmtInt f then
    let u := enc % 2 ^ fmtWidth f
    if fmtSigned f && decide (2 ^ (fmtWidth f - 1) ≤ u) then .num true (2 ^ fmtWidth f - u) 0 else .num false u 0
  else if f = 7 then taperedVal 7 (enc % 256)
  else if f = 8 then taperedVal 5 (enc % 64)
  else
    let w := fmtWidth f
    let fb := fracBits f
    let neg := enc / 2 ^ (w - 1) % 2 == 1
    let ef := enc / 2 ^ fb % 2 ^ (w - 1 - fb)
    let fr := enc % 2 ^ fb
    if f = 6 || f = 12 then
      (if ef = 0 then .num neg fr (-1) else .num neg (2 + fr) ((ef : Int) - 2))
    else if (f = 4 || f = 10) && ef = 15 && fr = 7 then
      (if tail = 1 then .inf neg true else if tail = 2 then .inf neg false else .nan neg false (7 * 2 ^ 49))
    else if !(f = 4 || f = 10) && ef = 2 ^ (w - 1 - fb) - 1 then
      (if fr = 0 then .inf neg (tail ≠ 0) else .nan neg (fr / 2 ^ (fb - 1) == 0) (fr * 2 ^ (52 - fb)))
    else if ef = 0 then .num neg (4 * fr + tail % 4) (expMin f - fb - 2)
    else .num neg (4 * (2 ^ fb + fr) + tail % 4) (expMin f + (ef : Int) - 1 - fb - 2)

/-! ### Round-to-odd into an image -/

/-- An image: encoding and tail. -/
structure Image where
  enc  : Nat
  tail : Nat
  deriving DecidableEq, Repr

/-- The overflow marker of a format (R94). -/
def markerImage (f : Nat) (neg : Bool) : Image := ⟨signBit f neg + infEnc f, 1⟩
/-- The true infinity of a format, or the carried infinity of `e4m3` (R94). -/
def infImage (f : Nat) (neg : Bool) : Image := ⟨signBit f neg + infEnc f, if f = 4 || f = 10 then 2 else 0⟩

/-- Round-to-odd of an exact value into the image of `f` (R92, R95), with the flags it sets. -/
def roundOdd (v : Val) (f : Nat) : Image × BitVec 5 :=
  match v with
  | .nan neg _ fr => (⟨nanEnc f neg fr, 0⟩, flNone)
  | .inf neg mk => (if mk then markerImage f neg else infImage f neg, flNone)
  | .num neg m e =>
    if m = 0 then (⟨signBit f neg, 0⟩, flNone)
    else
      let ex := max (flog2 m e) (expMin f)
      let q := ex - fracBits f - 2
      let r := scaleTo m e q
      let n := if r.2 then r.1 else r.1 ||| 1
      if ex > expMax f || (ex = expMax f && n / 4 > 2 ^ fracBits f + fracTop f) then (markerImage f neg, flOF)
      else (⟨signBit f neg + ((ex - expMin f).toNat * 2 ^ fracBits f + n / 4), n % 4⟩, flNone)

/-! ### Final rounding -/

/-- Rounds the multiple r of a quantum, with an exact flag and twice-remainder comparison, by a mode (R96): 0 RNE, 1 RNA, 2 RZ, 3 RU, 4 RD,
5 RO. `half` is 0 below, 1 at and 2 above the midpoint; meaningful when inexact. -/
def roundMode (mode : Nat) (neg : Bool) (r half : Nat) (exact : Bool) : Nat :=
  if exact then r
  else match mode with
    | 0 => if half = 2 || (half = 1 && r % 2 = 1) then r + 1 else r
    | 1 => if half ≥ 1 then r + 1 else r
    | 2 => r
    | 3 => if neg then r else r + 1
    | 4 => if neg then r + 1 else r
    | _ => r ||| 1

/-- m × 2^e rounded to a multiple of 2^q by a mode: the multiple and whether it is exact. -/
def roundAt (mode : Nat) (neg : Bool) (m : Nat) (e q : Int) : Nat × Bool :=
  let r := scaleTo m e q
  let h := scaleTo m e (q - 1)
  let half := if h.1 % 2 = 0 then 0 else if h.2 then 1 else 2
  (roundMode mode neg r.1 half r.2, r.2)

/-- A magnitude above M_F, or a marker, resolved by a mode (R97): true for ∞, false for M_F. -/
def overflowInf (mode : Nat) (neg sat : Bool) : Bool :=
  match mode with
  | 0 | 1 => !sat
  | 2 => false
  | 3 => !neg && !sat
  | 4 => neg && !sat
  | _ => false

/-- Final rounding into an IEEE or OCP format with images, codes 0 to 5 (R96, R97). -/
def finFloat (v : Val) (f mode : Nat) (sat : Bool) : Nat × BitVec 5 :=
  let beyond (neg : Bool) : Nat × BitVec 5 :=
    (signBit f neg + (if overflowInf mode neg sat then infEnc f else maxEnc f), flOF ||| flNX)
  match v with
  | .nan neg sig fr => (nanEnc f neg fr, flIf sig flNV)
  | .inf neg mk =>
    if mk then beyond neg
    else if f = 4 || f = 10 then (signBit f neg + (if sat then 0x7e else 0x7f), flNV)
    else (signBit f neg + infEnc f, flNone)
  | .num neg m e =>
    if m = 0 then (signBit f neg, flNone)
    else
      let ex := max (flog2 m e) (expMin f)
      let r := roundAt mode neg m e (ex - fracBits f)
      let enc := (ex - expMin f).toNat * 2 ^ fracBits f + r.1
      if ex > expMax f || decide (enc > maxEnc f) then beyond neg
      else (signBit f neg + enc, flIf (!r.2) flNX ||| flIf (!r.2 && decide (flog2 m e < expMin f)) flUF)

/-- Final store into `e2m1` (R82). -/
def finE2m1 (v : Val) (mode : Nat) : Nat × BitVec 5 :=
  match v with
  | .nan neg _ _ => ((if neg then 0xf else 0x7), flNV)
  | .inf neg mk => ((if neg then 0xf else 0x7), if mk then flOF ||| flNX else flNV)
  | .num neg m e =>
    let s := if neg then 8 else 0
    if m = 0 then (s, flNone)
    else
      let ex := max (flog2 m e) 0
      let r := roundAt mode neg m e (ex - 1)
      let enc := ex.toNat * 2 + r.1
      if enc > 7 then (s + 7, flOF ||| flNX)
      else (s + enc, flIf (!r.2) flNX ||| flIf (!r.2 && decide (flog2 m e < 0)) flUF)

/-- Compares two magnitudes m × 2^e. -/
def cmpMag (m : Nat) (e : Int) (n : Nat) (k : Int) : Ordering :=
  let lo := min e k
  compare (m * 2 ^ (e - lo).toNat) (n * 2 ^ (k - lo).toNat)

/-- The largest code in [1, top] whose magnitude is at most m × 2^e, searching down from `c`. -/
def taperedFloor (k m : Nat) (e : Int) : Nat → Nat
  | 0 => 0
  | c + 1 => match taperedVal k (c + 1) with
    | .num _ n q => if cmpMag n q m e ≠ .gt then c + 1 else taperedFloor k m e c
    | _ => taperedFloor k m e c

/-- Final store into `t8` (k = 7) or `t6` (k = 5) (R85). -/
def finTapered (v : Val) (k mode : Nat) : Nat × BitVec 5 :=
  let top := 2 ^ k - 1
  let s (neg : Bool) : Nat := if neg then 2 ^ k else 0
  match v with
  | .nan _ sig _ => (2 ^ k, flIf sig flNV)
  | .inf neg mk => if mk then (s neg + top, flOF ||| flNX) else (2 ^ k, flNV)
  | .num neg m e =>
    if m = 0 then (0, flNone)
    else
      let c := taperedFloor k m e top
      match taperedVal k c, taperedVal k (c + 1) with
      | .num _ a p, hi =>
        if c = 0 then (s neg + 1, flUF ||| flNX)
        else if cmpMag a p m e = .eq then (s neg + c, flNone)
        else if c = top then (s neg + top, flOF ||| flNX)
        else
          let half : Nat := match hi with
            | .num _ b q =>
              let lo := min p q
              match cmpMag m (e + 1) (a * 2 ^ (p - lo).toNat + b * 2 ^ (q - lo).toNat) lo with
              | .lt => 0
              | .eq => 1
              | .gt => 2
            | _ => 0
          (s neg + (match mode with
            | 0 => if half = 2 || (half = 1 && c % 2 = 1) then c + 1 else c
            | 1 => if half ≥ 1 then c + 1 else c
            | 2 => c
            | 3 => if neg then c else c + 1
            | 4 => if neg then c + 1 else c
            | _ => if c % 2 = 1 then c else c + 1), flNX)
      | _, _ => (0, flNone)

/-- Final rounding into any floating-point store target (R82, R85, R96, R97); a scaled format stores its element format (R284). -/
def finVal (v : Val) (f mode : Nat) (sat : Bool) : Nat × BitVec 5 :=
  if f = 6 || f = 12 then finE2m1 v mode
  else if f = 7 then finTapered v 7 mode
  else if f = 8 then finTapered v 5 mode
  else finFloat v (if f = 10 then 4 else if f = 11 then 5 else f) mode sat

/-- (−1)^neg × m × 2^e rounded to an integer by a mode: the integer and whether it is exact (R251). -/
def roundInt (mode : Nat) (neg : Bool) (m : Nat) (e : Int) : Int × Bool :=
  let r := roundAt mode neg m e 0
  (if neg then -(r.1 : Int) else r.1, r.2)

/-! ### Exact arithmetic -/

/-- A signalling NaN. -/
def Val.sig : Val → Bool
  | .nan _ s _ => s
  | _ => false
/-- Any NaN. -/
def Val.isNan : Val → Bool
  | .nan _ _ _ => true
  | _ => false
/-- A zero. -/
def Val.isZero : Val → Bool
  | .num _ m _ => m == 0
  | _ => false
/-- The sign. -/
def Val.neg : Val → Bool
  | .nan n _ _ => n
  | .inf n _ => n
  | .num n _ _ => n
/-- The value with its sign reversed. -/
def Val.negate : Val → Val
  | .nan n s f => .nan (!n) s f
  | .inf n k => .inf (!n) k
  | .num n m e => .num (!n) m e
/-- The value made quiet. -/
def Val.quiet : Val → Val
  | .nan n _ f => .nan n false f
  | v => v

/-- The NaN that a result propagates: the first of the operands (R95), with NV when any is signalling. -/
def propagate (vs : List Val) : Option (Val × BitVec 5) :=
  match vs.find? Val.isNan with
  | none => none
  | some v => some (v.quiet, flIf (vs.any Val.sig) flNV)

/-- A signed integer times 2^e as a value; an exact zero takes the sign `z`. -/
def signedVal (i : Int) (e : Int) (z : Bool) : Val := if i = 0 then .num z 0 0 else .num (decide (i < 0)) i.natAbs e

/-- A finite value's significand with its sign, at exponent `lo`. -/
def Val.at (v : Val) (lo : Int) : Int :=
  match v with
  | .num n m e => let k := m * 2 ^ (e - lo).toNat
    if n then -(k : Int) else k
  | _ => 0
/-- A finite value's exponent. -/
def Val.exp : Val → Int
  | .num _ _ e => e
  | _ => 0

/-- The exact sum of two values without NaN (R95): the invalid sum of opposite infinities is the canonical NaN with NV. -/
def addVal (a b : Val) : Val × BitVec 5 :=
  match a, b with
  | .inf n k, .inf p q => if n = p then (.inf n (k && q), flNone) else (.canon, flNV)
  | .inf n k, _ => (.inf n k, flNone)
  | _, .inf n k => (.inf n k, flNone)
  | a, b =>
    let lo := min a.exp b.exp
    (signedVal (a.at lo + b.at lo) lo (a.neg && b.neg), flNone)

/-- The exact sum with its NaN rules. -/
def sumVal (a b : Val) : Val × BitVec 5 := (propagate [a, b]).getD (addVal a b)

/-- The exact difference with its NaN rules: a NaN operand keeps its own sign (R95). -/
def subVal (a b : Val) : Val × BitVec 5 := (propagate [a, b]).getD (addVal a b.negate)

/-- The exact product of two values without NaN (R95). -/
def timesVal (a b : Val) : Val × BitVec 5 :=
  let n := a.neg != b.neg
  match a, b with
  | .num _ m e, .num _ p q => (.num n (m * p) (if m * p = 0 then 0 else e + q), flNone)
  | .inf _ k, .inf _ q => (.inf n (k && q), flNone)
  | .inf _ k, b => if b.isZero then (.canon, flNV) else (.inf n k, flNone)
  | a, .inf _ k => if a.isZero then (.canon, flNV) else (.inf n k, flNone)
  | _, _ => (.canon, flNone)

/-- The exact product with its NaN rules. -/
def mulVal (a b : Val) : Val × BitVec 5 := (propagate [a, b]).getD (timesVal a b)

/-- a × b + d, exact, with its NaN rules in the order a, b, d (R211); a product 0 × ∞ is an invalid operation beside a NaN d too (R95, log 25). -/
def fmaVal (a b d : Val) : Val × BitVec 5 :=
  let p := timesVal a b
  match propagate [a, b, d] with
  | some r => (r.1, r.2 ||| p.2)
  | none =>
    match p.1 with
    | .nan _ _ _ => p
    | v => addVal v d

/-- Compares two values (R101): none when unordered. Markers stand between the finite values and the infinities. -/
def cmpVal (a b : Val) : Option Ordering :=
  let rank (v : Val) : Int := match v with
    | .inf true false => -2
    | .inf true true => -1
    | .inf false true => 1
    | .inf false false => 2
    | _ => 0
  match a, b with
  | .nan _ _ _, _ => none
  | _, .nan _ _ _ => none
  | .num _ _ _, .num _ _ _ =>
    let lo := min a.exp b.exp
    some (compare (a.at lo) (b.at lo))
  | a, b => some (compare (rank a) (rank b))

/-- The smaller (`mx` false) or larger image of two (R212): equal images give the first, but for opposite zeros; one NaN gives the other
operand, two the canonical NaN of `f`; a signalling NaN sets NV. -/
def minMaxImage (f : Nat) (a b : Image) (mx : Bool) : Image × BitVec 5 :=
  let x := decodeVal f a.enc a.tail
  let y := decodeVal f b.enc b.tail
  let fl := flIf (x.sig || y.sig) flNV
  match cmpVal x y with
  | none => (if x.isNan && y.isNan then ⟨nanEnc f false (2 ^ 51), 0⟩ else if x.isNan then b else a, fl)
  | some .lt => (if mx then b else a, fl)
  | some .gt => (if mx then a else b, fl)
  | some .eq => (if x.isZero && y.isZero && x.neg ≠ y.neg then (if x.neg = !mx then a else b) else a, fl)

/-- RNE32 of R292 and R104: nearest even into `f32`, the overflow marker with OF beyond M_f32. -/
def rne32 (v : Val) : Image × BitVec 5 :=
  match v with
  | .nan neg _ fr => (⟨nanEnc 0 neg fr, 0⟩, flNone)
  | .inf neg mk => (if mk then markerImage 0 neg else infImage 0 neg, flNone)
  | .num neg m e =>
    if m = 0 then (⟨signBit 0 neg, 0⟩, flNone)
    else
      let ex := max (flog2 m e) (-126)
      let r := roundAt 0 neg m e (ex - 23)
      let enc := (ex + 126).toNat * 2 ^ 23 + r.1
      if ex > 127 || decide (enc > maxEnc 0) then (markerImage 0 neg, flOF) else (⟨signBit 0 neg + enc, 0⟩, flNone)

/-- The value of an image. -/
def Image.val (i : Image) (f : Nat) : Val := decodeVal f i.enc i.tail

end Sys2Proof.Machine
end

