-- ==== Sys2Proof/Machine/Functions.lean ====
section
/-! DEFINITION. Quotient, square root, e^x, ln x, the logistic function and tanh, correctly rounded to odd, and the seeds
(R99, R100, R249, R253). A result that is not exact is returned as a value of at least 64 significant bits whose last bit is odd:
round-to-odd of it into a format of fewer bits is round-to-odd of the exact result (R98). -/

namespace Sys2Proof.Machine

/-! ### Quotient and square root -/

/-- The quotient of two nonzero magnitudes, at least 70 bits, the last made odd when a remainder is left. -/
def divMag (m : Nat) (e : Int) (n : Nat) (k : Int) : Nat × Int :=
  let sh : Nat := 70 + Nat.log2 n
  let q := m * 2 ^ sh / n
  (if m * 2 ^ sh % n = 0 then q else q ||| 1, e - k - sh)

/-- x / y with its special cases (R95, R249). -/
def divVal (a b : Val) : Val × BitVec 5 :=
  match propagate [a, b] with
  | some r => r
  | none =>
    let n := a.neg != b.neg
    match a, b with
    | .inf _ _, .inf _ _ => (.canon, flNV)
    | .inf _ k, _ => (.inf n k, flNone)
    | _, .inf _ _ => (.zero n, flNone)
    | .num _ m e, .num _ p q =>
      if p = 0 then (if m = 0 then (.canon, flNV) else (.inf n false, flDZ))
      else if m = 0 then (.zero n, flNone)
      else let r := divMag m e p q
        (.num n r.1 r.2, flNone)
    | _, _ => (.canon, flNone)

/-- The integer square root, bit by bit from bit `k` − 1. -/
def isqrtFrom (n : Nat) : Nat → Nat → Nat
  | 0, r => r
  | k + 1, r => let t := r + 2 ^ k
    isqrtFrom n k (if t * t ≤ n then t else r)
/-- The integer square root. -/
def isqrt (n : Nat) : Nat := isqrtFrom n (Nat.log2 n / 2 + 1) 0

/-- √(m × 2^e) of a nonzero magnitude, at least 70 bits, the last made odd when inexact. -/
def sqrtMag (m : Nat) (e : Int) : Nat × Int :=
  let sh : Nat := 140 + (if (e % 2).toNat = 1 then 1 else 0)
  let r := isqrt (m * 2 ^ sh)
  (if r * r = m * 2 ^ sh then r else r ||| 1, (e - sh) / 2)

/-- √x (R253). -/
def sqrtVal (a : Val) : Val × BitVec 5 :=
  match propagate [a] with
  | some r => r
  | none =>
    match a with
    | .inf true _ => (.canon, flNV)
    | .num n m e =>
      if m = 0 then (a, flNone)
      else if n then (.canon, flNV)
      else let r := sqrtMag m e
        (.num false r.1 r.2, flNone)
    | v => (v, flNone)

/-! ### Interval arithmetic in fixed point with `p` fraction bits -/

/-- Bounds of a real: lo/2^p and hi/2^p. -/
structure Bounds where
  lo : Nat
  hi : Nat
  deriving DecidableEq, Repr

/-- Bounds of m × 2^e. -/
def boundsOf (p m : Nat) (e : Int) : Bounds :=
  let r := scaleTo m e (-(p : Int))
  ⟨r.1, if r.2 then r.1 else r.1 + 1⟩

/-- The terms of the exponential series of t from term `k` on, with their sum; `n` terms are left. -/
def expTerms (p : Nat) (t : Bounds) : Nat → Nat → Bounds → Bounds → Bounds
  | 0, _, term, sum => ⟨sum.lo, sum.hi + 2 * term.hi + 2⟩
  | n + 1, k, term, sum =>
    let nx : Bounds := ⟨term.lo * t.lo / 2 ^ p / k, term.hi * t.hi / 2 ^ p / k + 1⟩
    expTerms p t n (k + 1) nx ⟨sum.lo + nx.lo, sum.hi + nx.hi⟩

/-- Squared `n` times. -/
def squareUp (p : Nat) : Nat → Bounds → Bounds
  | 0, b => b
  | n + 1, b => squareUp p n ⟨b.lo * b.lo / 2 ^ p, b.hi * b.hi / 2 ^ p + 1⟩

/-- Bounds of e^(m × 2^e) for a magnitude below 2^12: the argument is divided by 2^20 and the exponential squared 20 times. -/
def expBounds (p m : Nat) (e : Int) : Bounds :=
  let t := boundsOf p m (e - 20)
  squareUp p 20 (expTerms p t (p / 8 + 2) 1 ⟨2 ^ p, 2 ^ p⟩ ⟨2 ^ p, 2 ^ p⟩)

/-- The bounds' common value at 64 significant bits with the last made odd, as a magnitude at 2^(−p); none when they differ. -/
def agree (p : Nat) (b : Bounds) : Option (Nat × Int) :=
  let d := Nat.log2 b.lo - 64
  if 2 ^ 66 ≤ b.lo && b.lo / 2 ^ d = b.hi / 2 ^ d then some (b.lo / 2 ^ d ||| 1, (d : Int) - p) else none

/-- The function's value by bounds at rising precisions (log 17). -/
def refine (f : Nat → Bounds) : List Nat → Nat × Int
  | [] => let b := f 4096
    (b.lo ||| 1, -4096)
  | p :: r => match agree p (f p) with
    | some v => v
    | none => refine f r

/-- The precisions tried, in fraction bits. -/
def precisions : List Nat := [256, 512, 1024, 2048]

/-- 1/x of bounds. -/
def Bounds.inv (p : Nat) (b : Bounds) : Bounds := ⟨2 ^ (2 * p) / b.hi, 2 ^ (2 * p) / b.lo + 1⟩
/-- x/y of bounds. -/
def Bounds.div (p : Nat) (a b : Bounds) : Bounds := ⟨a.lo * 2 ^ p / b.hi, a.hi * 2 ^ p / b.lo + 1⟩

/-- m × 2^e ≥ 2^k. -/
def magGe (m : Nat) (e k : Int) : Bool := decide (k ≤ flog2 m e)

/-- e^x for finite nonzero x (R99). -/
def expFinite (neg : Bool) (m : Nat) (e : Int) : Nat × Int :=
  if magGe m e 12 then (1, if neg then -6000 else 6000)
  else if !magGe m e (-100) then (if neg then (2 ^ 200 - 1, -200) else (2 ^ 200 + 1, -200))
  else if neg then
    -- the reciprocal of e^|x|, which is below 2^5910, keeps its leading bits with 6000 more fraction bits
    refine (fun p =>
      let b := expBounds p m e
      ⟨2 ^ (2 * p + 6000) / b.hi, 2 ^ (2 * p + 6000) / b.lo + 1⟩) precisions |> fun r => (r.1, r.2 - 6000)
  else refine (fun p => expBounds p m e) precisions

/-- e^x (R253). -/
def expVal (a : Val) : Val × BitVec 5 :=
  match propagate [a] with
  | some r => r
  | none =>
    match a with
    | .inf true _ => (.zero false, flNone)
    | .num n m e =>
      if m = 0 then (.num false 1 0, flNone)
      else let r := expFinite n m e
        (.num false r.1 r.2, flNone)
    | v => (v, flNone)

/-- The terms w^(2i+1)/(2i+1) of the inverse hyperbolic tangent's series. -/
def atanhTerms (p : Nat) (w2 : Bounds) : Nat → Nat → Bounds → Bounds → Bounds
  | 0, _, pw, sum => ⟨sum.lo, sum.hi + 2 * pw.hi + 2⟩
  | n + 1, k, pw, sum =>
    let nx : Bounds := ⟨pw.lo * w2.lo / 2 ^ p, pw.hi * w2.hi / 2 ^ p + 1⟩
    atanhTerms p w2 n (k + 2) nx ⟨sum.lo + nx.lo / k, sum.hi + nx.hi / k + 1⟩

/-- Bounds of ln z = 2 atanh((z − 1)/(z + 1)) for 1 ≤ z ≤ 2. -/
def lnBounds (p : Nat) (z : Bounds) : Bounds :=
  let w := Bounds.div p ⟨z.lo - 2 ^ p, z.hi - 2 ^ p⟩ ⟨z.lo + 2 ^ p, z.hi + 2 ^ p⟩
  let w2 : Bounds := ⟨w.lo * w.lo / 2 ^ p, w.hi * w.hi / 2 ^ p + 1⟩
  let s := atanhTerms p w2 (p / 3 + 2) 3 w w
  ⟨2 * s.lo, 2 * s.hi⟩

/-- |ln x| for finite positive x ≠ 1, and whether it is negative. -/
def lnFinite (m : Nat) (e : Int) : Bool × Nat × Int :=
  let k := flog2 m e
  let z : Nat × Int := (m, e - k)
  let part (p : Nat) : Bounds :=
    let l2 := lnBounds p ⟨2 ^ (p + 1), 2 ^ (p + 1)⟩
    let lz := lnBounds p (boundsOf p z.1 z.2)
    if k ≥ 0 then ⟨k.toNat * l2.lo + lz.lo, k.toNat * l2.hi + lz.hi⟩
    else ⟨(-k).toNat * l2.lo - lz.hi, (-k).toNat * l2.hi - lz.lo⟩
  (decide (k < 0), refine part precisions)

/-- ln x (R253). -/
def lnVal (a : Val) : Val × BitVec 5 :=
  match propagate [a] with
  | some r => r
  | none =>
    match a with
    | .inf true _ => (.canon, flNV)
    | .num n m e =>
      if m = 0 then (.inf true false, flDZ)
      else if n then (.canon, flNV)
      else if cmpMag m e 1 0 = .eq then (.zero false, flNone)
      else let r := lnFinite m e
        (.num r.1 r.2.1 r.2.2, flNone)
    | v => (v, flNone)

/-- 1/(1 + e^−x) (R253). -/
def sigmVal (a : Val) : Val × BitVec 5 :=
  match propagate [a] with
  | some r => r
  | none =>
    match a with
    | .inf true _ => (.zero false, flNone)
    | .inf false _ => (.num false 1 0, flNone)
    | .num n m e =>
      if m = 0 then (.num false 1 (-1), flNone)
      else if !magGe m e (-100) then (.num false (if n then 2 ^ 200 - 1 else 2 ^ 200 + 1) (-201), flNone)
      else if magGe m e 7 then
        (if n then (let r := expFinite true m e
            (.num false r.1 r.2, flNone))
          else (.num false (2 ^ 200 - 1) (-200), flNone))
      else
        let r := refine (fun p =>
          let b := expBounds p m e
          let d : Bounds := ⟨b.lo + 2 ^ p, b.hi + 2 ^ p⟩
          if n then d.inv p else Bounds.div p b d) precisions
        (.num false r.1 r.2, flNone)
    | v => (v, flNone)

/-- tanh x (R253). -/
def tanhVal (a : Val) : Val × BitVec 5 :=
  match propagate [a] with
  | some r => r
  | none =>
    match a with
    | .inf n _ => (.num n 1 0, flNone)
    | .num n m e =>
      if m = 0 then (a, flNone)
      else if !magGe m e (-100) then (.num n (m * 2 ^ 200 - 1) (e - 200), flNone)
      else if magGe m e 6 then (.num n (2 ^ 200 - 1) (-200), flNone)
      else
        let r := refine (fun p =>
          let b := expBounds p m (e + 1)
          Bounds.div p ⟨b.lo - 2 ^ p, b.hi - 2 ^ p⟩ ⟨b.lo + 2 ^ p, b.hi + 2 ^ p⟩) precisions
        (.num n r.1 r.2, flNone)
    | v => (v, flNone)

/-! ### Seeds (R100) -/

/-- num/den rounded to a multiple of 2^(−q), to nearest even. -/
def rneRatio (num den q : Nat) : Nat :=
  let n := num * 2 ^ q / den
  let r := num * 2 ^ q % den
  if 2 * r > den || (2 * r = den && n % 2 = 1) then n + 1 else n

/-- The `k` leading fraction bits of m, padded with zeros (R100). -/
def topFrac (m k : Nat) : Nat := m * 2 ^ k / 2 ^ Nat.log2 m % 2 ^ k

/-- The reciprocal seed of 2^E × 1.f (R100): 1/midpoint lies in (1/2, 1), so its significand has 10 fraction bits at 2^(−11). -/
def rcpeMag (m : Nat) (e : Int) : Nat × Int :=
  let i := topFrac m 9
  -- midpoint = (2 × (512 + i) + 1) / 1024
  (rneRatio 1024 (2 * (512 + i) + 1) 11, -(flog2 m e) - 11)

/-- √(num/den) rounded to a multiple of 2^(−11), to nearest even. -/
def rneRoot (num den : Nat) : Nat :=
  let n := isqrt (num * 2 ^ 22 / den)
  -- compares (n + 1/2)² = (2n + 1)²/4 with num × 2^22/den
  match compare ((2 * n + 1) * (2 * n + 1) * den) (num * 2 ^ 24) with
  | .lt => n + 1
  | .eq => if n % 2 = 1 then n + 1 else n
  | .gt => n

/-- The reciprocal square root seed of 2^E × 1.f (R100): the midpoint lies in [1, 4). -/
def rsqeMag (m : Nat) (e : Int) : Nat × Int :=
  let k := flog2 m e
  let i := topFrac m 8
  let odd := k % 2 = 1
  -- midpoint = (2 × (256 + i) + 1) / 512, twice that for odd E
  (rneRoot 512 (if odd then 2 * (2 * (256 + i) + 1) else 2 * (256 + i) + 1), -((k - k % 2) / 2) - 11)

/-- VRCPE (R100, R253). -/
def rcpeVal (a : Val) : Val × BitVec 5 :=
  match propagate [a] with
  | some r => r
  | none =>
    match a with
    | .num n m e => if m = 0 then (.inf n false, flDZ) else
        let r := rcpeMag m e
        (.num n r.1 r.2, flNone)
    | v => (.zero v.neg, flNone)

/-- VRSQE (R100, R253). -/
def rsqeVal (a : Val) : Val × BitVec 5 :=
  match propagate [a] with
  | some r => r
  | none =>
    match a with
    | .num n m e =>
      if m = 0 then (.inf n false, flDZ)
      else if n then (.canon, flNV)
      else let r := rsqeMag m e
        (.num false r.1 r.2, flNone)
    | .inf true _ => (.canon, flNV)
    | _ => (.zero false, flNone)

end Sys2Proof.Machine
end

