-- ==== Sys2Proof/Machine/Records.lean ====
section
/-! DEFINITION. The dusk record (R397, R398) and the work records: handles, counters, completion, cancellation, readiness, phases
and the end of a job (R30 to R32, R53 to R58, R312, R356). -/

namespace Sys2Proof.Machine

/-! ### The dusk record -/

/-- An event is written to the dusk record, which keeps the last 8,192 (R397); the µs of its time are free (log 14). -/
def State.log (s : State) (etype blk inst a b : Nat) : State :=
  let e : DuskEvent := ⟨s.dcnt, BitVec.ofNat 64 (s.boots % 65536 * 2 ^ 48 + (Config.duskMicros s.dcnt).toNat), etype, blk, inst,
    BitVec.ofNat 32 a, BitVec.ofNat 64 b⟩
  { s with dusk := (s.dusk ++ [e]).drop (s.dusk.length + 1 - Config.duskEvents), dcnt := s.dcnt + 1 }

/-- The dusk events of a race (R376, R398 types 3 and 0x8003). -/
def State.logRace (s : State) (h : Hart) (pa owner : Nat) (store : Bool) : State :=
  let o := (s.hartOf owner).getD Hart.vacant
  (s.log 3 2 (s.homeCluster pa) (h.launchid % 2 ^ 24 + 2 ^ 24 * homeSlice pa)
    (o.launchid % 2 ^ 24 + 2 ^ 24 * (h.lcore % 2 ^ 20) + 2 ^ 44 * (o.lcore % 2 ^ 20))).log 0x8003 2 (s.homeCluster pa)
    (if store then 1 else 0) pa

/-! ### Handles and records -/

/-- The all-ones handle, which names no record (R312). -/
def noHandle : Nat := 0xffffffffffffffff
/-- A handle from its level and index (R312). -/
def mkHandle (lvl idx : Nat) : Nat := lvl * 2 ^ 61 + idx
/-- `lvl` of a handle (R312). -/
def handleLvl (h : Nat) : Nat := bits h 63 61
/-- `idx` of a handle (R312). -/
def handleIdx (h : Nat) : Nat := bits h 31 0

/-- Counter and state of a record of the job, none when the index is not assigned. -/
def Job.record (j : Job) (lvl idx : Nat) : Option (Nat × RecState) :=
  match lvl with
  | 0 => (j.launches.find? (·.id = idx)).map (fun l => (l.counter, l.state))
  | 1 => (j.graphs.find? (·.id = idx)).map (fun g => (g.counter, g.state))
  | 2 => match j.phases[idx]? with
    | some p => if p.begun then some (p.counter, p.state) else none
    | none => none
  | 3 => if idx = 0 then some (j.counter, j.state) else none
  | _ => none

/-- The job with a record's counter and state changed. -/
def Job.setRec (j : Job) (lvl idx c : Nat) (st : RecState) : Job :=
  match lvl with
  | 0 => { j with launches := j.launches.map (fun l => if l.id = idx then { l with counter := c, state := st } else l) }
  | 1 => { j with graphs := j.graphs.map (fun g => if g.id = idx then { g with counter := c, state := st } else g) }
  | 2 => { j with phases := modAt (fun p => { p with counter := c, state := st }) j.phases idx }
  | 3 => { j with counter := c, state := st }
  | _ => j

/-- The parent record (R30). -/
def Job.parent (j : Job) (lvl idx : Nat) : Option (Nat × Nat) :=
  match lvl with
  | 0 => match j.launches.find? (·.id = idx) with
    | none => none
    | some l => match l.graph with
      | some g => some (1, g)
      | none => some (2, l.phase)
  | 1 => (j.graphs.find? (·.id = idx)).map (fun g => (2, g.phase))
  | 2 => some (3, 0)
  | _ => none

/-- The record (lvl, idx) of the launch's job contains the launch (R30). -/
def inRecord (lvl idx : Nat) (l : Launch) : Bool :=
  match lvl with
  | 0 => l.id = idx
  | 1 => decide (l.graph = some idx)
  | 2 => l.phase = idx
  | 3 => true
  | _ => false

/-- A record that has not ended. -/
def RecState.open_ (st : RecState) : Bool := st = .running || st = .cancelling

/-- Counter and state of a record of slot `i`. -/
def State.record (s : State) (i lvl idx : Nat) : Option (Nat × RecState) :=
  match s.jobOf i with
  | none => none
  | some j => j.record lvl idx

/-- A handle that names an assigned record (R313). -/
def State.handleOk (s : State) (i h : Nat) : Bool :=
  handleLvl h ≤ 3 && bits h 60 32 = 0 && (s.record i (handleLvl h) (handleIdx h)).isSome

/-- A wait that is over: the all-ones handle, or a record whose counter reads zero (R58). -/
def Job.waitOver (j : Job) (h : Nat) : Bool :=
  if h = noHandle then true
  else match j.record (handleLvl h) (handleIdx h) with
    | none => false
    | some (c, _) => c = 0

/-- The order in which the next launch of the module becomes ready (R58). -/
def State.nextReady (s : State) : Nat :=
  s.slots.foldl (fun n sl => match sl.job with
    | none => n
    | some j => j.launches.foldl (fun n l => max n (l.ready + 1)) n) 1

/-- A record that no cancellation has reached. -/
def RecState.alive (st : RecState) : Bool := st = .running || st = .complete

/-- Every graph of slot `i` whose waits read zero opens, and every launch that waits no longer enters its cluster's queue, in
ascending `launchid` (R58); a record that count-downs have completed before is placed as any other. -/
def State.checkReady (s : State) (i : Nat) : State :=
  match s.jobOf i with
  | none => s
  | some j =>
    let gs := j.graphs.map (fun g => if !g.open_ && g.state.alive && g.waits.all j.waitOver then { g with open_ := true } else g)
    let isReady (l : Launch) : Bool :=
      !l.queued && l.ready = 0 && l.state.alive && l.block.waits.all j.waitOver && (match l.graph with
        | none => true
        | some g => gs.any (fun x => x.id = g && x.open_))
    let r := j.launches.foldl (fun (a : List Launch × Nat) l =>
      if isReady l then (a.1 ++ [{ l with queued := true, ready := a.2 }], a.2 + 1) else (a.1 ++ [l], a.2)) ([], s.nextReady)
    s.updJob i (fun j => { j with graphs := gs, launches := r.1 })

/-- The harts that wait in CCWAIT on the record resume (R31). -/
def State.wakeOn (s : State) (i handle : Nat) : State :=
  s.mapHarts (fun h => if h.slot = i && h.status = .ccwait handle then { h with status := .running } else h)

/-- The counter underflow of a count-down that arrived at zero: raised in the issuing hart (R31, R364), or an orphan in the dusk
record. A hart in WAIT wakes (R331). -/
def State.underflow (s : State) (issuer : Option Nat) (handle n : Nat) : State :=
  match issuer with
  | none => s.log 2 9 0 n handle
  | some hid =>
    match s.harts.find? (·.hid = hid) with
    | none => s.log 2 9 0 n handle
    | some _ => s.updHart hid (fun h =>
      { h with underflows := h.underflows ++ [handle], status := if h.status = .waiting then .running else h.status })

/-! ### The end of a job (R54 to R57, R354 to R357) -/

/-- A range of bytes with the part below `a` and the part from `b` on kept. -/
def cutOut (a b : Nat) (r : Nat × Nat) : List (Nat × Nat) :=
  [(r.1, min r.2 a), (max r.1 b, r.2)].filter (fun q => decide (q.1 < q.2))
/-- The part of a range inside [a, b). -/
def cutIn (a b : Nat) (r : Nat × Nat) : List (Nat × Nat) := [(max r.1 a, min r.2 b)].filter (fun q => decide (q.1 < q.2))

/-- The secure ranges among those given, under the region registers from the lowest number on (R355). -/
def secureRanges : List Region → List (Nat × Nat) → List (Nat × Nat)
  | [], l => l
  | r :: rs, l =>
    if r.valid then
      let a := 65536 * r.base
      let b := 65536 * (r.lim + 1)
      (if r.secure then l.flatMap (cutIn a b) else []) ++ secureRanges rs (l.flatMap (cutOut a b))
    else secureRanges rs l

/-- The secure main memory of the partition of slot `i`. -/
def State.secureMemory (s : State) (i : Nat) : List (Nat × Nat) :=
  secureRanges (s.slotOf i).regions (((upFrom 0 Config.clusters).filter (fun c => (s.slotOf i).clus / 2 ^ c % 2 = 1)).map
    (fun c => (c * Config.clusterBytes, (c + 1) * Config.clusterBytes)))

/-- The secure memory of an ended secure job reads as ciphertext under no living key (R356, log 12). -/
def State.sealMemory (s : State) (i : Nat) : State :=
  let rs := s.secureMemory i
  let inside (pa : Nat) : Bool := rs.any (fun r => decide (r.1 ≤ pa) && decide (pa < r.2))
  { s with
    mem := s.mem.filter (fun c => !inside c.1)
    dead := rs.map (fun r => (r.1, r.2, s.freeN)) ++ s.dead
    freeN := s.freeN + 1 }

/-- Bytes of a virtual range of job slot `i`, read through its page tables; an unmapped page reads as nothing. -/
def State.jobBytes (s : State) (i va n : Nat) : List Byte :=
  (upFrom va n).filterMap (fun a => match s.walk i a with
    | .error _ => none
    | .ok (bs, leaf) => some (s.readByte (leafPa bs leaf a)))

/-- The slices of a partition reset: their claims and links are gone (R395). -/
def State.resetSlices (s : State) (i : Nat) : State :=
  let own (pa : Nat) : Bool := (s.slotOf i).clus / 2 ^ s.homeCluster pa % 2 = 1
  { s with claims := s.claims.filter (fun c => !own c.1), links := s.links.filter (fun l => !own l.2) }

/-- The job of slot `i` is done (R354): `st` 4. -/
def State.jobDone (s : State) (i : Nat) : State :=
  s.updSlot i (fun sl => { sl with st := 4, held := false, pendCancel := false, pendHold := false })

/-- The key of an ended secure job erased, and the job done; where the erasure fails (a free choice, log 13) the slices are reset, which destroys the
key, and the partition is reset before the job is done (R395, R398 types 9 and 12). -/
def State.eraseKey (s : State) (i : Nat) : State :=
  let t := { s with freeN := s.freeN + 1 }
  if Config.keyEraseFails s.freeN then ((t.log 12 8 0 3 (s.slotOf i).part).resetSlices i).post (.partitionReset i 4) else t.jobDone i

/-- The job of slot `i`, which is ending, is done once every hart in it has stopped (R55, R354, R356): measurement 7 is taken from the report area
(R357), the translation caches drop the job, the memory of a secure job is sealed and its key erased. -/
def State.closeJob (s : State) (i : Nat) : State :=
  match s.jobOf i with
  | none => s
  | some j =>
    if (s.slotOf i).st ≠ 3 || s.harts.any (fun h => h.slot = i) || !s.keys.contains i && j.sec then s
    else
      let m := if j.rpt = 0 then [] else s.jobBytes i (j.rpt + 64) 1984
      let s1 := { s.updSlot i (fun sl => { sl with report := m }) with
        keys := s.keys.filter (· ≠ i), xlat := s.xlat.filter (fun c => c.slot ≠ i) }
      if j.sec then (s1.sealMemory i).eraseKey i else s1.jobDone i

/-- The records of slot `i` at and below (lvl, idx) that are running become cancelled in this order of arrival, every launch below leaves its queue,
and every hart below is to stop (R32, R53); the steps that stop them and complete the cancellations become due. -/
def State.stopBelow (s : State) (i lvl idx : Nat) : State :=
  match s.jobOf i with
  | none => s
  | some j =>
    let ls := j.launches.filter (fun l => inRecord lvl idx l && l.state = .running)
    let gs := j.graphs.filter (fun g => g.state = .running && (match lvl with
      | 1 => decide (g.id = idx)
      | 2 => decide (g.phase = idx)
      | 3 => true
      | _ => false))
    let ps := (upFrom 0 j.phases.length).filter (fun k => (match j.phases[k]? with
      | some p => p.begun && p.state = .running
      | none => false) && (lvl = 3 || (lvl = 2 && k = idx)))
    let mark (j : Job) (lvl idx : Nat) : Job := match j.record lvl idx with
      | some (c, .running) => j.setRec lvl idx c .cancelling
      | _ => j
    let j1 := ls.foldl (fun j l => mark j 0 l.id) j
    let j2 := gs.foldl (fun j g => mark j 1 g.id) j1
    let j3 := ps.foldl (fun j k => mark j 2 k) j2
    let j4 := if lvl = 3 then mark j3 3 0 else j3
    let hs := s.harts.filter (fun h => h.slot = i && j.launches.any (fun l => inRecord lvl idx l && l.id = h.launchid))
    let s1 := s.updJob i (fun _ => { j4 with launches := j4.launches.map (fun l =>
      if inRecord lvl idx l then { l with queued := false, unplaced := l.block.harts } else l) })
    s1.postAll (hs.map (fun h => .hartCancel h.hid) ++ ls.map (fun l => .cancellationComplete i (mkHandle 0 l.id))
      ++ gs.map (fun g => .cancellationComplete i (mkHandle 1 g.id)) ++ ps.map (fun k => .cancellationComplete i (mkHandle 2 k))
      ++ (if lvl = 3 then [.cancellationComplete i (mkHandle 3 0)] else []))

/-- Some record below the job has not ended. -/
def Job.busy (j : Job) : Bool :=
  j.launches.any (·.state.open_) || j.graphs.any (·.state.open_) || j.phases.any (fun p => p.begun && p.state.open_)

/-- The end of a job (R55, R354): `st` is 3 until everything below the job has stopped; work that is left, where message count-downs have completed
the record early, is ended as a cancellation ends it. -/
def State.endJob (s : State) (i : Nat) : State :=
  let s1 := s.updSlot i (fun sl => { sl with st := 3 })
  (if s1.harts.any (fun h => h.slot = i) || (match s1.jobOf i with
    | none => false
    | some j => j.busy) then s1.stopBelow i 3 0 else s1).closeJob i

/-- The cores of a set of clusters at full lane count, or as many lanes as they have (R74, R381). -/
def State.fullLanes (s : State) (c : Nat) : State :=
  (upFrom 0 Config.cores).foldl (fun s k =>
    let i := s.coreOf c k
    if i.lanes = min 64 i.lmax then s else s.setCore c k { i with lanes := min 64 i.lmax }) s

/-- Phase `k` of slot `i` begins with its counter at `c` (R30, R57): `tick` of its clusters restarts (R75); a timetabled phase runs at 64 lanes, and
at n = 32 while the module is throttled (R74, R396). -/
def State.beginPhase (s : State) (i k c : Nat) : State :=
  let s1 := s.updJob i (fun j => { j with cur := k, phases := modAt (fun p => { p with begun := true, counter := c, state := .running }) j.phases k })
  let cl : Nat × Bool := match s.jobOf i with
    | none => (0, false)
    | some j => match j.phases[k]? with
      | none => (0, false)
      | some p => (p.clus, p.timed)
  (upFrom 0 Config.clusters).foldl (fun s c => if cl.1 / 2 ^ c % 2 = 1 then
    let t := if cl.2 && !s.cores.isEmpty then s.fullLanes c else s
    t.setCluster c { t.clusterOf c with
      tick := 0, next := 0, armed := [], arrived := [], stretch := if cl.2 && decide (1 ≤ s.health) then 32 else (t.clusterOf c).stretch } else s) s1

/-- The job record of slot `i` is running (R32). -/
def State.jobRuns (s : State) (i : Nat) : Bool := match s.jobOf i with
  | none => false
  | some j => j.state = .running

/-- The record (lvl, idx) of slot `i` takes its last state `st` with its counter at zero: waits on it end, its parent is counted
down by one (R31, R54), the job's next phase begins after a phase, and the job ends after its last (R57). A count-down of a parent that stands at
zero leaves it there and is reported: no instruction issued it, and R364 names only an issuing hart, so in the model it is an orphan in the dusk
record (DESIGN CHOICE, log 36). `fuel` bounds the climb of at most four levels. -/
def State.finish (s : State) (i : Nat) (st : RecState) : Nat → Nat → Nat → State
  | 0, _, _ => s
  | fuel + 1, lvl, idx =>
    let s1 := ((s.updJob i (fun j => j.setRec lvl idx 0 st)).wakeOn i (mkHandle lvl idx)).checkReady i
    match s1.jobOf i with
    | none => s1
    | some j =>
      let up (s : State) : State :=
        match j.parent lvl idx with
        | none => s
        | some (pl, px) =>
          match s.record i pl px with
          | some (c, .running) =>
            if c = 0 then s.underflow none (mkHandle pl px) 1
            else if c = 1 then s.finish i .complete fuel pl px
            else (s.updJob i (fun j => j.setRec pl px (c - 1) .running))
          | some (_, .complete) => s.underflow none (mkHandle pl px) 1
          | _ => s
      if lvl = 3 then s1.endJob i
      else
        let s2 := up s1
        if lvl = 2 && decide (idx + 1 < j.phases.length) && s2.jobRuns i then (s2.beginPhase i (idx + 1) 0).finish i .complete fuel 2 (idx + 1) else s2

/-- Fuel for the climb through the levels and for a run of empty phases (R353: at most 256). -/
def climb : Nat := 300

/-- A count-down by `n` arrives at a record (R31, R32): the state, and what exceeds the counter. -/
def State.countExcess (s : State) (i handle n : Nat) : State × Nat :=
  match s.record i (handleLvl handle) (handleIdx handle) with
  | some (c, .running) =>
    if n = 0 then (s, 0)
    else if c = 0 then (s, n)
    else if n < c then (s.updJob i (fun j => j.setRec (handleLvl handle) (handleIdx handle) (c - n) .running), 0)
    else (s.finish i .complete climb (handleLvl handle) (handleIdx handle), n - c)
  | some (_, .complete) => (s, n)
  | _ => (s, 0)

/-- A count-down by `n` with its underflow reported (R31, R364); one for a record of no running job goes to the dusk record. -/
def State.countDown (s : State) (i handle n : Nat) (issuer : Option Nat) : State :=
  if (s.record i (handleLvl handle) (handleIdx handle)).isNone then s.log 2 9 0 n handle
  else
    let r := s.countExcess i handle n
    if r.2 = 0 then r.1 else r.1.underflow issuer handle r.2

/-- A CANCEL arrives at a record (R32, R53): it acts on a running record alone. -/
def State.cancel (s : State) (i lvl idx : Nat) : State :=
  match s.record i lvl idx with
  | some (_, .running) => s.stopBelow i lvl idx
  | _ => s

end Sys2Proof.Machine
end

