-- ==== Sys2Proof/Machine/Ops.lean ====
section
/-! DEFINITION. The operations that instructions share: places and checks of memory accesses (R112 to R117, R204, R205, R227 to R231),
the write-combining buffer with its claims and drains (R140 to R144), loads, stores and atomics, blocks (R406), waits on the copy
engine (R118, R287, R288), fetching (R183), taking a trap and returning from one (R331, R365 to R371). -/

namespace Sys2Proof.Machine

/-- A synchronous trap that is due (R360, R361, R363). `race`: physical byte and owner of a memory-model exception (R376); `here`:
`tepc` is the instruction's own address even inside a convoy (R367); `unit`: the memory unit that faults. -/
structure Trap where
  code : Nat
  acc  : Nat
  tval : Nat
  race : Option (Nat × Nat)
  here : Bool
  unit : Nat
  deriving DecidableEq, Repr

/-- Why an instruction cannot perform: a trap, or a wait on the scoreboard (R118). -/
inductive Stop where
  | trap (t : Trap)
  | stall
  deriving DecidableEq, Repr

/-- A trap with no access and no unit. -/
def Trap.of (code tval : Nat) : Trap := ⟨code, 0, tval, none, false, 0⟩
/-- A trap of a memory access; a walk that met poison gives the structure of its line above the code (R384). -/
def Trap.mem (code acc tval : Nat) : Trap :=
  ⟨code % 256, acc, if code < 256 then tval else tval / 128 * 128 + code / 256, none, false, 0⟩

/-! ### Places -/

/-- Where an address leads (R112, R205). -/
inductive Place where
  | own (off : Nat)
  | peer (lcore off : Nat)
  | virt (va : Nat)
  deriving DecidableEq, Repr

/-- The address is canonical (R112). -/
def canonical (a : Nat) : Bool := bits a 63 56 = 0 || bits a 63 56 = 255
/-- The address lies in the scratchpad aperture (R112). -/
def inAperture (a : Nat) : Bool := decide (0xffffffffe0000000 ≤ a) && decide (a < 2 ^ 64)

/-- The place of an address, or the fault code (R112). -/
def place (a : Nat) : Except Nat Place :=
  if !canonical a then .error 0x09
  else if inAperture a then
    let p := bits a 28 21
    if p = 255 then .ok (.own (bits a 20 0)) else if p < 192 then .ok (.peer p (bits a 20 0)) else .error 0x09
  else .ok (.virt a)

/-- The aperture address of a byte of the hart's own scratchpad (R112). -/
def ownAddr (off : Nat) : Nat := 0xffffffffffe00000 + off % 0x200000

/-- A row of the window covers a byte of [off, off + n). -/
def Window.covers (w : Window) (off n : Nat) : Bool :=
  decide (0 < w.rows) && decide (off < 256 * (w.row + w.rows)) && decide (256 * w.row < off + n)

/-- The scratchpad range is inside the hart's rows and touches no declared feed queue (R113, R117). -/
def Hart.scratchOk (h : Hart) (off n : Nat) : Bool :=
  decide (off + n ≤ 256 * h.sprows) && !(h.fq.any (fun w => w.2.covers off n))

/-- The mesh row of a core (R21). -/
def meshRow (core : Nat) : Nat := core / 16
/-- The mesh column of a core (R21). -/
def meshCol (core : Nat) : Nat := core % 16

/-- The runs of a peer access from one mesh position to another, direction and length: the X run, then the Y run, each left out where it has
no steps (R164). -/
def peerRuns (r c r' c' : Nat) : List (Nat × Nat) :=
  (if c < c' then [(0, c' - c)] else if c' < c then [(1, c - c')] else [])
    ++ (if r < r' then [(2, r' - r)] else if r' < r then [(3, r - r')] else [])

/-- A lane-plane hop as a route block would hold it, on `vc` 0 (R156, R162). -/
def planeHop (run : Nat × Nat) : Nat := 256 * run.1 + 16 * run.2

/-- The hops of the route that the core forms for a peer access (R164): `hc` of them, none on the same core. -/
def peerRoute (r c r' c' : Nat) : List Nat := (peerRuns r c r' c').map planeHop

/-- Where a packet stands on a lane plane: the router, and the port on which it arrived there, none where it was injected. -/
structure PlanePos where
  row : Nat
  col : Nat
  inp : Option Nat

/-- One mesh step in direction `d` on plane `k` of cluster `cl` for partition `part`, on `vc` 0: the check of R160 at the router. -/
def State.planeStep (s : State) (part cl k d : Nat) (p : PlanePos) : Option PlanePos :=
  match meshStep p.row p.col d with
  | none => none
  | some (r', c') =>
    let o := s.portAt (planePort cl k p.row p.col d)
    if o.up && o.prt = part && decide (part ≠ 0xffff) && (match p.inp with
      | none => true
      | some i => decide (o.rko > (s.portAt i).rki))
    then some ⟨r', c', some (planePort cl k r' c' (opposite d))⟩ else none

/-- `n` mesh steps in one direction (R162). -/
def State.planeRun (s : State) (part cl k d : Nat) : Nat → PlanePos → Option PlanePos
  | 0, p => some p
  | n + 1, p => (s.planeStep part cl k d p).bind (s.planeRun part cl k d n)

/-- The route of a peer access on plane `k` passes at every router: `a` and `b` are the cores of one cluster (R162 to R164). -/
def State.planeOk (s : State) (part cl k a b : Nat) : Bool :=
  ((peerRoute (meshRow a) (meshCol a) (meshRow b) (meshCol b)).foldlM (fun p hop => s.planeRun part cl k (bits hop 9 8) (bits hop 7 4) p)
    ⟨meshRow a, meshCol a, none⟩).isSome

/-- The lane planes that `n` bytes at `a` travel on (R205). -/
def planesOf (a n : Nat) : List Nat := ((upFrom (a / 4) ((a + n + 3) / 4 - a / 4)).map (· % 64)).eraseDups

/-- The hart stands inside a convoy of several members. -/
def Hart.midConvoy (h : Hart) : Bool := !h.cur.words.isEmpty

/-- The hart a peer number names (R116): of the same gang launch or the same timetable, resident in the cluster; a hart is of a timetable from
its TTSTART to the end of its last segment or a deviation (DESIGN CHOICE, log 53). An access of a convoy that passed its checks still reaches the
hart that they found. -/
def State.peer (s : State) (lc : Nat) : Option Hart :=
  let h := s.hart
  let same (k : Hart) : Bool := k.slot = h.slot && k.lcore = lc && k.cl = h.cl && !k.preempted
    && ((s.inGang h && k.launchid = h.launchid) || h.cur.reach.contains k.hid || (match h.time, k.time with
      | some a, some b => a.image = b.image
      | _, _ => false))
  s.harts.find? same

/-- Peer accesses of a convoy that has passed its checks still have to reach rows of hart `hid`: those rows stay (R116). -/
def State.awaited (s : State) (hid : Nat) : Bool := s.harts.any (fun k => k.hid ≠ hid && k.midConvoy && k.cur.reach.contains hid)

/-- The hart that a peer access of `n` bytes at `a` reaches: the route that the core forms passes on every plane it uses (R164); where it does
not, the access faults as one that names no hart (log 51). -/
def State.peerTarget (s : State) (lc a n : Nat) : Option Hart :=
  match s.peer lc with
  | none => none
  | some k =>
    if k.core = s.hart.core || (planesOf a n).all (fun p => s.planeOk (s.slotOf s.hart.slot).part s.hart.cl p s.hart.core k.core)
    then some k else none

/-! ### Waits on the copy engine -/

/-- Byte `o` on, `n` bytes, of a tensor identifier entry (R124). -/
def entryField (e : BitVec 512) (o n : Nat) : Nat := bits e.toNat (8 * (o + n) - 1) (8 * o)
/-- A count of an entry as read: 0 in dimensions 1 to 3 reads as 1 (R124). -/
def entryCount (e : BitVec 512) (d : Nat) : Nat :=
  let c := entryField e (16 + 4 * d) 4
  if d > 0 && c = 0 then 1 else c
/-- A stride of an entry (R124). -/
def entryStride (e : BitVec 512) (d : Nat) : Int :=
  let c := entryField e (32 + 4 * d) 4
  if c < 2 ^ 31 then (c : Int) else (c : Int) - 2 ^ 32
/-- The elements of the tensor (R235). -/
def entryElems (e : BitVec 512) : Nat := entryCount e 0 * entryCount e 1 * entryCount e 2 * entryCount e 3
/-- The format code of an entry (R124). -/
def entryFmt (e : BitVec 512) : Nat := entryField e 48 8 % 32

/-- The virtual address of canonical element `i` for elements of whole bytes (R125). -/
def elemBase (e : BitVec 512) (i : Nat) : Nat × Nat :=
  let c0 := entryCount e 0
  let c1 := entryCount e 1
  let c2 := entryCount e 2
  let i0 := if c0 = 0 then 0 else i % c0
  let r := if c0 = 0 then 0 else i / c0
  let off : Int := (r % c1 : Nat) * entryStride e 1 + (r / c1 % c2 : Nat) * entryStride e 2 + (r / (c1 * c2) : Nat) * entryStride e 3
  (((entryField e 0 8 : Int) + off + (i0 : Nat) * entryStride e 0) % 2 ^ 64 |>.toNat, i0)

/-- Bytes [a, a + n) and [b, b + m) share a byte. -/
def overlap (a n b m : Nat) : Bool := decide (a < b + m) && decide (b < a + n) && decide (0 < n) && decide (0 < m)

/-- The bytes and the bit at which element `i` of an entry stands: first byte, count, bit (R125, R126). -/
def elemPlace (e : BitVec 512) (i : Nat) : Nat × Nat × Nat :=
  let f := entryFmt e
  let p := elemBase e i
  if f = 6 || f = 12 then (p.1 + p.2 / 2, 1, 4 * (p.2 % 2))
  else if f = 8 then
    let b := 6 * (p.2 % 4)
    (p.1 + 3 * (p.2 / 4) + b / 8, (b + 5) / 8 - b / 8 + 1, b % 8)
  else (p.1, fmtBytes f, 0)

/-- The bytes of elements [lo, hi) of a tensor: first byte and count of each. -/
def elemSpans (e : BitVec 512) (lo hi : Nat) : List (Nat × Nat) :=
  (upFrom lo (hi - lo)).map (fun i => let p := elemPlace e i; (p.1, p.2.1))

/-- The bytes of an element of a format narrower than a byte that a store of it writes: its own, and to the end of the group when it
is the last of its run along dimension 0 (R86, R126). -/
def narrowBytes (e : BitVec 512) (i : Nat) : Nat × Nat :=
  let p := elemPlace e i
  let i0 := (elemBase e i).2
  if entryFmt e = 8 && i0 + 1 = entryCount e 0 then
    let first := 6 * (i0 % 4) / 8
    (p.1, 3 - first)
  else (p.1, p.2.1)

/-- The scale indexes of an entry (R235). -/
def entryScales (e : BitVec 512) : Nat :=
  let b := 2 ^ blockShift (entryField e 49 1 % 16)
  (entryElems e + b - 1) / b

/-- The window of a T code: fq0 to fq3, sw0 to sw7 (R180). -/
def Hart.window (h : Hart) (t : Nat) : Window := if t < 4 then h.getFq t else h.getSw (t - 16)
/-- Slots of a window. -/
def Window.slots (w : Window) : Nat := 64 * w.rows
/-- The own-scratchpad bytes of a window, as an address range. -/
def Window.span (w : Window) : Nat × Nat := (ownAddr (256 * w.row), 256 * w.rows)

/-- The elements that a TLD moves (R283). -/
def Hart.tldLimit (h : Hart) (o : EngineOp) : Nat :=
  let total := entryElems o.entry - o.a
  if o.tcode < 4 then total
  else min total (if fmtWide (entryFmt o.entry) then (h.window o.tcode).slots / 2 else (h.window o.tcode).slots * naturalPack (entryFmt o.entry))
/-- The elements that a TST moves (R284). -/
def Hart.tstLimit (h : Hart) (o : EngineOp) : Nat :=
  min (entryElems o.entry - o.a) (if o.tcode ≥ 8 && o.tcode < 16 then 4096
    else if fmtWide (entryFmt o.entry) then (h.window o.tcode).slots / 2 else (h.window o.tcode).slots * naturalPack (entryFmt o.entry))

/-- The lines of a destination range: start and length of its 128-byte aligned pieces, ascending (R285). -/
def linesFrom : Nat → Nat → Nat → List (Nat × Nat)
  | 0, _, _ => []
  | fuel + 1, a, n =>
    if n = 0 then [] else
      let k := min n (128 - a % 128)
      (a, k) :: linesFrom fuel (a + k) (n - k)

/-- The first byte of the destination of a BCOPY to an address or into a staging window (R285). -/
def Hart.copyBase (h : Hart) (o : EngineOp) : Nat := if o.kind = .bcopy then o.d else (h.window o.tcode).span.1

/-- The scratchpad offset of window slot `p` (R119). -/
def Window.offset (w : Window) (p : Nat) : Nat := 256 * w.row + 4 * (p % w.slots)

/-- The lines of a BCOPY that have still to move, in the direction fixed at issue (R285). Into a feed queue they are the pieces of the slots that
come next in the stream; `d` counts the bytes read, `got` are the words read that have found no room yet. -/
def Hart.linesLeft (h : Hart) (o : EngineOp) : List (Nat × Nat) :=
  if o.kind = .bcopyTile && decide (o.tcode < 4) then
    let w := h.window o.tcode
    (if o.got.isEmpty then [] else [(w.offset w.fill, 4 * o.got.length)])
      ++ linesFrom (o.b + 1) (w.offset (w.fill + o.got.length)) (o.b - o.d)
  else
    let ls := linesFrom (o.b + 1) (h.copyBase o) o.b
    (if o.desc then ls.reverse else ls).drop o.done

/-- The address ranges that the engine operation has still to read (R287). -/
def Hart.engineReads (h : Hart) (o : EngineOp) : List (Nat × Nat) :=
  match o.kind with
  | .tld => elemSpans o.entry (o.a + o.done) (o.a + h.tldLimit o)
  | .tst => if o.tcode ≥ 16 then [(h.window o.tcode).span] else []
  | .bcopy => (h.linesLeft o).map (fun l => (o.a + (l.1 - h.copyBase o), l.2))
  | .bcopyTile =>
    if o.tcode < 4 then [(o.a + o.d, o.b - o.d)]
    else (h.linesLeft o).map (fun l => (o.a + (l.1 - h.copyBase o), l.2))
  | .qld => [(entryField o.entry 8 8 + o.a + o.done, min (512 - o.done) (entryScales o.entry - (o.a + o.done)))]
  | .tdigest =>
    let n := o.done - entryElems o.entry
    elemSpans o.entry o.done (entryElems o.entry)
      ++ (if fmtScaled (entryFmt o.entry) then [(entryField o.entry 8 8 + n, entryScales o.entry - n)] else [])
  | .mput => [(o.a, o.b)]

/-- The address ranges that the engine operation has still to write (R287); a fill of a staging window writes its rows. -/
def Hart.engineWrites (h : Hart) (o : EngineOp) : List (Nat × Nat) :=
  match o.kind with
  | .tld => if o.tcode ≥ 16 then [(h.window o.tcode).span] else []
  | .tst => (upFrom (o.a + o.done) (h.tstLimit o - o.done)).map (narrowBytes o.entry)
  | .bcopy => h.linesLeft o
  | .bcopyTile => if o.tcode ≥ 16 then [(h.window o.tcode).span] else []
  | .tdigest => [(o.d, 32)]
  | _ => []

/-- Some range of the one list shares a byte with some range of the other. -/
def rangesMeet (xs ys : List (Nat × Nat)) : Bool := xs.any (fun x => ys.any (fun y => overlap x.1 x.2 y.1 y.2))

/-- The T code is that of a declared staging window of which a range covers a byte. -/
def Hart.inStaging (h : Hart) (t : Nat) (rs : List (Nat × Nat)) : Bool :=
  decide (t ≥ 16) && decide ((h.window t).rows > 0) && rangesMeet [(h.window t).span] rs

/-- The engine operation fills the tile register of T code `t`: as its destination, or by a write of rows of a staging window (R289). -/
def Hart.fills (h : Hart) (o : EngineOp) (t : Nat) : Bool :=
  ((o.kind = .tld || o.kind = .bcopyTile) && o.tcode = t) || h.inStaging t (h.engineWrites o)
/-- The engine operation drains the tile register of T code `t`: as its source, or by a read of rows of a staging window (R289). -/
def Hart.drains (h : Hart) (o : EngineOp) (t : Nat) : Bool := (o.kind = .tst && o.tcode = t) || h.inStaging t (h.engineReads o)

/-- The operations up to the last that meets `test`: those that a wait for it waits for, or behind. -/
def Hart.upTo (h : Hart) (test : EngineOp → Bool) : List EngineOp := (h.engine.reverse.dropWhile (fun o => !test o)).reverse

/-- The hart waits while an outstanding engine operation meets `test`; a deferred fault of the last such operation, or of one that it waits behind,
is taken (R288, R368). -/
def Hart.waitFor (h : Hart) (test : EngineOp → Bool) : Except Stop Unit :=
  if h.engine.isEmpty || !h.engine.any test then .ok ()
  else match (h.upTo test).findSome? (·.fault) with
    | some (c, v) => .error (.trap ⟨c / 16, c % 16, v, none, true, 0⟩)
    | none => .error .stall

/-- The hart waits for every engine operation (R146). -/
def Hart.waitAll (h : Hart) : Except Stop Unit := h.waitFor (fun _ => true)

/-- [a, a + n) cut at the boundaries of 64 KiB pages. -/
def pagePieces : Nat → Nat → Nat → List (Nat × Nat)
  | 0, _, _ => []
  | fuel + 1, a, n =>
    if n = 0 then [] else
      let k := min n (65536 - a % 65536)
      (a, k) :: pagePieces fuel (a + k) (n - k)

/-- The key of a scratchpad byte of a hart, beyond every physical address. -/
def scratchKey (hid off : Nat) : Nat := 2 ^ 60 + 2 ^ 21 * hid + off

/-- Where a byte of the hart's address space lies: a physical address, a scratchpad byte, or nowhere. -/
def State.spot (s : State) (a : Nat) : Nat := match place (a % 2 ^ 64) with
  | .error _ => 2 ^ 100 + a % 2 ^ 64
  | .ok (.own off) => scratchKey s.hart.hid off
  | .ok (.peer lc off) => match s.peer lc with
    | none => 2 ^ 100 + a % 2 ^ 64
    | some k => scratchKey k.hid off
  | .ok (.virt va) => match s.entryFor s.hart.slot va with
    | .error _ => 2 ^ 100 + a % 2 ^ 64
    | .ok (bs, leaf) => leafPa bs leaf va

/-- Ranges of the hart's address space as ranges of storage: two addresses of one byte have one place there (R139). -/
def State.spots (s : State) (rs : List (Nat × Nat)) : List (Nat × Nat) :=
  (rs.flatMap (fun r => pagePieces (r.2 / 65536 + 2) r.1 r.2)).map (fun r => (s.spot r.1, r.2))

/-- A load of bytes waits for engine writes of them; a store for engine reads and writes (R287). Accesses to the rows of a
staging window wait on its fills, and stores on its drains (R118, R289). Bytes are told apart by where they lie, so an access to the own
scratchpad by the hart's own `lcore` waits as one with peer field 0xff does (log 51). -/
def State.waitBytes (s : State) (a n : Nat) (write : Bool) : Except Stop Unit :=
  let h := s.hart
  if h.engine.isEmpty then .ok ()
  else
    let here := s.spots [(a, n)]
    let sw (t : Nat) : Bool := decide ((h.window t).rows > 0) && rangesMeet here (s.spots [(h.window t).span])
    h.waitFor (fun o => rangesMeet here (s.spots (h.engineWrites o)) || (write && rangesMeet here (s.spots (h.engineReads o)))
      || (upFrom 16 8).any (fun t => sw t && (h.fills o t || (write && h.drains o t))))

/-! ### The write-combining buffer -/

/-- One line of a hart's buffer performed at its home slice and its claim released (R142). -/
def State.drainLine (s : State) (line : Nat) : State :=
  let h := s.hart
  let here := h.wcb.filter (fun b => lineOf b.1 = line)
  let s1 := (s.touch [line]).writeMem 0 (here.reverse.map (fun b => (b.1, b.2.1)))
  { s1 with
    claims := s1.claims.filter (fun c => !(c.2 = h.hid && lineOf c.1 = line))
    hart := { s1.hart with wcb := s1.hart.wcb.filter (fun b => lineOf b.1 ≠ line), wcbAge := s1.hart.wcbAge.filter (· ≠ line) } }

/-- The host and message accesses that wait at claims are served again (R143, R378). -/
def State.serveWaits (s : State) : State :=
  s.postAll (List.replicate s.hostWait.length (.hostAccessAfterClaim 0))

/-- The hart's buffer drained whole, line by line from the oldest, and its claims released (R142). -/
def State.drain (s : State) : State :=
  if s.hart.wcbAge.isEmpty && s.hart.wcb.isEmpty then s
  else
    let s1 := s.hart.wcbAge.foldl State.drainLine s
    ((s1.hart.wcb.map (fun b => lineOf b.1)).foldl State.drainLine s1).serveWaits

/-- The lines of the buffer that the bytes touch drained, as before an immediate atomic (R147). -/
def State.drainOwn (s : State) (pas : List Nat) : State :=
  let ls := (pas.map lineOf).eraseDups.filter (fun l => s.hart.wcbAge.contains l || s.hart.wcb.any (fun b => lineOf b.1 = l))
  if ls.isEmpty then s else (ls.foldl State.drainLine s).serveWaits

/-- What a hart reads of a byte: its own buffered store, else memory (R140). -/
def State.peek (s : State) (pa : Nat) : Byte :=
  match s.hart.wcb.find? (·.1 = pa) with
  | some b => b.2.1
  | none => s.readByte pa

/-- The core of the hart at the issue slot, as the route caches number it. -/
def State.coreKey (s : State) : Nat := Config.cores * s.hart.cl + s.hart.core

/-- The entries of those lines dropped from the route cache of the hart's core (R158). -/
def State.dropRoutes (s : State) (pas : List Nat) : State :=
  if s.routes.isEmpty then s
  else { s with routes := s.routes.filter (fun r => !(r.core = s.coreKey && pas.any (fun p => lineOf p = lineOf r.addr))) }

/-- Bytes written to a scratchpad at once by the hart (R136); its core's cached route blocks of those lines are dropped (R158). -/
def State.putScratch (s : State) (hid off : Nat) (bs : List Byte) : State :=
  (s.updHart hid (fun h => h.writeScratch off bs)).dropRoutes (upFrom (scratchKey hid off) bs.length)

/-- A plain off-core store of bytes at ascending physical addresses of one line: claim capacity (R144), a full buffer (R142), the
claim (R141). It breaks links when it is written to its home slice (R302). `va` is its virtual address, `eng` says that an engine writes. -/
def State.bufferStore (s : State) (va : Nat) (bs : List (Nat × Byte)) (eng : Bool) : Except Stop State :=
  match bs with
  | [] => .ok s
  | (pa, _) :: _ =>
    let h := s.hart
    let line := lineOf pa
    let s0 := s.dropRoutes (bs.map (·.1))
    if h.wcbAge.contains line then
      .ok { s0 with
        claims := bs.foldl (fun c b => mapSet 0 c b.1 h.hid) s0.claims
        hart := { s0.hart with wcb := bs.foldl (fun w b => (w.filter (·.1 ≠ b.1)) ++ [(b.1, (b.2, eng))]) s0.hart.wcb } }
    else if decide (Config.sliceEntries ≤ s.claims.length) && decide (Config.sliceEntries ≤ s.sliceClaims pa) then
      if h.wcbAge.isEmpty then .ok (s0.writeMem 0 bs) else .error (.trap (.mem 0x21 (if eng then 6 else 2) va))
    else
      let s1 := if h.wcbAge.length < Config.wcbBytes / 128 then s0
        else match h.wcbAge with
          | [] => s0
          | l :: _ => (s0.drainLine l).serveWaits
      .ok { s1 with
        claims := bs.foldl (fun c b => mapSet 0 c b.1 h.hid) s1.claims
        hart := { s1.hart with
          wcb := bs.foldl (fun w b => (w.filter (·.1 ≠ b.1)) ++ [(b.1, (b.2, eng))]) s1.hart.wcb
          wcbAge := s1.hart.wcbAge ++ [line] } }

/-- The hart's links dropped (R302). -/
def State.dropLinks (s : State) : State :=
  { s with links := s.links.filter (fun l => l.1 ≠ s.hart.hid), hart := { s.hart with links := [] } }

/-! ### Access checks -/

/-- What an access reaches: bytes of a hart's scratchpad, or physical bytes. -/
inductive Target where
  | scratch (hid off : Nat)
  | phys (pa leaf : Nat)
  deriving DecidableEq, Repr

/-- The checks of one unit of `n` bytes at `a`, aligned to `al`, in the order of R368: 0x08, 0x09, 0x0d, 0x0a, 0x0c, 0x0b, 0x20.
`acc` is the access code of R360, `perm` the permission bit; `vec` refuses peers (R229); `tv` gives `tval` for the address. -/
def State.check (s : State) (a n al acc perm : Nat) (vec : Bool) : Except Stop Target :=
  if al > 1 && a % al ≠ 0 then .error (.trap (.mem 0x08 acc a))
  else match place a with
    | .error c => .error (.trap (.mem c acc a))
    | .ok (.own off) =>
      if s.hart.scratchOk off n then .ok (.scratch s.hart.hid off) else .error (.trap (.mem 0x0d acc a))
    | .ok (.peer lc off) =>
      if vec then .error (.trap (.mem 0x0d acc a))
      else match s.peerTarget lc a n with
        | none => .error (.trap (.mem 0x0d acc a))
        | some k => if k.scratchOk off n then .ok (.scratch k.hid off) else .error (.trap (.mem 0x0d acc a))
    | .ok (.virt va) =>
      match s.translate s.hart.slot va perm with
      | .error c => .error (.trap (.mem c acc a))
      | .ok (pa, leaf) =>
        match s.raceAt s.hart.hid (upFrom pa n) with
        | some (p, o) => .error (.trap ⟨0x20, acc, a + (p - pa), some (p, o), false, 0⟩)
        | none => .ok (.phys pa leaf)

/-- The bytes a target holds for a reading hart, or code 0x22 (R379, R384). -/
def State.fetchTarget (s : State) (a n acc : Nat) (t : Target) : Except Stop Nat :=
  match t with
  | .scratch hid off =>
    let h := (s.hartOf hid).getD Hart.vacant
    match h.poison.find? (fun p => p.kind = 2 && overlap (4 * p.elem) 4 off n) with
    | some _ => .error (.trap (.mem 0x22 acc (a / 128 * 128 + 2)))
    | none => .ok (h.readScratch off n)
  | .phys pa _ =>
    match s.poisonAt pa n with
    | some k => .error (.trap (.mem 0x22 acc (a / 128 * 128 + k)))
    | none => .ok (leNat ((upFrom pa n).map s.peek))

/-- The bytes written to a target: the scratchpad at once (R136), off-core into the buffer (R141). -/
def State.putTarget (s : State) (a : Nat) (bs : List Byte) (eng : Bool) (t : Target) : Except Stop State :=
  match t with
  | .scratch hid off => .ok (s.putScratch hid off bs)
  | .phys pa _ => s.bufferStore a ((upFrom pa bs.length).zip bs) eng

/-- The home cluster of a host-window line, as the leaf of its page names it (R122). -/
def State.setHome (s : State) (pa leaf : Nat) : State :=
  if pa < Config.hostBase then s else { s with homes := mapSet 0 s.homes (lineOf pa) (bits leaf 7 5) }

/-- What an access leaves behind it beside its effect: the entries for the page of an off-core target in the translation caches (R130), the home
of a host-window line (R122), a bank that begins to wake (R22). -/
def State.note (s : State) (a : Nat) (t : Target) : State :=
  match t with
  | .scratch _ _ => s
  | .phys pa leaf => ((s.setHome pa leaf).touch [pa]).fill s.hart.slot [a]

/-- A plain load of `n` bytes at `a` (R140, R204). -/
def State.load (s : State) (a n al acc : Nat) (vec : Bool) : Except Stop (State × Nat) :=
  match s.waitBytes a n false with
  | .error e => .error e
  | .ok _ =>
    match s.check a n al acc 1 vec with
    | .error e => .error e
    | .ok t =>
      match s.fetchTarget a n acc t with
      | .error e => .error e
      | .ok v => .ok (s.note a t, v)

/-- A plain store of bytes at `a` (R141, R204). -/
def State.store (s : State) (a al : Nat) (bs : List Byte) (vec : Bool) : Except Stop State :=
  match s.waitBytes a bs.length true with
  | .error e => .error e
  | .ok _ =>
    match s.check a bs.length al 2 2 vec with
    | .error e => .error e
    | .ok t => (s.note a t).putTarget a bs false t

/-- A read-modify-write at `a`: `f` gives the new bytes, none for no write (R147). With `rel` it is a drain point; off-core the hart's own
buffered bytes of the lines are drained first in any case. Answers the old value. Relaxed atomics of one hart to different locations may take
effect in any order (R151); in the model they do so in program order (DESIGN CHOICE, log 55). -/
def State.rmw (s : State) (a n : Nat) (vec rel : Bool) (acc perm : Nat) (f : Nat → Option Nat) : Except Stop (State × Nat) :=
  match s.waitBytes a n true with
  | .error e => .error e
  | .ok _ =>
    match s.check a n n acc perm vec with
    | .error e => .error e
    | .ok t =>
      let s0 := if rel then (s.note a t).drain else s.note a t
      match t with
      | .scratch hid off =>
        match s0.fetchTarget a n acc t with
        | .error e => .error e
        | .ok old => match f old with
          | none => .ok (s0, old)
          | some v => .ok (s0.putScratch hid off (leBytes v n), old)
      | .phys pa _ =>
        let s1 := s0.drainOwn (upFrom pa n)
        match s1.fetchTarget a n acc t with
        | .error e => .error e
        | .ok old => match f old with
          | none => .ok (s1, old)
          | some v => .ok ((s1.writePhys 0 pa (leBytes v n)).dropRoutes (upFrom pa n), old)

/-- The pieces of the naturally aligned 8-byte words that a block of `n` bytes at `a` covers: address and length (R406). -/
def blockPieces : Nat → Nat → Nat → List (Nat × Nat)
  | 0, _, _ => []
  | fuel + 1, a, n =>
    if n = 0 then [] else
      let k := min n (8 - a % 8)
      (a, k) :: blockPieces fuel (a + k) (n - k)

/-- The naturally aligned words of up to 8 bytes of a block of `n` bytes at `a` (R406). -/
def blockWords (a n : Nat) : List (Nat × Nat) := blockPieces (n / 8 + 2) a n

/-- A block of `n` bytes read as one operand: alignment `al`, every page checked before any byte is read (R406). -/
def State.loadBlock (s : State) (a n al acc : Nat) : Except Stop (State × Nat) :=
  match s.waitBytes a n false with
  | .error e => .error e
  | .ok _ =>
    if a % al ≠ 0 then .error (.trap (.mem 0x08 acc a))
    else
      let ws := blockWords a n
      match ws.mapM (fun w => s.check (w.1 % 2 ^ 64) w.2 1 acc 1 false) with
      | .error e => .error e
      | .ok ts =>
        match (ws.zip ts).mapM (fun w => s.fetchTarget w.1.1 w.1.2 acc w.2) with
        | .error e => .error e
        | .ok vs => .ok ((ws.zip ts).foldl (fun s w => s.note w.1.1 w.2) s,
            ((ws.zip vs).foldr (fun v r => v.2 + 2 ^ (8 * v.1.2) * r) 0))

/-- A block written as one operand (R406). -/
def State.storeBlock (s : State) (a al : Nat) (bs : List Byte) : Except Stop State :=
  match s.waitBytes a bs.length true with
  | .error e => .error e
  | .ok _ =>
    if a % al ≠ 0 then .error (.trap (.mem 0x08 2 a))
    else
      let ws := blockWords a bs.length
      match ws.mapM (fun w => s.check (w.1 % 2 ^ 64) w.2 1 2 2 false) with
      | .error e => .error e
      | .ok ts => (ws.zip ts).foldlM (fun s w =>
          (s.note w.1.1 w.2).putTarget w.1.1 ((bs.drop (w.1.1 - a)).take w.1.2) false w.2) s

/-! ### Instruction words -/

/-- The instruction word at `va`, or the fetch fault (R183, R363). -/
def State.fetchWord (s : State) (va : Nat) : Except Stop Nat :=
  if va % 4 ≠ 0 || !canonical va || inAperture va then .error (.trap (.mem 0x02 4 va))
  else match s.translate s.hart.slot va 3 with
    | .error c => .error (.trap (.mem (if c < 256 then 0x02 else c) 4 va))
    | .ok (pa, _) =>
      match s.poisonAt pa 4 with
      | some k => .error (.trap (.mem 0x22 4 (va / 128 * 128 + k)))
      | none => .ok (s.readPhys pa 4)

/-- The pc at the next instruction; `vstart` as it stands, as after an instruction that has no element loop and joins no convoy (log 50). -/
def Hart.step4 (h : Hart) : Hart := { h with pc := h.pc + 4, resumeMid := false }
/-- The pc at the next instruction and `vstart` 0, as after every convoy member (R18). -/
def Hart.next (h : Hart) : Hart := { h with pc := h.pc + 4, vstart := 0, resumeMid := false }

/-- An instruction that joins no convoy and has no element loop has completed. -/
def State.advance4 (s : State) : State := s.upd Hart.step4
/-- A convoy member has completed: the pc advances and `vstart` is 0 (R18). -/
def State.advance (s : State) : State := s.upd Hart.next
/-- A scalar instruction that writes x register `d` has completed (R201). -/
def State.wx (s : State) (d : Nat) (v : Word) : Host.Outcome State Fault Refusal := .next (s.upd (fun h => (h.setX d v).step4))
/-- A scalar instruction that writes f register `d` and raises flags has completed (R208, R220). -/
def State.wf (s : State) (d : Nat) (v : BitVec 66) (fl : BitVec 5) : Host.Outcome State Fault Refusal :=
  .next (s.upd (fun h => ((h.setF d v).raise fl).step4))

/-! ### Traps -/

/-- A bit field of `tstatus` (R330). -/
def statusOf (mid intrap pie ie : Bool) : BitVec 64 :=
  BitVec.ofNat 64 (128 * mid.toNat + 64 * intrap.toNat + 32 * pie.toNat + 16 * ie.toNat)

/-- `tcause` from its fields (R360). -/
def causeOf (async nr : Bool) (mem acc code : Nat) : BitVec 64 :=
  BitVec.ofNat 64 (2 ^ 63 * async.toNat + 2 ^ 24 * nr.toNat + 2 ^ 20 * (mem % 16) + 2 ^ 16 * (acc % 8) + code % 256)

/-- The trap entry of R331 alone, with `tepc` = `epc`. -/
def Hart.enterTrap (h : Hart) (cause tval epc : BitVec 64) (mid : Bool) : Hart :=
  { h with tepc := epc &&& (~~~ 3), tcause := cause, tval := tval, tstatus := statusOf mid true h.ie false,
           pc := (h.tvec >>> 2) <<< 2, resumeMid := false, cur := Cursor.alone }

/-- The hart, if it belongs to the timetable in the cluster, is to take the trap of a deviation of core `lc` (R73). -/
def Hart.leaveSegment (image slot cl lc : Nat) (k : Hart) : Hart :=
  match k.time with
  | none => k
  | some u => if u.image = image && k.slot = slot && k.cl = cl then
      { k with time := some { u with dev := some lc }, status := if k.status = Status.ttSync then Status.running else k.status } else k

/-- Every other core of the hart's timetable is to take the trap of a deviation elsewhere (R73), and this hart leaves its segment. -/
def State.abandon (s : State) : State :=
  match s.hart.time with
  | none => s
  | some t =>
    let s1 := { s with others := s.others.map (Hart.leaveSegment t.image s.hart.slot s.hart.cl s.hart.lcore) }
    let s2 := s1.upd (fun h => { h with time := none })
    s2.setCluster s.hart.cl { s2.clusterOf s.hart.cl with armed := [], arrived := [] }

/-- A fault at an off-core access leaves the entries that its walk read in the translation caches, unless the walk itself faulted, and the banks that
those reads reach begin to wake (R22, R130, R369). -/
def State.noteFault (s : State) (t : Trap) : State :=
  if decide (t.acc ≠ 0) && ([0x09, 0x0a, 0x0b, 0x0c, 0x20, 0x21].contains t.code || (t.code = 0x22 && decide (6 ≤ t.tval % 128)))
    && canonical t.tval && !inAperture t.tval then s.fill s.hart.slot [t.tval] else s

/-- A synchronous trap of the hart (R331, R365 to R368, R371): `raceaddr` and the dusk event of a race (R376), links dropped (R302), the entries
of a page without permission in the translation caches (R130, R369); inside a trap handler a double trap, which is recorded and cancels the launch. -/
def State.takeTrap (s : State) (t : Trap) : State :=
  let h := s.hart
  let inside := decide (h.cur.size > 1) && !t.here
  let epc := if inside then h.cur.pc else h.pc
  let mid := if t.here && h.cur.pos > 0 then true else if h.cur.size > 1 then h.cur.mid else h.resumeMid
  let s1 := match t.race with
    | none => if t.code = 0x20 then s.upd (fun h => { h with raceaddr := BitVec.ofNat 64 t.tval }) else s
    | some (p, o) => (s.logRace h p o (t.acc = 2)).upd (fun h => { h with raceaddr := BitVec.ofNat 64 t.tval })
  let s2 := if decide (t.acc < 5) then s1.dropLinks.noteFault t else s1.dropLinks
  let s3 := if t.code = 0x22 then s2.abandon else s2
  if h.intrap then
    (((s3.upd (fun k => { k with cur := Cursor.alone })).log 1 1 h.cl (t.code + 256 * (h.launchid % 2 ^ 24)) epc.toNat).log 0x8001 1 h.cl
      (h.lcore % 2 ^ 20 + 2 ^ 20 * (h.core % 256)) t.tval).cancel h.slot 0 h.launchid
  else
    s3.upd (fun k => { k with vstart := if inside then h.cur.vstart else k.vstart }.enterTrap
      (causeOf false (t.code = 0x22 && h.cur.nr && !t.here) h.cur.pos t.acc t.code) (BitVec.ofNat 64 t.tval) epc mid)

/-- A trap as the outcome of an instruction. -/
def State.trap (s : State) (t : Trap) : Host.Outcome State Fault Refusal := .next (s.takeTrap t)

/-- A trap with code and `tval` and no access. -/
def State.trapWith (s : State) (code tval : Nat) : Host.Outcome State Fault Refusal := s.trap (.of code tval)

/-- The return from a trap (R331): the pc from `tepc`, `ie` from `pie`, `intrap` and `mid` cleared; a target inside a convoy is legal
while `mid` is 1. -/
def Hart.leaveTrap (h : Hart) : Hart :=
  { h with pc := h.tepc, tstatus := statusOf false false (h.tstatus.getLsbD 5) (h.tstatus.getLsbD 5), resumeMid := h.mid,
           cur := Cursor.alone }

/-- An asynchronous source taken at a convoy boundary (R364, R368): a pending fault report before a counter underflow. -/
def State.takeAsync (s : State) (code tval : Nat) : State :=
  s.dropLinks.upd (fun h => { h with underflows := if code = 2 then h.underflows.drop 1 else h.underflows }.enterTrap
    (causeOf true false 0 0 code) (BitVec.ofNat 64 tval) h.pc h.resumeMid)

/-- The wait of an instruction that has not begun: the hart is not ready until the engine moves (R62, R118). -/
def State.stalled (s : State) : State := s.upd (fun h => { h with status := .stalled })

/-- A stop as the outcome of an instruction that has changed nothing. -/
def State.halt (s : State) (e : Stop) : Host.Outcome State Fault Refusal :=
  match e with
  | .trap t => s.trap t
  | .stall => .next s.stalled

/-- The outcome of an operation that may stop before it changes anything. -/
def State.answer (s : State) (r : Except Stop State) : Host.Outcome State Fault Refusal :=
  match r with
  | .ok s' => .next s'
  | .error e => s.halt e

/-- Illegal at issue: code 0x05 with the member's word (R363). -/
def State.illegal (s : State) : Option Trap := some (.of 0x05 s.hart.cur.word)
/-- Illegal at issue when a condition holds. -/
def State.illegalIf (s : State) (c : Bool) : Option Trap := if c then s.illegal else none
/-- The first of two checks that fails. -/
def firstTrap (a b : Option Trap) : Option Trap := match a with
  | some t => some t
  | none => b

/-- An instruction behind its issue checks (R365 phase 3), which a convoy has made for all its members before. -/
def State.gate (s : State) (c : Option Trap) (k : State → Host.Outcome State Fault Refusal) : Host.Outcome State Fault Refusal :=
  if s.hart.cur.checked then k s
  else match c with
    | some t => s.trap t
    | none => k s

/-! ### Fault queue and asynchronous sources -/

/-- The scratchpad offset of fault-queue slot `i` (R385). -/
def Hart.fqSlot (h : Hart) (i : Nat) : Nat := 256 * h.sprows - 512 + 64 * i

/-- The hart has a fault queue: it has issued a message instruction, and scratchpad rows exist (R385). -/
def Hart.hasFq (h : Hart) : Bool := h.sends && decide (h.sprows > 0)

/-- Slot `i` is full: its first word is not 0 (R385). -/
def Hart.fqFull (h : Hart) (i : Nat) : Bool := h.hasFq && h.readScratch (h.fqSlot i) 4 ≠ 0

/-- A fault report is pending (R386). -/
def Hart.reportPending (h : Hart) : Bool := (upFrom 0 8).any h.fqFull

/-- The asynchronous source that is taken first, with its `tval` (R363, R364). -/
def Hart.asyncSource (h : Hart) : Option (Nat × Nat) :=
  if h.reportPending then some (1, 0)
  else match h.underflows with
    | [] => none
    | u :: _ => some (2, u)

end Sys2Proof.Machine
end

