-- ==== Sys2Proof/Machine/Operands.lean ====
section
/-! DEFINITION. The operand forms of the vector instructions: the elements an instruction visits (R18, R45, R246), units with their
subwords and tails (R79, R90, R93, R227), operands x and y (R244), results into registers (R51). -/

namespace Sys2Proof.Machine

/-! ### Elements -/

/-- The element indexes [`vstart`, `vl`), inside the window of a pass by rows (R18, R41). -/
def Hart.span (h : Hart) : List Nat :=
  let lo := max h.vstart.toNat h.cur.lo
  upFrom lo (min h.vl h.cur.hi - lo)

/-- The active elements of the span under mask `mk` (R45). -/
def Hart.active (h : Hart) (mk : Nat) : List Nat := h.span.filter (h.maskBit mk)

/-- `fill()`: the value of a slot read at or beyond `vl` (R45). -/
def Hart.fill (h : Hart) : Slot := ⟨h.vfv, 0⟩

/-! ### Units -/

/-- The format has images, so its elements have tails (R92, R91: `mxe4m3` and `mxe5m2` are images of their element formats). -/
def hasTail (f : Nat) : Bool := f ≤ 5 || f = 10 || f = 11

/-- The bits of a subword position at a pack (R90), or of an element at pack 1 (R79). -/
def subBits (f p : Nat) : Nat := if p > 1 then 32 / p else regWidth f

/-- Subword `j` of a slot in format `f` at pack `p`, with its tail (R90, R93). -/
def subImage (f p : Nat) (d : Slot) (j : Nat) : Image :=
  ⟨d.data.toNat / 2 ^ (subBits f p * j) % 2 ^ subBits f p % 2 ^ regWidth f, if hasTail f then d.tail.toNat / 4 ^ j % 4 else 0⟩

/-- The subwords of a unit from its slot or slots (R79, R93). -/
def unitOf (f p : Nat) (lo hi : Slot) : List Image :=
  if fmtWide f then [⟨lo.data.toNat + 2 ^ 32 * hi.data.toNat, if hasTail f then lo.tail.toNat % 4 else 0⟩]
  else (upFrom 0 p).map (subImage f p lo)

/-- The low slot of a unit (R79, R93). -/
def Hart.lowSlot (h : Hart) (f n e : Nat) : Slot := if fmtWide f then h.getSlot n (2 * e) else h.getSlot n e
/-- The high slot of a unit of 64 bits; unused otherwise (R79). -/
def Hart.highSlot (h : Hart) (f n e : Nat) : Slot := if fmtWide f then h.getSlot n (2 * e + 1) else Slot.zero

/-- Unit `e` of register `n` in format `f` at pack `p`. -/
def Hart.unitAs (h : Hart) (f p n e : Nat) : List Image := unitOf f p (h.lowSlot f n e) (h.highSlot f n e)
/-- Unit `e` of register `n` in `vtype.fmt` at `vtype.pack`. -/
def Hart.unit (h : Hart) (n e : Nat) : List Image := h.unitAs h.fmt h.pack n e
/-- The unit that an operand read at or beyond `vl` returns (R45). -/
def Hart.fillUnit (h : Hart) : List Image := unitOf h.fmt h.pack h.fill h.fill
/-- The data of subwords put together from subword 0 up. -/
def joinBits (w : Nat) : List Image → Nat
  | [] => 0
  | i :: r => i.enc % 2 ^ w + 2 ^ w * joinBits w r
/-- The tail bits of subwords put together. -/
def joinTails : List Image → Nat
  | [] => 0
  | i :: r => i.tail % 4 + 4 * joinTails r

/-- The slot that subwords of a format of at most 32 bits form; unused bits are 0 (R79, R93). -/
def slotOfUnit (f p : Nat) (is : List Image) : Slot :=
  ⟨BitVec.ofNat 32 (joinBits (subBits f p) is), if hasTail f then BitVec.ofNat 8 (joinTails is) else 0⟩

/-- Unit `e` of register `n` written in format `f` at pack `p`; the register's `vdirty` bit is set (R51, R79, R93). -/
def Hart.setUnitAs (h : Hart) (f p n e : Nat) (is : List Image) : Hart :=
  if fmtWide f then
    match is with
    | [] => h
    | i :: _ => ((h.setSlot n (2 * e) ⟨BitVec.ofNat 32 i.enc, if hasTail f then BitVec.ofNat 8 (i.tail % 4) else 0⟩).setSlot n (2 * e + 1)
        ⟨BitVec.ofNat 32 (i.enc / 2 ^ 32), 0⟩).dirtyV n
  else (h.setSlot n e (slotOfUnit f p is)).dirtyV n
/-- Unit `e` of register `n` written in `vtype.fmt` at `vtype.pack`. -/
def Hart.setUnit (h : Hart) (n e : Nat) (is : List Image) : Hart := h.setUnitAs h.fmt h.pack n e is

/-- A unit of plain bits: `u` low bits of `v` in every subword that the pack gives (VMVX of R238 at pack 1; packed by the caller). -/
def Hart.setBits (h : Hart) (n e v : Nat) : Hart :=
  if fmtWide h.fmt then
    ((h.setSlot n (2 * e) ⟨BitVec.ofNat 32 v, 0⟩).setSlot n (2 * e + 1) ⟨BitVec.ofNat 32 (v / 2 ^ 32), 0⟩).dirtyV n
  else (h.setSlot n e ⟨BitVec.ofNat 32 (if h.pack > 1 then v else v % 2 ^ regWidth h.fmt), 0⟩).dirtyV n

/-! ### Units that a move carries (R102, R237) -/

/-- Subword `j` of a slot with the tail that stands at its place, whatever the format (R93, R102); eight subwords have none. -/
def rawImage (f p : Nat) (d : Slot) (j : Nat) : Image :=
  ⟨d.data.toNat / 2 ^ (subBits f p * j) % 2 ^ subBits f p % 2 ^ regWidth f, if p ≤ 4 then d.tail.toNat / 4 ^ j % 4 else 0⟩
/-- The subwords of a unit, with their tails, from its slot or slots. -/
def rawUnit (f p : Nat) (lo hi : Slot) : List Image :=
  if fmtWide f then [⟨lo.data.toNat + 2 ^ 32 * hi.data.toNat, lo.tail.toNat % 4⟩] else (upFrom 0 p).map (rawImage f p lo)
/-- The slot that moved subwords form. -/
def slotOfRaw (f p : Nat) (is : List Image) : Slot :=
  ⟨BitVec.ofNat 32 (joinBits (subBits f p) is), if p ≤ 4 then BitVec.ofNat 8 (joinTails is) else 0⟩
/-- Unit `e` of register `n` as a move reads it. -/
def Hart.raw (h : Hart) (n e : Nat) : List Image := rawUnit h.fmt h.pack (h.lowSlot h.fmt n e) (h.highSlot h.fmt n e)
/-- Unit `i` of register `n` as a move reads it: `fill()` at or beyond `vl` (R45, R237). -/
def Hart.rawOrFill (h : Hart) (n i : Nat) : List Image := if i < h.vl then h.raw n i else rawUnit h.fmt h.pack h.fill h.fill
/-- Unit `e` of register `n` written by a move; the register's `vdirty` bit is set (R51, R79, R93). -/
def Hart.setRaw (h : Hart) (n e : Nat) (is : List Image) : Hart :=
  if fmtWide h.fmt then
    match is with
    | [] => h
    | i :: _ => ((h.setSlot n (2 * e) ⟨BitVec.ofNat 32 i.enc, BitVec.ofNat 8 (i.tail % 4)⟩).setSlot n (2 * e + 1)
        ⟨BitVec.ofNat 32 (i.enc / 2 ^ 32), 0⟩).dirtyV n
  else (h.setSlot n e (slotOfRaw h.fmt h.pack is)).dirtyV n

/-- A move over the active elements: `g` gives the unit that each takes (R237). -/
def State.moves (s : State) (mk d : Nat) (g : Hart → Nat → List Image) : Host.Outcome State Fault Refusal :=
  .next (s.upd (fun h => ((h.active mk).foldl (fun h e => h.setRaw d e (g h e)) (h.dirtyV d)).next))

/-- The data bits of unit `e` of register `n`: 64 bits, the element, or the whole slot at pack above 1 (R227). -/
def Hart.unitBits (h : Hart) (n e : Nat) : Nat :=
  let lo := (h.lowSlot h.fmt n e).data.toNat
  if fmtWide h.fmt then lo + 2 ^ 32 * (h.highSlot h.fmt n e).data.toNat
  else if h.pack > 1 then lo else lo % 2 ^ regWidth h.fmt

/-! ### Operands x and y -/

/-- A source of subwords at an element (R244). -/
inductive Source where
  /-- vector register -/
  | vec (n : Nat)
  /-- the scalar s in every subword -/
  | scalar (i : Image)
  /-- subword `sel` of a vector register in every subword (R90) -/
  | sel (n k : Nat)
  deriving DecidableEq, Repr

/-- The subwords of a source at element `e`. -/
def Hart.source (h : Hart) (o : Source) (e : Nat) : List Image :=
  match o with
  | .vec n => h.unit n e
  | .scalar i => List.replicate h.pack i
  | .sel n k => List.replicate h.pack ((h.unit n e).getD k ⟨0, 0⟩)

/-- The scalar of a `.vx` form: xa[w − 1:0] (R244). -/
def Hart.scalarX (h : Hart) (a : Nat) : Source := .scalar ⟨(h.getX a).toNat % 2 ^ fmtWidth h.fmt, 0⟩
/-- The scalar of a `.vi` form: the immediate extended to w bits (R244). -/
def Hart.scalarI (h : Hart) (imm : Int) : Source := .scalar ⟨(imm % (2 : Int) ^ fmtWidth h.fmt).toNat, 0⟩
/-- The scalar of a `.vf` form: the image of fa in `vtype.fmt` (R208, R244). -/
def Hart.scalarF (h : Hart) (a : Nat) : Source :=
  let v := (h.getF a).toNat
  .scalar ⟨v % 2 ^ fmtWidth h.fmt, v / 2 ^ 64⟩

/-- Subwords combined with their flags ORed (R246). -/
def zipUnits (op : Image → Image → Image × BitVec 5) : List Image → List Image → List Image × BitVec 5
  | a :: x, b :: y => let r := op a b
    let t := zipUnits op x y
    (r.1 :: t.1, r.2 ||| t.2)
  | _, _ => ([], 0)

/-- Subwords mapped with their flags ORed. -/
def mapUnit (op : Image → Image × BitVec 5) : List Image → List Image × BitVec 5
  | [] => ([], 0)
  | a :: x => let r := op a
    let t := mapUnit op x
    (r.1 :: t.1, r.2 ||| t.2)

/-- `vd` written at each listed element with `g`, flags raised: the body of an elementwise instruction (R246). -/
def Hart.writeUnits (h : Hart) (d : Nat) (g : Hart → Nat → List Image × BitVec 5) (es : List Nat) : Hart :=
  es.foldl (fun h e => let r := g h e
    (h.setUnit d e r.1).raise r.2) (h.dirtyV d)

/-- An elementwise instruction over the active elements. -/
def State.elementwise (s : State) (mk d : Nat) (g : Hart → Nat → List Image × BitVec 5) : Host.Outcome State Fault Refusal :=
  .next (s.upd (fun h => (h.writeUnits d g (h.active mk)).next))

/-- A binary elementwise instruction on sources x and y (R244). -/
def State.binary (s : State) (mk d : Nat) (x y : Source) (op : Hart → Image → Image → Image × BitVec 5) :
    Host.Outcome State Fault Refusal :=
  s.elementwise mk d (fun h e => zipUnits (op h) (h.source x e) (h.source y e))

/-- A unary elementwise instruction. -/
def State.unary (s : State) (mk d a : Nat) (op : Hart → Image → Image × BitVec 5) : Host.Outcome State Fault Refusal :=
  s.elementwise mk d (fun h e => mapUnit (op h) (h.unit a e))

/-! ### Masks -/

/-- Mask `d` written at the listed elements (R242). -/
def Hart.writeMask (h : Hart) (d : Nat) (bit : Nat → Bool) (es : List Nat) : Hart :=
  h.setMask d (es.foldl (fun m e => if bit e then m ||| BitVec.ofNat 4096 (2 ^ e) else m &&& ~~~ (BitVec.ofNat 4096 (2 ^ e))) (h.getMask d)) es

/-- The bits [0, n) of a mask. -/
def onesTo (n : Nat) : BitVec 4096 := BitVec.ofNat 4096 (2 ^ n - 1)

/-! ### Common issue checks -/

/-- Illegal at issue while `vtype` is invalid (R78). -/
def State.needVtype (s : State) : Option Trap := s.illegalIf (!s.hart.vtypeOk)

/-! ### Loops over memory units -/

/-- `f` performed on each element in turn: the state reached, and the element at which it stopped. -/
def State.eachUnit (f : State → Nat → Except Stop State) : State → List Nat → State × Option (Nat × Stop)
  | s, [] => (s, none)
  | s, e :: r => match f s e with
    | .ok s1 => eachUnit f s1 r
    | .error x => (s, some (e, x))

/-- The outcome of a loop over units from `s0` on (R231): completed, or stopped at unit e with the units below it performed and
`vstart` = e; a wait, and the fault of a wait, leave everything as it was (R118, R368). -/
def State.finishUnits (s0 : State) (r : State × Option (Nat × Stop)) : Host.Outcome State Fault Refusal :=
  match r with
  | (s, none) => .next s.advance
  | (s, some (e, .trap t)) =>
    if t.here then s0.trap t else (s.upd (fun h => { h with vstart := BitVec.ofNat 32 e })).trap { t with unit := e }
  | (_, some (_, .stall)) => .next s0.stalled

end Sys2Proof.Machine
end

