-- ==== Sys2Proof/Machine/ScalarFp.lean ====
section
/-! DEFINITION. Scalar floating point on the 66-bit images of f0 to f31 (R208 to R220). -/

namespace Sys2Proof.Machine

/-- The image of f register `n` in format `g`: bits above the width are ignored (R208). -/
def Hart.imgF (h : Hart) (n g : Nat) : Image :=
  let v := (h.getF n).toNat
  ⟨v % 2 ^ fmtWidth g, v / 2 ^ 64⟩
/-- The value of f register `n` in format `g` (R208). -/
def Hart.valF (h : Hart) (n g : Nat) : Val := (h.imgF n g).val g
/-- An image as an f register value: bits 63:w are 0 (R208). -/
def Image.toF (i : Image) : BitVec 66 := BitVec.ofNat 66 (i.enc % 2 ^ 64 + 2 ^ 64 * (i.tail % 4))

/-- A result rounded to odd into f register `d` (R95, R211). -/
def State.wfVal (s : State) (d g : Nat) (r : Val × BitVec 5) : Host.Outcome State Fault Refusal :=
  let q := roundOdd r.1 g
  s.wf d q.1.toF (r.2 ||| q.2)

/-- The check of FCMP.f, FST and FRND with code 7: `vtype.mode` 6 or 7 is illegal (R213, R215, R218; log 16). -/
def State.modeCheck (s : State) : Option Trap := s.illegalIf (s.hart.mode ≥ 6)

/-- FADD (R211). -/
def execFadd (g d a b : Nat) (s : State) : Host.Outcome State Fault Refusal :=
  s.wfVal d g (sumVal (s.hart.valF a g) (s.hart.valF b g))

/-- FSUB (R211). -/
def execFsub (g d a b : Nat) (s : State) : Host.Outcome State Fault Refusal :=
  s.wfVal d g (subVal (s.hart.valF a g) (s.hart.valF b g))

/-- FMUL (R211). -/
def execFmul (g d a b : Nat) (s : State) : Host.Outcome State Fault Refusal :=
  s.wfVal d g (mulVal (s.hart.valF a g) (s.hart.valF b g))

/-- FFMA: one rounding of A × B + D (R211). -/
def execFfma (g d a b : Nat) (s : State) : Host.Outcome State Fault Refusal :=
  s.wfVal d g (fmaVal (s.hart.valF a g) (s.hart.valF b g) (s.hart.valF d g))

/-- FMIN (R212). -/
def execFmin (g d a b : Nat) (s : State) : Host.Outcome State Fault Refusal :=
  let r := minMaxImage g (s.hart.imgF a g) (s.hart.imgF b g) false
  s.wf d r.1.toF r.2

/-- FMAX (R212). -/
def execFmax (g d a b : Nat) (s : State) : Host.Outcome State Fault Refusal :=
  let r := minMaxImage g (s.hart.imgF a g) (s.hart.imgF b g) true
  s.wf d r.1.toF r.2

/-- The result of a compare as a register value (R213). -/
def orderWord : Option Ordering → Word
  | some .lt => BitVec.allOnes 64
  | some .eq => 0
  | some .gt => 1
  | none => 2

/-- A compare's result to xd, with NV for a signalling NaN (R213). -/
def State.wcmp (s : State) (d : Nat) (o : Option Ordering) (fl : BitVec 5) : Host.Outcome State Fault Refusal :=
  .next (s.upd (fun h => ((h.setX d (orderWord o)).raise fl).step4))

/-- An image finalised under a mode and read as an IEEE value, without flags (R101). -/
def finalised (v : Val) (g mode : Nat) (sat : Bool) : Val := decodeVal g (finFloat v g mode sat).1 0

/-- FCMP (R213). -/
def execFcmp (g d a b : Nat) (s : State) : Host.Outcome State Fault Refusal :=
  s.wcmp d (cmpVal (s.hart.valF a g) (s.hart.valF b g)) (flIf ((s.hart.valF a g).sig || (s.hart.valF b g).sig) flNV)

/-- FCMP.f (R213). -/
def execFcmpF (g d a b : Nat) (s : State) : Host.Outcome State Fault Refusal :=
  s.gate s.modeCheck (fun s =>
    let h := s.hart
    s.wcmp d (cmpVal (finalised (h.valF a g) g h.mode h.sat) (finalised (h.valF b g) g h.mode h.sat))
      (flIf ((h.valF a g).sig || (h.valF b g).sig) flNV))

/-- FCVT: the exact value in the source format, rounded to odd (R214). -/
def execFcvt (g d a s_ : Nat) (s : State) : Host.Outcome State Fault Refusal :=
  let v := s.hart.valF a s_
  s.wfVal d g ((propagate [v]).getD (v, flNone))

/-- FRND (R215). -/
def execFrnd (g d a o : Nat) (s : State) : Host.Outcome State Fault Refusal :=
  s.gate (if o = 7 then s.modeCheck else none) (fun s =>
    let h := s.hart
    let r := finFloat (h.valF a g) g (if o = 7 then h.mode else o) h.sat
    s.wf d (Image.mk r.1 0).toF r.2)

/-- The class mask of an image (R216). -/
def classOf (g : Nat) (i : Image) : Nat :=
  let w := fmtWidth g
  let neg := i.enc / 2 ^ (w - 1) % 2 == 1
  let mag := i.enc % 2 ^ (w - 1)
  let pick (n p : Nat) : Nat := if neg then 2 ^ n else 2 ^ p
  match i.val g with
  | .nan _ sig _ => if sig then 2 ^ 8 else 2 ^ 9
  | .inf _ mk => pick 0 7 + (if mk then 2 ^ 10 else if g = 4 || g = 10 then 2 ^ 12 else 0)
  | .num _ _ _ =>
    (if mag = 0 then pick 3 4 else if mag < 2 ^ fracBits g then pick 2 5 else pick 1 6)
      + (if mag = 0 && i.tail = 1 then 2 ^ 11 else 0) + (if i.tail ≠ 0 then 2 ^ 13 else 0)

/-- FCLS (R216). -/
def execFcls (g d a : Nat) (s : State) : Host.Outcome State Fault Refusal :=
  s.wx d (BitVec.ofNat 64 (classOf g (s.hart.imgF a g)))

/-- FMVX: the encoding, zero-extended (R217). -/
def execFmvx (g d a : Nat) (s : State) : Host.Outcome State Fault Refusal :=
  s.wx d (BitVec.ofNat 64 (s.hart.imgF a g).enc)

/-- FMVF: the low bits as an encoding with tail 0b00 (R217). -/
def execFmvf (g d a : Nat) (s : State) : Host.Outcome State Fault Refusal :=
  s.wf d (Image.mk ((s.hart.getX a).toNat % 2 ^ fmtWidth g) 0).toF flNone

/-- FLD (R218). -/
def execFld (g d a : Nat) (off : Int) (s : State) : Host.Outcome State Fault Refusal :=
  let n := fmtBytes g
  match s.load (s.hart.getX a + ofInt (off * n)).toNat n n 1 false with
  | .error e => s.halt e
  | .ok (s1, v) => s1.wf d (Image.mk v 0).toF flNone

/-- FST: the one final rounding (R218). -/
def execFst (g d a : Nat) (off : Int) (s : State) : Host.Outcome State Fault Refusal :=
  s.gate s.modeCheck (fun s =>
    let h := s.hart
    let n := fmtBytes g
    let r := finFloat (h.valF d g) g h.mode h.sat
    match s.store (h.getX a + ofInt (off * n)).toNat n (leBytes r.1 n) false with
    | .error e => s.halt e
    | .ok s1 => .next (s1.upd (fun k => (k.raise r.2).step4)))

/-- FSPILL: a 16-byte image slot (R219). -/
def execFspill (d a : Nat) (off : Int) (s : State) : Host.Outcome State Fault Refusal :=
  let v := (s.hart.getF d).toNat
  match s.storeBlock (s.hart.getX a + ofInt (off * 16)).toNat 16 (leBytes v 16) with
  | .error e => s.halt e
  | .ok s1 => .next s1.advance4

/-- FFILL: a 16-byte image slot (R219). -/
def execFfill (d a : Nat) (off : Int) (s : State) : Host.Outcome State Fault Refusal :=
  match s.loadBlock (s.hart.getX a + ofInt (off * 16)).toNat 16 16 1 with
  | .error e => s.halt e
  | .ok (s1, v) => s1.wf d (BitVec.ofNat 66 v) flNone

end Sys2Proof.Machine
end

