-- ==== Sys2Proof/Machine/VArith.lean ====
section
/-! DEFINITION. Vector arithmetic, element by element: integer and bitwise instructions, floating point, conversions, functions
(R244 to R254), in their vector, scalar, immediate and packed forms. -/

namespace Sys2Proof.Machine

/-! ### Issue checks (R245) -/

/-- The integer class (R245). -/
def chkInt (s : State) : Option Trap := firstTrap s.needVtype (s.illegalIf (!fmtInt s.hart.fmt))
/-- The bits class: integer or float (R245). -/
def chkBits (s : State) : Option Trap := firstTrap s.needVtype (s.illegalIf (!(fmtInt s.hart.fmt || fmtFloat s.hart.fmt)))
/-- The float class (R245). -/
def chkFloat (s : State) : Option Trap := firstTrap s.needVtype (s.illegalIf (!fmtFloat s.hart.fmt))
/-- Illegal when pack is above 1. -/
def State.pack1 (s : State) : Option Trap := s.illegalIf (s.hart.pack > 1)
/-- VICMP (R248). -/
def chkIntCmp (s : State) : Option Trap := firstTrap (chkInt s) s.pack1
/-- VFCMP (R250). -/
def chkFloatCmp (s : State) : Option Trap := firstTrap (chkFloat s) s.pack1
/-- A P-form word (R90, R190): illegal at pack 1 and with `sel` ≥ pack. -/
def chkSel (k : Nat) (s : State) : Option Trap := s.illegalIf (s.hart.pack = 1 || decide (k ≥ s.hart.pack))
/-- A P-form integer word. -/
def chkIntP (k : Nat) (s : State) : Option Trap := firstTrap (chkInt s) (chkSel k s)
/-- A P-form floating-point word. -/
def chkFloatP (k : Nat) (s : State) : Option Trap := firstTrap (chkFloat s) (chkSel k s)

/-! ### Integer and bitwise operations on one subword (R247, R248) -/

/-- The integer that an encoding of width w stands for, signed for `s` formats. -/
def intOf (f enc : Nat) : Int :=
  let w := fmtWidth f
  let u := enc % 2 ^ w
  if fmtSigned f && decide (2 ^ (w - 1) ≤ u) then (u : Int) - (2 : Int) ^ w else u
/-- An integer modulo 2^w as an image with tail 0b00. -/
def wrapInt (f : Nat) (i : Int) : Image := ⟨(i % (2 : Int) ^ fmtWidth f).toNat, 0⟩
/-- The smallest integer of a format (R87). -/
def intMin (f : Nat) : Int := if fmtSigned f then -((2 : Int) ^ (fmtWidth f - 1)) else 0
/-- The largest integer of a format (R87). -/
def intMax (f : Nat) : Int := (if fmtSigned f then (2 : Int) ^ (fmtWidth f - 1) else (2 : Int) ^ fmtWidth f) - 1

/-- VADD (R247). -/
def addInt (f : Nat) (x y : Image) : Image × BitVec 5 := (wrapInt f (x.enc + y.enc : Nat), flNone)
/-- VSUB (R247). -/
def subInt (f : Nat) (x y : Image) : Image × BitVec 5 := (wrapInt f ((x.enc : Int) - y.enc), flNone)
/-- VMUL (R247). -/
def mulInt (f : Nat) (x y : Image) : Image × BitVec 5 := (wrapInt f (x.enc * y.enc : Nat), flNone)
/-- VMULH (R247). -/
def mulhInt (f : Nat) (x y : Image) : Image × BitVec 5 := (wrapInt f (intOf f x.enc * intOf f y.enc / (2 : Int) ^ fmtWidth f), flNone)
/-- VDIV (R248). -/
def divInt (f : Nat) (x y : Image) : Image × BitVec 5 :=
  if intOf f y.enc = 0 then (wrapInt f (-1), flDZ) else (wrapInt f ((intOf f x.enc).tdiv (intOf f y.enc)), flNone)
/-- VREM (R248). -/
def remInt (f : Nat) (x y : Image) : Image × BitVec 5 :=
  if intOf f y.enc = 0 then (wrapInt f x.enc, flDZ) else (wrapInt f ((intOf f x.enc).tmod (intOf f y.enc)), flNone)
/-- VMIN (R247). -/
def minInt (f : Nat) (x y : Image) : Image × BitVec 5 := (wrapInt f (min (intOf f x.enc) (intOf f y.enc)), flNone)
/-- VMAX (R247). -/
def maxInt (f : Nat) (x y : Image) : Image × BitVec 5 := (wrapInt f (max (intOf f x.enc) (intOf f y.enc)), flNone)
/-- VAND (R247, R248). -/
def andBits (f : Nat) (x y : Image) : Image × BitVec 5 := (wrapInt f (x.enc &&& y.enc : Nat), flNone)
/-- VOR (R247, R248). -/
def orBits (f : Nat) (x y : Image) : Image × BitVec 5 := (wrapInt f (x.enc ||| y.enc : Nat), flNone)
/-- VXOR (R247, R248). -/
def xorBits (f : Nat) (x y : Image) : Image × BitVec 5 := (wrapInt f (x.enc ^^^ y.enc : Nat), flNone)
/-- VSLL (R247): the count is y[log2 w − 1 : 0]. -/
def sllBits (f : Nat) (x y : Image) : Image × BitVec 5 := (wrapInt f (x.enc * 2 ^ (y.enc % fmtWidth f) : Nat), flNone)
/-- VSRL (R247). -/
def srlBits (f : Nat) (x y : Image) : Image × BitVec 5 := (wrapInt f (x.enc % 2 ^ fmtWidth f / 2 ^ (y.enc % fmtWidth f) : Nat), flNone)
/-- VSRA (R247): the top bit of the unit is copied. -/
def sraBits (f : Nat) (x y : Image) : Image × BitVec 5 :=
  let w := fmtWidth f
  let u := x.enc % 2 ^ w
  let i : Int := if 2 ^ (w - 1) ≤ u then (u : Int) - (2 : Int) ^ w else u
  (wrapInt f (i / (2 : Int) ^ (y.enc % w)), flNone)
/-- An exact integer saturated to the format's range, with OF (R248). -/
def saturate (f : Nat) (i : Int) : Image × BitVec 5 :=
  if i < intMin f then (wrapInt f (intMin f), flOF) else if intMax f < i then (wrapInt f (intMax f), flOF) else (wrapInt f i, flNone)
/-- VADDS (R247, R248). -/
def addsInt (f : Nat) (x y : Image) : Image × BitVec 5 := saturate f (intOf f x.enc + intOf f y.enc)
/-- VADDS.sub (R247, R248). -/
def subsInt (f : Nat) (x y : Image) : Image × BitVec 5 := saturate f (intOf f x.enc - intOf f y.enc)

/-- A compare condition on an order (R189, R250): an unordered pair meets `ne` alone. -/
def condHolds (c : Nat) (o : Option Ordering) : Bool :=
  match c with
  | 0 => o = some .eq
  | 1 => o ≠ some .eq
  | 2 => o = some .lt
  | _ => o = some .gt

/-! ### Floating-point operations on one subword (R249, R250) -/

/-- An exact result rounded to odd into `f`, with its flags (R95). -/
def oddResult (f : Nat) (r : Val × BitVec 5) : Image × BitVec 5 :=
  let q := roundOdd r.1 f
  (q.1, r.2 ||| q.2)
/-- VFADD. -/
def addFlt (f : Nat) (x y : Image) : Image × BitVec 5 := oddResult f (sumVal (x.val f) (y.val f))
/-- VFSUB. -/
def subFlt (f : Nat) (x y : Image) : Image × BitVec 5 := oddResult f (subVal (x.val f) (y.val f))
/-- VFMUL. -/
def mulFlt (f : Nat) (x y : Image) : Image × BitVec 5 := oddResult f (mulVal (x.val f) (y.val f))
/-- VFDIV. -/
def divFlt (f : Nat) (x y : Image) : Image × BitVec 5 := oddResult f (divVal (x.val f) (y.val f))
/-- VFMIN. -/
def minFlt (f : Nat) (x y : Image) : Image × BitVec 5 := minMaxImage f x y false
/-- VFMAX. -/
def maxFlt (f : Nat) (x y : Image) : Image × BitVec 5 := minMaxImage f x y true

/-- VFFMA on a unit: x × y + vd (R244, R249). -/
def fmaUnit (f : Nat) : List Image → List Image → List Image → List Image × BitVec 5
  | x :: xs, y :: ys, d :: ds =>
    let r := oddResult f (fmaVal (x.val f) (y.val f) (d.val f))
    let t := fmaUnit f xs ys ds
    (r.1 :: t.1, r.2 ||| t.2)
  | _, _, _ => ([], 0)

/-- VFFMA over the active elements. -/
def State.fma (s : State) (mk d : Nat) (x y : Source) : Host.Outcome State Fault Refusal :=
  s.elementwise mk d (fun h e => fmaUnit h.fmt (h.source x e) (h.source y e) (h.unit d e))

/-- A compare over the active elements: bit e of mask `d` and the flags (R248, R250). -/
def State.compareTo (s : State) (mk d c : Nat) (x y : Source) (ord : Hart → Image → Image → Option Ordering)
    (fl : Hart → Image → BitVec 5) : Host.Outcome State Fault Refusal :=
  .next (s.upd (fun h =>
    let one (o : Source) (e : Nat) : Image := (h.source o e).headD ⟨0, 0⟩
    let es := h.active mk
    let k := h.writeMask d (fun e => condHolds c (ord h (one x e) (one y e))) es
    (k.raise (es.foldl (fun f e => f ||| fl h (one x e) ||| fl h (one y e)) 0)).next))

/-- The order of two integers of `vtype.fmt`. -/
def Hart.intOrder (h : Hart) (x y : Image) : Option Ordering := some (compare (intOf h.fmt x.enc) (intOf h.fmt y.enc))
/-- The order of two images (R101). -/
def Hart.fltOrder (h : Hart) (x y : Image) : Option Ordering := cmpVal (x.val h.fmt) (y.val h.fmt)
/-- The order of two finalised images (R101). -/
def Hart.finOrder (h : Hart) (x y : Image) : Option Ordering :=
  cmpVal (finalised (x.val h.fmt) h.fmt h.mode h.sat) (finalised (y.val h.fmt) h.fmt h.mode h.sat)
/-- NV for a signalling NaN (R250). -/
def Hart.sigFlag (h : Hart) (x : Image) : BitVec 5 := flIf (x.val h.fmt).sig flNV

/-- An integer compare (R248). -/
def State.intCompare (s : State) (mk d c : Nat) (x y : Source) : Host.Outcome State Fault Refusal :=
  s.compareTo mk d c x y Hart.intOrder (fun _ _ => 0)
/-- VFCMP (R250). -/
def State.fltCompare (s : State) (mk d c : Nat) (x y : Source) : Host.Outcome State Fault Refusal :=
  s.compareTo mk d c x y Hart.fltOrder Hart.sigFlag
/-- VFCMP.f (R250). -/
def State.finCompare (s : State) (mk d c : Nat) (x y : Source) : Host.Outcome State Fault Refusal :=
  s.compareTo mk d c x y Hart.finOrder Hart.sigFlag

/-! ### The instructions -/

/-- VADD (R247). -/
def execVadd (_c : Bool) (mk d a b : Nat) (s : State) : Host.Outcome State Fault Refusal :=
  s.gate (chkInt s) (fun s => s.binary mk d (.vec a) (.vec b) (fun h => addInt h.fmt))
/-- VSUB (R247). -/
def execVsub (_c : Bool) (mk d a b : Nat) (s : State) : Host.Outcome State Fault Refusal :=
  s.gate (chkInt s) (fun s => s.binary mk d (.vec a) (.vec b) (fun h => subInt h.fmt))
/-- VMUL (R247). -/
def execVmul (_c : Bool) (mk d a b : Nat) (s : State) : Host.Outcome State Fault Refusal :=
  s.gate (chkInt s) (fun s => s.binary mk d (.vec a) (.vec b) (fun h => mulInt h.fmt))
/-- VMULH (R247). -/
def execVmulh (_c : Bool) (mk d a b : Nat) (s : State) : Host.Outcome State Fault Refusal :=
  s.gate (chkInt s) (fun s => s.binary mk d (.vec a) (.vec b) (fun h => mulhInt h.fmt))
/-- VDIV (R247). -/
def execVdiv (_c : Bool) (mk d a b : Nat) (s : State) : Host.Outcome State Fault Refusal :=
  s.gate (chkInt s) (fun s => s.binary mk d (.vec a) (.vec b) (fun h => divInt h.fmt))
/-- VREM (R247). -/
def execVrem (_c : Bool) (mk d a b : Nat) (s : State) : Host.Outcome State Fault Refusal :=
  s.gate (chkInt s) (fun s => s.binary mk d (.vec a) (.vec b) (fun h => remInt h.fmt))
/-- VMIN (R247). -/
def execVmin (_c : Bool) (mk d a b : Nat) (s : State) : Host.Outcome State Fault Refusal :=
  s.gate (chkInt s) (fun s => s.binary mk d (.vec a) (.vec b) (fun h => minInt h.fmt))
/-- VMAX (R247). -/
def execVmax (_c : Bool) (mk d a b : Nat) (s : State) : Host.Outcome State Fault Refusal :=
  s.gate (chkInt s) (fun s => s.binary mk d (.vec a) (.vec b) (fun h => maxInt h.fmt))
/-- VAND (R247). -/
def execVand (_c : Bool) (mk d a b : Nat) (s : State) : Host.Outcome State Fault Refusal :=
  s.gate (chkBits s) (fun s => s.binary mk d (.vec a) (.vec b) (fun h => andBits h.fmt))
/-- VOR (R247). -/
def execVor (_c : Bool) (mk d a b : Nat) (s : State) : Host.Outcome State Fault Refusal :=
  s.gate (chkBits s) (fun s => s.binary mk d (.vec a) (.vec b) (fun h => orBits h.fmt))
/-- VXOR (R247). -/
def execVxor (_c : Bool) (mk d a b : Nat) (s : State) : Host.Outcome State Fault Refusal :=
  s.gate (chkBits s) (fun s => s.binary mk d (.vec a) (.vec b) (fun h => xorBits h.fmt))
/-- VSLL (R247). -/
def execVsll (_c : Bool) (mk d a b : Nat) (s : State) : Host.Outcome State Fault Refusal :=
  s.gate (chkBits s) (fun s => s.binary mk d (.vec a) (.vec b) (fun h => sllBits h.fmt))
/-- VSRL (R247). -/
def execVsrl (_c : Bool) (mk d a b : Nat) (s : State) : Host.Outcome State Fault Refusal :=
  s.gate (chkBits s) (fun s => s.binary mk d (.vec a) (.vec b) (fun h => srlBits h.fmt))
/-- VSRA (R247). -/
def execVsra (_c : Bool) (mk d a b : Nat) (s : State) : Host.Outcome State Fault Refusal :=
  s.gate (chkBits s) (fun s => s.binary mk d (.vec a) (.vec b) (fun h => sraBits h.fmt))
/-- VADDS (R247). -/
def execVadds (_c : Bool) (mk d a b : Nat) (s : State) : Host.Outcome State Fault Refusal :=
  s.gate (chkInt s) (fun s => s.binary mk d (.vec a) (.vec b) (fun h => addsInt h.fmt))
/-- VADDS.sub (R247). -/
def execVaddsSub (_c : Bool) (mk d a b : Nat) (s : State) : Host.Outcome State Fault Refusal :=
  s.gate (chkInt s) (fun s => s.binary mk d (.vec a) (.vec b) (fun h => subsInt h.fmt))
/-- VFADD (R249). -/
def execVfadd (_c : Bool) (mk d a b : Nat) (s : State) : Host.Outcome State Fault Refusal :=
  s.gate (chkFloat s) (fun s => s.binary mk d (.vec a) (.vec b) (fun h => addFlt h.fmt))
/-- VFSUB (R249). -/
def execVfsub (_c : Bool) (mk d a b : Nat) (s : State) : Host.Outcome State Fault Refusal :=
  s.gate (chkFloat s) (fun s => s.binary mk d (.vec a) (.vec b) (fun h => subFlt h.fmt))
/-- VFMUL (R249). -/
def execVfmul (_c : Bool) (mk d a b : Nat) (s : State) : Host.Outcome State Fault Refusal :=
  s.gate (chkFloat s) (fun s => s.binary mk d (.vec a) (.vec b) (fun h => mulFlt h.fmt))
/-- VFMIN (R249). -/
def execVfmin (_c : Bool) (mk d a b : Nat) (s : State) : Host.Outcome State Fault Refusal :=
  s.gate (chkFloat s) (fun s => s.binary mk d (.vec a) (.vec b) (fun h => minFlt h.fmt))
/-- VFMAX (R249). -/
def execVfmax (_c : Bool) (mk d a b : Nat) (s : State) : Host.Outcome State Fault Refusal :=
  s.gate (chkFloat s) (fun s => s.binary mk d (.vec a) (.vec b) (fun h => maxFlt h.fmt))
/-- VFDIV (R249). -/
def execVfdiv (_c : Bool) (mk d a b : Nat) (s : State) : Host.Outcome State Fault Refusal :=
  s.gate (chkFloat s) (fun s => s.binary mk d (.vec a) (.vec b) (fun h => divFlt h.fmt))
/-- VFFMA (R249). -/
def execVffma (_c : Bool) (mk d a b : Nat) (s : State) : Host.Outcome State Fault Refusal :=
  s.gate (chkFloat s) (fun s => s.fma mk d (.vec a) (.vec b))
/-- VICMP (R248). -/
def execVicmp (_c : Bool) (mk d a b y : Nat) (s : State) : Host.Outcome State Fault Refusal :=
  s.gate (chkIntCmp s) (fun s => s.intCompare mk d y (.vec a) (.vec b))
/-- VFCMP (R250). -/
def execVfcmp (_c : Bool) (mk d a b y : Nat) (s : State) : Host.Outcome State Fault Refusal :=
  s.gate (chkFloatCmp s) (fun s => s.fltCompare mk d y (.vec a) (.vec b))
/-- VFCMP.f (R250). -/
def execVfcmpF (_c : Bool) (mk d a b y : Nat) (s : State) : Host.Outcome State Fault Refusal :=
  s.gate (chkFloatCmp s) (fun s => s.finCompare mk d y (.vec a) (.vec b))

/-! The P-forms (R190): subword `sel` of vb in every position, mask 0. -/

/-- VADD, P-form (R190). -/
def execVaddP (_c : Bool) (d a b k : Nat) (s : State) : Host.Outcome State Fault Refusal :=
  s.gate (chkIntP k s) (fun s => s.binary 0 d (.vec a) (.sel b k) (fun h => addInt h.fmt))
/-- VSUB, P-form (R190). -/
def execVsubP (_c : Bool) (d a b k : Nat) (s : State) : Host.Outcome State Fault Refusal :=
  s.gate (chkIntP k s) (fun s => s.binary 0 d (.vec a) (.sel b k) (fun h => subInt h.fmt))
/-- VMUL, P-form (R190). -/
def execVmulP (_c : Bool) (d a b k : Nat) (s : State) : Host.Outcome State Fault Refusal :=
  s.gate (chkIntP k s) (fun s => s.binary 0 d (.vec a) (.sel b k) (fun h => mulInt h.fmt))
/-- VMIN, P-form (R190). -/
def execVminP (_c : Bool) (d a b k : Nat) (s : State) : Host.Outcome State Fault Refusal :=
  s.gate (chkIntP k s) (fun s => s.binary 0 d (.vec a) (.sel b k) (fun h => minInt h.fmt))
/-- VFADD, P-form (R190). -/
def execVfaddP (_c : Bool) (d a b k : Nat) (s : State) : Host.Outcome State Fault Refusal :=
  s.gate (chkFloatP k s) (fun s => s.binary 0 d (.vec a) (.sel b k) (fun h => addFlt h.fmt))
/-- VFSUB, P-form (R190). -/
def execVfsubP (_c : Bool) (d a b k : Nat) (s : State) : Host.Outcome State Fault Refusal :=
  s.gate (chkFloatP k s) (fun s => s.binary 0 d (.vec a) (.sel b k) (fun h => subFlt h.fmt))
/-- VFMUL, P-form (R190). -/
def execVfmulP (_c : Bool) (d a b k : Nat) (s : State) : Host.Outcome State Fault Refusal :=
  s.gate (chkFloatP k s) (fun s => s.binary 0 d (.vec a) (.sel b k) (fun h => mulFlt h.fmt))
/-- VFFMA, P-form (R190). -/
def execVffmaP (_c : Bool) (d a b k : Nat) (s : State) : Host.Outcome State Fault Refusal :=
  s.gate (chkFloatP k s) (fun s => s.fma 0 d (.vec a) (.sel b k))

/-! The vector–scalar and vector–immediate forms (R244): x = vb[e], y = s. -/

/-- VADD.vx (R247). -/
def execVaddVx (_c : Bool) (mk d a b : Nat) (s : State) : Host.Outcome State Fault Refusal :=
  s.gate (chkInt s) (fun s => s.binary mk d (.vec b) (s.hart.scalarX a) (fun h => addInt h.fmt))
/-- VSUB.vx (R247). -/
def execVsubVx (_c : Bool) (mk d a b : Nat) (s : State) : Host.Outcome State Fault Refusal :=
  s.gate (chkInt s) (fun s => s.binary mk d (.vec b) (s.hart.scalarX a) (fun h => subInt h.fmt))
/-- VMUL.vx (R247). -/
def execVmulVx (_c : Bool) (mk d a b : Nat) (s : State) : Host.Outcome State Fault Refusal :=
  s.gate (chkInt s) (fun s => s.binary mk d (.vec b) (s.hart.scalarX a) (fun h => mulInt h.fmt))
/-- VMULH.vx (R247). -/
def execVmulhVx (_c : Bool) (mk d a b : Nat) (s : State) : Host.Outcome State Fault Refusal :=
  s.gate (chkInt s) (fun s => s.binary mk d (.vec b) (s.hart.scalarX a) (fun h => mulhInt h.fmt))
/-- VDIV.vx (R247). -/
def execVdivVx (_c : Bool) (mk d a b : Nat) (s : State) : Host.Outcome State Fault Refusal :=
  s.gate (chkInt s) (fun s => s.binary mk d (.vec b) (s.hart.scalarX a) (fun h => divInt h.fmt))
/-- VREM.vx (R247). -/
def execVremVx (_c : Bool) (mk d a b : Nat) (s : State) : Host.Outcome State Fault Refusal :=
  s.gate (chkInt s) (fun s => s.binary mk d (.vec b) (s.hart.scalarX a) (fun h => remInt h.fmt))
/-- VMIN.vx (R247). -/
def execVminVx (_c : Bool) (mk d a b : Nat) (s : State) : Host.Outcome State Fault Refusal :=
  s.gate (chkInt s) (fun s => s.binary mk d (.vec b) (s.hart.scalarX a) (fun h => minInt h.fmt))
/-- VMAX.vx (R247). -/
def execVmaxVx (_c : Bool) (mk d a b : Nat) (s : State) : Host.Outcome State Fault Refusal :=
  s.gate (chkInt s) (fun s => s.binary mk d (.vec b) (s.hart.scalarX a) (fun h => maxInt h.fmt))
/-- VAND.vx (R247). -/
def execVandVx (_c : Bool) (mk d a b : Nat) (s : State) : Host.Outcome State Fault Refusal :=
  s.gate (chkBits s) (fun s => s.binary mk d (.vec b) (s.hart.scalarX a) (fun h => andBits h.fmt))
/-- VOR.vx (R247). -/
def execVorVx (_c : Bool) (mk d a b : Nat) (s : State) : Host.Outcome State Fault Refusal :=
  s.gate (chkBits s) (fun s => s.binary mk d (.vec b) (s.hart.scalarX a) (fun h => orBits h.fmt))
/-- VXOR.vx (R247). -/
def execVxorVx (_c : Bool) (mk d a b : Nat) (s : State) : Host.Outcome State Fault Refusal :=
  s.gate (chkBits s) (fun s => s.binary mk d (.vec b) (s.hart.scalarX a) (fun h => xorBits h.fmt))
/-- VSLL.vx (R247). -/
def execVsllVx (_c : Bool) (mk d a b : Nat) (s : State) : Host.Outcome State Fault Refusal :=
  s.gate (chkBits s) (fun s => s.binary mk d (.vec b) (s.hart.scalarX a) (fun h => sllBits h.fmt))
/-- VSRL.vx (R247). -/
def execVsrlVx (_c : Bool) (mk d a b : Nat) (s : State) : Host.Outcome State Fault Refusal :=
  s.gate (chkBits s) (fun s => s.binary mk d (.vec b) (s.hart.scalarX a) (fun h => srlBits h.fmt))
/-- VSRA.vx (R247). -/
def execVsraVx (_c : Bool) (mk d a b : Nat) (s : State) : Host.Outcome State Fault Refusal :=
  s.gate (chkBits s) (fun s => s.binary mk d (.vec b) (s.hart.scalarX a) (fun h => sraBits h.fmt))
/-- VADDS.vx (R247). -/
def execVaddsVx (_c : Bool) (mk d a b : Nat) (s : State) : Host.Outcome State Fault Refusal :=
  s.gate (chkInt s) (fun s => s.binary mk d (.vec b) (s.hart.scalarX a) (fun h => addsInt h.fmt))
/-- VICMP.vx (R248). -/
def execVicmpVx (_c : Bool) (mk d a b y : Nat) (s : State) : Host.Outcome State Fault Refusal :=
  s.gate (chkIntCmp s) (fun s => s.intCompare mk d y (.vec b) (s.hart.scalarX a))
/-- VADD.vi (R247). -/
def execVaddVi (_c : Bool) (mk d b : Nat) (imm : Int) (s : State) : Host.Outcome State Fault Refusal :=
  s.gate (chkInt s) (fun s => s.binary mk d (.vec b) (s.hart.scalarI imm) (fun h => addInt h.fmt))
/-- VMIN.vi (R247). -/
def execVminVi (_c : Bool) (mk d b : Nat) (imm : Int) (s : State) : Host.Outcome State Fault Refusal :=
  s.gate (chkInt s) (fun s => s.binary mk d (.vec b) (s.hart.scalarI imm) (fun h => minInt h.fmt))
/-- VMAX.vi (R247). -/
def execVmaxVi (_c : Bool) (mk d b : Nat) (imm : Int) (s : State) : Host.Outcome State Fault Refusal :=
  s.gate (chkInt s) (fun s => s.binary mk d (.vec b) (s.hart.scalarI imm) (fun h => maxInt h.fmt))
/-- VAND.vi (R247). -/
def execVandVi (_c : Bool) (mk d b : Nat) (imm : Int) (s : State) : Host.Outcome State Fault Refusal :=
  s.gate (chkBits s) (fun s => s.binary mk d (.vec b) (s.hart.scalarI imm) (fun h => andBits h.fmt))
/-- VOR.vi (R247). -/
def execVorVi (_c : Bool) (mk d b : Nat) (imm : Int) (s : State) : Host.Outcome State Fault Refusal :=
  s.gate (chkBits s) (fun s => s.binary mk d (.vec b) (s.hart.scalarI imm) (fun h => orBits h.fmt))
/-- VXOR.vi (R247). -/
def execVxorVi (_c : Bool) (mk d b : Nat) (imm : Int) (s : State) : Host.Outcome State Fault Refusal :=
  s.gate (chkBits s) (fun s => s.binary mk d (.vec b) (s.hart.scalarI imm) (fun h => xorBits h.fmt))
/-- VSLL.vi (R247). -/
def execVsllVi (_c : Bool) (mk d b : Nat) (imm : Nat) (s : State) : Host.Outcome State Fault Refusal :=
  s.gate (chkBits s) (fun s => s.binary mk d (.vec b) (s.hart.scalarI imm) (fun h => sllBits h.fmt))
/-- VSRL.vi (R247). -/
def execVsrlVi (_c : Bool) (mk d b : Nat) (imm : Nat) (s : State) : Host.Outcome State Fault Refusal :=
  s.gate (chkBits s) (fun s => s.binary mk d (.vec b) (s.hart.scalarI imm) (fun h => srlBits h.fmt))
/-- VSRA.vi (R247). -/
def execVsraVi (_c : Bool) (mk d b : Nat) (imm : Nat) (s : State) : Host.Outcome State Fault Refusal :=
  s.gate (chkBits s) (fun s => s.binary mk d (.vec b) (s.hart.scalarI imm) (fun h => sraBits h.fmt))
/-- VADDS.vi (R247). -/
def execVaddsVi (_c : Bool) (mk d b : Nat) (imm : Int) (s : State) : Host.Outcome State Fault Refusal :=
  s.gate (chkInt s) (fun s => s.binary mk d (.vec b) (s.hart.scalarI imm) (fun h => addsInt h.fmt))
/-- VICMP.vi (R248). -/
def execVicmpVi (_c : Bool) (mk d b : Nat) (imm : Int) (y : Nat) (s : State) : Host.Outcome State Fault Refusal :=
  s.gate (chkIntCmp s) (fun s => s.intCompare mk d y (.vec b) (s.hart.scalarI imm))
/-- VFADD.vf (R249). -/
def execVfaddVf (_c : Bool) (mk d a b : Nat) (s : State) : Host.Outcome State Fault Refusal :=
  s.gate (chkFloat s) (fun s => s.binary mk d (.vec b) (s.hart.scalarF a) (fun h => addFlt h.fmt))
/-- VFSUB.vf (R249). -/
def execVfsubVf (_c : Bool) (mk d a b : Nat) (s : State) : Host.Outcome State Fault Refusal :=
  s.gate (chkFloat s) (fun s => s.binary mk d (.vec b) (s.hart.scalarF a) (fun h => subFlt h.fmt))
/-- VFMUL.vf (R249). -/
def execVfmulVf (_c : Bool) (mk d a b : Nat) (s : State) : Host.Outcome State Fault Refusal :=
  s.gate (chkFloat s) (fun s => s.binary mk d (.vec b) (s.hart.scalarF a) (fun h => mulFlt h.fmt))
/-- VFMIN.vf (R249). -/
def execVfminVf (_c : Bool) (mk d a b : Nat) (s : State) : Host.Outcome State Fault Refusal :=
  s.gate (chkFloat s) (fun s => s.binary mk d (.vec b) (s.hart.scalarF a) (fun h => minFlt h.fmt))
/-- VFMAX.vf (R249). -/
def execVfmaxVf (_c : Bool) (mk d a b : Nat) (s : State) : Host.Outcome State Fault Refusal :=
  s.gate (chkFloat s) (fun s => s.binary mk d (.vec b) (s.hart.scalarF a) (fun h => maxFlt h.fmt))
/-- VFDIV.vf (R249). -/
def execVfdivVf (_c : Bool) (mk d a b : Nat) (s : State) : Host.Outcome State Fault Refusal :=
  s.gate (chkFloat s) (fun s => s.binary mk d (.vec b) (s.hart.scalarF a) (fun h => divFlt h.fmt))
/-- VFFMA.vf (R244): s × vb[e] + vd[e]. -/
def execVffmaVf (_c : Bool) (mk d a b : Nat) (s : State) : Host.Outcome State Fault Refusal :=
  s.gate (chkFloat s) (fun s => s.fma mk d (.vec b) (s.hart.scalarF a))
/-- VFCMP.vf (R250). -/
def execVfcmpVf (_c : Bool) (mk d a b y : Nat) (s : State) : Host.Outcome State Fault Refusal :=
  s.gate (chkFloatCmp s) (fun s => s.fltCompare mk d y (.vec b) (s.hart.scalarF a))
/-- VFCMP.f.vf (R250). -/
def execVfcmpFVf (_c : Bool) (mk d a b y : Nat) (s : State) : Host.Outcome State Fault Refusal :=
  s.gate (chkFloatCmp s) (fun s => s.finCompare mk d y (.vec b) (s.hart.scalarF a))

/-! ### Conversion, rounding, class, absolute value (R251, R252) -/

/-- The issue check of VFCVT from format `f` (R251). -/
def chkVfcvt (f : Nat) (s : State) : Option Trap :=
  let h := s.hart
  let fits := if fmtWide f || fmtWide h.fmt then h.pack = 1 && decide (h.vl ≤ h.vlmax / 2) else decide (regWidth f ≤ 32 / h.pack)
  firstTrap (chkBits s) (s.illegalIf (!fits))

/-- A value converted to a float format: ro(V, F) (R251). -/
def toFloat (f : Nat) (v : Val) : Image × BitVec 5 := oddResult f ((propagate [v]).getD (v, flNone))

/-- A value converted to an integer format under a mode (R251). -/
def toInteger (f mode : Nat) (v : Val) : Image × BitVec 5 :=
  match v with
  | .nan _ _ _ => (⟨0, 0⟩, flNV)
  | .inf n _ => (wrapInt f (if n then intMin f else intMax f), flNV)
  | .num n m e =>
    let r := roundInt mode n m e
    if r.1 < intMin f then (wrapInt f (intMin f), flNV)
    else if intMax f < r.1 then (wrapInt f (intMax f), flNV)
    else (wrapInt f r.1, flIf (!r.2) flNX)

/-- VFCVT (R251): the source read in its own format at the pack of `vtype`. -/
def execVfcvt (_c : Bool) (mk d a f : Nat) (s : State) : Host.Outcome State Fault Refusal :=
  s.gate (chkVfcvt f s) (fun s =>
    s.elementwise mk d (fun h e => mapUnit (fun i =>
      if fmtFloat h.fmt then toFloat h.fmt (i.val f) else toInteger h.fmt h.mode (i.val f)) (h.unitAs f h.pack a e)))

/-- VFRND (R252). -/
def execVfrnd (_c : Bool) (mk d a o : Nat) (s : State) : Host.Outcome State Fault Refusal :=
  s.gate (chkFloat s) (fun s =>
    s.unary mk d a (fun h i =>
      let r := finFloat (i.val h.fmt) h.fmt (if o = 7 then h.mode else o) h.sat
      (⟨r.1, 0⟩, r.2)))

/-- VFCLS (R252): the class mask in the element's low slot. -/
def execVfcls (_c : Bool) (mk d a : Nat) (s : State) : Host.Outcome State Fault Refusal :=
  s.gate (chkFloatCmp s) (fun s =>
    .next (s.upd (fun h => ((h.active mk).foldl (fun h e =>
      let c : Slot := ⟨BitVec.ofNat 32 (classOf h.fmt ((h.unit a e).headD ⟨0, 0⟩)), 0⟩
      if fmtWide h.fmt then (h.setSlot d (2 * e) c).setSlot d (2 * e + 1) Slot.zero else h.setSlot d e c) (h.dirtyV d)).next)))

/-- VFABS (R252). -/
def execVfabs (_c : Bool) (mk d a : Nat) (s : State) : Host.Outcome State Fault Refusal :=
  s.gate (chkFloat s) (fun s => s.unary mk d a (fun h i => (⟨i.enc % 2 ^ (fmtWidth h.fmt - 1), i.tail⟩, flNone)))

/-! ### Functions and seeds (R253) -/

/-- A function of one operand, rounded to odd. -/
def State.function (s : State) (mk d a : Nat) (f : Val → Val × BitVec 5) : Host.Outcome State Fault Refusal :=
  s.unary mk d a (fun h i => oddResult h.fmt (f (i.val h.fmt)))

/-- VFSQRT (R253). -/
def execVfsqrt (_c : Bool) (mk d a : Nat) (s : State) : Host.Outcome State Fault Refusal :=
  s.gate (chkFloat s) (fun s => s.function mk d a sqrtVal)
/-- VRSQE (R253). -/
def execVrsqe (_c : Bool) (mk d a : Nat) (s : State) : Host.Outcome State Fault Refusal :=
  s.gate (chkFloat s) (fun s => s.function mk d a rsqeVal)
/-- VRCPE (R253). -/
def execVrcpe (_c : Bool) (mk d a : Nat) (s : State) : Host.Outcome State Fault Refusal :=
  s.gate (chkFloat s) (fun s => s.function mk d a rcpeVal)
/-- VEXP (R253). -/
def execVexp (_c : Bool) (mk d a : Nat) (s : State) : Host.Outcome State Fault Refusal :=
  s.gate (chkFloat s) (fun s => s.function mk d a expVal)
/-- VLOG (R253). -/
def execVlog (_c : Bool) (mk d a : Nat) (s : State) : Host.Outcome State Fault Refusal :=
  s.gate (chkFloat s) (fun s => s.function mk d a lnVal)
/-- VSIGM (R253). -/
def execVsigm (_c : Bool) (mk d a : Nat) (s : State) : Host.Outcome State Fault Refusal :=
  s.gate (chkFloat s) (fun s => s.function mk d a sigmVal)
/-- VTANH (R253). -/
def execVtanh (_c : Bool) (mk d a : Nat) (s : State) : Host.Outcome State Fault Refusal :=
  s.gate (chkFloat s) (fun s => s.function mk d a tanhVal)

end Sys2Proof.Machine
end

