-- ==== Sys2Proof/Machine/VMem.lean ====
section
/-! DEFINITION. Vector loads and stores of units, peer transfers, image blocks, tapered loads (R227 to R236). -/

namespace Sys2Proof.Machine

/-! ### Unit addresses (R228) -/

/-- pa + e × u (R228). -/
def Hart.unitAddr (h : Hart) (a e : Nat) : Nat := ((h.getP a).addr.toNat + e * h.unitBytes) % 2 ^ 64
/-- pa + e × xb, xb signed (R228). -/
def Hart.strideAddr (h : Hart) (a b e : Nat) : Nat := ((h.getP a).addr + BitVec.ofNat 64 e * h.getX b).toNat
/-- pa + slot e of vb as `s32` (R228). -/
def Hart.indexAddr (h : Hart) (a b e : Nat) : Nat := ((h.getP a).addr + sx (h.getSlot b e).data.toNat 32).toNat

/-! ### One unit -/

/-- st(unit) of R228: final rounding of float elements with the flags, other formats unchanged. -/
def Hart.stUnit (h : Hart) (n e : Nat) : List Image × BitVec 5 :=
  if fmtFloat h.fmt then
    mapUnit (fun i => let r := finVal (i.val h.fmt) h.fmt h.mode h.sat
      (⟨r.1, 0⟩, r.2)) (h.unit n e)
  else (h.unit n e, 0)

/-- The bits of st(unit) as they go to memory: the element, or the whole slot at pack above 1 (R227, R228). -/
def Hart.stBits (h : Hart) (n e : Nat) : Nat × BitVec 5 :=
  if fmtFloat h.fmt then
    let r := h.stUnit n e
    (if fmtWide h.fmt then (r.1.headD ⟨0, 0⟩).enc else joinBits (subBits h.fmt h.pack) r.1, r.2)
  else (h.unitBits n e, 0)

/-- A unit loaded into element `e` of vd, every tail 0b00 (R228). -/
def State.loadUnit (addr : Hart → Nat → Nat) (d : Nat) (s : State) (e : Nat) : Except Stop State :=
  match s.load (addr s.hart e) s.hart.unitBytes s.hart.unitBytes 1 true with
  | .error x => .error x
  | .ok (s1, v) => .ok (s1.upd (·.setBits d e v))

/-- A unit stored from element `e` of register `n` (R228). -/
def State.storeUnit (addr : Hart → Nat → Nat) (n : Nat) (s : State) (e : Nat) : Except Stop State :=
  let r := s.hart.stBits n e
  match s.store (addr s.hart e) s.hart.unitBytes (leBytes r.1 s.hart.unitBytes) true with
  | .error x => .error x
  | .ok s1 => .ok (s1.upd (·.raise r.2))

/-- The issue check of the loads and stores of units (R78). -/
def chkVmem (s : State) : Option Trap := s.needVtype

/-- A load of units. -/
def State.vload (s : State) (mk d : Nat) (addr : Hart → Nat → Nat) : Host.Outcome State Fault Refusal :=
  s.gate (chkVmem s) (fun s =>
    let r := s.eachUnit (State.loadUnit addr d) (s.hart.active mk)
    s.finishUnits (match r with
      | (s1, none) => (s1.upd (·.dirtyV d), none)
      | r => r))

/-- A store of units. -/
def State.vstore (s : State) (mk n : Nat) (addr : Hart → Nat → Nat) : Host.Outcome State Fault Refusal :=
  s.gate (chkVmem s) (fun s => s.finishUnits (s.eachUnit (State.storeUnit addr n) (s.hart.active mk)))

/-- The first active element of a fault-only-first load (R46): over the whole instruction, not the window. -/
def Hart.firstActive (h : Hart) (mk : Nat) : Option Nat :=
  (upFrom h.vstart.toNat (h.vl - h.vstart.toNat)).find? (h.maskBit mk)

/-- A fault-only-first load (R46): a fault of R231 at an element other than the first active one shortens `vl`; the first active
element's fault traps with nothing loaded. -/
def State.vloadFirst (s : State) (mk d : Nat) (addr : Hart → Nat → Nat) : Host.Outcome State Fault Refusal :=
  s.gate (chkVmem s) (fun s =>
    match s.eachUnit (State.loadUnit addr d) (s.hart.active mk) with
    | (s1, some (e, .trap t)) =>
      if some e = s.hart.firstActive mk then s.trap { t with unit := e }
      else if t.code ≤ 0x0d && !t.here then .next (s1.upd (fun h => { h with vl := e }.dirtyV d)).advance
      else s.finishUnits (s1, some (e, .trap t))
    | (s1, none) => .next (s1.upd (·.dirtyV d)).advance
    | r => s.finishUnits r)

/-- VLD (R228). -/
def execVld (_c : Bool) (mk d a : Nat) (s : State) : Host.Outcome State Fault Refusal := s.vload mk d (fun h e => h.unitAddr a e)
/-- VLDS (R228). -/
def execVlds (_c : Bool) (mk d a b : Nat) (s : State) : Host.Outcome State Fault Refusal := s.vload mk d (fun h e => h.strideAddr a b e)
/-- VLDX (R228): vd may be the index register; each unit reads its index before it is written (R237, R40). -/
def execVldx (_c : Bool) (mk d a b : Nat) (s : State) : Host.Outcome State Fault Refusal :=
  let k := s.hart
  s.vload mk d (fun _ e => k.indexAddr a b e)
/-- VLDF (R46, R228). -/
def execVldf (_c : Bool) (mk d a : Nat) (s : State) : Host.Outcome State Fault Refusal := s.vloadFirst mk d (fun h e => h.unitAddr a e)
/-- VLDXF (R46, R228). -/
def execVldxf (_c : Bool) (mk d a b : Nat) (s : State) : Host.Outcome State Fault Refusal :=
  let k := s.hart
  s.vloadFirst mk d (fun _ e => k.indexAddr a b e)
/-- VST (R228). -/
def execVst (_c : Bool) (mk d a : Nat) (s : State) : Host.Outcome State Fault Refusal := s.vstore mk d (fun h e => h.unitAddr a e)
/-- VSTS (R228). -/
def execVsts (_c : Bool) (mk d a b : Nat) (s : State) : Host.Outcome State Fault Refusal := s.vstore mk d (fun h e => h.strideAddr a b e)
/-- VSTX (R228). -/
def execVstx (_c : Bool) (mk d a b : Nat) (s : State) : Host.Outcome State Fault Refusal := s.vstore mk d (fun h e => h.indexAddr a b e)

/-! ### Peer transfers (R232) -/

/-- The slots of element `e` (R79). -/
def Hart.slotsOf (h : Hart) (e : Nat) : List Nat := if fmtWide h.fmt then [2 * e, 2 * e + 1] else [e]

/-- The scratchpad word that slot `sl` of a peer transfer at `pa` reaches (R115, R232): the hart that holds it and its offset, and the
address for `tval`. -/
def State.peerSlot (s : State) (pa sl acc : Nat) : Except Stop (Nat × Nat × Nat) :=
  let k := 256 * (sl / 64) + 4 * (sl % 64)
  let a := (pa + k) % 2 ^ 64
  let bad (c : Nat) : Except Stop (Nat × Nat × Nat) := .error (.trap (.mem c acc a))
  if pa % 256 ≠ 0 then bad 0x08
  else if !canonical pa then bad 0x09
  else if !inAperture pa then bad 0x0d
  else
    let p := bits pa 28 21
    let off := bits pa 20 0 + k
    if p = 255 then (if off + 4 ≤ 2 ^ 21 && s.hart.scratchOk off 4 then .ok (s.hart.hid, off, a) else bad 0x0d)
    else if p ≥ 192 then bad 0x09
    else match s.peerTarget p a 4 with
      | none => bad 0x0d
      | some h => if off + 4 ≤ 2 ^ 21 && h.scratchOk off 4 then .ok (h.hid, off, a) else bad 0x0d

/-- One slot of VLDP: the whole word, tail 0b00 (R232). -/
def State.loadPeerSlot (pa d : Nat) (s : State) (sl : Nat) : Except Stop State :=
  match s.waitBytes ((pa + 256 * (sl / 64) + 4 * (sl % 64)) % 2 ^ 64) 4 false with
  | .error x => .error x
  | .ok _ =>
    match s.peerSlot pa sl 1 with
    | .error x => .error x
    | .ok (hid, off, a) => match s.fetchTarget a 4 1 (.scratch hid off) with
      | .error x => .error x
      | .ok v => .ok (s.upd (fun h => (h.setSlot d sl ⟨BitVec.ofNat 32 v, 0⟩).dirtyV d))

/-- One slot of VSTP: `v` written to the word (R232). -/
def State.storePeerSlot (pa : Nat) (s : State) (sl v : Nat) : Except Stop State :=
  match s.waitBytes ((pa + 256 * (sl / 64) + 4 * (sl % 64)) % 2 ^ 64) 4 true with
  | .error x => .error x
  | .ok _ =>
    match s.peerSlot pa sl 2 with
    | .error x => .error x
    | .ok (hid, off, _) => .ok (s.putScratch hid off (leBytes v 4))

/-- VLDP (R232). -/
def execVldp (_c : Bool) (mk d a : Nat) (s : State) : Host.Outcome State Fault Refusal :=
  s.gate (chkVmem s) (fun s =>
    let pa := (s.hart.getP a).addr.toNat
    s.finishUnits (match s.eachUnit (fun s e => (s.hart.slotsOf e).foldlM (State.loadPeerSlot pa d) s) (s.hart.active mk) with
      | (s1, none) => (s1.upd (·.dirtyV d), none)
      | r => r))

/-- VSTP (R232): st(slot) of R228. -/
def execVstp (_c : Bool) (mk d a : Nat) (s : State) : Host.Outcome State Fault Refusal :=
  s.gate (chkVmem s) (fun s =>
    let pa := (s.hart.getP a).addr.toNat
    s.finishUnits (s.eachUnit (fun s e =>
      let r := s.hart.stBits d e
      match ((s.hart.slotsOf e).zip [r.1 % 2 ^ 32, r.1 / 2 ^ 32]).foldlM (fun s p => s.storePeerSlot pa p.1 p.2) s with
      | .error x => .error x
      | .ok s1 => .ok (s1.upd (·.raise r.2))) (s.hart.active mk)))

/-! ### Image blocks (R233) -/

/-- The slots in [0, `vl`) (R233). -/
def Hart.blockSlots (h : Hart) : Nat := h.vl * h.slotsPer

/-- One slot of VSPILL: its data word and its tail byte (R102, R233). -/
def State.spillSlot (pa n k : Nat) (s : State) (i : Nat) : Except Stop State :=
  let sl := s.hart.getSlot n i
  match s.store ((pa + 4 * i) % 2 ^ 64) 4 (leBytes sl.data.toNat 4) true with
  | .error x => .error x
  | .ok s1 => s1.store ((pa + 4 * k + i) % 2 ^ 64) 1 (leBytes sl.tail.toNat 1) true

/-- One slot of VRELOAD (R233). -/
def State.reloadSlot (pa d k : Nat) (s : State) (i : Nat) : Except Stop State :=
  match s.load ((pa + 4 * i) % 2 ^ 64) 4 4 1 true with
  | .error x => .error x
  | .ok (s1, v) => match s1.load ((pa + 4 * k + i) % 2 ^ 64) 1 1 1 true with
    | .error x => .error x
    | .ok (s2, t) => .ok (s2.upd (fun h => (h.setSlot d i ⟨BitVec.ofNat 32 v, BitVec.ofNat 8 t⟩).dirtyV d))

/-- VSPILL (R233). -/
def execVspill (_c : Bool) (mk d a : Nat) (s : State) : Host.Outcome State Fault Refusal :=
  s.gate (chkVmem s) (fun s =>
    let pa := (s.hart.getP a).addr.toNat
    s.finishUnits (s.eachUnit (fun s e => (s.hart.slotsOf e).foldlM (State.spillSlot pa d s.hart.blockSlots) s) (s.hart.active mk)))

/-- VRELOAD (R233). -/
def execVreload (_c : Bool) (mk d a : Nat) (s : State) : Host.Outcome State Fault Refusal :=
  s.gate (chkVmem s) (fun s =>
    let pa := (s.hart.getP a).addr.toNat
    s.finishUnits (match s.eachUnit (fun s e => (s.hart.slotsOf e).foldlM (State.reloadSlot pa d s.hart.blockSlots) s) (s.hart.active mk) with
      | (s1, none) => (s1.upd (·.dirtyV d), none)
      | r => r))

/-! ### Densely packed loads (R234) -/

/-- The first byte, the bytes and the bit of code `k` of a densely packed format at `pa` (R234). -/
def codePlace (f pa k : Nat) : Nat × Nat × Nat :=
  if f = 7 then (pa + k, 1, 0)
  else if f = 8 then
    let b := 6 * (k % 4)
    (pa + 3 * (k / 4) + b / 8, (b + 5) / 8 - b / 8 + 1, b % 8)
  else (pa + k / 2, 1, 4 * (k % 2))

/-- One byte loaded and put after those already loaded. -/
def State.loadByte (r : State × List Byte) (a : Nat) : Except Stop (State × List Byte) :=
  match r.1.load (a % 2 ^ 64) 1 1 1 true with
  | .error x => .error x
  | .ok (s1, v) => .ok (s1, r.2 ++ [BitVec.ofNat 8 v])

/-- Code `k` read from memory, byte by byte. -/
def State.loadCode (s : State) (f pa k : Nat) : Except Stop (State × Nat) :=
  let p := codePlace f pa k
  match (upFrom p.1 p.2.1).foldlM State.loadByte (s, []) with
  | .error x => .error x
  | .ok (s1, bs) => .ok (s1, leNat bs / 2 ^ p.2.2 % 2 ^ fmtWidth f)

/-- The issue check of VLDT: `vtype` valid and of the same format (R234). -/
def chkVldt (f : Nat) (s : State) : Option Trap := firstTrap s.needVtype (s.illegalIf (decide (s.hart.fmt ≠ f)))

/-- One code loaded and put after those of the slot already loaded. -/
def State.loadNext (f pa : Nat) (r : State × List Image) (k : Nat) : Except Stop (State × List Image) :=
  match r.1.loadCode f pa k with
  | .error x => .error x
  | .ok (s1, v) => .ok (s1, r.2 ++ [⟨v, 0⟩])

/-- One slot of VLDT. -/
def State.loadDense (f pa d : Nat) (s : State) (e : Nat) : Except Stop State :=
  match (upFrom (e * s.hart.pack) s.hart.pack).foldlM (State.loadNext f pa) (s, []) with
  | .error x => .error x
  | .ok (s1, is) => .ok (s1.upd (·.setUnit d e is))

/-- VLDT (R234). -/
def execVldt (_c : Bool) (mk d a f : Nat) (s : State) : Host.Outcome State Fault Refusal :=
  s.gate (chkVldt f s) (fun s =>
    let pa := (s.hart.getP a).addr.toNat
    s.finishUnits (match s.eachUnit (State.loadDense f pa d) (s.hart.active mk) with
      | (s1, none) => (s1.upd (·.dirtyV d), none)
      | r => r))

end Sys2Proof.Machine
end

