-- ==== Sys2Proof/Machine/Atomics.lean ====
section
/-! DEFINITION. Atomics, acquires and releases, fences and barriers (R142 to R152, R184, R299 to R311). -/

namespace Sys2Proof.Machine

/-! ### Operations (R196, R300) -/

/-- The formats an operation of R300 applies to. -/
def atomicFmt (op f : Nat) : Bool :=
  if op = 1 then f = 0 || f = 1
  else if op = 2 || op = 3 || op = 7 then f = 0 || f = 1 || f = 18 || f = 22 || f = 19 || f = 23
  else f = 18 || f = 22 || f = 19 || f = 23

/-- The new memory value of R300: `m` is the memory value and the first operand, `x` the register operand. -/
def atomicVal (op f mode : Nat) (sat : Bool) (m : Nat) (x : Image) : Nat × BitVec 5 :=
  if fmtFloat f then
    let r : Val × BitVec 5 :=
      if op = 1 then sumVal (decodeVal f m 0) (x.val f)
      else if op = 2 || op = 3 then
        let q := minMaxImage f ⟨m, 0⟩ x (op = 3)
        (q.1.val f, q.2)
      else (x.val f, flNone)
    let q := finVal r.1 f mode sat
    (q.1, r.2 ||| q.2)
  else
    let mi : Image := ⟨m, 0⟩
    let i := if op = 0 then (addInt f mi x).1 else if op = 2 then (minInt f mi x).1 else if op = 3 then (maxInt f mi x).1
      else if op = 4 then (andBits f mi x).1 else if op = 5 then (orBits f mi x).1 else if op = 6 then (xorBits f mi x).1 else x
    (i.enc % 2 ^ fmtWidth f, flNone)

/-- A release or acquire-release code of `sy` (R196). -/
def isRelease (y : Nat) : Bool := y = 2 || y = 3 || y = 6 || y = 7

/-- The job has the strict determinism attribute (R149). -/
def State.strict (s : State) : Bool := match s.jobOf s.hart.slot with
  | none => false
  | some j => j.strict

/-- A trap whose `tval` is the member's word. -/
def State.wordTrap (s : State) (code : Nat) : Option Trap := some (.of code s.hart.cur.word)

/-- The wait of a drain point for the engine (R146). -/
def State.drainWait (s : State) (rel : Bool) : Except Stop Unit := if rel then s.hart.waitAll else .ok ()

/-! ### Sides (R184) -/

/-- The member stands in a convoy with another, or its C bit is 0. -/
def State.notAlone (s : State) (c : Bool) : Bool := decide (s.hart.cur.size > 1) || !c

/-- The misuse of R184: `as` are the addresses of the active units. -/
def State.sideTrap (s : State) (c : Bool) (as : List Nat) : Option Trap :=
  match as with
  | [] => none
  | a :: r =>
    if (!inAperture a && s.notAlone c) || r.any (fun b => inAperture b ≠ inAperture a) then s.wordTrap 0x11 else none

/-- The addresses of the active units of an indexed A-form instruction (R299). -/
def Hart.unitAddrs (h : Hart) (mk p b : Nat) : List Nat := (h.active mk).map (h.indexAddr p b)

/-! ### VAMO (R301) -/

/-- The issue check of VAMO with operation `op` (R149, R184, R300). -/
def chkVamo (op : Nat) (c : Bool) (mk b p : Nat) (s : State) : Option Trap :=
  firstTrap s.needVtype (firstTrap (s.illegalIf (!atomicFmt op s.hart.fmt || decide (s.hart.pack > 1)))
    (firstTrap (if op = 1 && s.strict then s.wordTrap 0x10 else none) (s.sideTrap c (s.hart.unitAddrs mk p b))))

/-- One unit of VAMO: `x` its operand, `a` its address. -/
def State.vamoUnit (op d : Nat) (rel : Bool) (addr : Nat → Nat) (s : State) (e : Nat) : Except Stop State :=
  let h := s.hart
  let x := (h.unit d e).headD ⟨0, 0⟩
  match s.rmw (addr e) h.unitBytes true rel 3 2 (fun m => some (atomicVal op h.fmt h.mode h.sat m x).1) with
  | .error x => .error x
  | .ok (s1, old) => .ok (s1.upd (fun k => (k.setBits d e old).raise (atomicVal op h.fmt h.mode h.sat old x).2))

/-- VAMO with operation `op` (R301). -/
def State.vamo (s : State) (op : Nat) (c : Bool) (mk d b y p : Nat) : Host.Outcome State Fault Refusal :=
  s.gate (chkVamo op c mk b p s) (fun s =>
    match s.drainWait (isRelease y && !(s.hart.active mk).isEmpty) with
    | .error e => s.halt e
    | .ok _ =>
      let k := s.hart
      s.finishUnits (match s.eachUnit (State.vamoUnit op d (isRelease y) (k.indexAddr p b)) (k.active mk) with
        | (s1, none) => (s1.upd (·.dirtyV d), none)
        | r => r))

/-- VAMO.ADD (R300, R301). -/
def execVamoAdd (c : Bool) (mk d b y p : Nat) (s : State) : Host.Outcome State Fault Refusal := s.vamo 0 c mk d b y p
/-- VAMO.FADD (R149, R300, R301). -/
def execVamoFadd (c : Bool) (mk d b y p : Nat) (s : State) : Host.Outcome State Fault Refusal := s.vamo 1 c mk d b y p
/-- VAMO.MIN (R300, R301). -/
def execVamoMin (c : Bool) (mk d b y p : Nat) (s : State) : Host.Outcome State Fault Refusal := s.vamo 2 c mk d b y p
/-- VAMO.MAX (R300, R301). -/
def execVamoMax (c : Bool) (mk d b y p : Nat) (s : State) : Host.Outcome State Fault Refusal := s.vamo 3 c mk d b y p
/-- VAMO.AND (R300, R301). -/
def execVamoAnd (c : Bool) (mk d b y p : Nat) (s : State) : Host.Outcome State Fault Refusal := s.vamo 4 c mk d b y p
/-- VAMO.OR (R300, R301). -/
def execVamoOr (c : Bool) (mk d b y p : Nat) (s : State) : Host.Outcome State Fault Refusal := s.vamo 5 c mk d b y p
/-- VAMO.XOR (R300, R301). -/
def execVamoXor (c : Bool) (mk d b y p : Nat) (s : State) : Host.Outcome State Fault Refusal := s.vamo 6 c mk d b y p
/-- VAMO.SWAP (R300, R301). -/
def execVamoSwap (c : Bool) (mk d b y p : Nat) (s : State) : Host.Outcome State Fault Refusal := s.vamo 7 c mk d b y p

/-! ### VGL and VSC (R302, R303) -/

/-- The issue check of VGL and VSC (R78, R184). -/
def chkLinked (c : Bool) (mk b p : Nat) (s : State) : Option Trap :=
  firstTrap s.needVtype (s.sideTrap c (s.hart.unitAddrs mk p b))

/-- The words of a scratchpad access. -/
def wordsOf (off n : Nat) : List Nat := upFrom (off / 4) ((off % 4 + n + 3) / 4)

/-- The off-core links that the slice of `pa` holds (R302). -/
def State.sliceLinks (s : State) (pa : Nat) : List (Nat × Nat) :=
  s.links.filter (fun l => homeSlice l.2 = homeSlice pa && s.homeCluster l.2 = s.homeCluster pa)

/-- A link of the hart on the storage of a target; a full slice evicts its oldest (R302). -/
def State.addLink (s : State) (n : Nat) (t : Target) : State :=
  match t with
  | .scratch _ off => s.upd (fun h => { h with links := (wordsOf off n).foldl (fun l w => if l.contains w then l else l ++ [w]) h.links })
  | .phys pa _ =>
    let l := (s.hart.hid, lineOf pa)
    if s.links.contains l then s
    else
      let full := decide (Config.sliceEntries ≤ s.links.length) && decide (Config.sliceEntries ≤ (s.sliceLinks pa).length)
      let kept := if full then (match s.sliceLinks pa with
        | [] => s.links
        | o :: _ => s.links.erase o) else s.links
      { s with links := kept ++ [l] }

/-- The hart's link on the storage of a target is intact (R303). -/
def State.linked (s : State) (n : Nat) (t : Target) : Bool :=
  match t with
  | .scratch _ off => (wordsOf off n).all s.hart.links.contains
  | .phys pa _ => s.links.contains (s.hart.hid, lineOf pa)

/-- The target of an access that has passed its checks, none otherwise. -/
def State.targetOf (s : State) (a n acc perm : Nat) : Option Target := (s.check a n n acc perm true).toOption

/-- One unit of VGL: an atomic that reads only (R129, R135, R360; log 24). -/
def State.vglUnit (d : Nat) (rel : Bool) (addr : Nat → Nat) (s : State) (e : Nat) : Except Stop State :=
  let n := s.hart.unitBytes
  match s.rmw (addr e) n true rel 3 1 (fun _ => none) with
  | .error x => .error x
  | .ok (s1, old) =>
    let s2 := match s1.targetOf (addr e) n 3 1 with
      | none => s1
      | some t => s1.addLink n t
    .ok (s2.upd (·.setBits d e old))

/-- The links held before a VGL are dropped at its first element (R302). -/
def State.firstDrop (s : State) : State := if s.hart.cur.lo = 0 then s.dropLinks else s

/-- VGL (R302). -/
def execVgl (c : Bool) (mk d b y p : Nat) (s : State) : Host.Outcome State Fault Refusal :=
  s.gate (chkLinked c mk b p s) (fun s =>
    match s.drainWait (isRelease y && !(s.hart.active mk).isEmpty) with
    | .error e => s.halt e
    | .ok _ =>
      let k := s.hart
      s.finishUnits (match s.firstDrop.eachUnit (State.vglUnit d (isRelease y) (k.indexAddr p b)) (k.active mk) with
        | (s1, none) => (s1.upd (·.dirtyV d), none)
        | r => r))

/-- The active units of the whole instruction, beyond the window of a pass by rows too. -/
def Hart.activeAll (h : Hart) (mk : Nat) : List Nat := (upFrom h.vstart.toNat (h.vl - h.vstart.toNat)).filter (h.maskBit mk)

/-- Among the active units that name one word of storage, by whatever address, the highest is attempted (R303). -/
def State.attempted (s : State) (addr : Nat → Nat) (es : List Nat) (e : Nat) : Bool :=
  !es.any (fun k => decide (e < k) && s.spot (addr k) / 4 = s.spot (addr e) / 4)

/-- The storage of a unit of VSC as the unit finds it: the hart's own buffered bytes of an off-core line are drained first (R147). -/
def State.vscReady (s : State) (rel : Bool) (a u : Nat) (t : Target) : State :=
  let s1 := if rel then (s.note a t).drain else s.note a t
  match t with
  | .scratch _ _ => s1
  | .phys pa _ => s1.drainOwn (upFrom pa u)

/-- One unit of VSC; bit e of mask `mk` becomes 1 exactly when it fails (R303). Every active unit is an immediate atomic: another hart's claim
raises the memory-model exception whether it is attempted or not (R143, log 47). -/
def State.vscUnit (mk n : Nat) (rel : Bool) (addr : Nat → Nat) (es : List Nat) (s : State) (e : Nat) : Except Stop State :=
  let u := s.hart.unitBytes
  match s.waitBytes (addr e) u true with
  | .error x => .error x
  | .ok _ => match s.check (addr e) u u 3 2 true with
    | .error x => .error x
    | .ok t =>
      let s1 := s.vscReady rel (addr e) u t
      if s.attempted addr es e && s1.linked u t then
        let v := s.hart.stBits n e
        let bs := leBytes v.1 u
        let s2 := match t with
          | .scratch hid off => s1.putScratch hid off bs
          | .phys pa _ => (s1.writePhys s.hart.hid pa bs).dropRoutes (upFrom pa u)
        .ok (s2.upd (fun k => (k.raise v.2).writeMask mk (fun _ => false) [e]))
      else .ok (s1.upd (fun k => k.writeMask mk (fun _ => true) [e]))

/-- The links are dropped after the last unit of a VSC (R303). -/
def State.lastDrop (s : State) : State := if s.hart.vl ≤ s.hart.cur.hi then s.dropLinks else s

/-- VSC (R303): the units in [`vstart`, `vl`) that are not active get mask bit 0, the links are dropped at the end. -/
def execVsc (c : Bool) (mk d b y p : Nat) (s : State) : Host.Outcome State Fault Refusal :=
  s.gate (chkLinked c mk b p s) (fun s =>
    match s.drainWait (isRelease y && !(s.hart.active mk).isEmpty) with
    | .error e => s.halt e
    | .ok _ =>
      let k := s.hart
      s.finishUnits (match s.eachUnit (State.vscUnit mk d (isRelease y) (k.indexAddr p b) (k.activeAll mk)) (k.active mk) with
        | (s1, none) => (s1.lastDrop.upd (fun h => h.setMask mk (h.getMask mk) []), none)
        | r => r))

/-! ### FAS (R304) -/

/-- The issue check of FAS (R184, R299). -/
def chkFas (c : Bool) (mk p : Nat) (s : State) : Option Trap :=
  let f := s.hart.fmt
  firstTrap s.needVtype (firstTrap (s.illegalIf (!(f = 18 || f = 22 || f = 19 || f = 23) || decide (s.hart.pack > 1)))
    (if (upFrom 0 s.hart.vl).any (s.hart.maskBit mk) then s.sideTrap c [(s.hart.getP p).addr.toNat] else none))

/-- The loop of FAS from the value `m` (R304): vd[e] is written before vb[e] is read, so that with vd = vb the written value is added. -/
def Hart.fasLoop (h : Hart) (d b : Nat) (es : List Nat) (m : Nat) : Hart × Nat :=
  es.foldl (fun a e =>
    let k := a.1.setBits d e a.2
    (k, (a.2 + k.unitBits b e) % 2 ^ fmtWidth h.fmt)) (h, m)

/-- FAS (R304): `vstart` is ignored. -/
def execFas (c : Bool) (mk d b y p : Nat) (s : State) : Host.Outcome State Fault Refusal :=
  s.gate (chkFas c mk p s) (fun s =>
    let h := s.hart
    let es := (upFrom 0 h.vl).filter (h.maskBit mk)
    if es.isEmpty then .next (s.upd (·.dirtyV d)).advance
    else match s.drainWait (isRelease y) with
      | .error e => s.halt e
      | .ok _ => match s.rmw (h.getP p).addr.toNat h.unitBytes true (isRelease y) 3 2 (fun m => some (h.fasLoop d b es m).2) with
        | .error e => s.halt e
        | .ok (s1, old) => .next (s1.upd (fun k => ((k.fasLoop d b es old).1.dirtyV d).next)))

/-! ### VAMOO (R148, R305) -/

/-- The pending ordered elements of the hart with those of its active units. -/
def State.pendingTotal (s : State) (mk : Nat) : Nat := s.hart.pending.length + (s.hart.active mk).length

/-- The issue check of VAMOO (R300, R305). -/
def chkVamoo (op mk : Nat) (s : State) : Option Trap :=
  firstTrap s.needVtype (firstTrap (s.illegalIf (!atomicFmt op s.hart.fmt || decide (s.hart.pack > 1) || !s.inGang s.hart))
    (if s.pendingTotal mk > Config.maxPending then some (.of 0x0f (s.pendingTotal mk)) else none))

/-- The translation of one unit of VAMOO (R305): the physical address; the aperture faults, claims are not met at issue. -/
def State.orderedAt (s : State) (a n : Nat) : Except Stop (State × Nat) :=
  if a % n ≠ 0 then .error (.trap (.mem 0x08 3 a))
  else match place a with
    | .error c => .error (.trap (.mem c 3 a))
    | .ok (.own _) => .error (.trap (.mem 0x0d 3 a))
    | .ok (.peer _ _) => .error (.trap (.mem 0x0d 3 a))
    | .ok (.virt va) => match s.translate s.hart.slot va 2 with
      | .error c => .error (.trap (.mem c 3 a))
      | .ok (pa, leaf) => .ok (s.note a (.phys pa leaf), pa)

/-- One unit of VAMOO recorded. -/
def State.vamooUnit (op n : Nat) (addr : Nat → Nat) (s : State) (e : Nat) : Except Stop State :=
  let h := s.hart
  match s.orderedAt (addr e) h.unitBytes with
  | .error x => .error x
  | .ok (s1, pa) =>
    let x := (h.unit n e).headD ⟨0, 0⟩
    .ok (s1.upd (fun k => { k with pending := k.pending ++ [⟨pa, addr e, op, x.enc, x.tail, h.fmt, h.mode, h.sat⟩] }))

/-- VAMOO with operation `op` (R305). -/
def State.vamoo (s : State) (op mk n b p : Nat) : Host.Outcome State Fault Refusal :=
  s.gate (chkVamoo op mk s) (fun s => s.finishUnits (s.eachUnit (State.vamooUnit op n (s.hart.indexAddr p b)) (s.hart.active mk)))

/-- VAMOO.ADD (R305). -/
def execVamooAdd (mk d b p : Nat) (s : State) : Host.Outcome State Fault Refusal := s.vamoo 0 mk d b p
/-- VAMOO.FADD (R305). -/
def execVamooFadd (mk d b p : Nat) (s : State) : Host.Outcome State Fault Refusal := s.vamoo 1 mk d b p
/-- VAMOO.MIN (R305). -/
def execVamooMin (mk d b p : Nat) (s : State) : Host.Outcome State Fault Refusal := s.vamoo 2 mk d b p
/-- VAMOO.MAX (R305). -/
def execVamooMax (mk d b p : Nat) (s : State) : Host.Outcome State Fault Refusal := s.vamoo 3 mk d b p
/-- VAMOO.AND (R305). -/
def execVamooAnd (mk d b p : Nat) (s : State) : Host.Outcome State Fault Refusal := s.vamoo 4 mk d b p
/-- VAMOO.OR (R305). -/
def execVamooOr (mk d b p : Nat) (s : State) : Host.Outcome State Fault Refusal := s.vamoo 5 mk d b p
/-- VAMOO.XOR (R305). -/
def execVamooXor (mk d b p : Nat) (s : State) : Host.Outcome State Fault Refusal := s.vamoo 6 mk d b p
/-- VAMOO.SWAP (R305). -/
def execVamooSwap (mk d b p : Nat) (s : State) : Host.Outcome State Fault Refusal := s.vamoo 7 mk d b p

/-! ### AMOX (R306) -/

/-- The format in which AMOX computes: `f32` for `fadd`, the kind of `vtype.fmt` at the unit's width for `min` and `max`, the raw bits
otherwise. -/
def Hart.amoxFmt (h : Hart) (op w : Nat) : Nat :=
  if op = 1 then 0
  else if op = 2 || op = 3 then
    if fmtFloat h.fmt then (if w = 1 then 0 else 1) else if fmtSigned h.fmt then (if w = 1 then 18 else 19) else (if w = 1 then 22 else 23)
  else if w = 1 then 22 else 23

/-- The issue check of AMOX (R149, R306): `fadd`, `min` and `max` need a valid `vtype`, the last two of an integer format,
`f32` or `f64`. -/
def chkAmox (op : Nat) (s : State) : Option Trap :=
  if op = 1 then firstTrap s.needVtype (if s.strict then s.wordTrap 0x10 else none)
  else if op = 2 || op = 3 then firstTrap s.needVtype (s.illegalIf (!(fmtInt s.hart.fmt || s.hart.fmt = 0 || s.hart.fmt = 1)))
  else none

/-- AMOX with operation `op` (R306); `w` = 1 is the 32-bit form. -/
def State.amox (s : State) (op d a w y : Nat) : Host.Outcome State Fault Refusal :=
  s.gate (chkAmox op s) (fun s =>
    let h := s.hart
    let f := h.amoxFmt op w
    let n := if w = 1 then 4 else 8
    let x : Image := ⟨(h.getX d).toNat % 2 ^ (8 * n), 0⟩
    match s.drainWait (isRelease y) with
    | .error e => s.halt e
    | .ok _ => match s.rmw (h.getX a).toNat n false (isRelease y) 3 2 (fun m => some (atomicVal op f h.mode h.sat m x).1) with
      | .error e => s.halt e
      | .ok (s1, old) =>
        .next (s1.upd (fun k => ((k.setX d (sx old (8 * n))).raise (atomicVal op f h.mode h.sat old x).2).step4)))

/-- AMOX.ADD (R306). -/
def execAmoxAdd (d a w y : Nat) (s : State) : Host.Outcome State Fault Refusal := s.amox 0 d a w y
/-- AMOX.FADD (R149, R306). -/
def execAmoxFadd (d a w y : Nat) (s : State) : Host.Outcome State Fault Refusal := s.amox 1 d a w y
/-- AMOX.MIN (R306). -/
def execAmoxMin (d a w y : Nat) (s : State) : Host.Outcome State Fault Refusal := s.amox 2 d a w y
/-- AMOX.MAX (R306). -/
def execAmoxMax (d a w y : Nat) (s : State) : Host.Outcome State Fault Refusal := s.amox 3 d a w y
/-- AMOX.AND (R306). -/
def execAmoxAnd (d a w y : Nat) (s : State) : Host.Outcome State Fault Refusal := s.amox 4 d a w y
/-- AMOX.OR (R306). -/
def execAmoxOr (d a w y : Nat) (s : State) : Host.Outcome State Fault Refusal := s.amox 5 d a w y
/-- AMOX.XOR (R306). -/
def execAmoxXor (d a w y : Nat) (s : State) : Host.Outcome State Fault Refusal := s.amox 6 d a w y
/-- AMOX.SWAP (R306). -/
def execAmoxSwap (d a w y : Nat) (s : State) : Host.Outcome State Fault Refusal := s.amox 7 d a w y

/-! ### LDAQ and STRL (R307) -/

/-- LDAQ (R307): the bytes zero-extended. -/
def execLdaq (d a w _sc : Nat) (s : State) : Host.Outcome State Fault Refusal :=
  match s.load (s.hart.getX a).toNat (2 ^ w) (2 ^ w) 1 false with
  | .error e => s.halt e
  | .ok (s1, v) => .next (s1.upd (fun h => (h.setX d (BitVec.ofNat 64 v)).step4))

/-- STRL (R142, R307): after the drain it takes effect at its home slice, unclaimed. -/
def execStrl (d a w _sc : Nat) (s : State) : Host.Outcome State Fault Refusal :=
  let x := (s.hart.getX a).toNat
  let bs := leBytes (s.hart.getX d).toNat (2 ^ w)
  match s.hart.waitAll with
  | .error e => s.halt e
  | .ok _ => match s.check x (2 ^ w) (2 ^ w) 2 2 false with
    | .error e => s.halt e
    | .ok t =>
      let s1 := (s.note x t).drain
      .next (match t with
        | .scratch hid off => s1.putScratch hid off bs
        | .phys pa _ => (s1.writePhys 0 pa bs).dropRoutes (upFrom pa (2 ^ w))).advance4

/-! ### Fences (R308, R309) -/

/-- What every FENCEV does: the drain, and the route cache invalidated (R158, R308). -/
def State.fenced (s : State) : State :=
  let s1 := s.drain
  { s1 with routes := s1.routes.filter (fun r => decide (r.core ≠ s1.coreKey)) }

/-- FENCEV (R308): the model's memory orders every access at its step. -/
def execFencev (_sc : Nat) (s : State) : Host.Outcome State Fault Refusal :=
  match s.hart.waitAll with
  | .error e => s.halt e
  | .ok _ => .next s.fenced.advance4

/-- The wait of FENCEL. In a trap handler it cannot trap (R378): an operation that a fault stopped, and those held up by it, wait for the
TRET (R288), so it waits for those ahead only (log 47). -/
def Hart.waitLocal (h : Hart) : Except Stop Unit :=
  if h.intrap && h.engine.any (·.fault.isSome) then
    (if (h.engine.takeWhile (·.fault.isNone)).isEmpty then .ok () else .error .stall)
  else h.waitAll

/-- FENCEL (R309). -/
def execFencel (s : State) : Host.Outcome State Fault Refusal :=
  match s.hart.waitLocal with
  | .error e => s.halt e
  | .ok _ => .next s.drain.advance4

/-- The launch record of slot `i` changed. -/
def State.updLaunch (s : State) (i l : Nat) (f : Launch → Launch) : State :=
  s.updJob i (fun j => { j with launches := j.launches.map (fun k => if k.id = l then f k else k) })

/-- The launch record `l` of slot `i`. -/
def State.launchAt (s : State) (i l : Nat) : Option Launch := match s.jobOf i with
  | none => none
  | some j => j.launches.find? (·.id = l)

/-- The harts of the launch that have not halted. -/
def Launch.live (l : Launch) : Nat := l.block.harts - l.halted

/-- Every hart of the launch that has not halted has arrived at the collective FENCEV (R148). -/
def Launch.collReady (l : Launch) : Bool := l.coll.length = l.live

/-- The issue check of a collective FENCEV (R308): a gang launch, and at least `.cluster` scope. -/
def chkFencevColl (sc : Nat) (s : State) : Option Trap := s.illegalIf (!s.inGang s.hart || decide (sc < 2))

/-- The collective drain of a launch becomes due when its last live hart has arrived (R148). -/
def State.checkColl (s : State) (i l : Nat) : State := match s.launchAt i l with
  | none => s
  | some k => if k.collReady && k.live > 0 then s.post (.collectiveDrain i l) else s

/-- The collective FENCEV (R148, R152, R308): the hart drains, arrives once, and waits at the instruction. -/
def execFencevColl (sc : Nat) (s : State) : Host.Outcome State Fault Refusal :=
  s.gate (chkFencevColl sc s) (fun s =>
    match s.hart.waitAll with
    | .error e => s.halt e
    | .ok _ =>
      let h := s.hart
      let s1 := s.fenced.updLaunch h.slot h.launchid (fun l => { l with coll := if l.coll.contains h.lcore then l.coll else l.coll ++ [h.lcore] })
      .next ((s1.upd (fun h => { h with status := .atColl })).checkColl h.slot h.launchid))

/-- One pending element applied (R148, R300): the state, the flags it raises, and the exception of one that is not applied: a claim of a hart of no such
gang (R305, R376), or a poisoned line, which the slice would read (R384). -/
def State.applyPending (s : State) (gang : List Nat) (q : PendingAtomic) : State × BitVec 5 × Option Trap :=
  let n := fmtWidth q.fmt / 8
  let foreign := (upFrom q.pa n).find? (fun p => s.owner p ≠ 0 && !gang.contains (s.owner p))
  match foreign, s.poisonAt q.pa n with
  | some p, _ => (s, flNone, some ⟨0x20, 3, q.va + (p - q.pa), some (p, s.owner p), false, 0⟩)
  | none, some k => (s, flNone, some (.mem 0x22 3 (q.va / 128 * 128 + k)))
  | none, none =>
    let r := atomicVal q.op q.fmt q.mode q.sat (s.readPhys q.pa n) ⟨q.data, q.tail⟩
    ((s.touch [q.pa]).writePhys 0 q.pa (leBytes r.1 n), r.2, none)

/-- A list of pending elements applied in order: flags, and the first exception. -/
def State.applyAll (s : State) (gang : List Nat) (qs : List PendingAtomic) : State × BitVec 5 × Option Trap :=
  qs.foldl (fun (a : State × BitVec 5 × Option Trap) q =>
    let r := a.1.applyPending gang q
    (r.1, a.2.1 ||| r.2.1, if a.2.2.isSome then a.2.2 else r.2.2)) (s, flNone, none)

/-- A hart leaves its collective FENCEV: the flags of its elements (R300), and the exception of an element not applied (R305). -/
def State.leaveColl (s : State) (hid : Nat) (fl : BitVec 5) (stop : Option Trap) : State :=
  s.on hid (fun s =>
    let s1 := s.upd (fun h => { (h.raise fl).step4 with status := .running, pending := [] })
    match stop with
    | none => s1
    | some t => s1.takeTrap t)

/-- One hart's pending elements applied, in the collective drain. -/
def State.drainHart (gang : List Nat) (s : State) (h : Hart) : State :=
  let r := s.applyAll gang h.pending
  r.1.leaveColl h.hid r.2.1 r.2.2

/-- The `lcore`s [0, n) at which the launch holds pending elements, in ascending order, of live and of halted harts (R148). -/
def State.collOrder (s : State) (i l : Nat) : List Hart × List (Nat × List PendingAtomic) :=
  match s.launchAt i l with
  | none => ([], [])
  | some k => (s.harts.filter (fun h => h.slot = i && h.launchid = l), k.pend)

/-- The collective drain of launch `l` of slot `i` (R148, R305): the slices apply its pending elements in ascending `lcore`, and the harts that
waited go on. -/
def State.collect (s : State) (i l : Nat) : State :=
  let c := s.collOrder i l
  let gang := c.1.map (·.hid)
  let s1 := (upFrom 0 768).foldl (fun s lc =>
    let s1 := match c.2.find? (·.1 = lc) with
      | none => s
      | some (_, qs) => (s.applyAll gang qs).1
    match c.1.find? (·.lcore = lc) with
    | none => s1
    | some h => s1.drainHart gang h) s
  s1.updLaunch i l (fun k => { k with coll := [], pend := [] })

/-- COLLECTIVE_DRAIN (R148). -/
def execCollectiveDrain (slot launch : Nat) (s : State) : Host.Outcome State Fault Refusal :=
  match s.launchAt slot launch with
  | none => .next s
  | some k => if k.collReady then .next (s.collect slot launch) else .next s

/-! ### Barriers (R310) -/

/-- A hart runs inside a timetabled segment (R71). -/
def Hart.inSegment (h : Hart) : Bool := match h.time with
  | none => false
  | some t => t.live

/-- The issue check of BAR (R310). -/
def chkBar (a : Nat) (s : State) : Option Trap :=
  s.illegalIf (decide ((s.hart.getX a).toNat > 15) || !s.inGang s.hart || s.hart.inSegment)

/-- The `lcore`s that wait at barrier `k`. -/
def Launch.waiters (l : Launch) (k : Nat) : List Nat := mapGet [] l.bars k

/-- Every hart of a launch waits in barrier `k`: at least one is live, and all have arrived (R310). -/
def Launch.allAt (r : Launch) (k : Nat) : Bool := (r.waiters k).length = r.live && decide (r.live > 0)

/-- The throttling of a legacy launch that waits whole at a barrier (R68, R396). -/
def State.throttle (s : State) (i l : Nat) (legacy : Bool) : List Instr :=
  if legacy && decide (1 ≤ s.health) then (s.harts.filter (fun h => h.slot = i && h.launchid = l)).map (fun h => .laneCountChange h.cl h.core 16)
  else []

/-- Barrier `k` of the launch is due for release: every live hart has arrived (R310). -/
def State.checkBar (s : State) (i l k : Nat) : State := match s.launchAt i l with
  | none => s
  | some r => if r.allAt k then s.postAll (s.throttle i l r.block.legacy ++ [.barrierRelease i l k]) else s

/-- The engine operation has scratchpad accesses still to perform, its own or a peer's. -/
def Hart.atScratch (h : Hart) (o : EngineOp) : Bool := (h.engineReads o ++ h.engineWrites o).any (fun r => inAperture (r.1 % 2 ^ 64))

/-- BAR (R310): the hart's earlier scratchpad accesses have performed, those of its engine too (R136, R146); it arrives once and waits. -/
def execBar (a : Nat) (s : State) : Host.Outcome State Fault Refusal :=
  s.gate (chkBar a s) (fun s =>
    match s.hart.waitFor s.hart.atScratch with
    | .error e => s.halt e
    | .ok _ =>
      let h := s.hart
      let k := (h.getX a).toNat
      let s1 := s.updLaunch h.slot h.launchid (fun l =>
        { l with bars := if (l.waiters k).contains h.lcore then l.bars else mapSet [] l.bars k (l.waiters k ++ [h.lcore]) })
      .next ((s1.upd (fun h => { h with status := .atBar k })).checkBar h.slot h.launchid k))

/-- BARRIER_RELEASE (R310): the waiters go on past their BAR. -/
def execBarrierRelease (slot launch k : Nat) (s : State) : Host.Outcome State Fault Refusal :=
  match s.launchAt slot launch with
  | none => .next s
  | some r =>
    if r.allAt k then
      .next ((s.mapHarts (fun h => if h.slot = slot && h.launchid = launch && h.status = .atBar k then
        { h.step4 with status := .running } else h)).updLaunch slot launch (fun l => { l with bars := mapSet [] l.bars k [] }))
    else .next s

end Sys2Proof.Machine
end

