-- ==== Sys2Proof/Machine/Base.lean ====
section
/-! DEFINITION. The base instructions: RV64I and M, FENCE, ECALL, EBREAK and the CSR instructions (R197, R201 to R207). -/

namespace Sys2Proof.Machine

/-- The low 32 bits of a register, sign-extended to 64 (R201). -/
def sx32 (v : Word) : Word := sx v.toNat 32
/-- The truth of a comparison as a register value. -/
def boolWord (b : Bool) : Word := if b then 1 else 0

/-- LUI (R201). -/
def execLui (d imm : Nat) (s : State) : Host.Outcome State Fault Refusal :=
  s.wx d (sx (imm * 4096) 32)

/-- AUIPC (R201). -/
def execAuipc (d imm : Nat) (s : State) : Host.Outcome State Fault Refusal :=
  s.wx d (s.hart.pc + sx (imm * 4096) 32)

/-- A transfer of control to `t`, writing the link to x register `d` (R203): a misaligned target traps and changes nothing. -/
def State.jump (s : State) (d : Nat) (t : Word) : Host.Outcome State Fault Refusal :=
  if t.toNat % 4 ≠ 0 then s.trapWith 0x01 t.toNat
  else .next (s.upd (fun h => { h.setX d (h.pc + 4) with pc := t, resumeMid := false }))

/-- A conditional branch (R201, R203). -/
def State.branch (s : State) (c : Bool) (off : Int) : Host.Outcome State Fault Refusal :=
  if c then s.jump 0 (s.hart.pc + ofInt off) else .next s.advance4

/-- JAL (R201, R203). -/
def execJal (d : Nat) (off : Int) (s : State) : Host.Outcome State Fault Refusal :=
  s.jump d (s.hart.pc + ofInt off)

/-- JALR (R201, R203). -/
def execJalr (d a : Nat) (imm : Int) (s : State) : Host.Outcome State Fault Refusal :=
  s.jump d ((s.hart.getX a + ofInt imm) &&& (~~~ 1))

/-- BEQ (R201, R203). -/
def execBeq (a b : Nat) (off : Int) (s : State) : Host.Outcome State Fault Refusal :=
  s.branch (s.hart.getX a == s.hart.getX b) off

/-- BNE (R201, R203). -/
def execBne (a b : Nat) (off : Int) (s : State) : Host.Outcome State Fault Refusal :=
  s.branch (s.hart.getX a != s.hart.getX b) off

/-- BLT (R201, R203). -/
def execBlt (a b : Nat) (off : Int) (s : State) : Host.Outcome State Fault Refusal :=
  s.branch ((s.hart.getX a).slt (s.hart.getX b)) off

/-- BGE (R201, R203). -/
def execBge (a b : Nat) (off : Int) (s : State) : Host.Outcome State Fault Refusal :=
  s.branch (!((s.hart.getX a).slt (s.hart.getX b))) off

/-- BLTU (R201, R203). -/
def execBltu (a b : Nat) (off : Int) (s : State) : Host.Outcome State Fault Refusal :=
  s.branch ((s.hart.getX a).ult (s.hart.getX b)) off

/-- BGEU (R201, R203). -/
def execBgeu (a b : Nat) (off : Int) (s : State) : Host.Outcome State Fault Refusal :=
  s.branch (!((s.hart.getX a).ult (s.hart.getX b))) off

/-- A base load of `n` bytes, sign- or zero-extended (R201, R204, R205). -/
def State.baseLoad (s : State) (d a : Nat) (imm : Int) (n : Nat) (signed : Bool) : Host.Outcome State Fault Refusal :=
  match s.load (s.hart.getX a + ofInt imm).toNat n n 1 false with
  | .error e => s.halt e
  | .ok (s1, v) => s1.wx d (if signed then sx v (8 * n) else BitVec.ofNat 64 v)

/-- A base store of the low `n` bytes of xb (R201, R204, R205). -/
def State.baseStore (s : State) (a b : Nat) (off : Int) (n : Nat) : Host.Outcome State Fault Refusal :=
  match s.store (s.hart.getX a + ofInt off).toNat n (leBytes (s.hart.getX b).toNat n) false with
  | .error e => s.halt e
  | .ok s1 => .next s1.advance4

/-- LB (R201, R204). -/
def execLb (d a : Nat) (imm : Int) (s : State) : Host.Outcome State Fault Refusal :=
  s.baseLoad d a imm 1 true

/-- LH (R201, R204). -/
def execLh (d a : Nat) (imm : Int) (s : State) : Host.Outcome State Fault Refusal :=
  s.baseLoad d a imm 2 true

/-- LW (R201, R204). -/
def execLw (d a : Nat) (imm : Int) (s : State) : Host.Outcome State Fault Refusal :=
  s.baseLoad d a imm 4 true

/-- LD (R201, R204). -/
def execLd (d a : Nat) (imm : Int) (s : State) : Host.Outcome State Fault Refusal :=
  s.baseLoad d a imm 8 true

/-- LBU (R201, R204). -/
def execLbu (d a : Nat) (imm : Int) (s : State) : Host.Outcome State Fault Refusal :=
  s.baseLoad d a imm 1 false

/-- LHU (R201, R204). -/
def execLhu (d a : Nat) (imm : Int) (s : State) : Host.Outcome State Fault Refusal :=
  s.baseLoad d a imm 2 false

/-- LWU (R201, R204). -/
def execLwu (d a : Nat) (imm : Int) (s : State) : Host.Outcome State Fault Refusal :=
  s.baseLoad d a imm 4 false

/-- SB (R201, R204). -/
def execSb (a b : Nat) (off : Int) (s : State) : Host.Outcome State Fault Refusal :=
  s.baseStore a b off 1

/-- SH (R201, R204). -/
def execSh (a b : Nat) (off : Int) (s : State) : Host.Outcome State Fault Refusal :=
  s.baseStore a b off 2

/-- SW (R201, R204). -/
def execSw (a b : Nat) (off : Int) (s : State) : Host.Outcome State Fault Refusal :=
  s.baseStore a b off 4

/-- SD (R201, R204). -/
def execSd (a b : Nat) (off : Int) (s : State) : Host.Outcome State Fault Refusal :=
  s.baseStore a b off 8

/-- ADDI (R201). -/
def execAddi (d a : Nat) (imm : Int) (s : State) : Host.Outcome State Fault Refusal :=
  s.wx d (s.hart.getX a + ofInt imm)

/-- SLTI (R201). -/
def execSlti (d a : Nat) (imm : Int) (s : State) : Host.Outcome State Fault Refusal :=
  s.wx d (boolWord ((s.hart.getX a).slt (ofInt imm)))

/-- SLTIU (R201). -/
def execSltiu (d a : Nat) (imm : Int) (s : State) : Host.Outcome State Fault Refusal :=
  s.wx d (boolWord ((s.hart.getX a).ult (ofInt imm)))

/-- XORI (R201). -/
def execXori (d a : Nat) (imm : Int) (s : State) : Host.Outcome State Fault Refusal :=
  s.wx d (s.hart.getX a ^^^ ofInt imm)

/-- ORI (R201). -/
def execOri (d a : Nat) (imm : Int) (s : State) : Host.Outcome State Fault Refusal :=
  s.wx d (s.hart.getX a ||| ofInt imm)

/-- ANDI (R201). -/
def execAndi (d a : Nat) (imm : Int) (s : State) : Host.Outcome State Fault Refusal :=
  s.wx d (s.hart.getX a &&& ofInt imm)

/-- ADDIW (R201). -/
def execAddiw (d a : Nat) (imm : Int) (s : State) : Host.Outcome State Fault Refusal :=
  s.wx d (sx32 (s.hart.getX a + ofInt imm))

/-- SLLI (R201). -/
def execSlli (d a s_ : Nat) (s : State) : Host.Outcome State Fault Refusal :=
  s.wx d (s.hart.getX a <<< s_)

/-- SRLI (R201). -/
def execSrli (d a s_ : Nat) (s : State) : Host.Outcome State Fault Refusal :=
  s.wx d (s.hart.getX a >>> s_)

/-- SRAI (R201). -/
def execSrai (d a s_ : Nat) (s : State) : Host.Outcome State Fault Refusal :=
  s.wx d ((s.hart.getX a).sshiftRight s_)

/-- SLLIW (R201). -/
def execSlliw (d a s_ : Nat) (s : State) : Host.Outcome State Fault Refusal :=
  s.wx d (sx32 (s.hart.getX a <<< s_))

/-- SRLIW (R201). -/
def execSrliw (d a s_ : Nat) (s : State) : Host.Outcome State Fault Refusal :=
  s.wx d (sx (((s.hart.getX a).setWidth 32 >>> s_).toNat) 32)

/-- SRAIW (R201). -/
def execSraiw (d a s_ : Nat) (s : State) : Host.Outcome State Fault Refusal :=
  s.wx d ((((s.hart.getX a).setWidth 32).sshiftRight s_).signExtend 64)

/-- Signed division rounded toward zero (R201, R202). -/
def divS {w : Nat} (a b : BitVec w) : BitVec w := if b = 0 then BitVec.allOnes w else a.sdiv b
/-- Unsigned division (R201, R202). -/
def divU {w : Nat} (a b : BitVec w) : BitVec w := if b = 0 then BitVec.allOnes w else a.udiv b
/-- The remainder of signed division, with the sign of the dividend (R201, R202). -/
def remS {w : Nat} (a b : BitVec w) : BitVec w := if b = 0 then a else a.srem b
/-- The remainder of unsigned division (R201, R202). -/
def remU {w : Nat} (a b : BitVec w) : BitVec w := if b = 0 then a else a.umod b

/-- ADD (R201). -/
def execAdd (d a b : Nat) (s : State) : Host.Outcome State Fault Refusal :=
  s.wx d (s.hart.getX a + s.hart.getX b)

/-- SUB (R201). -/
def execSub (d a b : Nat) (s : State) : Host.Outcome State Fault Refusal :=
  s.wx d (s.hart.getX a - s.hart.getX b)

/-- SLL (R201). -/
def execSll (d a b : Nat) (s : State) : Host.Outcome State Fault Refusal :=
  s.wx d (s.hart.getX a <<< ((s.hart.getX b).toNat % 64))

/-- SLT (R201). -/
def execSlt (d a b : Nat) (s : State) : Host.Outcome State Fault Refusal :=
  s.wx d (boolWord ((s.hart.getX a).slt (s.hart.getX b)))

/-- SLTU (R201). -/
def execSltu (d a b : Nat) (s : State) : Host.Outcome State Fault Refusal :=
  s.wx d (boolWord ((s.hart.getX a).ult (s.hart.getX b)))

/-- XOR (R201). -/
def execXor (d a b : Nat) (s : State) : Host.Outcome State Fault Refusal :=
  s.wx d (s.hart.getX a ^^^ s.hart.getX b)

/-- SRL (R201). -/
def execSrl (d a b : Nat) (s : State) : Host.Outcome State Fault Refusal :=
  s.wx d (s.hart.getX a >>> ((s.hart.getX b).toNat % 64))

/-- SRA (R201). -/
def execSra (d a b : Nat) (s : State) : Host.Outcome State Fault Refusal :=
  s.wx d ((s.hart.getX a).sshiftRight ((s.hart.getX b).toNat % 64))

/-- OR (R201). -/
def execOr (d a b : Nat) (s : State) : Host.Outcome State Fault Refusal :=
  s.wx d (s.hart.getX a ||| s.hart.getX b)

/-- AND (R201). -/
def execAnd (d a b : Nat) (s : State) : Host.Outcome State Fault Refusal :=
  s.wx d (s.hart.getX a &&& s.hart.getX b)

/-- MUL (R201). -/
def execMul (d a b : Nat) (s : State) : Host.Outcome State Fault Refusal :=
  s.wx d (s.hart.getX a * s.hart.getX b)

/-- MULH (R201). -/
def execMulh (d a b : Nat) (s : State) : Host.Outcome State Fault Refusal :=
  s.wx d (BitVec.ofInt 64 ((s.hart.getX a).toInt * (s.hart.getX b).toInt / 2 ^ 64))

/-- MULHSU (R201). -/
def execMulhsu (d a b : Nat) (s : State) : Host.Outcome State Fault Refusal :=
  s.wx d (BitVec.ofInt 64 ((s.hart.getX a).toInt * ((s.hart.getX b).toNat : Int) / 2 ^ 64))

/-- MULHU (R201). -/
def execMulhu (d a b : Nat) (s : State) : Host.Outcome State Fault Refusal :=
  s.wx d (BitVec.ofNat 64 ((s.hart.getX a).toNat * (s.hart.getX b).toNat / 2 ^ 64))

/-- DIV (R201, R202). -/
def execDiv (d a b : Nat) (s : State) : Host.Outcome State Fault Refusal :=
  s.wx d (divS (s.hart.getX a) (s.hart.getX b))

/-- DIVU (R201, R202). -/
def execDivu (d a b : Nat) (s : State) : Host.Outcome State Fault Refusal :=
  s.wx d (divU (s.hart.getX a) (s.hart.getX b))

/-- REM (R201, R202). -/
def execRem (d a b : Nat) (s : State) : Host.Outcome State Fault Refusal :=
  s.wx d (remS (s.hart.getX a) (s.hart.getX b))

/-- REMU (R201, R202). -/
def execRemu (d a b : Nat) (s : State) : Host.Outcome State Fault Refusal :=
  s.wx d (remU (s.hart.getX a) (s.hart.getX b))

/-- ADDW (R201). -/
def execAddw (d a b : Nat) (s : State) : Host.Outcome State Fault Refusal :=
  s.wx d (sx32 (s.hart.getX a + s.hart.getX b))

/-- SUBW (R201). -/
def execSubw (d a b : Nat) (s : State) : Host.Outcome State Fault Refusal :=
  s.wx d (sx32 (s.hart.getX a - s.hart.getX b))

/-- SLLW (R201). -/
def execSllw (d a b : Nat) (s : State) : Host.Outcome State Fault Refusal :=
  s.wx d (sx32 (s.hart.getX a <<< ((s.hart.getX b).toNat % 32)))

/-- SRLW (R201). -/
def execSrlw (d a b : Nat) (s : State) : Host.Outcome State Fault Refusal :=
  s.wx d (sx (((s.hart.getX a).setWidth 32 >>> ((s.hart.getX b).toNat % 32)).toNat) 32)

/-- SRAW (R201). -/
def execSraw (d a b : Nat) (s : State) : Host.Outcome State Fault Refusal :=
  s.wx d ((((s.hart.getX a).setWidth 32).sshiftRight ((s.hart.getX b).toNat % 32)).signExtend 64)

/-- MULW (R201). -/
def execMulw (d a b : Nat) (s : State) : Host.Outcome State Fault Refusal :=
  s.wx d (sx32 (s.hart.getX a * s.hart.getX b))

/-- DIVW (R201, R202). -/
def execDivw (d a b : Nat) (s : State) : Host.Outcome State Fault Refusal :=
  s.wx d ((divS ((s.hart.getX a).setWidth 32) ((s.hart.getX b).setWidth 32)).signExtend 64)

/-- DIVUW (R201, R202). -/
def execDivuw (d a b : Nat) (s : State) : Host.Outcome State Fault Refusal :=
  s.wx d ((divU ((s.hart.getX a).setWidth 32) ((s.hart.getX b).setWidth 32)).signExtend 64)

/-- REMW (R201, R202). -/
def execRemw (d a b : Nat) (s : State) : Host.Outcome State Fault Refusal :=
  s.wx d ((remS ((s.hart.getX a).setWidth 32) ((s.hart.getX b).setWidth 32)).signExtend 64)

/-- REMUW (R201, R202). -/
def execRemuw (d a b : Nat) (s : State) : Host.Outcome State Fault Refusal :=
  s.wx d ((remU ((s.hart.getX a).setWidth 32) ((s.hart.getX b).setWidth 32)).signExtend 64)

/-- FENCE orders nothing beyond program order (R135, R206). -/
def execFence (_d _a _f _p _s : Nat) (s : State) : Host.Outcome State Fault Refusal :=
  .next s.advance4

/-- ECALL takes the environment-call trap (R206). -/
def execEcall  (s : State) : Host.Outcome State Fault Refusal :=
  s.trapWith 0x07 0

/-- EBREAK takes the breakpoint trap (R206). -/
def execEbreak  (s : State) : Host.Outcome State Fault Refusal :=
  s.trapWith 0x06 0

/-! ### CSR access -/

/-- `vgrant` (R67). -/
def State.vgrant (s : State) : Word := BitVec.ofNat 64 (2 ^ 32 * s.hart.gbase + 2 ^ 16 * s.lanes + s.grant % 8192)
/-- `lanemap` (R380). -/
def State.lanemap (s : State) : Word :=
  let c := s.coreOf s.hart.cl s.hart.core
  BitVec.ofNat 64 (2 ^ 31 * (!c.retired.isEmpty).toNat + 2 ^ 16 * c.lmax + c.rows)

/-- What a CSR reads (R197). -/
def State.readCsr (s : State) (c : Nat) : Word :=
  let h := s.hart
  match c with
  | 0x800 => BitVec.ofNat 64 h.vl
  | 0x801 => BitVec.ofNat 64 h.vlc
  | 0x802 => s.vgrant
  | 0x803 => h.vtype
  | 0x804 => h.vstart.setWidth 64
  | 0x805 => h.vfv.setWidth 64
  | 0x806 => h.vrot.setWidth 64
  | 0x807 => h.vdirty
  | 0x808 => h.vflags.setWidth 64
  | 0x809 => s.lanemap
  | 0x80A => BitVec.ofNat 64 (s.clusterOf h.cl).tick
  | 0x80B => h.poolpart
  | 0x80C => BitVec.ofNat 64 h.lcore
  | 0x80D => BitVec.ofNat 64 h.launchid
  | 0x80E => h.rngkey
  | 0x80F => h.rngkeyh
  | 0x840 => h.tcause
  | 0x841 => h.tval
  | 0x842 => h.tepc
  | 0x843 => h.tstatus
  | 0x844 => h.tvec
  | 0x845 => h.tscratch
  | 0x846 => h.seqstate
  | 0x847 => h.raceaddr
  | _ => 0

/-- A CSR write: bits outside the layout are dropped, an RO CSR ignores it (R178, R197, R207). -/
def Hart.writeCsr (h : Hart) (c : Nat) (v : Word) : Hart :=
  match c with
  | 0x804 => { h with vstart := v.setWidth 32 }
  | 0x805 => { h with vfv := v.setWidth 32 }
  | 0x806 => { h with vrot := v.setWidth 3 }
  | 0x807 => { h with vdirty := v &&& 0x01fffffeffffffff }
  | 0x808 => { h with vflags := v.setWidth 5 }
  | 0x80E => { h with rngkey := v }
  | 0x80F => { h with rngkeyh := v }
  | 0x840 => { h with tcause := v &&& 0x8000000001ff00ff }
  | 0x841 => { h with tval := v }
  | 0x842 => { h with tepc := v &&& (~~~ 3) }
  | 0x843 => { h with tstatus := v &&& 0xf0 }
  | 0x844 => { h with tvec := v &&& (~~~ 3) }
  | 0x845 => { h with tscratch := v }
  | 0x846 => { h with seqstate := v }
  | _ => h

/-- A CSR instruction: the old value to xd, the new one to the CSR unless it does not write (R178, R207). -/
def State.csr (s : State) (d c : Nat) (write : Bool) (f : Word → Word) : Host.Outcome State Fault Refusal :=
  let old := s.readCsr c
  .next (s.upd (fun h => ((if write then h.writeCsr c (f old) else h).setX d old).step4))

/-- CSRRW (R207). -/
def execCsrrw (d csr a : Nat) (s : State) : Host.Outcome State Fault Refusal :=
  s.csr d csr true (fun _ => s.hart.getX a)

/-- CSRRS (R207). -/
def execCsrrs (d csr a : Nat) (s : State) : Host.Outcome State Fault Refusal :=
  s.csr d csr (a ≠ 0) (fun o => o ||| s.hart.getX a)

/-- CSRRC (R207). -/
def execCsrrc (d csr a : Nat) (s : State) : Host.Outcome State Fault Refusal :=
  s.csr d csr (a ≠ 0) (fun o => o &&& ~~~ (s.hart.getX a))

/-- CSRRWI (R207). -/
def execCsrrwi (d csr uimm : Nat) (s : State) : Host.Outcome State Fault Refusal :=
  s.csr d csr true (fun _ => BitVec.ofNat 64 uimm)

/-- CSRRSI (R207). -/
def execCsrrsi (d csr uimm : Nat) (s : State) : Host.Outcome State Fault Refusal :=
  s.csr d csr (uimm ≠ 0) (fun o => o ||| BitVec.ofNat 64 uimm)

/-- CSRRCI (R207). -/
def execCsrrci (d csr uimm : Nat) (s : State) : Host.Outcome State Fault Refusal :=
  s.csr d csr (uimm ≠ 0) (fun o => o &&& ~~~ (BitVec.ofNat 64 uimm))

end Sys2Proof.Machine
end

