-- ==== Sys2Proof/Machine/Sha3.lean ====
section
/-! DEFINITION. SHA3-256 (FIPS 202), for TDIGEST (R286) and the responder's digests (R357). -/

namespace Sys2Proof.Machine

/-- Lane (x, y) of a Keccak state of 25 lanes. -/
def lane (a : List Word) (x y : Nat) : Word := a.getD (x % 5 + 5 * (y % 5)) 0

/-- The 25 lanes of a function of x and y. -/
def lanes25 (f : Nat → Nat → Word) : List Word := (List.range 25).map (fun i => f (i % 5) (i / 5))

/-- Rotation of a lane to the left. -/
def rot64 (w : Word) (n : Nat) : Word := if n % 64 = 0 then w else (w <<< (n % 64)) ||| (w >>> (64 - n % 64))

/-- θ. -/
def keccakTheta (a : List Word) : List Word :=
  let c (x : Nat) : Word := lane a x 0 ^^^ lane a x 1 ^^^ lane a x 2 ^^^ lane a x 3 ^^^ lane a x 4
  let cs := (List.range 5).map c
  lanes25 (fun x y => lane a x y ^^^ cs.getD ((x + 4) % 5) 0 ^^^ rot64 (cs.getD ((x + 1) % 5) 0) 1)

/-- The rotation offsets of ρ, lane x + 5y. -/
def rhoOffsets : List Nat :=
  [0, 1, 62, 28, 27, 36, 44, 6, 55, 20, 3, 10, 43, 25, 39, 41, 45, 15, 21, 8, 18, 2, 61, 56, 14]

/-- ρ and π: lane (x, y) goes to (y, 2x + 3y). -/
def keccakRhoPi (a : List Word) : List Word :=
  lanes25 (fun x y =>
    let sx := (x + 3 * y) % 5
    rot64 (lane a sx x) (rhoOffsets.getD (sx + 5 * x) 0))

/-- χ. -/
def keccakChi (a : List Word) : List Word := lanes25 (fun x y => lane a x y ^^^ (~~~ (lane a (x + 1) y) &&& lane a (x + 2) y))

/-- The round constants of ι. -/
def iotaConstants : List Word :=
  [0x0000000000000001, 0x0000000000008082, 0x800000000000808a, 0x8000000080008000, 0x000000000000808b, 0x0000000080000001,
   0x8000000080008081, 0x8000000000008009, 0x000000000000008a, 0x0000000000000088, 0x0000000080008009, 0x000000008000000a,
   0x000000008000808b, 0x800000000000008b, 0x8000000000008089, 0x8000000000008003, 0x8000000000008002, 0x8000000000000080,
   0x000000000000800a, 0x800000008000000a, 0x8000000080008081, 0x8000000000008080, 0x0000000080000001, 0x8000000080008008]

/-- One round. -/
def keccakRound (a : List Word) (k : Word) : List Word :=
  match keccakChi (keccakRhoPi (keccakTheta a)) with
  | [] => []
  | l :: r => (l ^^^ k) :: r

/-- Keccak-f[1600]. -/
def keccakF (a : List Word) : List Word := iotaConstants.foldl keccakRound a

/-- Eight bytes, little-endian, as a lane. -/
def laneOfBytes (bs : List Byte) : Word := BitVec.ofNat 64 (bs.foldr (fun b n => b.toNat + 256 * n) 0)

/-- The blocks of 136 bytes absorbed in order. -/
def absorb : Nat → List Word → List Byte → List Word
  | 0, a, _ => a
  | n + 1, a, bs =>
    let b := bs.take 136
    absorb n (keccakF ((List.range 25).map (fun i =>
      if i < 17 then a.getD i 0 ^^^ laneOfBytes ((b.drop (8 * i)).take 8) else a.getD i 0))) (bs.drop 136)

/-- The message with the padding 01 and 10*1 of SHA-3 to a multiple of 136 bytes. -/
def sha3Pad (m : List Byte) : List Byte :=
  let k := 136 - m.length % 136
  if k = 1 then m ++ [0x86] else m ++ [0x06] ++ List.replicate (k - 2) 0 ++ [0x80]

/-- The 32-byte SHA3-256 digest. -/
def sha3 (m : List Byte) : List Byte :=
  let p := sha3Pad m
  let a := absorb (p.length / 136) (List.replicate 25 0) p
  (List.range 32).map (fun i => ((a.getD (i / 8) 0) >>> (8 * (i % 8))).setWidth 8)

end Sys2Proof.Machine
end

