-- ==== Sys2Proof/Machine/Engine.lean ====
section
/-! DEFINITION. The copy engine: its accesses, the streams of TLD, TST, BCOPY, QLD and TDIGEST, its order, its deferred faults
(R118 to R120, R124 to R127, R282 to R289). -/

namespace Sys2Proof.Machine

/-! ### Engine accesses (R282) -/

/-- A page of a tensor meets the entry's `home` and `world` (R124). -/
def State.pageOk (s : State) (ctl leaf : Nat) : Bool :=
  let home := bits ctl 23 21
  let world := bits ctl 20 20
  let sec := bits leaf 4 4
  (home = 0 || bits leaf 7 5 + 1 = home)
    && (if world = 1 then sec = 0 else match s.jobOf s.hart.slot with
      | none => true
      | some j => sec = j.sec.toNat)

/-- The control word of an entry (R124). -/
def entryCtl (e : BitVec 512) : Nat := entryField e 48 8

/-- The checks of one byte that an engine accesses; `ok` tests its leaf. -/
def State.engineCheck (s : State) (ok : Nat → Bool) (a acc : Nat) : Except Stop Target :=
  match place a with
  | .error c => .error (.trap (.mem c acc a))
  | .ok (.own off) => if s.hart.scratchOk off 1 then .ok (.scratch s.hart.hid off) else .error (.trap (.mem 0x0d acc a))
  | .ok (.peer _ _) => .error (.trap (.mem 0x0d acc a))
  | .ok (.virt va) =>
    match s.translateWith s.hart.slot va (if acc = 6 then 2 else 1) ok with
    | .error c => .error (.trap (.mem c acc a))
    | .ok (pa, leaf) =>
      match s.raceAt s.hart.hid [pa] with
      | some (p, o) => .error (.trap ⟨0x20, acc, a, some (p, o), false, 0⟩)
      | none => .ok (.phys pa leaf)

/-- One more byte read by the engine. -/
def engineNext (ok : Nat → Bool) (r : State × List Byte) (a : Nat) : Except Stop (State × List Byte) :=
  match r.1.engineCheck ok (a % 2 ^ 64) 5 with
  | .error x => .error x
  | .ok t => match r.1.fetchTarget (a % 2 ^ 64) 1 5 t with
    | .error x => .error x
    | .ok v => .ok (r.1.note a t, r.2 ++ [BitVec.ofNat 8 v])

/-- `n` bytes read by the engine from `a` on. -/
def State.engineRead (s : State) (ok : Nat → Bool) (a n : Nat) : Except Stop (State × List Byte) :=
  (upFrom a n).foldlM (engineNext ok) (s, [])

/-- One more byte written by the engine. -/
def enginePut (s : State) (p : Nat × Byte × Target) : Except Stop State := (s.note p.1 p.2.2).putTarget (p.1 % 2 ^ 64) [p.2.1] true p.2.2

/-- Bytes written by the engine from `a` on: every byte is checked before the first is written. Bytes of the scratchpad are written as one
range, so that whole words are written whole (R120, R379). -/
def State.engineWrite (s : State) (ok : Nat → Bool) (a : Nat) (bs : List Byte) : Except Stop State :=
  match (upFrom a bs.length).mapM (fun x => s.engineCheck ok (x % 2 ^ 64) 6) with
  | .error x => .error x
  | .ok ts => match ts with
    | .scratch hid off :: _ => .ok (s.putScratch hid off bs)
    | _ => ((upFrom a bs.length).zip (bs.zip ts)).foldlM enginePut s

/-! ### Elements in memory (R86, R125, R126) -/

/-- The memory code of element `i` read by the engine. -/
def State.readElem (s : State) (e : BitVec 512) (i : Nat) : Except Stop (State × Nat) :=
  let p := elemPlace e i
  match s.engineRead (s.pageOk (entryCtl e)) p.1 p.2.1 with
  | .error x => .error x
  | .ok (s1, bs) => .ok (s1, leNat bs / 2 ^ p.2.2 % 2 ^ fmtWidth (entryFmt e))

/-- The memory code `v` of element `i` written by the engine; the codes after the last of a run are written 0 (R86, R126). Where a TST begins or
ends inside a run of a narrow format, the bits of a shared byte that belong to elements it does not move are kept (DESIGN CHOICE, log 57). -/
def State.writeElem (s : State) (e : BitVec 512) (i v : Nat) : Except Stop State :=
  let ok := s.pageOk (entryCtl e)
  let p := elemPlace e i
  let w := fmtWidth (entryFmt e)
  if w % 8 = 0 then s.engineWrite ok p.1 (leBytes v p.2.1)
  else
    let b := narrowBytes e i
    let last := (elemBase e i).2 + 1 = entryCount e 0
    match (upFrom b.1 b.2).mapM (fun x => s.engineCheck ok (x % 2 ^ 64) 6) with
    | .error x => .error x
    | .ok ts =>
      let old := leNat (((upFrom b.1 b.2).zip ts).map (fun t => match t.2 with
        | .scratch _ off => BitVec.ofNat 8 (s.hart.readScratch off 1)
        | .phys pa _ => s.peek pa))
      let low := old % 2 ^ p.2.2 + v % 2 ^ w * 2 ^ p.2.2
      let new := if last then low else low + old / 2 ^ (p.2.2 + w) * 2 ^ (p.2.2 + w)
      s.engineWrite ok b.1 (leBytes new b.2)

/-! ### Tile registers -/

/-- A change of the window of a T code. -/
def Hart.setWindow (h : Hart) (t : Nat) (w : Window) : Hart := if t < 4 then h.setFq t w else h.setSw (t - 16) w
/-- Slots that a feed queue can take now (R119). -/
def Window.room (w : Window) : Nat := w.used + w.slots - w.fill

/-- A word written into a window slot by a fill. -/
def Hart.fillSlot (h : Hart) (w : Window) (p v : Nat) : Hart := h.writeScratch (w.offset p) (leBytes v 4)

/-- How a turn of an engine operation ends: it is complete, it waits for room or stands between two lines, or an access of it faults. -/
inductive EngineEnd where
  | complete
  | room
  | fault (t : Trap)
  deriving DecidableEq, Repr

/-- A stop of an engine access as the end of a turn. -/
def endOf (x : Stop) : EngineEnd := match x with
  | .trap t => .fault t
  | .stall => .room

/-! ### The operations -/

/-- The fill count of a feed queue advanced by one slot. -/
def Hart.filled (h : Hart) (q : Nat) : Hart := h.setWindow q { h.window q with fill := (h.window q).fill + 1 }

/-- Codes of `w` bits put together, the first lowest. -/
def packedCodes (w : Nat) (cs : List Nat) : Nat := cs.foldr (fun c r => c % 2 ^ w + 2 ^ w * r) 0

/-- One slot of a TLD written as a whole word (R120): its subwords read so far and `v`, with those above 0 (R283), or half `o.b` of a 64-bit
element. `last` ends the slot. -/
def Hart.tldSlot (h : Hart) (o : EngineOp) (v : Nat) (last : Bool) : Hart :=
  let f := entryFmt o.entry
  let w := h.window o.tcode
  let per := naturalPack f
  let p := if o.tcode < 4 then w.fill else if fmtWide f then 2 * o.done + o.b else o.done / per
  let data := if fmtWide f then v / 2 ^ (32 * o.b) % 2 ^ 32
    else packedCodes (regWidth f) (o.got ++ [v])
  let h1 := h.fillSlot w p data
  if o.tcode < 4 && (fmtWide f || last) then h1.filled o.tcode else h1

/-- TLD (R283) for at most `fuel` elements, or halves of 64-bit ones. `done` counts elements moved, `b` is 1 between the halves of one, `got` are the
subwords of a slot that is not complete. -/
def runTld : Nat → State → EngineOp → State × EngineOp × EngineEnd
  | 0, s, o => (s, o, .complete)
  | fuel + 1, s, o =>
    let f := entryFmt o.entry
    let limit := s.hart.tldLimit o
    if o.done ≥ limit then (s, o, .complete)
    else if o.tcode < 4 && (s.hart.window o.tcode).room = 0 then (s, o, .room)
    else match s.readElem o.entry (o.a + o.done) with
      | .error x => (s, o, endOf x)
      | .ok (s1, v) =>
        let last := o.done % naturalPack f + 1 = naturalPack f || o.done + 1 = limit
        let s2 := s1.upd (fun h => h.tldSlot o v last)
        runTld fuel s2 (if fmtWide f && o.b = 0 then { o with b := 1 }
          else { o with b := 0, done := o.done + 1, got := if fmtWide f || last then [] else o.got ++ [v] })

/-- The value of a cell (R104): s when it is no finite number, else s + e; an exact zero keeps the sign of s (R297, log 33). -/
def AccCell.val (c : AccCell) : Val :=
  let v := (subImage 0 1 c.s 0).val 0
  match v with
  | .num _ _ _ => let w := (subImage 0 1 c.e 0).val 0
    if w.isZero then v else (sumVal v w).1
  | v => v

/-- The memory code that TST stores for a cell (R284). -/
def tstCode (o : EngineOp) (c : AccCell) : Nat × BitVec 5 :=
  let f := entryFmt o.entry
  let v := if fmtInt o.fmt then Val.ofInt c.s.data.toInt else c.val
  if fmtInt f then
    let r := toInteger f o.mode v
    (r.1.enc, r.2)
  else finVal v f o.mode o.sat

/-- The fault of a poisoned item that the engine reads (R379): `tval`. -/
def engineTrap (v : Nat) : EngineEnd := .fault (.mem 0x22 5 v)

/-- The poisoned scratchpad word that a read of `n` bytes at offset `off` meets, as `tval` (R379). -/
def Hart.scratchPoison (h : Hart) (off n : Nat) : Option Nat :=
  if h.poison.isEmpty then none
  else (h.poison.find? (fun p => p.kind = 2 && overlap (4 * p.elem) 4 off n)).map (fun _ => ownAddr off / 128 * 128 + 2)

/-- The memory code that a TST moves next, its flags, and the poison that its read meets (R284, R379). -/
def Hart.tstNext (h : Hart) (o : EngineOp) : Nat × BitVec 5 × Option Nat :=
  let f := entryFmt o.entry
  let w := h.window o.tcode
  let per := naturalPack f
  if o.tcode ≥ 8 && o.tcode < 16 then
    let r := tstCode o (h.getAcc (o.tcode - 8) o.done)
    (r.1, r.2, if h.poison.contains ⟨3, o.tcode - 8, o.done⟩ then some (3 + 256 * (o.tcode - 8)) else none)
  else if fmtWide f then
    let a := w.offset (2 * o.done)
    (h.readScratch a 8, 0, h.scratchPoison a 8)
  else
    let a := w.offset (o.done / per)
    (h.readScratch a 4 / 2 ^ (regWidth f * (o.done % per)) % 2 ^ fmtWidth f, 0, h.scratchPoison a 4)

/-- TST (R284) for at most `fuel` elements. -/
def runTst : Nat → State → EngineOp → State × EngineOp × EngineEnd
  | 0, s, o => (s.upd (·.raise o.flags), o, .complete)
  | fuel + 1, s, o =>
    if o.done ≥ s.hart.tstLimit o then (s.upd (·.raise o.flags), o, .complete)
    else
      let r := s.hart.tstNext o
      match r.2.2 with
      | some v => (s, o, engineTrap v)
      | none => match s.writeElem o.entry (o.a + o.done) r.1 with
        | .error x => (s, o, endOf x)
        | .ok s1 => runTst fuel s1 { o with done := o.done + 1, flags := o.flags ||| r.2.1 }

/-- BCOPY to an address or into a staging window whose destination begins at `d` (R285): the lines in the direction fixed at issue, each read
whole before it is written. -/
def runBcopy (d : Nat) (lines : List (Nat × Nat)) (s : State) (o : EngineOp) : State × EngineOp × EngineEnd :=
  match lines with
  | [] => (s, o, .complete)
  | (a, n) :: r =>
    match s.engineRead (fun _ => true) (o.a + (a - d)) n with
    | .error x => (s, o, endOf x)
    | .ok (s1, bs) => match s1.engineWrite (fun _ => true) a bs with
      | .error x => (s, o, endOf x)
      | .ok s2 => runBcopy d r s2 { o with done := o.done + 1 }

/-- The words of a line. -/
def lineWords (bs : List Byte) : List Nat := (upFrom 0 (bs.length / 4)).map (fun i => leNat ((bs.drop (4 * i)).take 4))

/-- The line of a BCOPY into a feed queue that it writes next, read whole unless it has been (R285). -/
def State.nextLine (s : State) (o : EngineOp) : Except Stop (State × EngineOp) :=
  if !o.got.isEmpty then .ok (s, o)
  else
    let n := ((s.hart.linesLeft o).headD (0, 0)).2
    match s.engineRead (fun _ => true) (o.a + o.d) n with
    | .error x => .error x
    | .ok (s1, bs) => .ok (s1, { o with d := o.d + n, got := lineWords bs })

/-- Words appended to the stream of feed queue `q` (R285). -/
def Hart.append (h : Hart) (q : Nat) (ws : List Nat) : Hart :=
  ws.foldl (fun h v => (h.fillSlot (h.window q) (h.window q).fill v).filled q) h

/-- At most `n` lines of a BCOPY into a feed queue: 4 bytes to a slot (R285). A line that finds no room for all its words waits at a slot (R288). -/
def runBcopyStream : Nat → State → EngineOp → State × EngineOp × EngineEnd
  | 0, s, o => (s, o, .complete)
  | n + 1, s, o =>
    if (s.hart.linesLeft o).isEmpty then (s, o, .complete)
    else
      let room := (s.hart.window o.tcode).room
      if room = 0 then (s, o, .room)
      else match s.nextLine o with
        | .error x => (s, o, endOf x)
        | .ok (s1, o1) =>
          let s2 := s1.upd (·.append o.tcode (o1.got.take room))
          let o2 := { o1 with got := o1.got.drop room }
          if o2.got.isEmpty then runBcopyStream n s2 { o2 with done := o2.done + 1 } else (s2, o2, .room)

/-- QLD (R235): scale `done` on. -/
def runQld : Nat → State → EngineOp → State × EngineOp × EngineEnd
  | 0, s, o => (s, o, .complete)
  | fuel + 1, s, o =>
    if o.done ≥ 512 then (s, o, .complete)
    else if o.a + o.done ≥ entryScales o.entry then runQld fuel (s.upd (·.setQ o.d o.done 0x7f)) { o with done := o.done + 1 }
    else match s.engineRead (s.pageOk (entryCtl o.entry)) (entryField o.entry 8 8 + o.a + o.done) 1 with
      | .error x => (s, o, endOf x)
      | .ok (s1, bs) => runQld fuel (s1.upd (·.setQ o.d o.done (bs.headD 0))) { o with done := o.done + 1 }

/-- Bits put together into bytes, the low ones first; a last partial group is filled with 0. -/
def packCodes (w : Nat) (cs : List Nat) (n : Nat) : List Byte := leBytes (packedCodes w cs) n

/-- The message of TDIGEST: the codes of the elements, then the scale bytes (R286). -/
def digestMessage (e : BitVec 512) (got : List Nat) : List Byte :=
  let f := entryFmt e
  let n := entryElems e
  let cs := got.take n
  (if f = 8 then packCodes 6 cs (3 * ((n + 3) / 4)) else if fmtWidth f = 4 then packCodes 4 cs ((n + 1) / 2)
    else packCodes (fmtWidth f) cs (n * (fmtWidth f / 8))) ++ (got.drop n).map (BitVec.ofNat 8)

/-- The units of the message of TDIGEST: elements, then scale bytes (R286). -/
def digestUnits (e : BitVec 512) : Nat := entryElems e + if fmtScaled (entryFmt e) then entryScales e else 0

/-- Unit `i` of the message of TDIGEST (R286). -/
def State.digestUnit (s : State) (e : BitVec 512) (i : Nat) : Except Stop (State × Nat) :=
  if i < entryElems e then s.readElem e i
  else match s.engineRead (s.pageOk (entryCtl e)) (entryField e 8 8 + (i - entryElems e)) 1 with
    | .error x => .error x
    | .ok (s1, bs) => .ok (s1, leNat bs)

/-- TDIGEST (R286): `done` counts the units read, `got` holds them, so that a fault resumes at its element (R288). -/
def runTdigest : Nat → State → EngineOp → State × EngineOp × EngineEnd
  | 0, s, o => (s, o, .room)
  | fuel + 1, s, o =>
    if o.done ≥ digestUnits o.entry then
      match s.engineWrite (fun _ => true) o.d (sha3 (digestMessage o.entry o.got)) with
      | .error x => (s, o, endOf x)
      | .ok s1 => (s1, o, .complete)
    else match s.digestUnit o.entry o.done with
      | .error x => (s, o, endOf x)
      | .ok (s1, v) => runTdigest fuel s1 { o with done := o.done + 1, got := o.got ++ [v] }

/-- An operation other than MPUT's read, until it is complete, waits for room, or faults. -/
def runEngineOp (s : State) (o : EngineOp) : State × EngineOp × EngineEnd :=
  match o.kind with
  | .tld => runTld (2 * entryElems o.entry + 1) s o
  | .tst => runTst (entryElems o.entry + 1) s o
  | .bcopy => runBcopy (s.hart.copyBase o) (s.hart.linesLeft o) s o
  | .bcopyTile =>
    if o.tcode < 4 then runBcopyStream (s.hart.linesLeft o).length s o else runBcopy (s.hart.copyBase o) (s.hart.linesLeft o) s o
  | .qld => runQld 513 s o
  | .tdigest => runTdigest (digestUnits o.entry + 1) s o
  | .mput => (s, o, .complete)

/-- The operation is a BCOPY, which moves by lines (R285). -/
def EngineOp.byLines (o : EngineOp) : Bool := o.kind = .bcopy || o.kind = .bcopyTile

/-- The next `n` lines of a BCOPY, and whether lines are left (R285). -/
def runLines (n : Nat) (s : State) (o : EngineOp) : State × EngineOp × EngineEnd :=
  let ls := s.hart.linesLeft o
  let q := if o.kind = .bcopyTile && decide (o.tcode < 4) then runBcopyStream n s o else runBcopy (s.hart.copyBase o) (ls.take n) s o
  match q.2.2 with
  | .complete => if n < ls.length then (q.1, q.2.1, .room) else q
  | _ => q

/-- One turn of an operation other than MPUT's read: a BCOPY of several lines may stand between two of them (R49, R288; how many lines it
moves is free, log 49). -/
def runTurn (s : State) (o : EngineOp) : State × EngineOp × EngineEnd :=
  let ls := s.hart.linesLeft o
  if o.byLines && decide (1 < ls.length) then
    runLines (1 + Config.linesMoved s.freeN % ls.length) { s with freeN := s.freeN + 1 } o
  else runEngineOp s o

/-- One turn of an operation of a hart that is being pre-empted: a BCOPY stops after the line in which it stands (R288). -/
def runToSave (run : State → EngineOp → State × EngineOp × EngineEnd) (s : State) (o : EngineOp) : State × EngineOp × EngineEnd :=
  if o.byLines && !(s.hart.linesLeft o).isEmpty then (if o.got.isEmpty then (s, o, .room) else runLines 1 s o) else run s o

/-! ### The order of operations (R118, R287) -/

/-- The operation `o` has to stay behind the earlier operation `k`: they share a byte that one of them writes, wherever it is addressed, or
fill one feed queue or scale bank (R118, R287). -/
def State.clashes (s : State) (o k : EngineOp) : Bool :=
  let h := s.hart
  let fillsQueue (x : EngineOp) : Bool := (x.kind = .tld || x.kind = .bcopyTile) && decide (x.tcode < 4)
  let w := s.spots (h.engineWrites o)
  (fillsQueue o && fillsQueue k && o.tcode = k.tcode) || (o.kind = .qld && k.kind = .qld && o.d = k.d)
    || rangesMeet w (s.spots (h.engineReads k)) || rangesMeet w (s.spots (h.engineWrites k))
    || rangesMeet (s.spots (h.engineReads o)) (s.spots (h.engineWrites k))

/-- The hart's stalled instruction is tried again (R118). -/
def Hart.unstall (h : Hart) : Hart := { h with status := if h.status = .stalled then .running else h.status }

/-- The operations taken in issue order with `run`: the first that is neither a fill waiting for room nor a BCOPY between two lines is performed;
operations that would overtake such a one in a byte it accesses, or in its queue, wait behind it; an operation stopped by a fault holds up those
after it. `kept` are the operations passed. A fault leaves the page's entries in the translation caches unless the walk faulted (R130). -/
def State.engineOrder (run : State → EngineOp → State × EngineOp × EngineEnd) :
    State → List EngineOp → List EngineOp → State
  | s, kept, [] => s.upd (fun h => { h with engine := kept })
  | s, kept, o :: r =>
    if o.fault.isSome then s.upd (fun h => { h with engine := kept ++ o :: r })
    else if kept.any (fun k => s.clashes o k) then engineOrder run s (kept ++ [o]) r
    else
      let q := run s o
      match q.2.2 with
      | .complete =>
        let s1 := q.1.upd (fun h => { h with engine := kept ++ r }.unstall)
        if (kept ++ r).isEmpty then s1 else s1.post (.copyEngineOperation s.hart.hid)
      | .room =>
        let s1 := if q.2.1 = o then q.1 else q.1.upd Hart.unstall
        engineOrder run (if o.byLines && decide (q.2.1.done ≠ o.done) then s1.post (.copyEngineOperation s.hart.hid) else s1) (kept ++ [q.2.1]) r
      | .fault t =>
        let s1 := match t.race with
          | none => q.1
          | some (p, w) => q.1.logRace q.1.hart p w (t.acc = 6)
        (s1.noteFault t).upd (fun h => { h with engine := kept ++ { q.2.1 with fault := some (16 * t.code + t.acc, t.tval) } :: r }.unstall)

/-- The operations that a fault stopped are tried again, as after TRET (R288, R367). -/
def State.retryEngine (s : State) : State :=
  if s.hart.engine.isEmpty then s
  else (s.upd (fun h => { h with engine := h.engine.map (fun o => { o with fault := none }) })).post (.copyEngineOperation s.hart.hid)

/-- An operation issued into the engine (R118, R282). The engine walks no page ahead of its data stream: R132 lets it walk up to 64 (DESIGN CHOICE,
log 11). -/
def State.issueOp (s : State) (o : EngineOp) : State :=
  (s.upd (fun h => { h with engine := h.engine ++ [o] })).post (.copyEngineOperation s.hart.hid)

end Sys2Proof.Machine
end

