-- ==== Sys2Proof/Machine/Work.lean ====
section
/-! DEFINITION. The work instructions and the timetable instructions: LAUNCH, GRAPHRUN, counters, CANCEL, YIELD, HALT, TTSTART, TTSYNC
(R30 to R33, R53, R58, R69 to R73, R312 to R320). -/

namespace Sys2Proof.Machine

/-- Illegal at issue inside a timetabled segment, as every instruction of chapter 17 but TTSYNC is. -/
def chkSystem (s : State) : Option Trap := s.illegalIf s.hart.inSegment

/-! ### Handles (R312, R313) -/

/-- A handle that must name a record. -/
def State.handleTrap (s : State) (h : Nat) : Option Trap := if s.handleOk s.hart.slot h then none else some (.of 0x0e h)

/-- A handle of a wait that is legal: the all-ones handle, an assigned record, or inside a graph block a lower position (R313, R316). -/
def State.waitOk (s : State) (i : Nat) (pos : Option Nat) (h : Nat) : Bool :=
  if h = noHandle then true
  else if handleLvl h = 4 then match pos with
    | none => false
    | some p => bits h 60 32 = 0 && decide (handleIdx h < p)
  else s.handleOk i h

/-! ### Launch blocks (R314) -/

/-- Bytes [o, o + n) of a block read as a number. -/
def blockField (v o n : Nat) : Nat := bits v (8 * (o + n) - 1) (8 * o)

/-- The partition word is valid (R36). -/
def partOk (w : Nat) : Bool :=
  let r := bits w 8 0
  let a := bits w 17 9
  let sp := bits w 26 18
  bits w 63 27 = 0 && (r = 2 || r = 4 || r = 8 || r = 16 || r = 32 || r = 64 || r = 128) && a % 8 = 0 && decide (a ≤ 64)
    && decide (sp ≤ 384) && decide (r + a + sp ≤ 384)

/-- The fields of a launch block (R314); `part` 0 selects the default word. -/
def parseLaunch (v : Nat) : LaunchBlock where
  entry := blockField v 0 8
  args := blockField v 8 8
  harts := blockField v 16 4
  prio := blockField v 20 4 % 8
  gang := bits (blockField v 20 4) 3 3 = 1
  legacy := bits (blockField v 20 4) 4 4 = 1
  part := if blockField v 24 8 = 0 then Config.defaultPart else blockField v 24 8
  waits := [blockField v 32 8, blockField v 40 8, blockField v 48 8, blockField v 56 8]

/-- Every field of a launch block is in range, no reserved bit is set, `part` is valid (R315). -/
def launchFieldsOk (v : Nat) : Bool :=
  let b := parseLaunch v
  b.entry % 4 = 0 && decide (1 ≤ b.harts) && decide (b.harts ≤ 1048576) && bits (blockField v 20 4) 31 5 = 0 && partOk b.part

/-- A gang is too large (R60). -/
def gangTooLarge (b : LaunchBlock) : Bool := b.gang && decide (b.harts > 768)

/-- The refusal of a launch block at `a` for job slot `i` (R315, R316): its fields, the size of a gang, its waits. -/
def State.blockRefused (s : State) (i a v : Nat) (pos : Option Nat) : Option Trap :=
  let b := parseLaunch v
  if !launchFieldsOk v then some (.of 0x0e a)
  else if gangTooLarge b then some (.of 0x0f b.harts)
  else match b.waits.find? (fun h => !s.waitOk i pos h) with
    | none => none
    | some h => some (.of 0x0e h)

/-- The refusal of a launch block that the hart names. -/
def State.launchTrap (s : State) (a v : Nat) (pos : Option Nat) : Option Trap := s.blockRefused s.hart.slot a v pos

/-- The launches accepted by a job at most, and the graphs (R313). -/
def maxLaunches : Nat := 2 ^ 24
/-- The graphs accepted by a job at most (R313). -/
def maxGraphs : Nat := 2 ^ 20

/-- The launches and graphs of the hart's job so far. -/
def State.counts (s : State) (i : Nat) : Nat × Nat := match s.jobOf i with
  | none => (0, 0)
  | some j => (j.launches.length, j.graphs.length)

/-- A record's counter raised when one more child is accepted (R30). -/
def Job.addChild (j : Job) (lvl idx n : Nat) : Job := match j.record lvl idx with
  | some (c, .running) => j.setRec lvl idx (c + n) .running
  | _ => j

/-- A launch record of slot `i` made from its block (R315): the next `launchid`, counter `harts`; `graph` is its parent graph. -/
def State.addLaunch (s : State) (i cl : Nat) (b : LaunchBlock) (graph : Option Nat) : State :=
  s.updJob i (fun j =>
    let l : Launch := ⟨j.launches.length, b, graph, j.cur, cl, b.harts, .running, 0, false, 0, [], [], 0, []⟩
    let j1 := { j with launches := j.launches ++ [l] }
    if graph.isNone then j1.addChild 2 j.cur 1 else j1)

/-- The wait handles of a launch of a graph, its level-4 handles turned into launch handles (R312, R316). -/
def resolveWaits (first : Nat) (b : LaunchBlock) : LaunchBlock :=
  { b with waits := b.waits.map (fun h => if h ≠ noHandle && handleLvl h = 4 then mkHandle 0 (first + handleIdx h) else h) }

/-- LAUNCH (R315). -/
def execLaunch (d a : Nat) (s : State) : Host.Outcome State Fault Refusal :=
  s.gate (chkSystem s) (fun s =>
    let xa := (s.hart.getX a).toNat
    match s.hart.waitAll with
    | .error e => s.halt e
    | .ok _ => match s.loadBlock xa 64 8 1 with
      | .error e => s.halt e
      | .ok (s1, v) => match s.launchTrap xa v none with
        | some t => s.trap t
        | none =>
          let i := s.hart.slot
          let n := (s.counts i).1
          if n ≥ maxLaunches then s.trapWith 0x0f (n + 1)
          else
            let s2 := (s1.drain.addLaunch i s.hart.cl (parseLaunch v) none).checkReady i
            .next (s2.upd (fun h => (h.setX d (BitVec.ofNat 64 (mkHandle 0 n))).step4)))

/-! ### Graphs (R316) -/

/-- The graph block's own fields are in range (R316). -/
def graphFieldsOk (v : Nat) : Bool :=
  decide (blockField v 0 4 ≤ 1024) && decide (blockField v 0 4 + blockField v 4 4 ≤ 2 ^ 32 - 1) && blockField v 48 16 = 0

/-- The waits of a graph block. -/
def graphWaits (v : Nat) : List Nat := [blockField v 8 8, blockField v 16 8, blockField v 24 8, blockField v 32 8]

/-- One more launch block of a graph read. -/
def State.readLaunch (r : State × List Nat) (a : Nat) : Except Stop (State × List Nat) :=
  match r.1.loadBlock (a % 2 ^ 64) 64 8 1 with
  | .error e => .error e
  | .ok (s1, v) => .ok (s1, r.2 ++ [v])

/-- The refusal of a graph block and its launch blocks (R313, R316). -/
def State.graphTrap (s : State) (xa v : Nat) : Option Trap :=
  if !graphFieldsOk v then some (.of 0x0e xa)
  else match (graphWaits v).find? (fun h => !s.waitOk s.hart.slot none h) with
    | some h => some (.of 0x0e h)
    | none => none

/-- The refusal of the launch blocks of a graph, in block order (R316). -/
def State.graphLaunchTrap (s : State) (base : Nat) (vs : List Nat) : Option Trap :=
  ((upFrom 0 vs.length).zip vs).findSome? (fun p => s.launchTrap ((base + 64 * p.1) % 2 ^ 64) p.2 (some p.1))

/-- The records of a graph made (R316): the graph with counter `nl` + `extra`, its launches in block order; a counter of 0 completes the
graph at once. -/
def State.addGraph (s : State) (i cl extra : Nat) (waits : List Nat) (bs : List LaunchBlock) : State :=
  let c := s.counts i
  let g : Graph := ⟨c.2, match s.jobOf i with
    | none => 0
    | some j => j.cur, waits, false, bs.length + extra, .running⟩
  let s1 := s.updJob i (fun j => { j with graphs := j.graphs ++ [g] }.addChild 2 j.cur 1)
  let s2 := bs.foldl (fun s b => s.addLaunch i cl (resolveWaits c.1 b) (some c.2)) s1
  let s3 := if bs.length + extra = 0 then s2.finish i .complete climb 1 c.2 else s2
  s3.checkReady i

/-- GRAPHRUN (R316): the graph block needs no alignment, since none is stated for it (R406); its launch blocks need theirs (R314). -/
def execGraphrun (d a : Nat) (s : State) : Host.Outcome State Fault Refusal :=
  s.gate (chkSystem s) (fun s =>
    let xa := (s.hart.getX a).toNat
    match s.hart.waitAll with
    | .error e => s.halt e
    | .ok _ => match s.loadBlock xa 64 1 1 with
      | .error e => s.halt e
      | .ok (s1, v) => match s.graphTrap xa v with
        | some t => s.trap t
        | none =>
          let nl := blockField v 0 4
          let base := blockField v 40 8
          match ((upFrom 0 nl).map (fun k => base + 64 * k)).foldlM State.readLaunch (s1, []) with
          | .error e => s.halt e
          | .ok (s2, vs) => match s.graphLaunchTrap base vs with
            | some t => s.trap t
            | none =>
              let i := s.hart.slot
              let c := s.counts i
              if c.1 + nl > maxLaunches then s.trapWith 0x0f (c.1 + nl)
              else if c.2 ≥ maxGraphs then s.trapWith 0x0f (c.2 + 1)
              else
                let s3 := s2.drain.addGraph i s.hart.cl (blockField v 4 4) (graphWaits v) (vs.map parseLaunch)
                .next (s3.upd (fun h => (h.setX d (BitVec.ofNat 64 (mkHandle 1 c.2))).step4)))

/-! ### Counters (R31, R32, R317) -/

/-- The issue check of CCADD: the handle, and a sum above 2^32 − 1 (R313, R317). -/
def chkCcadd (a b : Nat) (s : State) : Option Trap :=
  let h := (s.hart.getX a).toNat
  let n := (s.hart.getX b).toNat % 2 ^ 32
  firstTrap (chkSystem s) (firstTrap (s.handleTrap h) (match s.record s.hart.slot (handleLvl h) (handleIdx h) with
    | some (c, .running) => if c + n ≥ 2 ^ 32 then some (.of 0x0e n) else none
    | _ => none))

/-- CCADD (R317): added to a running record; discarded and reported at a complete one; discarded at a cancelled one (R32). -/
def execCcadd (a b : Nat) (s : State) : Host.Outcome State Fault Refusal :=
  s.gate (chkCcadd a b s) (fun s =>
    let h := (s.hart.getX a).toNat
    let n := (s.hart.getX b).toNat % 2 ^ 32
    let i := s.hart.slot
    .next (match s.record i (handleLvl h) (handleIdx h) with
      | some (c, .running) => s.updJob i (fun j => j.setRec (handleLvl h) (handleIdx h) (c + n) .running)
      | some (_, .complete) => s.underflow (some s.hart.hid) h n
      | _ => s).advance4)

/-- The record of a handle contains the hart (R30). -/
def State.contains (s : State) (h : Nat) : Bool := match s.launchOf s.hart with
  | none => false
  | some l => inRecord (handleLvl h) (handleIdx h) l

/-- The issue check of CCWAIT (R317). -/
def chkCcwait (a : Nat) (s : State) : Option Trap :=
  let h := (s.hart.getX a).toNat
  firstTrap (chkSystem s) (firstTrap (s.illegalIf (s.handleOk s.hart.slot h && s.contains h)) (s.handleTrap h))

/-- CCWAIT (R317): the hart waits at the instruction until the counter reads zero. -/
def execCcwait (a : Nat) (s : State) : Host.Outcome State Fault Refusal :=
  s.gate (chkCcwait a s) (fun s =>
    let h := (s.hart.getX a).toNat
    match s.record s.hart.slot (handleLvl h) (handleIdx h) with
    | some (0, _) => .next s.advance4
    | _ => .next (s.upd (fun k => { k with status := .ccwait h })))

/-- The state code that CCREAD gives (R32, R317). -/
def RecState.code : RecState → Nat
  | .running => 0
  | .cancelling => 0
  | .complete => 1
  | .cancelled => 2

/-- The issue check of CCREAD (R313). -/
def chkCcread (a : Nat) (s : State) : Option Trap := firstTrap (chkSystem s) (s.handleTrap (s.hart.getX a).toNat)

/-- CCREAD (R317). -/
def execCcread (d a : Nat) (s : State) : Host.Outcome State Fault Refusal :=
  s.gate (chkCcread a s) (fun s =>
    let h := (s.hart.getX a).toNat
    let v := match s.record s.hart.slot (handleLvl h) (handleIdx h) with
      | none => 0
      | some (c, st) => c + 2 ^ 32 * st.code
    .next (s.upd (fun k => (k.setX d (BitVec.ofNat 64 v)).step4)))

/-- The issue check of CANCEL: the handle, and the level code (R317). -/
def chkCancel (a l : Nat) (s : State) : Option Trap :=
  let h := (s.hart.getX a).toNat
  firstTrap (chkSystem s) (firstTrap (s.handleTrap h) (if handleLvl h ≠ l then some (.of 0x0e h) else none))

/-- A cancellation arrives at the record (lvl, idx); one of a running job resets its partition, for the cause `why` (R53, R392). -/
def State.cancelAt (s : State) (i lvl idx why : Nat) : State :=
  let s1 := s.cancel i lvl idx
  match s.record i lvl idx with
  | some (_, .running) => if lvl = 3 then s1.post (.partitionReset i why) else s1
  | _ => s1

/-- CANCEL (R53, R317). -/
def execCancel (a l : Nat) (s : State) : Host.Outcome State Fault Refusal :=
  s.gate (chkCancel a l s) (fun s =>
    let h := (s.hart.getX a).toNat
    .next (s.advance4.cancelAt s.hart.slot (handleLvl h) (handleIdx h) 1))

/-- YIELD (R62, R317): the turn ends. -/
def execYield (s : State) : Host.Outcome State Fault Refusal :=
  s.gate (chkSystem s) (fun s => .next (s.upd (fun h => { h.step4 with turnOver := true })))

/-- HALT (R318): the engine's operations, the drain, the links; the hart stops when HALT_COMPLETE comes. -/
def execHalt (s : State) : Host.Outcome State Fault Refusal :=
  s.gate (chkSystem s) (fun s =>
    match s.hart.waitAll with
    | .error e => s.halt e
    | .ok _ => .next ((s.drain.dropLinks.upd (fun h => { h with status := .halting })).post (.haltComplete s.hart.hid)))

/-! ### The end of a hart (R318, R382) -/

/-- The group of 16 pool rows of the hart's share in which a poisoned item lies, none for what is no pool row (R24, R35, R382). -/
def Hart.rowGroup (h : Hart) (p : Poison) : Option Nat :=
  let regs := h.regrows
  if p.kind = 1 && p.num < 32 then some ((p.num * (regs / 2) + p.elem / 64) / 16)
  else if p.kind = 3 then some (regs + (128 * p.num + p.elem / 32) / 16)
  else if p.kind = 2 then some (regs + 8 * h.tiles + p.elem / 64 / 16)
  else none

/-- The rows that hold uncorrectable errors are retired as the hart's rows are freed (R382); poison that came with the hart from other rows tells
nothing of these. -/
def State.retireRows (s : State) (h : Hart) : State :=
  let n := ((h.poison.filter (fun p => !h.carried.contains p)).filterMap h.rowGroup).eraseDups.length
  if n = 0 then s
  else
    let c := s.coreOf h.cl h.core
    s.setCore h.cl h.core { c with rows := c.rows - n }

/-- The hart is gone: the issue slot stands empty at its core, or the hart leaves the list. -/
def State.remove (s : State) (hid : Nat) : State :=
  if s.hart.hid = hid then { s with hart := { Hart.vacant with cl := s.hart.cl, core := s.hart.core } }
  else { s with others := s.others.filter (fun h => h.hid ≠ hid) }

/-- The barriers of a launch at which every live hart now waits become due for release (R310). -/
def State.checkBars (s : State) (i l : Nat) : State := (upFrom 0 16).foldl (fun s k => s.checkBar i l k) s

/-- The reports a hart leaves unread in the network interface (R386). -/
def State.loseReport (s : State) (h : Hart) (r : Report) : State :=
  (s.log 8 1 h.cl (r.rtype + 256 * r.why + 65536 * r.hop) r.pc).log 0x8008 1 h.cl (h.launchid % 2 ^ 24) (h.lcore % 2 ^ 20)

/-- The end of a hart that halts (R318): it counts at the collective FENCEV and at the barriers, its rows are freed, its launch is counted
down; a job that is ending may be done with it. -/
def State.haltDone (s : State) (h : Hart) : State :=
  let s1 := s.updLaunch h.slot h.launchid (fun l =>
    { l with halted := l.halted + 1, pend := if h.pending.isEmpty then l.pend else mapSet [] l.pend h.lcore h.pending })
  let s2 := h.held.foldl (fun s r => s.loseReport h r) ((s1.retireRows h).remove h.hid)
  let s3 := match s2.launchAt h.slot h.launchid with
    | none => s2
    | some l => if l.collReady && !(l.coll.isEmpty && l.pend.isEmpty) then s2.collect h.slot h.launchid else s2
  ((s3.checkBars h.slot h.launchid).countDown h.slot (mkHandle 0 h.launchid) 1 none).closeJob h.slot

/-- HALT_COMPLETE (R318): the rows are freed once no peer access that has passed its check is still to reach them (R116). -/
def execHaltComplete (hid : Nat) (s : State) : Host.Outcome State Fault Refusal :=
  match s.hartOf hid with
  | none => .next s
  | some h => if h.status = .halting && !s.awaited hid then .next (s.haltDone h) else .next s

/-! ### Timetables (R69 to R73, R319, R320, R370) -/

/-- The timetable image of the job's current phase, none in a dispatched phase. -/
def State.phaseImage (s : State) : Option Nat := match s.jobOf s.hart.slot with
  | none => none
  | some j => match j.phases[j.cur]? with
    | none => none
    | some p => if p.timed then some p.tt else none

/-- The issue check of TTSTART: the image address is the phase's (R320). -/
def chkTtstart (a : Nat) (s : State) : Option Trap :=
  let xa := (s.hart.getX a).toNat
  firstTrap (chkSystem s) (if s.phaseImage = some xa then none else some (.of 0x0e xa))

/-- Every core of the timetable is armed, or has reached its TTSYNC. -/
def allOf (n : Nat) (l : List Nat) : Bool := decide (n ≤ l.length)

/-- A member added once. -/
def insertOnce (a : Nat) (l : List Nat) : List Nat := if l.contains a then l else l ++ [a]

/-- TTSTART (R70, R320): refuses by 0x12, or arms the core; the daybreak pulse is due when every core is armed. The header's reserved word and the ranges
of `nseg` and `ncores`, which an image must keep (R69), are not checked: no refusal is stated for them (DESIGN CHOICE, log 19). -/
def execTtstart (a : Nat) (s : State) : Host.Outcome State Fault Refusal :=
  s.gate (chkTtstart a s) (fun s =>
    let xa := (s.hart.getX a).toNat
    match s.loadBlock xa 32 1 1 with
    | .error e => s.halt e
    | .ok (s1, v) =>
      let h := s.hart
      let n := blockField v 0 2
      if blockField v 2 2 ≠ 64 then s.trapWith 0x12 1
      else if !(s.coreOf h.cl h.core).retired.isEmpty then s.trapWith 0x12 2
      else if h.lcore ≥ n then s.trapWith 0x12 3
      else
        let t : TimePos := ⟨xa, n, blockField v 4 4, blockField v 8 8, blockField v 16 8, 0, 0, false, false, none⟩
        let c := s1.clusterOf h.cl
        let armed := insertOnce h.lcore c.armed
        let s2 := (s1.setCluster h.cl { c with armed := armed }).upd (fun h => { h.step4 with time := some t, status := .ttStart })
        .next (if allOf n armed then s2.post (.daybreakPulse h.cl) else s2))

/-- A field of `n` bytes of the timetable image of job slot `i`, or of its tables, as the module reads it (R69, R319); none when a page is not
mapped. -/
def State.imageField (s : State) (i a n : Nat) : Option Nat :=
  let bs := s.jobBytes i (a % 2 ^ 64) n
  if bs.length = n then some (leNat bs) else none

/-- A field as the hart's timetable reads it. -/
def State.tableRead (s : State) (a n : Nat) : Option Nat := s.imageField s.hart.slot a n

/-- Entry `k` of the hart's list in the core table (R319), none beyond its last. -/
def State.entryAt (s : State) (t : TimePos) (k : Nat) : Option Nat :=
  match s.tableRead (t.ctab + 32 * s.hart.lcore + 4) 4, s.tableRead (t.ctab + 32 * s.hart.lcore + 8) 8 with
  | some n, some c => if k < n then s.tableRead (c + 8 * k) 8 else none
  | _, _ => none

/-- A deviation of the hart (R73): the segment is abandoned, the hart traps at the deviating instruction with its kind and the cycle in the
segment. -/
def State.deviate (s : State) (kind cycle : Nat) : Host.Outcome State Fault Refusal :=
  s.abandon.trap { Trap.of 0x13 (kind + 2 ^ 32 * (cycle % 2 ^ 32)) with here := true }

/-- The cycle of the entry that governs the next instruction; free where there is no entry (log 18). -/
def State.entryCycle (s : State) (t : TimePos) : Nat := match s.entryAt t t.entry with
  | some e => bits e 31 0
  | none => (Config.exhaustedCycle t.entry).toNat

/-- What waits for a TTSYNC comes due as the hart reaches it: a cancellation, a pre-emption, the retirement of a lane (R73, R383). -/
def State.atBoundary (s : State) : State :=
  let h := s.hart
  let s1 := if h.cancelled then s.post (.hartCancel h.hid) else s
  let s2 := if h.preemptDue then s1.post (.preemption h.hid) else s1
  let c := s.coreOf h.cl h.core
  if c.due.isEmpty then s2
  else (s2.setCore h.cl h.core { c with due := [] }).postAll (c.due.map (fun d => .laneRetirement h.cl h.core d.1 (if d.2 = 0 then none else some d.2)))

/-- The harts of a timetable of cluster `cl` that wait at its TTSYNC go on untimed: the timetable has ended (R320). -/
def Hart.endTimetable (image slot cl : Nat) (h : Hart) : Hart := match h.time with
  | none => h
  | some t => if t.image = image && h.slot = slot && h.cl = cl then
      { h with time := none, status := if h.status = Status.ttSync then Status.running else h.status } else h

/-- A clock stretch that waited for a segment or period boundary takes effect (R74). -/
def ClusterInfo.settled (c : ClusterInfo) : ClusterInfo := { c with stretch := if c.next = 0 then c.stretch else c.next, next := 0 }

/-- The hart's arrival at the domain barrier is counted; after the last the next daybreak is due, or the timetable ends (R71, R320). -/
def State.arrive (s : State) (t : TimePos) : State :=
  let h := s.hart
  let c := s.clusterOf h.cl
  let here := insertOnce h.lcore c.arrived
  let s1 := (s.setCluster h.cl { c with arrived := here }).upd (fun h => { h with status := .ttSync, time := some { t with late := false } })
  if !allOf t.ncores here then s1
  else if t.seg < t.nseg then s1.post (.daybreakPulse h.cl)
  else (s1.mapHarts (Hart.endTimetable t.image h.slot h.cl)).setCluster h.cl { c.settled with armed := [], arrived := [] }

/-- The issue check of TTSYNC: a segment runs (log 19). -/
def chkTtsync (s : State) : Option Trap := s.illegalIf (!s.hart.inSegment)

/-- TTSYNC (R71, R320): a cycle other than the segment's length deviates; the hart waits for its tile registers, then for the others. An
interrupt that waited is taken here, before the arrival is counted (R73). -/
def execTtsync (s : State) : Host.Outcome State Fault Refusal :=
  s.gate (chkTtsync s) (fun s =>
    match s.hart.time with
    | none => .next s.advance4
    | some t =>
      if s.tableRead (t.stab + 8 * t.seg) 8 ≠ some (s.entryCycle t) then s.deviate 5 (s.entryCycle t)
      else match s.hart.waitAll with
        | .error e => s.halt e
        | .ok _ =>
          let u := { t with seg := t.seg + 1, entry := t.entry + 1, live := false, late := true }
          let s1 := (s.upd (fun h => { h.step4 with time := some u })).atBoundary
          match s1.hart.asyncSource with
          | some (code, v) => if s1.hart.ie then .next (s1.takeAsync code v) else .next (s1.arrive u)
          | none => .next (s1.arrive u))

/-- The hart starts cycle 0 of its next segment (R70, R71). -/
def Hart.daybreak (cl : Nat) (h : Hart) : Hart := match h.time with
  | none => h
  | some t => if h.cl = cl && (h.status = .ttStart || h.status = .ttSync) then
      { h with time := some { t with live := true }, status := .running } else h

/-- DAYBREAK_PULSE (R70, R71): every core of the cluster's timetable is armed, or has reached its TTSYNC. -/
def execDaybreakPulse (cl : Nat) (s : State) : Host.Outcome State Fault Refusal :=
  let c := s.clusterOf cl
  let waiting := s.harts.filter (fun h => h.cl = cl && (h.status = .ttStart || h.status = .ttSync))
  match waiting.findSome? (·.time) with
  | none => .next s
  | some t =>
    if allOf t.ncores c.armed || allOf t.ncores c.arrived then
      .next ((s.mapHarts (Hart.daybreak cl)).setCluster cl { c.settled with armed := [], arrived := [] })
    else .next s

end Sys2Proof.Machine
end

