-- ==== Sys2Proof/Machine/Message.lean ====
section
/-! DEFINITION. Messages: route blocks and the route cache, MPUT, MGET, MSIG, MCHK, packets at their destination, acknowledgments, reports and
retransmission (R155 to R158, R167 to R173, R321 to R325, R385 to R391). -/

namespace Sys2Proof.Machine

/-! ### Route blocks (R155, R156, R158) -/

/-- Hop `i` of a route block. -/
def routeHop (v i : Nat) : Nat := bits v (31 + 16 * i) (16 + 16 * i)
/-- `hc` of a route block. -/
def routeHc (v : Nat) : Nat := bits v 3 0

/-- The codes 1 to 3 of MCHK, 0 when none applies (R167, R325). -/
def routeCode (v : Nat) : Nat :=
  let hc := routeHc v
  if bits v 15 8 ≠ 0 || (upFrom 0 15).any (fun i => if i < hc then bits (routeHop v i) 15 12 ≠ 0 else routeHop v i ≠ 0) then 1
  else if (hc ≠ 0 && hc ≠ 2) || bits v 7 4 ≠ 0 then 2
  else if hc = 2 && (bits (routeHop v 0) 11 10 ≠ 0 || bits (routeHop v 1) 11 10 = 3) then 3
  else 0

/-- The hops of a route block, as a packet carries them. -/
def routeHops (v : Nat) : List (Nat × Nat × Nat) :=
  (upFrom 0 (routeHc v)).map (fun i => (bits (routeHop v i) 15 12, bits (routeHop v i) 11 10, bits (routeHop v i) 9 0))

/-- The key under which the route cache holds a block, none where the address does not lead to one. -/
def State.routeKey (s : State) (a : Nat) : Option Nat :=
  match place a with
  | .error _ => none
  | .ok (.own off) => some (scratchKey s.hart.hid off)
  | .ok (.peer lc off) => (s.peer lc).map (fun k => scratchKey k.hid off)
  | .ok (.virt va) => match s.translate s.hart.slot va 1 with
    | .error _ => none
    | .ok (pa, _) => some pa

/-- A route block taken into the route cache of the hart's core, which holds 64; the oldest makes room (R158). -/
def State.holdRoute (s : State) (key : Nat) (bs : List Byte) : State :=
  let own := s.routes.filter (fun r => r.core = s.coreKey)
  let kept := match own with
    | [] => s.routes
    | r :: _ => if own.length < 64 then s.routes else s.routes.erase r
  { s with routes := kept ++ [⟨s.coreKey, key, bs⟩] }

/-- A route block read through the route cache (R158). -/
def State.readRoute (s : State) (a : Nat) : Except Stop (State × Nat) :=
  if a % 32 ≠ 0 then .error (.trap (.mem 0x08 1 a))
  else
    let key := s.routeKey a
    match s.routes.find? (fun r => r.core = s.coreKey && some r.addr = key) with
    | some r => .ok (s, leNat r.bytes)
    | none => match s.loadBlock a 32 32 1 with
      | .error e => .error e
      | .ok (s1, v) => .ok (match key with
        | none => s1
        | some k => s1.holdRoute k (leBytes v 32), v)

/-! ### The partition view (R171, R172) -/

/-- A field of the view of job slot `i`. -/
def State.viewField (s : State) (i o n : Nat) : Nat := match s.jobOf i with
  | none => 0
  | some j => leNat (s.jobBytes i ((j.view + o) % 2 ^ 64) n)

/-- `state` of view port `p`. -/
def State.portState (s : State) (i p : Nat) : Nat := s.viewField i (s.viewField i 16 8 + 8 * p + 1) 1
/-- The `reach` word of module entry `k` for view port `p`. -/
def State.reach (s : State) (i k p : Nat) : Nat := s.viewField i (s.viewField i 24 8 + 512 * k + 8 + 4 * p) 4
/-- The first module entry that switch port `sw` reaches on the plane of view port `p`. -/
def State.reached (s : State) (i p sw : Nat) : Option Nat :=
  (upFrom 0 (s.viewField i 10 2)).find? (fun k => bits (s.reach i k p) 17 10 ≠ 0 && bits (s.reach i k p) 9 0 = sw)

/-- The module that a route leads to: the sender itself, or the module of the view; 1024, no module, where there is none. How the sending interface
finds `dst` is open (R169): in the model it looks the route up in the view at injection, and takes the first entry that the route reaches
(DESIGN CHOICE, log 60). -/
def State.destination (s : State) (i v : Nat) : Nat :=
  if routeHc v = 0 then s.module_
  else match s.reached i (bits (routeHop v 0) 9 0) (bits (routeHop v 1) 9 0) with
    | none => 1024
    | some k => s.viewField i (s.viewField i 24 8 + 512 * k) 2

/-- The code that MCHK gives (R325). -/
def State.mchkCode (s : State) (i v : Nat) : Nat :=
  let c := routeCode v
  let p := bits (routeHop v 0) 9 0
  if c ≠ 0 then c
  else if routeHc v = 0 then 0
  else if p ≥ s.viewField i 8 2 then 4
  else if s.portState i p ≠ 1 then 5
  else match s.reached i p (bits (routeHop v 1) 9 0) with
    | none => 6
    | some k => if bits (s.reach i k p) 31 31 = 1 then 0 else 7

/-- MCHK (R325). -/
def execMchk (d a : Nat) (s : State) : Host.Outcome State Fault Refusal :=
  s.gate (chkSystem s) (fun s =>
    match s.readRoute (s.hart.getX a).toNat with
    | .error e => s.halt e
    | .ok (s1, v) => .next (s1.upd (fun h => (h.setX d (BitVec.ofNat 64 (s.mchkCode h.slot v))).step4)))

/-! ### Packets (R157, R160, R165, R169, R170) -/

/-- The step in which a packet reaches its endpoint. -/
def arrivalOf (p : Packet) : Instr :=
  if p.kind = 1 then .putPacket p else if p.kind = 2 then .getRequest p else if p.kind = 3 then .getReply p
  else if p.kind = 5 then .acknowledgment p.src ⟨p.seq, p.cnt⟩ else .signalPacket p

/-- The fabric port that view port `v` of partition `part` names: the partition's ports, numbered in ascending order (R170, R174, log 37). -/
def State.viewPort (s : State) (part v : Nat) : Option Nat :=
  (((upFrom 0 6).filter (fun i => (s.slotOf i).clus ≠ 0 && (s.slotOf i).part = part)).flatMap (fun i =>
    ((upFrom 0 Config.clusters).filter (fun c => (s.slotOf i).clus / 2 ^ c % 2 = 1)).flatMap (fun c => upFrom (16 * c) 16)))[v]?

/-- The job slot whose partition has number `part`. -/
def State.slotOfPart (s : State) (part : Nat) : Option Nat :=
  (upFrom 0 6).find? (fun i => (s.slotOf i).clus ≠ 0 && (s.slotOf i).part = part)

/-- The cluster in which the byte at `va` of a job of partition `part` lies, `c` where it lies in none (R122). -/
def State.homeOf (s : State) (part va c : Nat) : Nat := match s.slotOfPart part, place (va % 2 ^ 64) with
  | some i, .ok (.virt a) => match s.entryIn (s.jobCaches i) i a with
    | .ok e => bits e.2 7 5
    | .error _ => c
  | _, _ => c

/-- The hub hops from cluster `c` to the endpoints of cluster `d`, or to the fabric port of a view port: over the die-to-die link where that lies in
another cluster (R165). There are none to a view port that does not exist. -/
def State.legsOut (s : State) (part c d hc v : Nat) : List (Nat × Nat) :=
  if hc = 0 then hubLegs 0 c d
  else match s.viewPort part v with
    | none => []
    | some p => (if p / 16 = c then [] else [(0, 96 + 6 * c + p / 16)]) ++ [(0, 300 + p)]

/-- A packet sent into the package network. -/
def State.send (s : State) (p : Packet) : State := s.post (.packetHop p)

/-- The packets share source, destination, plane and channel, so that they arrive in the order in which they were injected (R170). -/
def sameFlow (p q : Packet) : Bool :=
  p.src = q.src && p.dst = q.dst && p.hc = q.hc && (p.inj.head?.map (·.2)) = (q.inj.head?.map (·.2))

/-- The step of a packet of the flow of `p`. -/
def inFlow (p : Packet) (i : Instr) : Bool := match i with
  | .packetHop q => sameFlow p q
  | _ => false

/-- A packet between two of its hops: it stays before the packets of its flow that were injected after it (R170). -/
def State.resend (s : State) (p : Packet) : State :=
  { s with agenda := s.agenda.takeWhile (fun i => !inFlow p i) ++ .packetHop p :: s.agenda.dropWhile (fun i => !inFlow p i) }

/-- A packet injected: its sequence number, held until its acknowledgment, and its next step due (R169, R170). R169 gives the first number toward a
destination no value: it is 0 (DESIGN CHOICE, log 60). An endpoint in sink mode injects nothing (R392). -/
def State.inject (s : State) (p : Packet) (slot mid : Nat) : State :=
  if (s.slotOf slot).sink then s
  else
    let n := mapGet 0 s.seqs p.dst
    let q := { p with seq := n }
    { s with seqs := mapSet 0 s.seqs p.dst ((n + 1) % 2 ^ 32), unacked := s.unacked ++ [Unacked.mk p.dst n 0 mid slot q] }.send q

/-- The packets of a message of `len` bytes. -/
def packetCount (len : Nat) : Nat := if len = 0 then 1 else (len + 4095) / 4096

/-- A packet of a message. -/
def State.packetOf (s : State) (m : Message) (k0 k1 cnt : Nat) (payload : List Byte) : Packet where
  hc := routeHc m.route
  hp := 0
  hops := routeHops m.route
  part := (s.slotOf m.slot).part
  src := s.module_
  dst := s.destination m.slot m.route
  kind := m.kind
  seq := 0
  k0 := k0
  k1 := k1
  payload := payload
  inPort := none
  sender := m.hid
  pc := m.pc
  arg := m.arg
  cnt := cnt
  legs := s.legsOut (s.slotOf m.slot).part m.cl (if m.kind = 4 then m.cl else s.homeOf (s.slotOf m.slot).part k0 m.cl) (routeHc m.route)
    (bits (routeHop m.route 0) 9 0)
  inj := routeHops m.route
  msg := m.mid
  total := if m.kind = 1 then packetCount m.len else 1

/-- A route block as bytes (R155). -/
def routeBytes (hc hp : Nat) (hops : List (Nat × Nat × Nat)) : List Byte :=
  let hop (i : Nat) : Nat := match hops[i]? with
    | none => 0
    | some (r, vc, o) => r * 4096 + vc * 1024 + o
  [BitVec.ofNat 8 (hc + 16 * hp), 0] ++ (upFrom 0 15).flatMap (fun i => leBytes (hop i) 2)

/-- The payload flits of a packet, of 64 bytes (R165, R169). -/
def payloadFlits (p : Packet) : Nat := (p.payload.length + 63) / 64

/-- Bytes 48 to 63 of a packet's first flit (R324). -/
def kindBytes (p : Packet) : List Byte :=
  if p.kind = 1 || p.kind = 2 then leBytes p.k0 8 ++ leBytes p.k1 8
  else if p.kind = 3 then leBytes p.k0 8 ++ leBytes 0 8
  else if p.kind = 4 then leBytes p.k0 8 ++ leBytes p.k1 4 ++ leBytes 0 4
  else leBytes 0 16

/-- The first flit of a packet (R169). -/
def firstFlit (p : Packet) : List Byte :=
  routeBytes p.hc p.hp p.hops ++ leBytes p.part 2 ++ leBytes (p.src % 1024) 2 ++ leBytes (p.dst % 1024) 2 ++ leBytes p.kind 1 ++ leBytes (payloadFlits p) 1
    ++ leBytes p.seq 4 ++ leBytes 0 4 ++ kindBytes p

/-- A packet leaves the module. -/
def State.depart (s : State) (p : Packet) : State := { s with toHost := s.toHost ++ [.remote p (firstFlit p)] }

/-- The route block of a packet as injected, with `hp` 0 (R387). -/
def routeBytesOf (p : Packet) : List Byte := routeBytes p.hc 0 p.inj

/-- The report on a packet (R387). -/
def reportOn (p : Packet) (rtype hop why : Nat) : Report :=
  ⟨rtype, hop, why, p.kind, p.seq, p.pc, p.arg, p.cnt, routeBytesOf p⟩

/-! ### Messages -/

/-- The two last rows of the scratchpad, the fault queue, are free of windows, and exist (R385). -/
def Hart.queueFree (h : Hart) : Bool :=
  decide (0 < h.sprows) && !(h.fq.any (fun w => w.2.covers (256 * h.sprows - 512) 512)) && !(h.sw.any (fun w => w.2.covers (256 * h.sprows - 512) 512))

/-- The issue check of MPUT, MGET and MSIG (R385). -/
def chkMessage (s : State) : Option Trap := firstTrap (chkSystem s) (s.illegalIf (!s.hart.queueFree))

/-- A handle carried by a message, as its sender checks it (R313): `must` says that all-ones is refused. -/
def carriedOk (must : Bool) (h : Nat) : Bool :=
  if h = noHandle then !must else handleLvl h ≤ 3 && bits h 60 32 = 0

/-- The refusal of a message block at `xb` (R313, R321). -/
def State.blockTrap (s : State) (xb v : Nat) (put : Bool) : Option Trap :=
  let rva := blockField v 0 8
  let len := blockField v 8 4
  let rcc := blockField v 16 8
  let lcc := blockField v 24 8
  if rva % 4 ≠ 0 || len % 4 ≠ 0 || len > 16777216 || blockField v 12 4 ≠ 0 then some (.of 0x0e xb)
  else if put && !carriedOk false rcc then some (.of 0x0e rcc)
  else if lcc ≠ noHandle && !s.handleOk s.hart.slot lcc then some (.of 0x0e lcc)
  else none

/-- The network interface holds 16 reports of the hart: message instructions wait (R386). -/
def Hart.full (h : Hart) : Bool := decide (16 ≤ h.held.length)

/-- The route of a message instruction, once the engine is idle, the interface has room and the block is legal (R167, R322, R323, R386). -/
def State.messageRoute (s : State) (d : Nat) : Except Stop (State × Nat) :=
  match s.hart.waitAll with
  | .error e => .error e
  | .ok _ => match s.readRoute (s.hart.getX d).toNat with
    | .error e => .error e
    | .ok (s1, v) => if routeCode v ≠ 0 then .error (.trap (.of 0x0e (s.hart.getX d).toNat)) else .ok (s1, v)

/-- The wait for a free slot of the fault queue (R386). -/
def State.awaitRoom (s : State) : Host.Outcome State Fault Refusal := .next (s.upd (fun h => { h with status := .msgRoom }))

/-- A message record of this instruction. -/
def State.newMessage (s : State) (kind arg cnt route len rva rcc lcc left : Nat) (sent : Bool) (pas : List (Nat × Nat)) : Message :=
  ⟨s.nextMid, s.hart.hid, s.hart.slot, kind, s.hart.pc.toNat, arg, cnt, lcc, rva, rcc, route, len, left, sent, false, pas,
    s.hart.cl, s.hart.launchid, s.hart.lcore⟩

/-- A message record entered. -/
def State.addMessage (s : State) (m : Message) : State := { s with messages := s.messages ++ [m], nextMid := (s.nextMid + 1) % 2 ^ 32 }
/-- A message record changed. -/
def State.updMessage (s : State) (mid : Nat) (f : Message → Message) : State :=
  { s with messages := s.messages.map (fun m => if m.mid = mid then f m else m) }

/-- The end of a message whose packets have all been answered: `lcc` is counted down unless a packet failed (R322, R389), and an MSIG that
waited may go on (R323). -/
def State.settle (s : State) (mid : Nat) : State :=
  match s.messages.find? (·.mid = mid) with
  | none => s
  | some m =>
    if !m.sent || m.left ≠ 0 then s
    else
      let s1 := { s with messages := s.messages.filter (·.mid ≠ mid) }.updHart m.hid Hart.unstall
      if m.failed || m.lcc = noHandle then s1 else s1.countDown m.slot m.lcc 1 (some m.hid)

/-- The hart has issued a message instruction: it has a fault queue from now on (R385). -/
def Hart.sender (h : Hart) : Hart := { h with sends := true }

/-- MPUT (R322): the message is recorded, its local read is an engine operation. -/
def execMput (d a b : Nat) (s : State) : Host.Outcome State Fault Refusal :=
  s.gate (chkMessage s) (fun s =>
    if s.hart.full then s.awaitRoom
    else match s.messageRoute d with
      | .error e => s.halt e
      | .ok (s1, r) =>
        let xa := (s.hart.getX a).toNat
        let xb := (s.hart.getX b).toNat
        match s1.loadBlock xb 32 8 1 with
        | .error e => s.halt e
        | .ok (s2, v) => match s.blockTrap xb v true with
          | some t => s.trap t
          | none =>
            let s3 := s2.drain
            let m := s3.newMessage 1 xb 0 r (blockField v 8 4) (blockField v 0 8) (blockField v 16 8) (blockField v 24 8) 0 false []
            let o : EngineOp := ⟨.mput, s.hart.pc.toNat, 32, xa, blockField v 8 4, m.mid, 0, 0, 0, false, false, 0, 0, none, []⟩
            .next (((s3.addMessage m).upd (fun h => { h with engine := h.engine ++ [o], sends := true })).post (.copyEngineOperation s.hart.hid)).advance4)

/-- The pieces of [a, a + n) that lie in one 64 KiB page each: offset and address. -/
def pageParts : Nat → Nat → Nat → Nat → List (Nat × Nat)
  | 0, _, _, _ => []
  | fuel + 1, a, o, n =>
    if n ≤ o then [] else (o, a + o) :: pageParts fuel a (o + (65536 - (a + o) % 65536)) n

/-- One more page of an MGET's local range translated, as a base store to it would be (R322). -/
def State.translatePart (r : State × List (Nat × Nat)) (q : Nat × Nat) : Except Stop (State × List (Nat × Nat)) :=
  let a := q.2 % 2 ^ 64
  match place a with
  | .error c => .error (.trap (.mem c 2 a))
  | .ok (.own _) => .error (.trap (.mem 0x0d 2 a))
  | .ok (.peer _ _) => .error (.trap (.mem 0x0d 2 a))
  | .ok (.virt va) => match r.1.translate r.1.hart.slot va 2 with
    | .error c => .error (.trap (.mem c 2 a))
    | .ok (pa, leaf) => .ok (r.1.note a (.phys pa leaf), r.2 ++ [(q.1, pa)])

/-- MGET (R322): the local range is translated at issue, then the request is sent. -/
def execMget (d a b : Nat) (s : State) : Host.Outcome State Fault Refusal :=
  s.gate (chkMessage s) (fun s =>
    if s.hart.full then s.awaitRoom
    else match s.messageRoute d with
      | .error e => s.halt e
      | .ok (s1, r) =>
        let xa := (s.hart.getX a).toNat
        let xb := (s.hart.getX b).toNat
        match s1.loadBlock xb 32 8 1 with
        | .error e => s.halt e
        | .ok (s2, v) => match s.blockTrap xb v false with
          | some t => s.trap t
          | none =>
            let len := blockField v 8 4
            if inAperture xa then s.trap (.mem 0x0d 2 xa)
            else match (pageParts (len / 65536 + 2) xa 0 len).foldlM State.translatePart (s2, []) with
              | .error e => s.halt e
              | .ok (s3, pas) =>
                let s4 := s3.drain
                let m := s4.newMessage 2 xb 0 r len (blockField v 0 8) noHandle (blockField v 24 8) (max 1 len) true pas
                .next (((s4.addMessage m).inject (s4.packetOf m m.rva (len + 2 ^ 32 * m.mid) 0 []) m.slot m.mid).upd Hart.sender).advance4)

/-- MSIG (R313, R322, R323): sent after the hart's earlier messages have ended; a count of 0 sends nothing. It waits for them first and drains when
it is sent (R142; DESIGN CHOICE, log 29). -/
def execMsig (d a b : Nat) (s : State) : Host.Outcome State Fault Refusal :=
  s.gate (chkMessage s) (fun s =>
    if s.hart.full then s.awaitRoom
    else match s.messageRoute d with
      | .error e => s.halt e
      | .ok (s1, r) =>
        let xa := (s.hart.getX a).toNat
        let n := (s.hart.getX b).toNat % 2 ^ 32
        if !carriedOk true xa then s.trap (.of 0x0e xa)
        else if s.messages.any (fun m => m.hid = s.hart.hid && (m.kind = 1 || m.kind = 2)) then .next s.stalled
        else
          let s2 := s1.drain.upd Hart.sender
          if n = 0 then .next s2.advance4
          else
            let m := s2.newMessage 4 xa n r 0 0 noHandle noHandle 1 true []
            .next ((s2.addMessage m).inject (s2.packetOf m xa n n []) m.slot m.mid).advance4)

/-! ### Reports (R385 to R387) -/

/-- A report as 64 bytes (R387). -/
def reportBytes (r : Report) : List Byte :=
  [BitVec.ofNat 8 r.rtype, BitVec.ofNat 8 r.hop, BitVec.ofNat 8 r.why, BitVec.ofNat 8 r.kind] ++ leBytes r.seq 4 ++ leBytes r.pc 8
    ++ leBytes r.arg 8 ++ leBytes r.cnt 8 ++ (r.route ++ List.replicate 32 0).take 32

/-- Held reports written to the fault queue while its next slot is free (R385, R386). -/
def Hart.deliver : Nat → Hart → Hart
  | 0, h => h
  | fuel + 1, h => match h.held with
    | [] => h
    | r :: q => if h.fqFull h.fqNext || !h.hasFq then h
      else deliver fuel { (h.writeScratch (h.fqSlot h.fqNext) (reportBytes r)) with held := q, fqNext := (h.fqNext + 1) % 8 }

/-- The interface moves what it holds into the queue; a hart that waited for room goes on (R386). What a pre-empted hart has coming stays
with its engine records (R386). -/
def Hart.receive (h : Hart) : Hart :=
  let k := if h.preempted then h else h.deliver 8
  { k with status := if (k.status = .msgRoom && !k.full) || (k.status = .waiting && k.reportPending) then .running else k.status }

/-- The interface of every hart moves the reports it holds (R386). -/
def State.receiveAll (s : State) : State :=
  if s.harts.any (fun h => !h.held.isEmpty && !h.preempted) then s.mapHarts (fun h => if h.held.isEmpty then h else h.receive) else s

/-- A report reaches its sender (R385, R386): it enters the queue, or the dusk record when the hart is gone. -/
def State.report (s : State) (hid : Nat) (r : Report) (cl launch lcore : Nat) : State :=
  match s.hartOf hid with
  | some h => if h.status = .vacant || h.cancelled then s.loseReport { h with cl := cl, launchid := launch, lcore := lcore } r
    else s.updHart hid (fun h => Hart.receive { h with held := h.held ++ [r] })
  | none => s.loseReport { Hart.vacant with cl := cl, launchid := launch, lcore := lcore } r

/-- A report on a packet of which the interface keeps no record: a hart that is still there gives its own numbers. -/
def State.reportAlone (s : State) (hid : Nat) (r : Report) : State := match s.hartOf hid with
  | none => s.report hid r 0 0 0
  | some h => s.report hid r h.cl h.launchid h.lcore

/-- One packet of message `mid` has failed (R389). -/
def State.failPacket (s : State) (mid hid : Nat) (r : Report) : State :=
  match s.messages.find? (·.mid = mid) with
  | none => s.reportAlone hid r
  | some m =>
    let s1 := s.updMessage mid (fun m => { m with failed := true, left := if m.kind = 2 then 0 else m.left - 1 })
    (s1.report hid r m.cl m.launch m.lcore).settle mid

/-- The packet of a hart's message that a report names: the one that a report of this type and place describes so (R387). -/
def State.reported (s : State) (hid : Nat) (r : Report) : Option Unacked :=
  s.unacked.find? (fun u => u.pkt.sender = hid && reportOn u.pkt r.rtype r.hop r.why = r)

/-- The partition of the hart is in sink mode, in which what reaches it is discarded (R392). -/
def State.sinks (s : State) (hid : Nat) : Bool := match s.hartOf hid with
  | none => false
  | some h => (s.slotOf h.slot).sink

/-- REPORT_ARRIVAL (R385 to R389, R392). -/
def execReportArrival (hid : Nat) (r : Report) (s : State) : Host.Outcome State Fault Refusal :=
  match s.reported hid r with
  | some u => .next (if (s.slotOf u.slot).sink then s else { s with unacked := s.unacked.erase u }.failPacket u.mid hid r)
  | none => .next (if s.sinks hid then s else s.reportAlone hid r)

/-! ### The engine's read of an MPUT (R322, R384) -/

/-- A read that ends so is deferred (R143, R288, R367): a fault of its page or of its place in the aperture, or a race. Any other failure ends the
message (R322). -/
def readDeferred (code : Nat) : Bool := [0x0a, 0x0b, 0x0c, 0x0d, 0x20].contains code

/-- The message's packets read and injected, one after the other; a page fault or a race stops the operation, any other failure ends the
message with a report of type 5, but for one in sink mode, in which nothing is reported (R392). A message of which a packet has failed sends no
more (R389). -/
def runMput : Nat → State → EngineOp → State × EngineOp × EngineEnd
  | 0, s, o => ((s.updMessage o.d (fun m => { m with sent := true })).settle o.d, o, .complete)
  | fuel + 1, s, o => match s.messages.find? (·.mid = o.d) with
    | none => (s, o, .complete)
    | some m =>
      let n := packetCount m.len
      if o.done ≥ n || m.failed then runMput 0 s o
      else
        let off := 4096 * o.done
        match s.engineRead (fun _ => true) (o.a + off) (min 4096 (m.len - off)) with
        | .error (.trap t) =>
          if readDeferred t.code then (s, o, .fault t)
          else
            let p := { s.packetOf m 0 0 off [] with seq := mapGet 0 s.seqs (s.destination m.slot m.route) }
            let s1 := s.updMessage m.mid (fun m => { m with failed := true })
            runMput 0 (if (s.slotOf m.slot).sink then s1 else s1.report m.hid (reportOn p 5 0 0) m.cl m.launch m.lcore) o
        | .error .stall => (s, o, .room)
        | .ok (s1, bs) =>
          let p := s.packetOf m (m.rva + off) (if o.done + 1 = n then m.rcc else noHandle) off bs
          let s2 := (s1.updMessage m.mid (fun m => { m with left := m.left + 1 })).inject p m.slot m.mid
          runMput fuel s2 { o with done := o.done + 1 }

/-- One turn of an engine operation. -/
def runAnyOp (s : State) (o : EngineOp) : State × EngineOp × EngineEnd :=
  if o.kind = .mput then runMput (packetCount o.b + 1) s o else runTurn s o

/-- An engine operation taken as far as it goes. -/
def runWhole (s : State) (o : EngineOp) : State × EngineOp × EngineEnd :=
  if o.kind = .mput then runMput (packetCount o.b + 1) s o else runEngineOp s o

/-- The hart's engine operations in issue order, those of a pre-empted hart excepted, which its context holds (R288). -/
def State.engineTurn (s : State) : State := if s.hart.preempted then s else s.engineOrder runAnyOp [] s.hart.engine

/-- COPY_ENGINE_OPERATION (R282): the hart's operations in issue order. -/
def execCopyEngineOperation (hid : Nat) (s : State) : Host.Outcome State Fault Refusal := .next (s.on hid State.engineTurn)

/-- FEED_QUEUE_FILL_RESUME (R119): the fills of the queue go on as its consumer has advanced. -/
def execFeedQueueFillResume (hid fq : Nat) (s : State) : Host.Outcome State Fault Refusal :=
  .next (s.on hid (fun s => if s.hart.engine.any (fun o => s.hart.fills o fq) then s.engineTurn else s))

/-! ### Arrival at the destination (R170, R322 to R324, R387, R391) -/

/-- The way back of a packet that came over the fabric: the view port it arrived on, then the recorded switch port (R157, R170). -/
def reversedHops (p : Packet) : List (Nat × Nat × Nat) :=
  [(0, 0, (p.inPort.getD (0, 0)).1), (0, 0, (p.hops.getD 1 (0, 0, 0)).2.2)]

/-- The physical byte of offset `o` in an MGET's local range. -/
def Message.target (m : Message) (o : Nat) : Nat :=
  match m.pas.reverse.find? (fun q => decide (q.1 ≤ o)) with
  | none => 0
  | some q => q.2 + (o - q.1)

/-- The cluster of the hart that sent a packet of this module (R165). -/
def State.senderCluster (s : State) (p : Packet) : Nat := ((s.messages.find? (·.mid = p.msg)).map (·.cl)).getD 0

/-- The cluster of the endpoint that a packet goes to in this module (R165): of an MPUT's or MGET's request, where its bytes lie; of a get reply, where they
are to be written; else `c`. -/
def State.endCluster (s : State) (p : Packet) (c : Nat) : Nat :=
  if p.kind = 1 || p.kind = 2 then s.homeOf p.part p.k0 c
  else if p.kind = 3 then match s.messages.find? (fun m => m.mid = p.k0 % 2 ^ 32 && m.kind = 2) with
    | none => c
    | some m => s.homeCluster (m.target (p.k0 / 2 ^ 32))
  else c

/-- The acknowledgment of a packet: of one that came over the fabric, the fabric port returns it (R170, R324); inside the module `legs` lead back
(R165). `excess` is what an MSIG's count exceeded its
counter by (R364; how the acknowledgment tells it is open, log 36). -/
def ackOf (p : Packet) (legs : List (Nat × Nat)) (excess : Nat) : Packet :=
  let hops := if p.hc = 0 then [] else reversedHops p
  { p with kind := 5, hops := hops, inj := hops, hp := 0, src := p.dst, dst := p.src, payload := [], k0 := 0, k1 := 0,
           inPort := none, legs := legs, cnt := excess }

/-- The cluster of the endpoint that injected a packet that stayed in the module (R165): of a get reply, where its bytes lie. -/
def State.startCluster (s : State) (p : Packet) : Nat :=
  let c := s.senderCluster p
  if p.kind = 3 then match s.messages.find? (·.mid = p.msg) with
    | none => c
    | some m => s.homeOf p.part (m.rva + p.k0 / 2 ^ 32) c
  else c

/-- The hub hops of the acknowledgment of a packet that stayed in the module: from the endpoint that took it back to the one that injected it. -/
def State.ackLegs (s : State) (p : Packet) : List (Nat × Nat) :=
  if p.hc ≠ 0 then [] else hubLegs 0 (s.endCluster p (s.senderCluster p)) (s.startCluster p)

/-- A packet acknowledged end to end (R170). -/
def State.acknowledge (s : State) (p : Packet) (excess : Nat) : State := s.send (ackOf p (s.ackLegs p) excess)

/-- The check of a packet's next hop inside the module: a hub port of its package route, or its fabric port (R160). A `hop0.port` at or beyond
the view's ports names no port, whatever port of the module bears that number (`why` 2; DESIGN CHOICE, log 60). -/
def State.hopCheck (s : State) (p : Packet) : Option (Nat × Nat) :=
  match p.legs with
  | (vc, k) :: _ => s.portCheck p.part vc p.inPort (s.portAt k)
  | [] => match p.hops[p.hp]? with
    | none => some (1, 2)
    | some (rsv, vc, o) =>
      if rsv ≠ 0 then some (1, 1)
      else match s.viewPort p.part o with
        | none => some (1, 2)
        | some k => s.portCheck p.part vc p.inPort (s.portAt k)

/-- A report on a packet sent back to its sender (R388, R391): inside this module it always reaches its hart's queue (R386); to another module it takes
the way of an acknowledgment, whose hop into the fabric is checked as any other (R160). -/
def State.sendReport (s : State) (p : Packet) (r : Report) : State :=
  if p.src = s.module_ then s.post (.reportArrival p.sender r)
  else if (s.hopCheck (ackOf p [] 0)).isSome then s
  else { s with toHost := s.toHost ++ [.report p r] }

/-- A packet refused: no acknowledgment, a report of type 4 (R387, R391). -/
def State.refuse (s : State) (p : Packet) (why : Nat) : State := s.sendReport p (reportOn p 4 0 why)

/-- The packet enters the list of the 4,096 most recent of its source module (R391). -/
def State.acceptSeq (s : State) (p : Packet) : State :=
  let l := (p.seq :: mapGet [] s.accepted p.src).take 4096
  { s with
    accepted := mapSet [] s.accepted p.src l
    excesses := if s.excesses.isEmpty then [] else s.excesses.filter (fun e => e.1 ≠ p.src || (l.contains e.2.1 && e.2.1 ≠ p.seq)) }

/-- The acknowledgment of an accepted packet, its excess kept for a duplicate (R364, R391). -/
def State.acknowledgeWith (s : State) (p : Packet) (excess : Nat) : State :=
  (if excess = 0 then s else { s with excesses := s.excesses ++ [(p.src, p.seq, excess)] }).acknowledge p excess

/-- The excess that the acknowledgment of an accepted packet tells of, each time it is sent (R364, R391). -/
def State.excessOf (s : State) (p : Packet) : Nat :=
  match s.excesses.find? (fun e => e.1 = p.src && e.2.1 = p.seq) with
  | none => 0
  | some e => e.2.2

/-- A duplicate of an accepted packet is acknowledged again (R391). -/
def State.acknowledgeAgain (s : State) (p : Packet) : State := s.acknowledge p (s.excessOf p)

/-- The physical bytes of a virtual range of job slot `i`, none where one does not translate. -/
def State.jobRange (s : State) (i va n perm : Nat) : Option (List Nat) :=
  (upFrom va n).mapM (fun a => match place (a % 2 ^ 64) with
    | .ok (.virt v) => match s.translateJob i v perm with
      | .ok (pa, _) => some pa
      | .error _ => none
    | _ => none)

/-- What such an access leaves behind it: the job's translation caches (R130), the homes of host-window lines (R122), the banks it reaches (R22). -/
def State.noteRange (s : State) (i va : Nat) (pas : List Nat) : State :=
  let pages := (((upFrom va pas.length).zip pas).map (fun q => (q.1 / 65536 * 65536, q.2))).foldl
    (fun (l : List (Nat × Nat)) q => if l.any (fun r => r.1 = q.1) then l else l ++ [q]) []
  let s1 := pages.foldl (fun s q => match s.entryIn (s.jobCaches i) i (q.1 % 2 ^ 64) with
    | .error _ => s
    | .ok (_, leaf) => ((pas.filter (fun a => a / 65536 = q.2 / 65536)).map lineOf).eraseDups.foldl (fun s l => s.setHome l leaf) s) s
  (s1.touch pas).fillIn (s.jobCaches i) i (pages.map (fun q => q.1 % 2 ^ 64))

/-- Some of the bytes are claimed: the access waits (R323, R378). -/
def State.claimed (s : State) (pas : List Nat) : Bool := !s.claims.isEmpty && pas.any (fun p => s.owner p ≠ 0)

/-- What a packet does at its endpoint. -/
inductive Arrival where
  | discard
  | again
  | refuse (why : Nat)
  | wait
  | apply (slot : Nat) (pas : List Nat)
  deriving DecidableEq, Repr

/-- The judgement of a packet that carries bytes at `va` with permission `perm` and handle `rcc` (R313, R387, R391, R392). -/
def State.judge (s : State) (p : Packet) (va n perm rcc : Nat) : Arrival :=
  match s.slotOfPart p.part with
  | none => .refuse 1
  | some i =>
    if (s.slotOf i).sink then .discard
    else if (mapGet [] s.accepted p.src).contains p.seq then .again
    else if (s.slotOf i).st ≠ 2 then .refuse 1
    else match s.jobRange i va n perm with
      | none => .refuse 2
      | some pas =>
        if rcc ≠ noHandle && !s.handleOk i rcc then .refuse 5
        else if s.claimed pas then .wait
        else if perm = 1 && !s.poisoned.isEmpty && pas.any (fun a => (s.poisonAt a 1).isSome) then .refuse 3
        else .apply i pas

/-- A packet waits at claimed bytes, or behind one of its stream that does (R323). -/
def State.waitPacket (s : State) (p : Packet) : State := { s with hostWait := s.hostWait ++ [.packet p] }

/-- The packets are of one stream: one source, one plane, one channel (R170, R323). -/
def sameStream (p q : Packet) : Bool :=
  p.src = q.src && p.hc = q.hc && p.inPort.map (·.1) = q.inPort.map (·.1) && (p.hops.getD 1 (0, 0, 0)).2.1 = (q.hops.getD 1 (0, 0, 0)).2.1

/-- The packet of a waiting access is of the stream of `p`. -/
def HostWait.streamOf (p : Packet) (w : HostWait) : Bool := match w with
  | .packet q => sameStream q p
  | _ => false

/-- One more packet of an MPUT has been written: the state, and the handle to count down once all of them are (R322, R389). -/
def State.putDone (s : State) (p : Packet) : State × Option Nat :=
  let old := (s.puts.find? (fun r => r.src = p.src && r.msg = p.msg)).getD ⟨p.src, p.msg, [], none⟩
  let got := if old.got.contains p.cnt then old.got else old.got ++ [p.cnt]
  let rcc := if p.k1 = noHandle then old.rcc else some p.k1
  let rest := s.puts.filter (fun r => !(r.src = p.src && r.msg = p.msg))
  if got.length = p.total then ({ s with puts := rest }, rcc) else ({ s with puts := rest ++ [⟨p.src, p.msg, got, rcc⟩] }, none)

/-- A put packet at its destination (R322, R389). -/
def State.put (s : State) (p : Packet) : State :=
  match s.judge p p.k0 p.payload.length 2 p.k1 with
  | .discard => s
  | .again => s.acknowledgeAgain p
  | .refuse why => s.refuse p why
  | .wait => s.waitPacket p
  | .apply i pas =>
    let r := (((s.noteRange i p.k0 pas).writeMem 0 (pas.zip p.payload)).acceptSeq p).putDone p
    match r.2 with
    | none => r.1.acknowledge p 0
    | some h =>
      let c := r.1.countExcess i h 1
      c.1.acknowledgeWith p c.2

/-- The reply packets of a get request: offset and bytes. -/
def replyParts : Nat → Nat → List Byte → List (Nat × List Byte)
  | 0, _, _ => []
  | fuel + 1, off, bs => (off, bs.take 4096) :: (if bs.length ≤ 4096 then [] else replyParts fuel (off + 4096) (bs.drop 4096))

/-- A reply packet: its offset and bytes, on the way back (R324). -/
def replyOf (p : Packet) (legs : List (Nat × Nat)) (q : Nat × List Byte) : Packet :=
  let hops := if p.hc = 0 then [] else reversedHops p
  let back := { p with kind := 3, hops := hops, inj := hops, hp := 0, src := p.dst, dst := p.src, legs := legs }
  { back with k0 := p.k1 / 2 ^ 32 + 2 ^ 32 * q.1, k1 := 0, payload := q.2, inPort := none, cnt := q.1 }

/-- A reply packet sent (R322, R324): from the cluster where the bytes lie to the fabric port of arrival, or to the asker's cluster. -/
def State.reply (p : Packet) (slot : Nat) (s : State) (q : Nat × List Byte) : State :=
  let c := s.senderCluster p
  let r := replyOf p [] q
  s.inject { r with legs := s.legsOut p.part (s.homeOf p.part p.k0 c) (s.endCluster r c) p.hc (p.inPort.getD (0, 0)).1 } slot (2 ^ 32)

/-- A get request at its destination (R322): the bytes are read as plain loads and returned. -/
def State.get (s : State) (p : Packet) : State :=
  let len := p.k1 % 2 ^ 32
  match s.judge p p.k0 len 1 noHandle with
  | .discard => s
  | .again => s.acknowledgeAgain p
  | .refuse why => s.refuse p why
  | .wait => s.waitPacket p
  | .apply i pas =>
    let s1 := ((s.noteRange i p.k0 pas).acceptSeq p).acknowledge p 0
    (replyParts (len / 4096 + 1) 0 (pas.map s.readByte)).foldl (State.reply p i) s1

/-- A get reply at the module that asked (R322): the bytes are written through the translations taken at issue. -/
def State.reply3 (s : State) (p : Packet) : State :=
  match s.slotOfPart p.part with
  | none => s
  | some i =>
    if (s.slotOf i).sink then s
    else if (mapGet [] s.accepted p.src).contains p.seq then s.acknowledgeAgain p
    else match s.messages.find? (fun m => m.mid = p.k0 % 2 ^ 32 && m.kind = 2) with
      | none => (s.acceptSeq p).acknowledge p 0
      | some m =>
        let off := p.k0 / 2 ^ 32
        let pas := (upFrom off p.payload.length).map m.target
        if s.claimed pas then s.waitPacket p
        else
          let s1 := (((s.touch pas).writeMem 0 (pas.zip p.payload)).acceptSeq p).acknowledge p 0
          (s1.updMessage m.mid (fun m => { m with left := m.left - max 1 p.payload.length })).settle m.mid

/-- A signal at its destination (R322): its acknowledgment tells its sender of a count above the counter (R364). -/
def State.signal (s : State) (p : Packet) : State :=
  match s.judge p 0 0 2 p.k0 with
  | .discard => s
  | .again => s.acknowledgeAgain p
  | .refuse why => s.refuse p why
  | .wait => s.waitPacket p
  | .apply i _ =>
    let c := (s.acceptSeq p).countExcess i p.k0 p.k1
    c.1.acknowledgeWith p c.2

/-- A packet served at its endpoint, by kind. -/
def State.endpoint (s : State) (p : Packet) : State :=
  if p.kind = 1 then s.put p else if p.kind = 2 then s.get p else if p.kind = 3 then s.reply3 p else s.signal p

/-! ### Hops (R157, R160, R165, R388) -/

/-- The report on a reply packet whose way fails is its asker's: in this module it ends the MGET (R388, R389, R391). To another module it leaves over
the reply's own fabric port, whose node checks it as any other packet (R160), unless the reply has failed beyond it. -/
def State.replyFailed (s : State) (p : Packet) (r : Report) : State :=
  if p.hc = 0 then s.failPacket (p.k0 % 2 ^ 32) p.sender r
  else if p.hp = 0 && (s.hopCheck { p with hops := p.inj, legs := [], inPort := none }).isSome then s
  else { s with toHost := s.toHost ++ [.report p r] }

/-- A refused packet comes back to its sender (R388); an acknowledgment is discarded, and its packet is sent again (R391). -/
def State.hopRefused (s : State) (p : Packet) (rtype why : Nat) : State :=
  let r := reportOn p rtype p.hp why
  if p.kind = 5 then s
  else if p.kind = 3 then { s with unacked := s.unacked.filter (fun u => !(u.dst = p.dst && u.seq = p.seq)) }.replyFailed p r
  else s.post (.reportArrival p.sender r)

/-- The port of arrival recorded in the hop just taken (R157). -/
def recordHop (p : Packet) (port : Nat) : List (Nat × Nat × Nat) := modAt (fun h => (h.1, h.2.1, port % 1024)) p.hops p.hp

/-- The port of a Soltar switch at the far end of the module's fabric port `k`, as the topology map lists it. -/
def State.cableOf (s : State) (k : Nat) : Option SwitchPort := s.topo.find? (fun e => e.mod = s.module_ && e.port = k)

/-- The hop at the switch (R160, R168): `a` is the port of arrival. -/
def State.switchHop (s : State) (p : Packet) (a : SwitchPort) : State :=
  let vin := (p.inPort.getD (0, 0)).2
  match p.hops[p.hp]? with
  | none => s.hopRefused p 1 2
  | some (rsv, vc, o) =>
    if rsv ≠ 0 then s.hopRefused p 1 1
    else match s.topo.find? (fun e => e.plane = a.plane && e.sw = o) with
      | none => s.hopRefused p 1 2
      | some e =>
        if !e.up then s.hopRefused p 2 0
        else if e.prt ≠ p.part || p.part = 0xffff then s.hopRefused p 1 3
        else if vc > vin || (vc = vin && decide (e.rko > a.rki)) then
          s.depart { p with hp := p.hp + 1, hops := recordHop p a.sw, inPort := none }
        else s.hopRefused p 1 4

/-- A packet that has left through fabric port `k` reaches its switch: one that the map lists takes its hop, else the packet is beyond the model. -/
def State.atSwitch (s : State) (p : Packet) (k : Nat) : State := match s.cableOf k with
  | none => s.depart { p with inPort := none }
  | some a => s.switchHop p a

/-- The packet's next hop taken, its check passed. -/
def State.forward (s : State) (p : Packet) : State :=
  match p.legs with
  | (vc, k) :: r => s.resend { p with legs := r, inPort := some (farPort k, vc) }
  | [] => match p.hops[p.hp]? with
    | none => s
    | some (_, vc, o) => match s.viewPort p.part o with
      | none => s
      | some k =>
        let rec' := match p.inPort with
          | none => p.hops
          | some (i, _) => recordHop p i
        s.resend { p with hp := p.hp + 1, hops := rec', inPort := some (k, vc) }

/-- PACKET_HOP (R157, R160, R388): the node takes the packet's next hop, or sends it back as a report; past its last hop it arrives. -/
def execPacketHop (p : Packet) (s : State) : Host.Outcome State Fault Refusal :=
  if p.legs.isEmpty && decide (p.hp ≥ p.hc) then .next (s.post (arrivalOf p))
  else if p.legs.isEmpty && decide (p.hp > 0) then .next (s.atSwitch p (p.inPort.getD (0, 0)).1)
  else match s.hopCheck p with
    | some (rtype, why) => .next (s.hopRefused p rtype why)
    | none => .next (s.forward p)

/-! ### Acceptance (R165, R170) -/

/-- The legs after the fabric, from the fabric port's hub to the endpoint, on `vc` 3 (R165): none passes. -/
def State.lastLeg (s : State) (p : Packet) : Option (Nat × Nat) :=
  if p.hc = 0 then none
  else match p.inPort with
    | none => none
    | some (v, vin) => match s.viewPort p.part v with
      | none => none
      | some k => s.legsCheck p.part (some (k, vin)) (hubLegs 3 (k / 16) (s.endCluster p (k / 16)))

/-- A packet at this module: accepted when `hp` = `hc` and `dst` is the module's own number, otherwise lost (R170); a packet behind one of its stream
that waits, waits (R323). -/
def State.arriveAt (s : State) (p : Packet) : State :=
  if p.hp ≠ p.hc || p.dst ≠ s.module_ then s
  else match s.lastLeg p with
    | some (rtype, why) => s.sendReport p (reportOn p rtype 0 why)
    | none => if s.hostWait.any (HostWait.streamOf p) then s.waitPacket p else s.endpoint p

/-- PUT_PACKET (R322). -/
def execPutPacket (p : Packet) (s : State) : Host.Outcome State Fault Refusal := .next (s.arriveAt { p with kind := 1 })
/-- GET_REQUEST (R322). -/
def execGetRequest (p : Packet) (s : State) : Host.Outcome State Fault Refusal := .next (s.arriveAt { p with kind := 2 })
/-- GET_REPLY (R322). -/
def execGetReply (p : Packet) (s : State) : Host.Outcome State Fault Refusal := .next (s.arriveAt { p with kind := 3 })
/-- SIGNAL_PACKET (R322). -/
def execSignalPacket (p : Packet) (s : State) : Host.Outcome State Fault Refusal := .next (s.arriveAt { p with kind := 4 })

/-! ### Acknowledgments and retransmission (R170, R364, R391, R392) -/

/-- The handle of the record that a packet's acknowledgment tells of (R364): of an MSIG's count, or of its MPUT's `rcc`, whichever packet was written
last. -/
def State.carried (s : State) (u : Unacked) : Nat :=
  if u.pkt.kind = 4 then u.pkt.k0 else match s.messages.find? (·.mid = u.mid) with
    | none => u.pkt.k1
    | some m => m.rcc

/-- A packet's acknowledgment: an underflow that it tells of is raised in the hart (R364), an acknowledged put or signal counts toward its
message's end. -/
def State.acked (s : State) (u : Unacked) (excess : Nat) : State :=
  let s1 := { s with unacked := s.unacked.erase u }
  let s2 := if excess = 0 then s1 else s1.underflow (some u.pkt.sender) (s.carried u) excess
  if u.pkt.kind = 1 || u.pkt.kind = 4 then (s2.updMessage u.mid (fun m => { m with left := m.left - 1 })).settle u.mid else s2

/-- ACKNOWLEDGMENT (R170, R322): the packet is released; an endpoint in sink mode discards it (R392). -/
def execAcknowledgment (dst : Nat) (seq : AckOf) (s : State) : Host.Outcome State Fault Refusal :=
  match s.unacked.find? (fun u => u.dst = dst && u.seq = seq.seq) with
  | none => .next s
  | some u => .next (if (s.slotOf u.slot).sink then s else s.acked u seq.excess)

/-- RETRANSMIT_TIMEOUT (R391): the packet again, or after four retransmissions a report of type 3; nothing in sink mode (R392). -/
def execRetransmitTimeout (dst seq : Nat) (s : State) : Host.Outcome State Fault Refusal :=
  match s.unacked.find? (fun u => u.dst = dst && u.seq = seq) with
  | none => .next s
  | some u =>
    if (s.slotOf u.slot).sink then .next s
    else if u.tries < 4 then
      .next ({ s with unacked := s.unacked.map (fun x => if x = u then { u with tries := u.tries + 1 } else x) }.send u.pkt)
    else
      let s1 := { s with unacked := s.unacked.erase u }
      if u.pkt.kind = 3 then .next (s1.replyFailed u.pkt (reportOn u.pkt 3 0 0))
      else .next (s1.failPacket u.mid u.pkt.sender (reportOn u.pkt 3 0 0))

/-! ### Links (R388, R390, R393) -/

/-- The ports at the two ends of a link: both directions of a die-to-die link, else the one port. -/
def linkEnds (k : Nat) : List Nat := if farPort k = k then [k] else [k, farPort k]

/-- A packet in flight that the link of port `k` carries: it has left through it and stands at its far end. -/
def onLink (k : Nat) (i : Instr) : Option Packet := match i with
  | .packetHop p => match p.inPort with
    | none => none
    | some (j, _) => if (linkEnds k).contains j then some p else none
  | _ => none

/-- The views to which a change of the link of port `k` belongs: those of the partitions of a fabric port's cluster (R173). -/
def State.viewsOf (s : State) (k : Nat) : List Instr :=
  if k < Config.fabricPorts then match s.slotOfCluster (k / 16) with
    | none => []
    | some i => [.viewUpdate i []]
  else []

/-- The link of port `k` is down (R388): the packets on it come back as dead hops, and the views are due to be rewritten (R173). -/
def State.linkLost (s : State) (k : Nat) : State :=
  let lost := s.agenda.filterMap (onLink k)
  let s1 := { s with agenda := s.agenda.filter (fun i => (onLink k i).isNone) }
  let s2 := (linkEnds k).foldl (fun s e => s.setPort e { s.portAt e with up := false }) s1
  (lost.foldl (fun s p => s.hopRefused { p with hp := p.hp - (if p.legs.isEmpty then 1 else 0) } 2 0) s2).postAll (s.viewsOf k)

/-- LINK_DOWN (R388). -/
def execLinkDown (port : Nat) (s : State) : Host.Outcome State Fault Refusal := .next (s.linkLost port)

/-- The block and instance of a link in the dusk record (R390, R398): a die-to-die link, a fabric port, the host link; none for another. -/
def linkBlock (k : Nat) : Option (Nat × Nat) :=
  if k < 96 then some (5, k)
  else if k < 132 then some (4, 6 * min ((k - 96) / 6) ((k - 96) % 6) + max ((k - 96) / 6) ((k - 96) % 6))
  else if k = 400 then some (7, 0)
  else none

/-- A link that has failed 16 retries of a flit is taken down, with a dusk event (R390); the loss of the host link is a failure of it (R393). -/
def State.retryFailed (s : State) (port tries : Nat) : State :=
  let s1 := match linkBlock port with
    | none => s.linkLost port
    | some (b, i) => (s.linkLost port).log 7 b i tries 0
  if port = 400 then s1.post (.hostLinkFailure 2) else s1

/-- FLIT_CRC_ERROR (R390, R393): the flit is retried, at the host link with a report through AER; after 16 retries the link is taken down. -/
def execFlitCrcError (port tries : Nat) (s : State) : Host.Outcome State Fault Refusal :=
  if tries < 16 then .next (if port = 400 then { s with toHost := s.toHost ++ [.aer 0] } else s) else .next (s.retryFailed port tries)

end Sys2Proof.Machine
end

