-- ==== Sys2Proof/Machine/VReduce.lean ====
section
/-! DEFINITION. Reductions and scans, the long accumulator, softmax, random numbers, text (R107 to R110, R255 to R264). -/

namespace Sys2Proof.Machine

/-! ### Rows of the two-dimensional view (R48, R110) -/

/-- The column count of the view, none in 1-D (R48). -/
def Hart.columns (h : Hart) : Option Nat := if h.dim2 && decide (h.vlc ≥ 1) then some h.vlc else none
/-- The rows of the view: the index range of each (R48). With `vl` = 0 there is none. -/
def Hart.rowsOf (h : Hart) : List (Nat × Nat) :=
  match h.columns with
  | none => if h.vl = 0 then [] else [(0, h.vl)]
  | some c => (upFrom 0 ((h.vl + c - 1) / c)).map (fun r => (r * c, min ((r + 1) * c) h.vl))
/-- Element `e` takes part: active, and at or beyond `vstart`. -/
def Hart.takesPart (h : Hart) (mk e : Nat) : Bool := decide (h.vstart.toNat ≤ e) && h.maskBit mk e
/-- The elements of a row that take part, in order. -/
def Hart.rowActive (h : Hart) (mk : Nat) (r : Nat × Nat) : List Nat := (upFrom r.1 (r.2 - r.1)).filter (h.takesPart mk)
/-- The single subword of element `e` at pack 1. -/
def Hart.elem (h : Hart) (n e : Nat) : Image := (h.unit n e).headD ⟨0, 0⟩

/-- The sum of two elements in the bits class: modulo 2^w, or rounded to odd (R255, R107). -/
def addElem (f : Nat) (x y : Image) : Image × BitVec 5 := if fmtFloat f then addFlt f x y else addInt f x y

/-- A running combination with its flags. -/
def combine (op : Image → Image → Image × BitVec 5) (a : Image × BitVec 5) (y : Image) : Image × BitVec 5 :=
  let r := op a.1 y
  (r.1, a.2 ||| r.2)

/-- The results of the rows written to elements 0, 1, … of vd, absent results skipped; sources were read before (R255). -/
def Hart.writeResults (h : Hart) (d : Nat) (rs : List (Option (Image × BitVec 5))) : Hart :=
  (rs.zip (upFrom 0 rs.length)).foldl (fun h r => match r.1 with
    | none => h
    | some v => (h.setUnit d r.2 [v.1]).raise v.2) (h.dirtyV d)

/-- The issue check of VREDSUM, VREDTREE (R255, R256). -/
def chkReduce (s : State) : Option Trap := firstTrap (chkBits s) s.pack1

/-- One row of VREDSUM (R107, R256). -/
def Hart.redSum (h : Hart) (init : Image) (a : Nat) (es : List Nat) : Image × BitVec 5 :=
  if es.isEmpty then (if fmtFloat h.fmt then oddResult h.fmt ((propagate [init.val h.fmt]).getD (init.val h.fmt, flNone)) else (init, flNone))
  else (es.map (h.elem a)).foldl (combine (addElem h.fmt)) (init, flNone)

/-- VREDSUM (R107, R256). With `vstart` at or beyond a nonzero `vl` no element takes part and each row writes its initial operand: R207 has such an
instruction write no element, R256 has the operand written where no element is active (DESIGN CHOICE, log 56). -/
def execVredsum (_c : Bool) (mk d a b : Nat) (s : State) : Host.Outcome State Fault Refusal :=
  s.gate (chkReduce s) (fun s =>
    .next (s.upd (fun h =>
      (h.writeResults d ((h.rowsOf.zip (upFrom 0 h.vl)).map (fun r => some (h.redSum (h.elem b r.2) a (h.rowActive mk r.1))))).next)))

/-- One level of VREDTREE (R108). -/
def treeLevel (f : Nat) : List (Option Image) → List (Option Image) × BitVec 5
  | some x :: some y :: r =>
    let v := addElem f x y
    let t := treeLevel f r
    (some v.1 :: t.1, v.2 ||| t.2)
  | x :: y :: r =>
    let t := treeLevel f r
    ((match x with
      | none => y
      | some v => some v) :: t.1, t.2)
  | r => (r, 0)

/-- The levels until one position remains (R108). -/
def treeRoot (f : Nat) : Nat → List (Option Image) → Option Image × BitVec 5
  | 0, l => (l.headD none, 0)
  | n + 1, l => match l with
    | [] => (none, 0)
    | [x] => (x, 0)
    | l => let r := treeLevel f l
      let t := treeRoot f n r.1
      (t.1, r.2 ||| t.2)

/-- One row of VREDTREE (R108). -/
def Hart.redTree (h : Hart) (init : Image) (a mk : Nat) (r : Nat × Nat) : Image × BitVec 5 :=
  let w := (upFrom r.1 (r.2 - r.1)).map (fun e => if h.takesPart mk e then some (h.elem a e) else none)
  match treeRoot h.fmt 13 w with
  | (none, fl) => (init, fl)
  | (some v, fl) => let q := addElem h.fmt init v
    (q.1, fl ||| q.2)

/-- VREDTREE (R108, R256); with `vstart` at or beyond a nonzero `vl` as VREDSUM (DESIGN CHOICE, log 56). -/
def execVredtree (_c : Bool) (mk d a b : Nat) (s : State) : Host.Outcome State Fault Refusal :=
  s.gate (chkReduce s) (fun s =>
    .next (s.upd (fun h =>
      (h.writeResults d ((h.rowsOf.zip (upFrom 0 h.vl)).map (fun r => some (h.redTree (h.elem b r.2) a mk r.1)))).next)))

/-- The combination of VRED (R257): 0 min, 1 max, 2 and, 3 or. -/
def redOp (f o : Nat) : Image → Image → Image × BitVec 5 :=
  match o with
  | 0 => if fmtFloat f then minFlt f else minInt f
  | 1 => if fmtFloat f then maxFlt f else maxInt f
  | 2 => andBits f
  | _ => orBits f

/-- The issue check of VRED and VSCAN (R255, R257, R258): `and` and `or` accept the integer class only. -/
def chkRed (o : Nat) (s : State) : Option Trap := firstTrap (if o ≥ 2 then chkInt s else chkBits s) s.pack1

/-- A combination of elements without an initial operand. -/
def foldElems (op : Image → Image → Image × BitVec 5) : List Image → Option (Image × BitVec 5)
  | [] => none
  | x :: r => some (r.foldl (combine op) (x, flNone))

/-- VRED (R257). -/
def execVred (_c : Bool) (mk d a o : Nat) (s : State) : Host.Outcome State Fault Refusal :=
  s.gate (chkRed o s) (fun s =>
    .next (s.upd (fun h =>
      (h.writeResults d (h.rowsOf.map (fun r => foldElems (redOp h.fmt o) ((h.rowActive mk r).map (h.elem a))))).next)))

/-- The combination of VSCAN (R258): 0 add, 1 max, 2 and, 3 or. -/
def scanOp (f o : Nat) : Image → Image → Image × BitVec 5 := if o = 0 then addElem f else redOp f o

/-- A scan: the elements with their running values, and the flags. -/
def scanElems (op : Image → Image → Image × BitVec 5) : Option Image → List (Nat × Image) → List (Nat × Image) × BitVec 5
  | _, [] => ([], 0)
  | none, (e, x) :: r => let t := scanElems op (some x) r
    ((e, x) :: t.1, t.2)
  | some a, (e, x) :: r =>
    let v := op a x
    let t := scanElems op (some v.1) r
    ((e, v.1) :: t.1, v.2 ||| t.2)

/-- VSCAN (R258). -/
def execVscan (_c : Bool) (mk d a o : Nat) (s : State) : Host.Outcome State Fault Refusal :=
  s.gate (chkRed o s) (fun s =>
    .next (s.upd (fun h =>
      let rs := h.rowsOf.map (fun r => scanElems (scanOp h.fmt o) none ((h.rowActive mk r).map (fun e => (e, h.elem a e))))
      (rs.foldl (fun h r => (r.1.foldl (fun h p => h.setUnit d p.1 [p.2]) h).raise r.2) (h.dirtyV d)).next)))

/-- VFFS (R259): any `vtype`, `vstart` ignored. -/
def execVffs (_c : Bool) (mk d a : Nat) (s : State) : Host.Outcome State Fault Refusal :=
  .next (s.upd (fun h =>
    (h.setX d (match (upFrom 0 h.vl).find? (fun e => h.maskBit a e && h.maskBit mk e) with
      | none => BitVec.allOnes 64
      | some e => BitVec.ofNat 64 e)).next))

/-! ### The long accumulator (R109, R260) -/

/-- The accumulator's number at 2^(−151). -/
def LongAcc.int (l : LongAcc) : Int := l.bits.toInt

/-- A value added exactly; the indicators are sticky, and a magnitude that reaches 2^232 overflows with OF (R109). -/
def LongAcc.add (l : LongAcc) (v : Val) : LongAcc × BitVec 5 :=
  match v with
  | .nan _ sig _ => ({ l with nan := true }, flIf sig flNV)
  | .inf true _ => ({ l with ninf := true }, flNone)
  | .inf false _ => ({ l with pinf := true }, flNone)
  | .num n m e =>
    let k : Int := (scaleTo m e (-151)).1
    let t := l.int + (if n then -k else k)
    let o := decide ((2 : Int) ^ 383 ≤ t) || decide (t ≤ -((2 : Int) ^ 383))
    ({ l with bits := BitVec.ofInt 384 t, ovf := l.ovf || o }, flIf o flOF)

/-- The exact value of scaled element `k` of bank `q` (R88, R89). -/
def Hart.scaled (h : Hart) (q k : Nat) (v : Val) : Val :=
  let sc := (h.getQ q (k / 2 ^ blockShift h.blen % 512)).toNat
  if sc = 255 then .canon
  else match v with
    | .num n m e => .num n m (e + sc - 127)
    | v => v

/-- VREDX accepts the format (R260). -/
def redxFmt (f : Nat) : Bool := f = 0 || f = 2 || f = 3 || f = 4 || f = 5 || f = 10 || f = 11

/-- A nonzero bank of VREDX with an unscaled format is a reserved encoding (R189, R260). -/
def Hart.redxReserved (h : Hart) (q : Nat) : Bool := q ≠ 0 && !(h.fmt = 10 || h.fmt = 11)

/-- The issue check of VREDX (R260). -/
def chkVredx (q : Nat) (s : State) : Option Trap :=
  if s.hart.redxReserved q then some (.of 0x03 s.hart.cur.word)
  else firstTrap s.needVtype (s.illegalIf (!redxFmt s.hart.fmt))

/-- The wait of an instruction on earlier QLDs into bank `q` (R235). -/
def Hart.waitBank (h : Hart) (q : Nat) : Except Stop Unit := h.waitFor (fun o => o.kind = .qld && o.d = q)

/-- VREDX (R260); a scaled format waits for fills of its bank (R235). -/
def execVredx (_c : Bool) (mk a q : Nat) (s : State) : Host.Outcome State Fault Refusal :=
  s.gate (chkVredx q s) (fun s =>
    match (if fmtScaled s.hart.fmt then s.hart.waitBank q else .ok ()) with
    | .error e => s.halt e
    | .ok _ => .next (s.upd (fun h =>
      let vs := (h.active mk).flatMap (fun e =>
        ((h.unit a e).zip (upFrom (e * h.pack) h.pack)).map (fun p =>
          if fmtScaled h.fmt then h.scaled q p.2 (p.1.val h.fmt) else p.1.val h.fmt))
      let r := vs.foldl (fun (r : LongAcc × BitVec 5) v => let t := r.1.add v
        (t.1, r.2 ||| t.2)) (h.long, 0)
      ({ h with long := r.1 }.raise r.2).next)))

/-- The accumulator's value (R109). -/
def LongAcc.val (l : LongAcc) : Val :=
  if l.nan || l.ovf || (l.pinf && l.ninf) then .canon
  else if l.pinf then .inf false false
  else if l.ninf then .inf true false
  else signedVal l.int (-151) false

/-- LAGET (R260). -/
def execLaget (_c : Bool) (d f : Nat) (s : State) : Host.Outcome State Fault Refusal :=
  let r := roundOdd s.hart.long.val f
  .next (s.upd (fun h => ((h.setF d r.1.toF).raise r.2).next))

/-- LACLR (R260). -/
def execLaclr (_c : Bool) (s : State) : Host.Outcome State Fault Refusal :=
  .next (s.upd (fun h => { h with long := ⟨0, false, false, false, false⟩ }.next))

/-! ### Softmax (R261) -/

/-- The issue check of SMX (R261). -/
def chkSmx (s : State) : Option Trap := firstTrap s.needVtype (s.illegalIf (s.hart.fmt > 3 || s.hart.pack > 1))

/-- The larger of the running maximum and an element, a NaN winning (R261). -/
def smxMax (f : Nat) (a : Image × BitVec 5) (y : Image) : Image × BitVec 5 :=
  let v := a.1.val f
  let w := y.val f
  let fl := a.2 ||| flIf (v.sig || w.sig) flNV
  if v.isNan then ((roundOdd v f).1, fl)
  else if w.isNan then ((roundOdd w f).1, fl)
  else (if cmpVal v w = some .lt then y else a.1, fl)

/-- One exponential of SMX: exactly 1 when the operand equals the maximum, else ro(exp(x − mn), F) with the flags of the difference. -/
def smxExp (f : Nat) (x mn : Image) : Image × BitVec 5 :=
  if cmpVal (x.val f) (mn.val f) = some .eq then ((roundOdd (.num false 1 0) f).1, flNone)
  else
    let df := subVal (x.val f) (mn.val f)
    let r := oddResult f (expVal df.1)
    (r.1, df.2 ||| r.2)

/-- SMX (R261). -/
def execSmx (_c : Bool) (mk d a b : Nat) (s : State) : Host.Outcome State Fault Refusal :=
  s.gate (chkSmx s) (fun s =>
    let h := s.hart
    let f := h.fmt
    let es := h.active mk
    let vs := es.map (h.elem a)
    let mo := h.imgF b f
    let so := h.imgF (b + 1) f
    let mn := vs.foldl (smxMax f) (mo, flNone)
    let c := smxExp f mo mn.1
    let xs := vs.map (fun v => smxExp f v mn.1)
    let s0 := mulFlt f so c.1
    let sm := xs.foldl (fun r x => combine (addFlt f) (r.1, r.2 ||| x.2) x.1) (s0.1, mn.2 ||| c.2 ||| s0.2)
    .next (s.upd (fun h =>
      let h1 := (es.zip xs).foldl (fun h p => h.setUnit d p.1 [p.2.1]) (h.dirtyV d)
      ((((h1.setF b mn.1.toF).setF (b + 1) sm.1.toF).setF (b + 2) c.1.toF).raise sm.2).next)))

/-! ### Random numbers (R262) -/

/-- The words of Philox-4x32-10 for a counter and key (R262). -/
def philox : Nat → Nat × Nat × Nat × Nat → Nat → Nat → Nat × Nat × Nat × Nat
  | 0, c, _, _ => c
  | r + 1, (c0, c1, c2, c3), k0, k1 =>
    let p := 0xd2511f53 * c0
    let q := 0xcd9e8d57 * c2
    philox r (q / 2 ^ 32 ^^^ c1 ^^^ k0, q % 2 ^ 32, p / 2 ^ 32 ^^^ c3 ^^^ k1, p % 2 ^ 32)
      ((k0 + 0x9e3779b9) % 2 ^ 32) ((k1 + 0xbb67ae85) % 2 ^ 32)

/-- Word `w` of four. -/
def pickWord (c : Nat × Nat × Nat × Nat) (w : Nat) : Nat :=
  match w with
  | 0 => c.1
  | 1 => c.2.1
  | 2 => c.2.2.1
  | _ => c.2.2.2

/-- The issue check of VRNG (R262). -/
def chkVrng (s : State) : Option Trap := firstTrap s.needVtype (s.illegalIf (!(s.hart.fmt = 18 || s.hart.fmt = 22)))

/-- VRNG (R262). -/
def execVrng (_c : Bool) (mk d a w : Nat) (s : State) : Host.Outcome State Fault Refusal :=
  s.gate (chkVrng s) (fun s =>
    s.elementwise mk d (fun h e =>
      let n := ((h.getX a).toNat + e) % 2 ^ 64
      let c := philox 10 (n % 2 ^ 32, n / 2 ^ 32, h.rngkeyh.toNat % 2 ^ 32, h.rngkeyh.toNat / 2 ^ 32)
        (h.rngkey.toNat % 2 ^ 32) (h.rngkey.toNat / 2 ^ 32)
      ([⟨pickWord c w, 0⟩], flNone)))

/-! ### Text (R263, R264) -/

/-- The class of a byte of UTF-8 (R263). -/
def utfClass (b : Nat) : Nat :=
  if b < 0x80 then 1 else if b < 0xc0 then 0 else if b < 0xc2 then 0xff else if b < 0xe0 then 2 else if b < 0xf0 then 3
  else if b < 0xf5 then 4 else 0xff

/-- The issue check of VUTF (R263). -/
def chkVutf (s : State) : Option Trap := firstTrap s.needVtype (s.illegalIf (decide (s.hart.fmt ≠ 20)))

/-- VUTF (R263). -/
def execVutf (_c : Bool) (mk d a : Nat) (s : State) : Host.Outcome State Fault Refusal :=
  s.gate (chkVutf s) (fun s => s.unary mk d a (fun _ i => (⟨utfClass i.enc, 0⟩, flNone)))

/-- The issue check of VTBL (R264). -/
def chkVtbl (s : State) : Option Trap :=
  firstTrap s.needVtype (s.illegalIf (!(fmtInt s.hart.fmt && !fmtWide s.hart.fmt)))

/-- Entry `i` of `n` bytes of the table at `xb`, in the hart's own scratchpad (R264). -/
def State.tableEntry (s : State) (xb n i : Nat) : Except Stop (State × Nat) :=
  let a := (xb + i * n) % 2 ^ 64
  let bad (c : Nat) : Except Stop (State × Nat) := .error (.trap (.mem c 1 a))
  if xb % n ≠ 0 then bad 0x08
  else if !canonical xb || (inAperture xb && decide (192 ≤ bits xb 28 21) && decide (bits xb 28 21 < 255)) then bad 0x09
  else if !inAperture xb || bits xb 28 21 ≠ 255 || bits xb 20 0 + i * n + n > 2 ^ 21 then bad 0x0d
  else s.load a n n 1 true

/-- One more entry of a slot. -/
def State.nextEntry (xb n : Nat) (r : State × List Image) (i : Image) : Except Stop (State × List Image) :=
  match r.1.tableEntry xb n i.enc with
  | .error x => .error x
  | .ok (s1, v) => .ok (s1, r.2 ++ [⟨v, 0⟩])

/-- VTBL (R264). -/
def execVtbl (_c : Bool) (mk d a b : Nat) (s : State) : Host.Outcome State Fault Refusal :=
  s.gate (chkVtbl s) (fun s =>
    let xb := (s.hart.getX b).toNat
    let n := fmtWidth s.hart.fmt / 8
    s.finishUnits (match s.eachUnit (fun s e => match (s.hart.unit a e).foldlM (State.nextEntry xb n) (s, []) with
        | .error x => .error x
        | .ok (s1, is) => .ok (s1.upd (·.setUnit d e is))) (s.hart.active mk) with
      | (s1, none) => (s1.upd (·.dirtyV d), none)
      | r => r))

end Sys2Proof.Machine
end

