-- ==== Sys2Proof/Machine/Tile.lean ====
section
/-! DEFINITION. Tensor identifiers, windows, issue of copy-engine operations, and the cell array (R104 to R106, R235, R278 to R298). -/

namespace Sys2Proof.Machine

/-! ### Identifiers and scales -/

/-- TIDSET refuses the entry (R124). Whether a non-canonical `sbase` is refused for a format that does not use it is open: the model refuses it
for scaled formats only (DESIGN CHOICE, log 58). -/
def entryRefused (e : BitVec 512) : Bool :=
  let ctl := entryCtl e
  let f := entryFmt e
  !fmtListed f || f = 9 || bits ctl 63 24 ≠ 0 || bits ctl 18 12 ≠ 0 || bits ctl 7 5 ≠ 0 || bits ctl 23 21 = 7
    || bits ctl 11 8 > 10 || entryField e 56 8 ≠ 0 || !canonical (entryField e 0 8) || (fmtScaled f && !canonical (entryField e 8 8))
    || (fmtWidth f < 8 && entryField e 32 4 ≠ 0)

/-- TIDSET (R278). -/
def execTidset (_c : Bool) (t a : Nat) (s : State) : Host.Outcome State Fault Refusal :=
  let xa := (s.hart.getX a).toNat
  match s.loadBlock xa 64 8 1 with
  | .error e => s.halt e
  | .ok (s1, v) =>
    if entryRefused (BitVec.ofNat 512 v) then s.trapWith 0x0e xa
    else .next (s1.upd (fun h => (Hart.cure (h.setTid t (BitVec.ofNat 512 v)) 8 t 0).next))

/-- TIDGET (R278). -/
def execTidget (_c : Bool) (t a : Nat) (s : State) : Host.Outcome State Fault Refusal :=
  match s.storeBlock (s.hart.getX a).toNat 8 (leBytes (s.hart.getTid t).toNat 64) with
  | .error e => s.halt e
  | .ok s1 => .next s1.advance

/-- QSET (R280). -/
def execQset (_c : Bool) (d a b : Nat) (s : State) : Host.Outcome State Fault Refusal :=
  match s.hart.waitBank d with
  | .error e => s.halt e
  | .ok _ =>
    let xa := (s.hart.getX a).toNat
    let xb := (s.hart.getX b).toNat
    .next (s.upd (fun h => ((upFrom 0 8).foldl (fun h i => h.setQ d ((xa + i) % 512) (BitVec.ofNat 8 (xb / 2 ^ (8 * i)))) h).next))

/-! ### Windows -/

/-- Rows of a window meet rows [a, a + b). -/
def Window.meets (w : Window) (a b : Nat) : Bool := decide (0 < w.rows) && decide (0 < b) && decide (a < w.row + w.rows) && decide (w.row < a + b)

/-- The issue check of WSET (R281). -/
def chkWset (d a b : Nat) (s : State) : Option Trap :=
  let h := s.hart
  let xa := (h.getX a).toNat
  let xb := (h.getX b).toNat
  let other := h.fq.any (fun w => w.1 ≠ d && w.2.meets xa xb) || h.sw.any (fun w => w.1 + 16 ≠ d && w.2.meets xa xb)
  if xb ≠ 0 && (decide (xa + xb > h.sprows) || other) then some (.of 0x0e xa) else none

/-- The hart without the fills of feed queue `d` that wait only for room in its window (R281). -/
def Hart.dropFills (h : Hart) (d : Nat) : Hart :=
  let fault := (h.upTo (fun o => h.fills o d)).any (·.fault.isSome)
  if d < 4 && (h.window d).rows > 0 && (h.window d).room = 0 && !fault then { h with engine := h.engine.filter (fun o => !h.fills o d) } else h

/-- Operations that stood behind `n` abandoned ones can go on (R287). -/
def State.freed (s : State) (n : Nat) : State :=
  if n = 0 || s.hart.engine.isEmpty then s else s.post (.copyEngineOperation s.hart.hid)

/-- WSET (R281): a fill of a feed queue that waits only for room is abandoned. -/
def execWset (_c : Bool) (d a b : Nat) (s : State) : Host.Outcome State Fault Refusal :=
  s.gate (chkWset d a b s) (fun s =>
    let h := s.hart.dropFills d
    let kept (k : Hart) : State := State.freed { s with hart := k } (s.hart.engine.length - h.engine.length)
    match h.waitFor (fun o => h.fills o d || h.drains o d) with
    | .error .stall => .next (kept h).stalled
    | .error e => s.halt e
    | .ok _ =>
      let xa := (h.getX a).toNat
      let xb := (h.getX b).toNat
      .next (kept (h.setWindow d (if xb = 0 then Window.none else ⟨xa, xb, 0, 0⟩)).next))

/-! ### Issue of engine operations -/

/-- An operation of this member with its entry and `vtype` fields as captured at issue (R279, R288). -/
def State.newOp (s : State) (kind : EngineKind) (tcode a b d : Nat) (entry : BitVec 512) (desc : Bool) : EngineOp :=
  ⟨kind, s.hart.pc.toNat, tcode, a, b, d, entry, s.hart.fmt, s.hart.mode, s.hart.sat, desc, 0, 0, none, []⟩

/-- A T code names a declared feed queue or staging window. -/
def Hart.declared (h : Hart) (t : Nat) : Bool := (h.window t).rows > 0

/-- The issue check of TLD (R283). -/
def chkTld (d : Nat) (s : State) : Option Trap := s.illegalIf (!s.hart.declared d)

/-- TLD (R283). -/
def execTld (_c : Bool) (t d a : Nat) (s : State) : Host.Outcome State Fault Refusal :=
  s.gate (chkTld d s) (fun s => .next (s.issueOp (s.newOp .tld d (s.hart.getX a).toNat 0 0 (s.hart.getTid t) false)).advance)

/-- The issue check of TST (R78, R284). -/
def chkTst (d : Nat) (s : State) : Option Trap :=
  if d ≥ 8 && d < 16 then firstTrap s.needVtype (s.illegalIf (d - 8 ≥ s.hart.tiles)) else s.illegalIf (!s.hart.declared d)

/-- TST (R284). -/
def execTst (_c : Bool) (t d a : Nat) (s : State) : Host.Outcome State Fault Refusal :=
  s.gate (chkTst d s) (fun s => .next (s.issueOp (s.newOp .tst d (s.hart.getX a).toNat 0 0 (s.hart.getTid t) false)).advance)

/-- The issue check of BCOPY (R285); `g` is `dt`. -/
def chkBcopy (g d b : Nat) (s : State) : Option Trap :=
  let n := (s.hart.getX b).toNat
  if g = 0 then none
  else if !s.hart.declared d then s.illegal
  else if d < 4 then (if n % 4 ≠ 0 then some (.of 0x0e n) else none)
  else if n > 256 * (s.hart.window d).rows then some (.of 0x0e n) else none

/-- The direction that BCOPY fixes at issue: descending when the ranges overlap and the destination begins above (R285). -/
def descends (src dst n : Nat) : Bool := decide (src < dst) && decide (dst < src + n)

/-- BCOPY (R285). -/
def execBcopy (_c : Bool) (g d a b : Nat) (s : State) : Host.Outcome State Fault Refusal :=
  s.gate (chkBcopy g d b s) (fun s =>
    let src := (s.hart.getX a).toNat
    let n := (s.hart.getX b).toNat
    let o := if g = 0 then
        let dst := (s.hart.getX d).toNat
        s.newOp .bcopy 0 src n dst 0 (descends src dst n)
      else s.newOp .bcopyTile d src n 0 0 (d ≥ 4 && descends src (ownAddr (256 * (s.hart.window d).row)) n)
    .next (s.issueOp o).advance)

/-- The issue check of QLD (R235). -/
def chkQld (t : Nat) (s : State) : Option Trap := s.illegalIf (!fmtScaled (entryFmt (s.hart.getTid t)))

/-- QLD (R235). -/
def execQld (_c : Bool) (t d a : Nat) (s : State) : Host.Outcome State Fault Refusal :=
  s.gate (chkQld t s) (fun s => .next (s.issueOp (s.newOp .qld 32 (s.hart.getX a).toNat 0 d (s.hart.getTid t) false)).advance)

/-- The issue check of TDIGEST (R286). -/
def chkTdigest (t a : Nat) (s : State) : Option Trap :=
  if bits (entryCtl (s.hart.getTid t)) 19 19 = 0 then s.illegal
  else if (s.hart.getX a).toNat % 8 ≠ 0 then some (.mem 0x08 6 (s.hart.getX a).toNat) else none

/-- TDIGEST (R286). -/
def execTdigest (_c : Bool) (t a : Nat) (s : State) : Host.Outcome State Fault Refusal :=
  s.gate (chkTdigest t a s) (fun s =>
    .next (s.issueOp (s.newOp .tdigest 32 0 0 (s.hart.getX a).toNat (s.hart.getTid t) false)).advance)

/-! ### Cells (R104, R106, R292) -/

/-- A zero in the e part. -/
def cellZero : Slot := Slot.zero
/-- An `f32` image as a slot. -/
def f32Slot (i : Image) : Slot := slotOfUnit 0 1 [i]
/-- The value of a slot read as an `f32` image. -/
def f32Val (s : Slot) : Val := (subImage 0 1 s 0).val 0

/-- The floating-point update of R104 by group value `t`. A cell whose s is a NaN stays as it is and raises nothing, a signalling one too: R104 keeps
the NaN, R95 has a signalling operand set NV (DESIGN CHOICE, log 25). -/
def cellMac (c : AccCell) (t : Val) : AccCell × BitVec 5 :=
  let sv := f32Val c.s
  match sv, t with
  | .num _ _ _, .num _ _ _ =>
    let sum := (sumVal sv t).1
    let r := rne32 sum
    match r.1.val 0 with
    | .num _ _ _ =>
      let d := (subVal sum (r.1.val 0)).1
      let q := roundOdd (sumVal (f32Val c.e) d).1 0
      (⟨f32Slot r.1, f32Slot q.1⟩, q.2)
    | _ => ({ c with s := f32Slot r.1 }, r.2)
  | .nan _ _ _, _ => (c, flNone)
  | _, _ =>
    let r := sumVal sv t
    ({ c with s := f32Slot (roundOdd r.1 0).1 }, r.2)

/-- The integer update of R106. -/
def cellInt (c : AccCell) (t : Int) : AccCell × BitVec 5 :=
  let v := c.s.data.toInt + t
  (⟨⟨BitVec.ofInt 32 v, 0⟩, cellZero⟩, flIf (decide (v < -(2 : Int) ^ 31) || decide ((2 : Int) ^ 31 ≤ v)) flOF)

/-- The smaller or larger of two values under R101, a NaN propagating with the first first; the first of two equals. -/
def pickVal (mx : Bool) (a b : Val) : Val × BitVec 5 :=
  match propagate [a, b] with
  | some r => r
  | none => (match cmpVal a b with
    | some .lt => if mx then b else a
    | some .gt => if mx then a else b
    | _ => a, flNone)

/-- The update of a min or max semiring by group value `t` (R292). -/
def cellPick (mx : Bool) (c : AccCell) (t : Val) : AccCell × BitVec 5 :=
  let r := pickVal mx (f32Val c.s) t
  let q := rne32 r.1
  (⟨f32Slot q.1, cellZero⟩, r.2 ||| q.2)

/-- The exact sum of products without NaN operands. -/
def dotSum (ps : List (Val × Val)) : Val × BitVec 5 :=
  match ps.map (fun p => timesVal p.1 p.2) with
  | [] => (.zero false, flNone)
  | p :: r => r.foldl (fun a q => let t := sumVal a.1 q.1
      (t.1, a.2 ||| q.2 ||| t.2)) p

/-- The exact sum of products Σ x_h × y_h with its NaN rules: an operand NaN propagates in the order x_0, y_0, x_1, … (R95, R103); an invalid
operation among the other products sets NV beside it (R292, log 25). -/
def dotVal (ps : List (Val × Val)) : Val × BitVec 5 :=
  match propagate (ps.flatMap (fun p => [p.1, p.2])) with
  | some r => (r.1, r.2 ||| (dotSum (ps.filter (fun p => !p.1.isNan && !p.2.isNan))).2)
  | none => dotSum ps

/-- The min or max over h of a combination of x_h and y_h, in ascending h (R292). Where a lower h generates a NaN and a higher h has a NaN operand, the
canonical NaN of the lower h is the result: R95 and R292 do not say which (DESIGN CHOICE, log 25). -/
def pickOver (mx : Bool) (f : Val → Val → Val × BitVec 5) (ps : List (Val × Val)) : Val × BitVec 5 :=
  match ps.map (fun p => f p.1 p.2) with
  | [] => (.zero false, flNone)
  | p :: r => r.foldl (fun a q => let t := pickVal mx a.1 q.1
      (t.1, a.2 ||| q.2 ||| t.2)) p

/-- The element pair of a product as integers. -/
def dotInt (f : Nat) (xs ys : List Image) : Int := (xs.zip ys).foldl (fun a p => a + intOf f p.1.enc * intOf f p.2.enc) 0

/-- The update of a cell by one K-group (R292): operand subwords with the values they decode to. -/
def cellUpdate (sr f : Nat) (c : AccCell) (xs ys : List Image) (xv yv : List Val) : AccCell × BitVec 5 :=
  if sr = 0 then
    if fmtInt f then cellInt c (dotInt f xs ys)
    else let t := dotVal (xv.zip yv)
      let r := cellMac c t.1
      (r.1, t.2 ||| r.2)
  else if sr = 4 then
    (⟨⟨c.s.data ||| BitVec.ofNat 32 ((xs.zip ys).foldl (fun a p => a ||| (p.1.enc &&& p.2.enc)) 0), 0⟩, cellZero⟩, flNone)
  else
    let t := if sr = 1 then pickOver false sumVal (xv.zip yv) else if sr = 2 then pickOver true sumVal (xv.zip yv)
      else pickOver true mulVal (xv.zip yv)
    let r := cellPick (decide (sr ≠ 1)) c t.1
    (r.1, t.2 ||| r.2)

/-! ### OPA and TMM -/

/-- The semiring and format pairs of R290. -/
def opaPair (sr f p : Nat) : Bool :=
  if sr = 0 then
    ((f = 2 || f = 3) && p = 2) || ((f = 4 || f = 5 || f = 10 || f = 11 || f = 7 || f = 8 || f = 16 || f = 20) && p = 4)
      || ((f = 6 || f = 12) && p = 8)
  else if sr ≤ 3 then (f = 2 || f = 3) && p = 2
  else (f = 16 || f = 20) && p = 4

/-- The checks of R290 and R291 that OPA and TMM share: the accumulator `n` and the queues they name. -/
def opaIllegal (h : Hart) (n : Nat) (qs : List Nat) : Bool :=
  !opaPair h.sr h.fmt h.pack || n ≥ h.tiles || qs.any (fun q => !h.declared q) || h.vl % 64 ≠ 0 || h.vstart ≠ 0

/-- The queues an OPA names: `fa` and `fb` say whether a and b are queues (R195: d[3] and d[4]). -/
def opaQueues (a b fa fb : Nat) : List Nat := (if fa = 1 then [a] else []) ++ (if fb = 1 then [b] else [])

/-- The issue check of OPA (R290, R291). -/
def chkOpa (d a b fa fb : Nat) (s : State) : Option Trap :=
  firstTrap s.needVtype (s.illegalIf (opaIllegal s.hart d (opaQueues a b fa fb)))

/-- The slots that the operands take from queue `q`. -/
def slotsTaken (vl q a b fa fb : Nat) : Nat := (if fa = 1 && a = q then vl else 0) + (if fb = 1 && b = q then vl else 0)

/-- The poisoned scratchpad word that a queue read of `n` slots meets (R379). -/
def Hart.queuePoison (h : Hart) (q n : Nat) : Option Nat :=
  let w := h.getFq q
  if h.poison.isEmpty then none
  else ((upFrom w.used n).map w.offset).find? (fun o => h.poison.any (fun p => p.kind = 2 && p.elem = o / 4))

/-- The waits of an OPA step (R119, R289): drains of the accumulator, the scale banks, the slots of its queues. -/
def Hart.opaWait (h : Hart) (n : Nat) (qs : List Nat) (need : Nat → Nat) : Except Stop Unit :=
  match h.waitFor (fun o => h.drains o (8 + n) || (fmtScaled h.fmt && o.kind = .qld && (o.d = 2 * (n % 4) || o.d = 2 * (n % 4) + 1))) with
  | .error e => .error e
  | .ok _ => qs.foldlM (fun _ q =>
      if (h.getFq q).fill < (h.getFq q).used + need q then
        (match h.waitFor (fun o => h.fills o q) with
          | .error e => .error e
          | .ok _ => .error .stall)
      else match h.queuePoison q (need q) with
        | some o => .error (.trap (.of 0x22 (ownAddr o / 128 * 128 + 2)))
        | none => .ok ()) ()

/-- Slot `i` of an operand: of a register, or of the stream from position `base` on, with tail 0b00. -/
def Hart.opaSlot (h : Hart) (r base : Nat) (queue : Bool) (i : Nat) : Slot :=
  if queue then ⟨BitVec.ofNat 32 (h.readScratch ((h.getFq r).offset (base + i)) 4), 0⟩ else h.getSlot r i

/-- The subwords of an operand slot and the values they decode to, with the block scales of bank `q` (R88, R91, R290). -/
def Hart.opaUnit (h : Hart) (sl : Slot) (q pos : Nat) : List Image × List Val :=
  let is := (upFrom 0 h.pack).map (subImage h.fmt h.pack sl)
  (is, (is.zip (upFrom (pos * h.pack) h.pack)).map (fun p =>
    if fmtScaled h.fmt then h.scaled q p.2 (p.1.val h.fmt) else p.1.val h.fmt))

/-- One OPA on the cells, with the queues as they stand: the update of every cell in ascending K, and the flags (R291). `mk` is the mask. -/
def Hart.opaCells (h : Hart) (n mk a b : Nat) (qa qb : Bool) (pa pb : Nat) : Hart :=
  (upFrom 0 (h.vl / 64)).foldl (fun h k =>
    let on := (upFrom 0 64).filter (fun i => h.maskBit mk (64 * k + i))
    let rows := on.map (fun i => (i, h.opaUnit (h.opaSlot a pa qa (64 * k + i)) (2 * (n % 4)) ((if qa then pa else 0) + 64 * k + i)))
    let cols := on.map (fun j => (j, h.opaUnit (h.opaSlot b pb qb (64 * k + j)) (2 * (n % 4) + 1) ((if qb then pb else 0) + 64 * k + j)))
    rows.foldl (fun h r => cols.foldl (fun h c =>
      let u := cellUpdate h.sr h.fmt (h.getAcc n (64 * r.1 + c.1)) r.2.1 c.2.1 r.2.2 c.2.2
      (h.setAcc n (64 * r.1 + c.1) u.1).raise u.2) h) h) h

/-- The poisoned accumulator cell or scale that an OPA step reads, as `tval` (R379). -/
def Hart.opaPoison (h : Hart) (n mk : Nat) (qa qb : Bool) (pa pb : Nat) : Option Nat :=
  let on (k i : Nat) : Bool := h.maskBit mk (64 * k + i)
  let ks := upFrom 0 (h.vl / 64)
  let scale (base e : Nat) : Bool := fmtScaled h.fmt && ks.any (fun k => (upFrom 0 64).any (fun i => on k i
    && (upFrom ((base + 64 * k + i) * h.pack) h.pack).any (fun x => x / 2 ^ blockShift h.blen % 512 = e)))
  let hit (p : Poison) : Bool :=
    (p.kind = 3 && p.num = n && ks.any (fun k => on k (p.elem / 64) && on k (p.elem % 64)))
      || (p.kind = 5 && p.num = 2 * (n % 4) && scale (if qa then pa else 0) p.elem)
      || (p.kind = 5 && p.num = 2 * (n % 4) + 1 && scale (if qb then pb else 0) p.elem)
  if h.poison.isEmpty then none else (h.poison.find? hit).map (fun p => p.kind + 256 * p.num)

/-- The consumed count of a queue advanced by `n`. -/
def Hart.consume (h : Hart) (q n : Nat) : Hart := if n = 0 then h else h.setFq q { h.getFq q with used := (h.getFq q).used + n }

/-- One OPA step: the waits, the cells, the streams (R291). -/
def State.opaStep (s : State) (n mk a b fa fb : Nat) : Except Stop State :=
  let h := s.hart
  let need (q : Nat) : Nat := slotsTaken h.vl q a b fa fb
  match h.opaWait n (opaQueues a b fa fb) need with
  | .error e => .error e
  | .ok _ =>
    let pa := (h.getFq a).used
    let pb := (h.getFq b).used + (if fa = 1 && fb = 1 && a = b then h.vl else 0)
    match h.opaPoison n mk (fa = 1) (fb = 1) pa pb with
    | some v => .error (.trap (.of 0x22 v))
    | none =>
      let h1 := (h.opaCells n mk a b (fa = 1) (fb = 1) pa pb).dirty (48 + n)
      let h2 := (upFrom 0 4).foldl (fun h q => h.consume q (need q)) h1
      let waiting := (upFrom 0 4).filter (fun q => need q > 0 && h.engine.any (fun o => h.fills o q))
      .ok ({ s with hart := h2 }.postAll (waiting.map (fun q => .feedQueueFillResume h.hid q)))

/-- OPA (R291). -/
def execOpa (_c : Bool) (mk d a b y x : Nat) (s : State) : Host.Outcome State Fault Refusal :=
  s.gate (chkOpa d a b x y s) (fun s =>
    match s.opaStep d mk a b x y with
    | .error e => s.halt e
    | .ok s1 => .next s1.advance)

/-- `seqstate` of R295. -/
def seqWord (qa qb acc step pa pb : Nat) : BitVec 64 :=
  BitVec.ofNat 64 (2 ^ 63 + qa % 4 * 2 ^ 61 + qb % 4 * 2 ^ 59 + acc % 8 * 2 ^ 56 + step % 2 ^ 24 * 2 ^ 32 + pa % 2 ^ 16 * 2 ^ 16 + pb % 2 ^ 16)

/-- The step at which a TMM begins, none when `seqstate` does not match it (R294). -/
def Hart.tmmStart (h : Hart) (n qa qb : Nat) : Option Nat :=
  let w := h.seqstate.toNat
  if bits w 63 63 = 0 then some 0
  else if bits w 58 56 = n && bits w 62 61 = qa && bits w 60 59 = qb && bits w 31 16 = (h.getFq qa).used % 2 ^ 16
    && bits w 15 0 = (h.getFq qb).used % 2 ^ 16 then some (bits w 55 32)
  else none

/-- The issue check of TMM (R290, R291, R294): `p` first queue, `q` second. -/
def chkTmm (d a q p : Nat) (s : State) : Option Trap :=
  let h := s.hart
  firstTrap s.needVtype (s.illegalIf (opaIllegal h d [p, q] || (h.getX a).toNat ≥ 2 ^ 24 || (h.tmmStart d p q).isNone))

/-- The steps of a TMM, `left` of them from step `k` on: the state after the last step performed, and the stop with the next step. -/
def State.tmmSteps (n q p : Nat) : Nat → Nat → State → State × Option (Nat × Stop)
  | 0, _, s => (s, none)
  | left + 1, k, s => match s.opaStep n 0 q p 1 1 with
    | .error e => (s, some (k, e))
    | .ok s1 => tmmSteps n q p left (k + 1) s1

/-- The steps that a TMM has still to perform. -/
def Hart.tmmLeft (h : Hart) (d a q p : Nat) : Nat := (h.getX a).toNat - (h.tmmStart d p q).getD 0

/-- TMM (R294, R296): it waits, traps, or stops at the interruption point that the cursor names, between two steps, with `seqstate` set. -/
def execTmm (_c : Bool) (d a q p : Nat) (s : State) : Host.Outcome State Fault Refusal :=
  s.gate (chkTmm d a q p s) (fun s =>
    let k := (s.hart.tmmStart d p q).getD 0
    let left := s.hart.tmmLeft d a q p
    let stops := decide (0 < s.hart.cur.stop) && decide (s.hart.cur.stop < left)
    let held (s : State) (j : Nat) : State :=
      s.upd (fun h => { h with seqstate := seqWord p q d j (h.getFq p).used (h.getFq q).used, vstart := 0 })
    match s.tmmSteps d p q (if stops then s.hart.cur.stop else left) k with
    | (s1, none) => if stops then .next (held s1 (k + s.hart.cur.stop))
      else .next (s1.upd (fun h => { h with seqstate := 0 })).advance
    | (s1, some (j, e)) =>
      let s2 := held s1 j
      match e with
      | .stall => .next (if j = k then s1 else s2).stalled
      | .trap t => s2.trap { t with here := true })

/-! ### Reading, writing, clearing and saving tiles (R297, R298) -/

/-- The wait of an instruction that writes accumulator `n` (R289). -/
def Hart.waitAcc (h : Hart) (n : Nat) : Except Stop Unit := h.waitFor (fun o => h.drains o (8 + n))

/-- The accumulator exists (R36, R297). -/
def chkAcc (n : Nat) (s : State) : Option Trap := s.illegalIf (n ≥ s.hart.tiles)

/-- Accumulator `n` with every cell s = +0, e = +0 (R297). -/
def Hart.clearAcc (h : Hart) (n : Nat) : Hart :=
  { h with
    acc := (h.acc.filter (fun (c : Nat × AccCell) => c.1 % 8 = n)).foldl
      (fun (m : List (Nat × AccCell)) (c : Nat × AccCell) => mapSet AccCell.zero m c.1 AccCell.zero) h.acc
    poison := h.poison.filter (fun p => !(p.kind = 3 && p.num = n)) }

/-- ACLR (R297). -/
def execAclr (_c : Bool) (d : Nat) (s : State) : Host.Outcome State Fault Refusal :=
  s.gate (chkAcc d s) (fun s =>
    match s.hart.waitAcc d with
    | .error e => s.halt e
    | .ok _ => .next (s.upd (fun h => ((h.clearAcc d).dirty (48 + d)).next)))

/-- The issue check of ARDV and AWRV (R297). -/
def chkTileVec (n : Nat) (s : State) : Option Trap :=
  firstTrap s.needVtype (firstTrap (chkAcc n s)
    (s.illegalIf (!(fmtFloat s.hart.fmt || ((s.hart.fmt = 18 || s.hart.fmt = 22) && s.hart.pack = 1)))))

/-- The cell index of subword `j` of element `e` (R297). -/
def cellIndex (xb e p j : Nat) : Nat := (xb + e * p + j) % 4096

/-- ARDV (R104, R297). -/
def execArdv (_c : Bool) (mk d a b : Nat) (s : State) : Host.Outcome State Fault Refusal :=
  s.gate (chkTileVec a s) (fun s =>
    let xb := (s.hart.getX b).toNat
    s.elementwise mk d (fun h e => mapUnit (fun j =>
      let c := h.getAcc a (cellIndex xb e h.pack j.enc)
      if fmtInt h.fmt then (⟨c.s.data.toNat, 0⟩, flNone)
      else oddResult h.fmt ((propagate [c.val]).getD (c.val, flNone))) ((upFrom 0 h.pack).map (fun j => ⟨j, 0⟩))))

/-- A value written into a cell (R297). -/
def cellOf (v : Val) : AccCell × BitVec 5 :=
  match v with
  | .num _ _ _ =>
    let r := rne32 v
    let q := roundOdd (subVal v (r.1.val 0)).1 0
    (⟨f32Slot r.1, f32Slot q.1⟩, r.2)
  | v => (⟨f32Slot (roundOdd v 0).1, cellZero⟩, flNone)

/-- AWRV (R297). -/
def execAwrv (_c : Bool) (mk d a b : Nat) (s : State) : Host.Outcome State Fault Refusal :=
  s.gate (chkTileVec d s) (fun s =>
    match s.hart.waitAcc d with
    | .error e => s.halt e
    | .ok _ =>
      let xb := (s.hart.getX b).toNat
      .next (s.upd (fun h => ((h.active mk).foldl (fun h e =>
        ((h.unit a e).zip (upFrom 0 h.pack)).foldl (fun h i =>
          let r := if fmtInt h.fmt then ((⟨⟨BitVec.ofNat 32 i.1.enc, 0⟩, cellZero⟩ : AccCell), flNone) else cellOf (i.1.val h.fmt)
          (h.setAcc d (cellIndex xb e h.pack i.2) r.1).raise r.2) h) (h.dirty (48 + d))).next)))

/-- The alignment of a tile's block: 4, and 256 in the hart's own scratchpad (R298). -/
def tileAlign (a : Nat) : Nat := if inAperture a && bits a 28 21 = 255 then 256 else 4

/-- The words of a tile's data plane and the bytes of its tail plane: address and length (R102, R298). -/
def tileParts (a : Nat) : List (Nat × Nat) :=
  (upFrom 0 8192).map (fun i => ((a + 4 * i) % 2 ^ 64, 4)) ++ (upFrom 0 8192).map (fun i => ((a + 32768 + i) % 2 ^ 64, 1))

/-- Slot `i` of a tile's image block: s of cell i/2, or its e (R298). -/
def Hart.tileSlot (h : Hart) (n i : Nat) : Slot := if i % 2 = 0 then (h.getAcc n (i / 2)).s else (h.getAcc n (i / 2)).e

/-- The checks of every part of a tile's block before any moves (R298). -/
def State.tileCheck (s : State) (a acc perm : Nat) : Except Stop (List Target) :=
  if a % tileAlign a ≠ 0 then .error (.trap (.mem 0x08 acc a))
  else (tileParts a).mapM (fun p => s.check p.1 p.2 1 acc perm true)

/-- ASAVE (R298). -/
def execAsave (_c : Bool) (d a : Nat) (s : State) : Host.Outcome State Fault Refusal :=
  s.gate (chkAcc d s) (fun s =>
    let pb := (s.hart.getP a).addr.toNat
    match s.waitBytes pb 40960 true with
    | .error e => s.halt e
    | .ok _ => match s.tileCheck pb 2 2 with
      | .error e => s.halt e
      | .ok ts =>
        let o := s.hart
        let bs := (upFrom 0 8192).map (fun i => leBytes (o.tileSlot d i).data.toNat 4)
          ++ (upFrom 0 8192).map (fun i => leBytes (o.tileSlot d i).tail.toNat 1)
        match ((tileParts pb).zip (ts.zip bs)).foldlM (fun s p => (s.note p.1.1 p.2.1).putTarget p.1.1 p.2.2 false p.2.1) s with
        | .error e => s.halt e
        | .ok s1 => .next s1.advance)

/-- ARESTORE (R298). -/
def execArestore (_c : Bool) (d a : Nat) (s : State) : Host.Outcome State Fault Refusal :=
  s.gate (chkAcc d s) (fun s =>
    let pb := (s.hart.getP a).addr.toNat
    match s.hart.waitAcc d with
    | .error e => s.halt e
    | .ok _ => match s.waitBytes pb 40960 false with
      | .error e => s.halt e
      | .ok _ => match s.tileCheck pb 1 1 with
        | .error e => s.halt e
        | .ok ts => match ((tileParts pb).zip ts).mapM (fun p => s.fetchTarget p.1.1 p.1.2 1 p.2) with
          | .error e => s.halt e
          | .ok vs =>
            let s1 := ((tileParts pb).zip ts).foldl (fun s p => s.note p.1.1 p.2) s
            let slot (i : Nat) : Slot := ⟨BitVec.ofNat 32 (vs.getD i 0), BitVec.ofNat 8 (vs.getD (8192 + i) 0)⟩
            .next (s1.upd (fun h => ((upFrom 0 4096).foldl (fun h c => h.setAcc d c ⟨slot (2 * c), slot (2 * c + 1)⟩)
              (h.dirty (48 + d))).next)))

end Sys2Proof.Machine
end

