-- ==== Sys2Proof/Machine/Context.lean ====
section
/-! DEFINITION. TRET, WAIT, the context area with CTXSAVE and CTXLOAD, TINV, and what a resumed hart keeps (R51, R331 to R334). -/

namespace Sys2Proof.Machine

/-! ### TRET and WAIT (R331) -/

/-- A hart that returns from a handler which held up its arrival at a domain barrier arrives there (R73). -/
def State.lateArrival (s : State) : State := match s.hart.time with
  | none => s
  | some t => if t.late then s.arrive t else s

/-- TRET (R331); the engine retries first what a fault stopped (R288, R367). -/
def execTret (s : State) : Host.Outcome State Fault Refusal :=
  s.gate (chkSystem s) (fun s => .next (s.upd Hart.leaveTrap).retryEngine.lateArrival)

/-- WAIT (R331): returns at once when a source is pending, else the hart is not ready until one is. -/
def execWait (s : State) : Host.Outcome State Fault Refusal :=
  s.gate (chkSystem s) (fun s =>
    .next (s.upd (fun h => { h.step4 with status := if h.asyncSource.isSome then .running else .waiting })))

/-! ### TINV (R334) -/

/-- TINV (R130, R334): the translations of the job's pages that overlap [xa, xa + xb), or all of them. -/
def execTinv (a b : Nat) (s : State) : Host.Outcome State Fault Refusal :=
  s.gate (chkSystem s) (fun s =>
    let xa := (s.hart.getX a).toNat
    let xb := (s.hart.getX b).toNat
    match s.hart.waitAll with
    | .error e => s.halt e
    | .ok _ =>
      let s1 := s.drain
      .next { s1 with xlat := s1.xlat.filter (fun c => !(c.slot = s.hart.slot && (xb = 0 || overlap c.va (2 ^ c.bits) xa xb))) }.advance4)

/-! ### The sections of a context area (R333) -/

/-- The members of a field of `vdirty` that are set. -/
def dirtyOnes (vd lo n : Nat) : List Nat := (upFrom 0 n).filter (fun i => vd / 2 ^ (lo + i) % 2 = 1)

/-- The slots of physical vector register `n` as an image block (R102). -/
def Hart.vBlock (h : Hart) (n : Nat) : List Byte :=
  let sl (i : Nat) : Slot := mapGet Slot.zero h.v (vKey n i)
  (upFrom 0 h.vlmax).flatMap (fun i => leBytes (sl i).data.toNat 4) ++ (upFrom 0 h.vlmax).map (fun i => (sl i).tail)

/-- A tile in the layout of ASAVE (R298). -/
def Hart.accBlock (h : Hart) (n : Nat) : List Byte :=
  (upFrom 0 8192).flatMap (fun i => leBytes (h.tileSlot n i).data.toNat 4) ++ (upFrom 0 8192).map (fun i => (h.tileSlot n i).tail)

/-- A dirty group of registers: the bit map, then each block (R333). -/
def groupBytes (ids : List Nat) (block : Nat → List Byte) : List Byte :=
  leBytes (ids.foldl (fun a i => a + 2 ^ i) 0) 8 ++ ids.flatMap block

/-- Type 1: x1 to x31, pc, f0 to f31, the long accumulator (its indicators in byte 48, log 35). -/
def Hart.section1 (h : Hart) (pc : Nat) : List Byte :=
  (upFrom 1 31).flatMap (fun i => leBytes (h.getX i).toNat 8) ++ leBytes pc 8
    ++ (upFrom 0 32).flatMap (fun i => leBytes ((h.getF i).toNat % 2 ^ 64) 8 ++ leBytes ((h.getF i).toNat / 2 ^ 64) 8)
    ++ leBytes h.long.bits.toNat 48 ++ leBytes (h.long.nan.toNat + 2 * h.long.pinf.toNat + 4 * h.long.ninf.toNat + 8 * h.long.ovf.toNat) 16

/-- The CSRs of section 2, in address order (R333). -/
def ctxCsrs : List Nat := upFrom 0x800 16 ++ upFrom 0x840 8

/-- Type 2: the CSRs. -/
def State.section2 (s : State) : List Byte := ctxCsrs.flatMap (fun c => leBytes (s.readCsr c).toNat 8)

/-- A window as four numbers of 8 bytes (log 35). -/
def windowBytes (w : Window) : List Byte := leBytes w.row 8 ++ leBytes w.rows 8 ++ leBytes w.fill 8 ++ leBytes w.used 8

/-- Type 3: pointers, feed queues, staging windows. -/
def Hart.section3 (h : Hart) : List Byte :=
  (upFrom 0 8).flatMap (fun i => leBytes (h.getP i).addr.toNat 8 ++ leBytes (h.getP i).size 8)
    ++ (upFrom 0 4).flatMap (fun i => windowBytes (h.getFq i)) ++ (upFrom 0 8).flatMap (fun i => windowBytes (h.getSw i))

/-- An index that may be absent. -/
def optBytes (o : Option Nat) : List Byte := leBytes (match o with
  | none => 0xffff
  | some n => n) 2

/-- A partial value. -/
def partialBytes (p : Partial) : List Byte :=
  leBytes p.has.toNat 1 ++ leBytes p.slot.data.toNat 4 ++ leBytes p.slot.tail.toNat 1 ++ optBytes p.cur ++ leBytes p.num 4
    ++ leBytes p.cand 4 ++ leBytes p.flags.toNat 1

/-- Type 11: the tree working state (the model's layout, log 35). -/
def treeBytes (t : TreeState) : List Byte :=
  leBytes t.word 4 ++ leBytes t.vl 4 ++ t.ptr.flatMap optBytes ++ t.val.flatMap partialBytes ++ t.act.flatMap (fun b => leBytes b.toNat 1)

/-- Numbers of 8 bytes each. -/
def numBytes (ns : List Nat) : List Byte := ns.flatMap (fun n => leBytes n 8)

/-- Type 12: the write-combining buffer, its lines by age, and the bytes claimed (the model's layout, log 35). -/
def State.section12 (s : State) : List Byte :=
  let h := s.hart
  let own := s.claims.filter (fun c => c.2 = h.hid)
  numBytes [h.wcb.length, h.wcbAge.length, own.length] ++ h.wcb.flatMap (fun b => numBytes [b.1, b.2.1.toNat + 256 * b.2.2.toNat])
    ++ numBytes h.wcbAge ++ numBytes (own.map (·.1))

/-- Type 13: the pending ordered atomics (log 35). -/
def Hart.section13 (h : Hart) : List Byte :=
  h.pending.flatMap (fun q => numBytes [q.pa, q.va, q.op, q.data, q.tail, q.fmt, q.mode, q.sat.toNat])

/-- The kinds of engine operations as the engine records number them. -/
def engineKinds : List EngineKind := [.tld, .tst, .bcopy, .bcopyTile, .qld, .tdigest, .mput]

/-- An engine record: 184 bytes, then the count and the numbers of what the operation has read of a unit that it has not moved whole (R288; log 35). -/
def engineRecord (o : EngineOp) : List Byte :=
  numBytes [engineKinds.idxOf o.kind, o.pc, o.tcode, o.a, o.b, o.d, o.fmt, o.mode, o.sat.toNat, o.desc.toNat, o.done, o.flags.toNat,
    o.fault.isSome.toNat, (o.fault.getD (0, 0)).1, (o.fault.getD (0, 0)).2] ++ leBytes o.entry.toNat 64 ++ numBytes (o.got.length :: o.got)

/-- The sections of the hart's context with their types, ascending, `pc` being the address at which it goes on; with `whole`, those that only a
pre-emption writes too (R332, R333). -/
def State.sections (s : State) (pc : Nat) (whole : Bool) : List (Nat × List Byte) :=
  let h := s.hart
  let vd := h.vdirty.toNat
  let group (t lo n : Nat) (block : Nat → List Byte) : List (Nat × List Byte) :=
    if (dirtyOnes vd lo n).isEmpty then [] else [(t, groupBytes (dirtyOnes vd lo n) block)]
  [(1, h.section1 pc), (2, s.section2), (3, h.section3),
   (4, (upFrom 0 8).flatMap (fun q => (upFrom 0 512).map (h.getQ q))), (5, (upFrom 0 256).flatMap (fun t => leBytes (h.getTid t).toNat 64)),
   (6, (upFrom 0 (256 * h.sprows)).map (mapGet 0 h.scratch))]
    ++ group 7 0 32 h.vBlock ++ group 8 32 8 (fun i => leBytes (mapGet 0 h.m i).toNat 512)
    ++ group 9 40 8 (fun i => (upFrom 0 4096).flatMap (fun e => leBytes (h.getG i e).toNat 2)) ++ group 10 48 8 h.accBlock
    ++ (if vd / 2 ^ 56 % 2 = 1 then [(11, treeBytes (h.tree.getD ⟨0, 0, [], [], []⟩))] else [])
    ++ (if whole then [(12, s.section12), (13, h.section13), (14, h.engine.flatMap engineRecord)] else [])

/-- A section with its header (R333). -/
def sectionBytes (p : Nat × List Byte) : List Byte := leBytes p.1 4 ++ leBytes 0 4 ++ leBytes p.2.length 8 ++ p.2

/-- The whole area (R333). -/
def State.areaBytes (s : State) (pc : Nat) (whole : Bool) : List Byte :=
  let body := (s.sections pc whole).flatMap sectionBytes
  leBytes 1 4 ++ leBytes (s.sections pc whole).length 4 ++ leBytes (64 + body.length) 8 ++ leBytes s.hart.poolpart.toNat 8
    ++ List.replicate 40 0 ++ body

/-! ### Reading an area -/

/-- The sections of an area's body, of types up to `top`: type and content; none when a header is malformed (R333). -/
def parseSections (top : Nat) : Nat → Nat → List Byte → Option (List (Nat × List Byte))
  | 0, _, _ => none
  | fuel + 1, last, bs =>
    if bs.isEmpty then some []
    else
      let t := leNat (bs.take 4)
      let n := leNat ((bs.drop 8).take 8)
      if t ≤ last || t > top || leNat ((bs.drop 4).take 4) ≠ 0 || bs.length < 16 + n then none
      else (parseSections top fuel t (bs.drop (16 + n))).map (fun r => (t, (bs.drop 16).take n) :: r)

/-- Bits set in the bit map of a group. -/
def mapOnes (bs : List Byte) : List Nat := let v := leNat (bs.take 8)
  (upFrom 0 64).filter (fun i => v / 2 ^ i % 2 = 1)

/-- The length that a section of type `t` must have, by its content and the hart's partition (R333). -/
def Hart.sectionOk (h : Hart) (p : Nat × List Byte) : Bool :=
  let n := p.2.length
  let group (unit bits : Nat) : Bool := n = 8 + (mapOnes p.2).length * unit && decide (8 ≤ n) && (mapOnes p.2).all (fun i => decide (i < bits))
  match p.1 with
  | 1 => n = 832
  | 2 => n = 192
  | 3 => n = 512
  | 4 => n = 4096
  | 5 => n = 16384
  | 6 => n = 256 * h.sprows
  | 7 => group (5 * h.vlmax) 32
  | 8 => group 512 8
  | 9 => group 8192 8
  | 10 => group 40960 h.tiles
  | 11 => decide (8 ≤ n) && n = 8 + leNat ((p.2.drop 4).take 4) * 20
  | _ => false

/-- The sections of an area that is accepted for the hart (R332): `ver` 1, its `part`, no section of types 12 to 14, every header well
formed, sections 1 to 6 present. -/
def Hart.acceptArea (h : Hart) (bs : List Byte) : Option (List (Nat × List Byte)) :=
  let len := leNat ((bs.drop 8).take 8)
  if leNat (bs.take 4) ≠ 1 || len ≠ bs.length || leNat ((bs.drop 16).take 8) ≠ h.poolpart.toNat || leNat ((bs.drop 24).take 40) ≠ 0 then none
  else match parseSections 11 16 0 (bs.drop 64) with
    | none => none
    | some ss =>
      if ss.length = leNat ((bs.drop 4).take 4) && ss.all h.sectionOk && (ss.take 6).map (·.1) = [1, 2, 3, 4, 5, 6] then some ss else none

/-- The content of a section, empty when it is absent. -/
def sectionOf (ss : List (Nat × List Byte)) (t : Nat) : List Byte := match ss.find? (·.1 = t) with
  | none => []
  | some p => p.2

/-- Number `i` of `n` bytes in a list. -/
def wordAt (bs : List Byte) (o n : Nat) : Nat := leNat ((bs.drop o).take n)

/-- A sparse map made from `n` values, value `i` at key `key i`. -/
def fillMap {α : Type} [DecidableEq α] (d : α) (m : List (Nat × α)) (key : Nat → Nat) (n : Nat) (f : Nat → α) : List (Nat × α) :=
  (upFrom 0 n).foldl (fun m i => mapSet d m (key i) (f i)) m

/-- The blocks of a group: member and its block's offset. -/
def groupOffsets (bs : List Byte) (unit : Nat) : List (Nat × Nat) := (mapOnes bs).zip ((upFrom 0 64).map (fun k => 8 + k * unit))

/-- An index that may be absent, read back. -/
def optOf (n : Nat) : Option Nat := if n = 0xffff then none else some n

/-- The tree working state read back from section 11. -/
def parseTree (bs : List Byte) : Option TreeState :=
  if bs.isEmpty then none
  else
    let n := wordAt bs 4 4
    let part (i : Nat) : Partial := let o := 8 + 2 * n + 17 * i
      ⟨wordAt bs o 1 ≠ 0, ⟨BitVec.ofNat 32 (wordAt bs (o + 1) 4), BitVec.ofNat 8 (wordAt bs (o + 5) 1)⟩, optOf (wordAt bs (o + 6) 2),
        wordAt bs (o + 8) 4, wordAt bs (o + 12) 4, BitVec.ofNat 5 (wordAt bs (o + 16) 1)⟩
    some ⟨wordAt bs 0 4, n, (upFrom 0 n).map (fun i => optOf (wordAt bs (8 + 2 * i) 2)), (upFrom 0 n).map part,
      (upFrom 0 n).map (fun i => wordAt bs (8 + 19 * n + i) 1 ≠ 0)⟩

/-- The CSRs loaded from section 2; `vgrant`, `lanemap`, `tick`, `poolpart`, `lcore` and `launchid` are the hart's (R332). -/
def Hart.loadCsrs (h : Hart) (bs : List Byte) : Hart :=
  let v (k : Nat) : Word := BitVec.ofNat 64 (wordAt bs (8 * k) 8)
  let h1 := { h with vl := min (v 0).toNat h.vlmax, vlc := min (v 1).toNat 4096, vtype := v 3 &&& 0x0f1f7f7f, raceaddr := v 23 }
  ((ctxCsrs.zip (upFrom 0 24)).filter (fun p => p.1 ≠ 0x800 && p.1 ≠ 0x801 && p.1 ≠ 0x803)).foldl (fun h p => h.writeCsr p.1 (v p.2)) h1

/-- The registers of a hart whose `vdirty` bit is 0 at their starting values (R51), which is a write of the whole of them: their poison is gone (R379). -/
def Hart.forget (h : Hart) : Hart :=
  let vd := h.vdirty.toNat
  let keep (lo k : Nat) : Bool := vd / 2 ^ (lo + k) % 2 = 1
  let kept (p : Poison) : Bool := if p.kind = 1 then keep 0 p.num else if p.kind = 3 then keep 48 p.num else if p.kind = 4 then keep 40 p.num else true
  { h with v := h.v.filter (fun p => keep 0 (p.1 % 32)), m := h.m.filter (fun p => keep 32 p.1),
           g := h.g.filter (fun p => keep 40 (p.1 % 8)), acc := h.acc.filter (fun p => keep 48 (p.1 % 8)),
           tree := if keep 56 0 then h.tree else none, poison := h.poison.filter kept, carried := h.carried.filter kept }

/-- The state of a hart as an area holds it (R51, R332). -/
def Hart.loadArea (h : Hart) (ss : List (Nat × List Byte)) (poison : List Poison) : Hart :=
  let b (t : Nat) : List Byte := sectionOf ss t
  let s1 := b 1
  let window (k : Nat) : Window := let o := 128 + 32 * k
    ⟨wordAt (b 3) o 8, wordAt (b 3) (o + 8) 8, wordAt (b 3) (o + 16) 8, wordAt (b 3) (o + 24) 8⟩
  let ind := wordAt s1 816 1
  let vm := h.vlmax
  let h1 := { h with
    x := fillMap 0 [] (1 + ·) 31 (fun i => BitVec.ofNat 64 (wordAt s1 (8 * i) 8))
    pc := BitVec.ofNat 64 (wordAt s1 248 8)
    f := fillMap 0 [] id 32 (fun i => BitVec.ofNat 66 (wordAt s1 (256 + 16 * i) 8 + 2 ^ 64 * (wordAt s1 (264 + 16 * i) 1 % 4)))
    long := ⟨BitVec.ofNat 384 (wordAt s1 768 48), ind % 2 = 1, ind / 2 % 2 = 1, ind / 4 % 2 = 1, ind / 8 % 2 = 1⟩
    p := fillMap ⟨0, 1⟩ [] id 8 (fun i => ⟨BitVec.ofNat 64 (wordAt (b 3) (16 * i) 8), wordAt (b 3) (16 * i + 8) 8⟩)
    fq := fillMap Window.none [] id 4 window
    sw := fillMap Window.none [] id 8 (fun i => window (4 + i))
    q := fillMap 0 [] id 4096 (fun i => (b 4).getD i 0)
    tid := fillMap 0 [] id 256 (fun i => BitVec.ofNat 512 (wordAt (b 5) (64 * i) 64))
    scratch := fillMap 0 [] id (256 * h.sprows) (fun i => (b 6).getD i 0)
    v := (groupOffsets (b 7) (5 * vm)).foldl (fun m (p : Nat × Nat) => fillMap Slot.zero m (vKey p.1) vm (fun i =>
      ⟨BitVec.ofNat 32 (wordAt (b 7) (p.2 + 4 * i) 4), (b 7).getD (p.2 + 4 * vm + i) 0⟩)) []
    m := (groupOffsets (b 8) 512).foldl (fun m (p : Nat × Nat) => mapSet 0 m p.1 (BitVec.ofNat 4096 (wordAt (b 8) p.2 512))) []
    g := (groupOffsets (b 9) 8192).foldl (fun m (p : Nat × Nat) => fillMap 0x8000 m (elemKey p.1) 4096 (fun i => BitVec.ofNat 16 (wordAt (b 9) (p.2 + 2 * i) 2) &&& 0xcfff)) []
    acc := (groupOffsets (b 10) 40960).foldl (fun m (p : Nat × Nat) => fillMap AccCell.zero m (elemKey p.1) 4096 (fun i =>
      let sl (k : Nat) : Slot := ⟨BitVec.ofNat 32 (wordAt (b 10) (p.2 + 4 * k) 4), (b 10).getD (p.2 + 32768 + k) 0⟩
      ⟨sl (2 * i), sl (2 * i + 1)⟩)) []
    tree := parseTree (b 11)
    poison := poison
    carried := poison
    resumeMid := false }
  (h1.loadCsrs (b 2)).forget

/-! ### The areas of pre-emption (R50 to R52, R288, R332) -/

/-- Number `i` of 8 bytes. -/
def numAt (bs : List Byte) (i : Nat) : Nat := wordAt bs (8 * i) 8

/-- An engine record read back, without what follows its first 184 bytes. -/
def parseRecord (bs : List Byte) : EngineOp :=
  ⟨(engineKinds[numAt bs 0]?).getD .tld, numAt bs 1, numAt bs 2, numAt bs 3, numAt bs 4, numAt bs 5, BitVec.ofNat 512 (wordAt bs 120 64),
    numAt bs 6, numAt bs 7, numAt bs 8 ≠ 0, numAt bs 9 ≠ 0, numAt bs 10, BitVec.ofNat 5 (numAt bs 11),
    if numAt bs 12 = 0 then none else some (numAt bs 13, numAt bs 14), []⟩

/-- The engine records of a section read back. -/
def parseRecords : Nat → List Byte → List EngineOp
  | 0, _ => []
  | fuel + 1, bs =>
    if bs.length < 192 then []
    else
      let n := numAt bs 23
      { parseRecord bs with got := (upFrom 24 n).map (numAt bs) } :: parseRecords fuel (bs.drop (192 + 8 * n))

/-- The hart with the state that its pre-emption saved (R52, R288): CTXLOAD's, its buffer, its engine records. Its claims are still held by the slices.
What the release of a barrier or of a collective FENCEV changes in a waiter stands in the hart's record while it is pre-empted, as it was saved or as
the release left it, so that an arrival counts once (R308, R310): the pc, the pending atomics, the flags and the trap CSRs. -/
def Hart.restore (h : Hart) : Hart := match parseSections 14 20 0 (h.area.drop 64) with
  | none => h
  | some ss =>
    let b := sectionOf ss 12
    let n := numAt b 0
    { h.loadArea ss h.poison with
      wcb := (upFrom 0 n).map (fun i => (numAt b (3 + 2 * i), (BitVec.ofNat 8 (numAt b (4 + 2 * i)), numAt b (4 + 2 * i) / 256 ≠ 0)))
      wcbAge := (upFrom 0 (numAt b 1)).map (fun i => numAt b (3 + 2 * n + i))
      pending := h.pending
      engine := parseRecords (sectionOf ss 14).length (sectionOf ss 14)
      pc := h.pc
      vflags := h.vflags
      vstart := h.vstart
      tcause := h.tcause
      tval := h.tval
      tepc := h.tepc
      tstatus := h.tstatus
      raceaddr := h.raceaddr
      resumeMid := h.resumeMid
      area := [] }

/-- The engine of a hart that is being pre-empted comes to rest (R50, R288): each operation runs to its end, but for a BCOPY, which stops at its
line, and a fill that waits for room; what a fault has stopped, or must stay behind such a one, is saved as it stands. -/
def State.restEngine : Nat → State → State
  | 0, s => s
  | n + 1, s => if s.hart.engine.isEmpty then s else restEngine n (s.engineOrder (runToSave runAnyOp) [] s.hart.engine)

/-- The context area written (R50, R333). -/
def State.saveArea (s : State) : State :=
  let t := s.restEngine s.hart.engine.length
  t.dropLinks.upd (fun h => { h with area := t.areaBytes h.pc.toNat true })

/-! ### CTXSAVE and CTXLOAD (R332) -/

/-- The place of a context area: a multiple of 4,096, off-core, in the job's world (R332, R406). -/
def areaCheck (a acc : Nat) : Option Trap :=
  if a % 4096 ≠ 0 then some (.mem 0x08 acc a) else if inAperture a then some (.mem 0x0d acc a) else none

/-- A page of the area is of the job's world. -/
def State.sameWorld (s : State) (leaf : Nat) : Bool := match s.jobOf s.hart.slot with
  | none => true
  | some j => bits leaf 4 4 = j.sec.toNat

/-- One word of an area checked as part of a block, its page being of the job's world (R332, R368): address, bytes, physical address, leaf. -/
def State.areaWord (s : State) (acc perm : Nat) (w : Nat × Nat) : Except Stop (Nat × Nat × Nat × Nat) :=
  let a := w.1 % 2 ^ 64
  match place a with
  | .error c => .error (.trap (.mem c acc a))
  | .ok (.virt va) => match s.translateWith s.hart.slot va perm s.sameWorld with
    | .error c => .error (.trap (.mem c acc a))
    | .ok (pa, leaf) => match s.raceAt s.hart.hid (upFrom pa w.2) with
      | some (p, o) => .error (.trap ⟨0x20, acc, a + (p - pa), some (p, o), false, 0⟩)
      | none => .ok (w.1, w.2, pa, leaf)
  | _ => .error (.trap (.mem 0x0d acc a))

/-- The checks of every word of an area. -/
def State.areaTargets (s : State) (a n acc perm : Nat) : Except Stop (List (Nat × Nat × Nat × Nat)) := (blockWords a n).mapM (s.areaWord acc perm)

/-- The words of an area written at their home slices. -/
def State.writeArea (s : State) (xa : Nat) (bs : List Byte) (ts : List (Nat × Nat × Nat × Nat)) : State :=
  ts.foldl (fun s w => (s.note (w.1 % 2 ^ 64) (.phys w.2.2.1 w.2.2.2)).writePhys 0 w.2.2.1 ((bs.drop (w.1 - xa)).take w.2.1)) s

/-- What reading the words of an area leaves behind. -/
def State.noteArea (s : State) (ts : List (Nat × Nat × Nat × Nat)) : State :=
  ts.foldl (fun s w => s.note (w.1 % 2 ^ 64) (.phys w.2.2.1 w.2.2.2)) s

/-- The physical address at which an area begins. -/
def areaKey (ts : List (Nat × Nat × Nat × Nat)) : Nat := match ts with
  | [] => 0
  | w :: _ => w.2.2.1

/-- CTXSAVE (R332, R368): the engine, the drain, the links; the area is written at its home slices; held reports are delivered first (R386). -/
def execCtxsave (a : Nat) (s : State) : Host.Outcome State Fault Refusal :=
  s.gate (chkSystem s) (fun s =>
    let xa := (s.hart.getX a).toNat
    if !s.hart.held.isEmpty then s.awaitRoom
    else match s.hart.waitAll with
      | .error e => s.halt e
      | .ok _ => match areaCheck xa 2 with
        | some t => s.trap t
        | none =>
          let s1 := s.drain.dropLinks
          let bs := s1.areaBytes (s1.hart.pc.toNat + 4) false
          match s1.areaTargets xa bs.length 2 2 with
          | .error e => s.halt e
          | .ok ts =>
            let s2 := s1.writeArea xa bs ts
            .next { s2 with ctxPoison := mapSet [] s2.ctxPoison (areaKey ts) s.hart.poison }.advance4)

/-- The bytes of checked words, or code 0x22 at a poisoned line. -/
def State.areaRead (s : State) (ts : List (Nat × Nat × Nat × Nat)) : Except Stop (List Byte) :=
  match ts.mapM (fun w => s.fetchTarget (w.1 % 2 ^ 64) w.2.1 1 (.phys w.2.2.1 w.2.2.2)) with
  | .error e => .error e
  | .ok vs => .ok ((ts.zip vs).flatMap (fun p => leBytes p.2 p.1.2.1))

/-- CTXLOAD (R332, R368): the engine, the drain, the links; every header is validated before anything changes. -/
def execCtxload (a : Nat) (s : State) : Host.Outcome State Fault Refusal :=
  s.gate (chkSystem s) (fun s =>
    let xa := (s.hart.getX a).toNat
    match s.hart.waitAll with
    | .error e => s.halt e
    | .ok _ => match areaCheck xa 1 with
      | some t => s.trap t
      | none =>
        let s1 := s.drain.dropLinks
        match s1.areaTargets xa 64 1 1 with
        | .error e => s.halt e
        | .ok hs => match s1.areaRead hs with
          | .error e => s.halt e
          | .ok hdr =>
            let len := wordAt hdr 8 8
            if len < 64 || len > 4194304 then s.trapWith 0x0e xa
            else match s1.areaTargets xa len 1 1 with
              | .error e => s.halt e
              | .ok ts => match s1.areaRead ts with
                | .error e => s.halt e
                | .ok bs => match s1.hart.acceptArea bs with
                  | none => s.trapWith 0x0e xa
                  | some ss =>
                    .next ((s1.noteArea ts).upd (fun h => h.loadArea ss (mapGet [] s1.ctxPoison (areaKey ts)))))

end Sys2Proof.Machine
end

