-- ==== Sys2Proof/Machine/Token.lean ====
section
/-! DEFINITION. Token output: LOGPUB, CPREC, the write of a record into its channel's ring, the completion interrupt (R326 to R329). -/

namespace Sys2Proof.Machine

/-- The channel whose descriptor stands at physical address `desc`. -/
def State.chanAt (s : State) (desc : Nat) : Channel := (s.chans.find? (·.desc = desc)).getD ⟨desc, 0, []⟩

/-- A change of a channel; an idle channel is not listed. -/
def State.setChan (s : State) (c : Channel) : State :=
  { s with chans := (s.chans.filter (·.desc ≠ c.desc)) ++ (if c.count = 0 && c.queue.isEmpty then [] else [c]) }

/-- A field of a descriptor in memory (R326). -/
def State.descField (s : State) (desc o n : Nat) : Nat := s.readPhys (desc + o) n

/-- A power of two from 4,096 to 2^30 (R326). -/
def ringSizeOk (n : Nat) : Bool := (upFrom 12 19).any (fun k => n = 2 ^ k)

/-- The rules of R326 on a descriptor read as a number; `priv` selects CPREC's rule on `chan` (R329). -/
def descOk (v chmask : Nat) (priv : Bool) : Bool :=
  let chan := blockField v 40 2
  blockField v 0 8 % 4096 = 0 && ringSizeOk (blockField v 8 8) && blockField v 16 8 % 8 = 0 && blockField v 52 12 = 0
    && (if priv then decide (chan < 16) && chmask / 2 ^ chan % 2 = 1 else chan = 0xffff)

/-- The physical address of a descriptor in a non-secure region of device memory (R326). -/
def State.descAt (s : State) (a : Nat) : Option Nat :=
  match place a with
  | .ok (.virt va) => match s.translate s.hart.slot va 1 with
    | .ok (pa, leaf) => if pa < Config.mainBytes && bits leaf 4 4 = 0 then some pa else none
    | .error _ => none
  | _ => none

/-- The length of a record whose header and body take `b` bytes (R327). -/
def recordLen (b : Nat) : Nat := (b + 8 + 63) / 64 * 64

/-- A record put together: `len`, the prepared bytes 4 to 23, zeros, the body, zeros, the seal (R327, R328). -/
def recordBytes (hdr body : List Byte) (n step : Nat) : List Byte :=
  let front := leBytes n 4 ++ (hdr.drop 4).take 20 ++ List.replicate 8 0 ++ body
  front ++ List.replicate (n - 8 - front.length) 0 ++ leBytes (step % 2 ^ 32 * 2 ^ 32 + n) 8

/-- A pad record of `r` bytes (R328). -/
def padBytes (r step : Nat) : List Byte :=
  leBytes r 4 ++ leBytes 0xffffffff 4 ++ leBytes step 8 ++ List.replicate (r - 24) 0 ++ leBytes (step % 2 ^ 32 * 2 ^ 32 + r) 8

/-- One byte of the ring or of the tail word: a host-window page with `sec` 0 and `w` 1 (R326). -/
def State.ringByte (s : State) (a : Nat) : Except Trap Nat :=
  match place (a % 2 ^ 64) with
  | .error c => .error (.mem c 2 (a % 2 ^ 64))
  | .ok (.own _) => .error (.mem 0x0c 2 (a % 2 ^ 64))
  | .ok (.peer _ _) => .error (.mem 0x0c 2 (a % 2 ^ 64))
  | .ok (.virt va) => match s.translateWith s.hart.slot va 2 (fun leaf => decide (Config.hostBase ≤ bits leaf 51 8 * 256) && bits leaf 4 4 = 0) with
    | .error c => .error (.mem c 2 va)
    | .ok (pa, _) => match s.raceAt s.hart.hid [pa] with
      | some (q, o) => .error ⟨0x20, 2, va, some (q, o), false, 0⟩
      | none => .ok pa

/-- The physical bytes of [a, a + n) of the ring. -/
def State.ringRange (s : State) (a n : Nat) : Except Trap (List Nat) := (upFrom a n).mapM s.ringByte

/-- Bytes written at the physical bytes `pas` of the ring, and the tail advanced in its word at `tp` and in the descriptor (R328); the banks that
serve them wake (R22). -/
def State.append (s : State) (desc : Nat) (pas tp : List Nat) (bs : List Byte) : State :=
  let t := leBytes (s.descField desc 24 8 + bs.length) 8
  let s1 := s.touch (pas ++ tp ++ [desc + 24])
  ((s1.writeMem 0 (pas.zip bs)).writeMem 0 (tp.zip t)).writePhys 0 (desc + 24) t

/-- The MSI-X of a channel whose completion records have reached `mcount` (R329). -/
def State.countRecord (s : State) (desc : Nat) : State :=
  let c := s.chanAt desc
  let m := s.descField desc 42 2
  if m ≠ 0 && decide (m ≤ c.count + 1) then { s.setChan { c with count := 0 } with toHost := s.toHost ++ [.msix (s.descField desc 48 4)] }
  else s.setChan { c with count := c.count + 1 }

/-- The first request of a channel leaves its queue. -/
def State.dequeue (s : State) (desc : Nat) : State := let c := s.chanAt desc
  s.setChan { c with queue := c.queue.drop 1 }

/-- The hart's wait at its LOGPUB or CPREC: whether its record is accepted, none when it no longer waits. -/
def Hart.logWait (h : Hart) : Option Bool := match h.status with
  | .logPub a => some a
  | _ => none

/-- The ring has room for `n` more bytes: `tail` + `n` − `head` stays within its size (R328). -/
def ringRoom (size tail head n : Nat) : Bool := decide ((tail + n + 2 ^ 64 - head) % 2 ^ 64 ≤ size)

/-- Where a record that has yet to be accepted will stand: the tail word, the bytes that come next, and after a pad the ring's start; or the first
fault of these. -/
def State.ringPlaces (s : State) (ring size tailp tail r n : Nat) (pad : Bool) : Except Trap (List Nat × List Nat × List Nat) :=
  match s.ringRange tailp 8, s.ringRange (ring + tail % size) (if pad then r else n), s.ringRange ring (if pad then n else 0) with
  | .error t, _, _ => .error t
  | _, .error t, _ => .error t
  | _, _, .error t => .error t
  | .ok tp, .ok next, .ok start => .ok (tp, next, start)

/-- A record written, and its hart goes on. -/
def State.finishRecord (s : State) (desc : Nat) (q : LogReq) : State :=
  let s1 := (s.append desc q.pas q.tp q.bytes).dequeue desc
  (if q.cprec then s1.countRecord desc else s1).upd (fun h => { h.step4 with status := .running })

/-- The first request of a channel changed. -/
def State.setFirst (s : State) (desc : Nat) (q : LogReq) : State := let c := s.chanAt desc
  s.setChan { c with queue := q :: c.queue.drop 1 }

/-- The record of the hart at the issue slot taken one step further (R328): trapped, padded or written; none while there is no room. An accepted
record goes where it was accepted for, whatever becomes of its pages meanwhile. -/
def State.writeRecord (s : State) (desc : Nat) (q : LogReq) (accepted : Bool) : Option State :=
  let ring := s.descField desc 0 8
  let size := s.descField desc 8 8
  let tailp := s.descField desc 16 8
  let tail := s.descField desc 24 8
  let head := s.descField desc 32 8
  let n := q.bytes.length
  let r := size - tail % size
  if accepted then (if ringRoom size tail head n then some (s.finishRecord desc q) else none)
  else
    let pad := decide (r < n)
    match s.ringPlaces ring size tailp tail r n pad with
    | .error t => some (((s.dequeue desc).upd (fun h => { h with status := .running })).takeTrap t)
    | .ok (tp, next, start) =>
      if !ringRoom size tail head (if pad then r else n) then none
      else if pad then some (((s.append desc next tp (padBytes r q.step)).setFirst desc { q with pas := start, tp := tp }).upd
        (fun h => { h with status := .logPub true }))
      else some (s.finishRecord desc { q with pas := next, tp := tp })

/-- The records of a channel written in arrival order as far as its ring has room (R328). -/
def State.pump (desc : Nat) : Nat → State → State
  | 0, s => s
  | fuel + 1, s => match (s.chanAt desc).queue with
    | [] => s
    | q :: _ => match (s.hartOf q.hid).bind (fun h => (h.logWait).map (fun a => (a, h.preempted))) with
      | none => pump desc fuel (s.dequeue desc)
      | some (accepted, _) => match s.tryOn q.hid (fun s => s.writeRecord desc q accepted) with
        | none => s
        | some s1 => pump desc fuel s1

/-- A record enters its channel's queue, its hart waits, and what the ring has room for is written. -/
def State.publish (s : State) (desc : Nat) (bytes : List Byte) (step : Nat) (cprec : Bool) : State :=
  let c := s.chanAt desc
  let s1 := (s.drain.setChan { c with queue := c.queue ++ [⟨s.hart.hid, bytes, step, cprec, [], []⟩] }).upd (fun h => { h with status := .logPub false })
  s1.pump desc (2 * c.queue.length + 3)

/-- The descriptor of LOGPUB or CPREC: its physical address and the ring's size, or the refusal (R326, R328, R329). No alignment is stated for it
(R406). -/
def State.openChannel (s : State) (xa : Nat) (priv : Bool) : Except Stop (State × Nat × Nat) :=
  match s.hart.waitAll with
  | .error e => .error e
  | .ok _ => match s.loadBlock xa 64 1 1 with
    | .error e => .error e
    | .ok (s1, v) =>
      let chmask := match s.jobOf s.hart.slot with
        | none => 0
        | some j => j.chmask
      match s.descAt xa with
      | some desc => if descOk v chmask priv then .ok (s1, desc, blockField v 8 8) else .error (.trap (.of 0x0e xa))
      | none => .error (.trap (.of 0x0e xa))

/-- The length of the body of a prepared log record, none when a field of its header is out of range (R327, R328). -/
def logBody (h : Nat) : Option Nat :=
  let ntok := blockField h 16 2
  let topk := blockField h 18 1
  let ntext := blockField h 20 4
  if ntok > 64 || topk > 16 || blockField h 19 1 > 3 || ntext > 4096 then none else some (4 * ntok + 8 * ntok * topk + ntext)

/-- LOGPUB (R328). -/
def execLogpub (a b : Nat) (s : State) : Host.Outcome State Fault Refusal :=
  s.gate (chkSystem s) (fun s =>
    let xa := (s.hart.getX a).toNat
    let xb := (s.hart.getX b).toNat
    match s.openChannel xa false with
    | .error e => s.halt e
    | .ok (s1, desc, size) => match s1.engineRead (fun _ => true) xb 32 with
      | .error e => s.halt e
      | .ok (s2, hdr) => match logBody (leNat hdr) with
        | none => s.trapWith 0x0e xb
        | some k =>
          let n := recordLen (32 + k)
          if n > size then s.trapWith 0x0e n
          else match s2.engineRead (fun _ => true) (xb + 32) k with
            | .error e => s.halt e
            | .ok (s3, body) =>
              let step := blockField (leNat hdr) 8 8
              .next (s3.publish desc (recordBytes hdr body n step) step false))

/-- The entries of a completion record read one by one, each padded to 8 bytes (R329). -/
def State.readEntries : Nat → State → Nat → List Byte → Except Stop (State × List Byte)
  | 0, s, _, acc => .ok (s, acc)
  | k + 1, s, a, acc => match s.engineRead (fun _ => true) a 8 with
    | .error e => .error e
    | .ok (s1, h) =>
      let n := (4 * blockField (leNat h) 4 4 + 7) / 8 * 8
      match s1.engineRead (fun _ => true) (a + 8) n with
      | .error e => .error e
      | .ok (s2, t) => readEntries k s2 (a + 8 + n) (acc ++ h ++ t)

/-- CPREC (R329). -/
def execCprec (a b : Nat) (s : State) : Host.Outcome State Fault Refusal :=
  s.gate (chkSystem s) (fun s =>
    let xa := (s.hart.getX a).toNat
    let xb := (s.hart.getX b).toNat
    match s.openChannel xa true with
    | .error e => s.halt e
    | .ok (s1, desc, size) => match s1.engineRead (fun _ => true) xb 32 with
      | .error e => s.halt e
      | .ok (s2, hdr) => match s2.readEntries (blockField (leNat hdr) 4 4) (xb + 32) [] with
        | .error e => s.halt e
        | .ok (s3, body) =>
          let n := recordLen (32 + body.length)
          let iter := blockField (leNat hdr) 8 8
          if n > size then s.trapWith 0x0e n
          else .next (s3.publish desc (recordBytes ((hdr.take 16) ++ List.replicate 16 0) body n iter) iter true))

/-- LOG_RECORD_WRITE (R328): the channel in which the hart waits goes on. -/
def execLogRecordWrite (hid : Nat) (s : State) : Host.Outcome State Fault Refusal :=
  match s.chans.find? (fun c => c.queue.any (·.hid = hid)) with
  | none => .next s
  | some c => .next (s.pump c.desc (2 * c.queue.length + 1))

/-- MTIMER_EXPIRY (R329): an unsignalled completion record is signalled. -/
def execMtimerExpiry (desc : Nat) (s : State) : Host.Outcome State Fault Refusal :=
  let c := s.chanAt desc
  if c.count = 0 || s.descField desc 44 4 = 0 then .next s
  else .next { s.setChan { c with count := 0 } with toHost := s.toHost ++ [.msix (s.descField desc 48 4)] }

/-- The waits of every channel tried again, as after the host has written `head` (R328). -/
def State.pumpAll (s : State) : State := s.chans.foldl (fun s c => s.pump c.desc (2 * c.queue.length + 1)) s

end Sys2Proof.Machine
end

