-- ==== Sys2Proof/Machine/Place.lean ====
section
/-! DEFINITION. The steps of the scheduler: placement, pre-emption, issue turns, lane counts, clocks, periods, the end of cancelled harts
and records (R50 to R75, R381 to R384), and the steps that a hart itself takes outside an instruction (R141, R147, R180, R183, R364). -/

namespace Sys2Proof.Machine

/-! ### Placement (R52, R58 to R61) -/

/-- The harts of job slot `i` stay unplaced: held by the host, or by health level 2 (R352, R396). -/
def State.isHeld (s : State) (i : Nat) : Bool := (s.slotOf i).held || decide (2 ≤ s.health)

/-- The hart holds rows of the core. -/
def Hart.resident (cl core : Nat) (h : Hart) : Bool := h.cl = cl && h.core = core && !h.preempted

/-- The rows ÷ 16 of a partition word (R36). -/
def wordRows (w : Nat) : Nat := bits w 8 0 + bits w 17 9 + bits w 26 18

/-- A hart with partition word `part` fits the core (R59, R69, R381, R382). -/
def State.coreFits (s : State) (timed : Bool) (cl part core : Nat) : Bool :=
  let rs := s.harts.filter (Hart.resident cl core)
  let c := s.coreOf cl core
  decide (rs.length < (if timed then 1 else 4)) && decide ((rs.map (fun h => wordRows h.poolpart.toNat)).sum + wordRows part ≤ c.rows)
    && decide (c.retired.length ≤ 48)

/-- The core on which logical core `lc` of a timetabled phase stands: the mesh position of its entry in the core table (R319); none where the
image has no such entry (log 20). -/
def State.timedCore (s : State) (i lc : Nat) : Option Nat :=
  match s.phaseOf i with
  | none => none
  | some p => if !p.timed then none else
    match s.imageField i p.tt 2, s.imageField i (p.tt + 8) 8 with
    | some n, some c => if lc ≥ n then none else
      match s.imageField i (c + 32 * lc) 2, s.imageField i (c + 32 * lc + 2) 2 with
      | some r, some q => if r < 12 && q < 16 then some (16 * r + q) else none
      | _, _ => none
    | _, _ => none

/-! ### Lane counts of legacy launches (R65, R68, R74) -/

/-- The begun phase in which cluster `cl` takes part, with its job slot; the job may be held. -/
def State.phaseAt (s : State) (cl : Nat) : Option (Nat × Phase) := match s.slotOfCluster cl with
  | none => none
  | some i => match s.phaseOf i with
    | none => none
    | some p => if (s.slotOf i).st = 2 && p.begun && p.state = .running && p.clus / 2 ^ cl % 2 = 1 then some (i, p) else none

/-- The phase of cluster `cl` is timetabled. -/
def State.timedCluster (s : State) (cl : Nat) : Bool := match s.phaseAt cl with
  | none => false
  | some (_, p) => p.timed

/-- The core allows a change of its lane count: its phase is not timetabled, every resident hart stands at a convoy boundary, and a legacy launch
waits whole at one barrier (R65, R68, R74). -/
def State.lanesFree (s : State) (cl core : Nat) : Bool :=
  !s.timedCluster cl && (s.harts.filter (Hart.resident cl core)).all (fun h => !s.timedIn h.slot && !h.midConvoy && (match s.launchOf h with
    | none => true
    | some l => !l.block.legacy || (match h.status with
      | .atBar k => l.allAt k
      | _ => false)))

/-- The lane count at which the placed harts of a legacy launch run, none where none is placed or the launch is none (R68). -/
def State.launchLanes (s : State) (i l : Nat) : Option Nat :=
  (s.harts.find? (fun h => h.slot = i && h.launchid = l && !h.preempted && s.legacyOf h)).map (fun h => (s.coreOf h.cl h.core).lanes)

/-- A core can take a hart of launch `l`: for a legacy launch with placed harts its L is theirs, or it holds no legacy launch and can change to it
(R68, log 53). -/
def State.lanesFit (s : State) (i l cl core : Nat) : Bool := match s.launchLanes i l with
  | none => true
  | some n =>
    let c := s.coreOf cl core
    c.lanes = n || (decide (n ≤ c.lmax) && s.lanesFree cl core && !s.harts.any (fun h => h.resident cl core && s.legacyOf h))

/-- The core at the lane count of the legacy launch that gets a hart there. -/
def State.matchLanes (s : State) (i l cl core : Nat) : State := match s.launchLanes i l with
  | none => s
  | some n => if (s.coreOf cl core).lanes = n then s else s.setCore cl core { s.coreOf cl core with lanes := n }

/-- The placer's choice of a core that fits, from `start` on (R59), for a hart of launch `l`; the timetable's own for its logical core `lc` (R319). -/
def State.findCore (s : State) (i cl part start lc l : Nat) : Option Nat :=
  let cs := match s.timedCore i lc with
    | some c => [c]
    | none => (upFrom start Config.cores).map (· % Config.cores)
  cs.find? (fun core => s.coreFits (s.timedIn i) cl part core && s.lanesFit i l cl core)

/-- A grant made legal: a multiple of 64 from 64 to VLMAX (R37). -/
def legalGrant (g vlmax : Nat) : Nat := max 64 (min (g / 64 * 64) vlmax)

/-- The hart `lcore` of launch `l` at its first instruction (R34). -/
def Launch.newHart (l : Launch) (i tvec lcore cl core grant hid order : Nat) : Hart :=
  { Hart.vacant with
    x := mapSet 0 [] 10 (BitVec.ofNat 64 l.block.args)
    pc := BitVec.ofNat 64 l.block.entry
    poolpart := BitVec.ofNat 64 l.block.part
    gbase := legalGrant grant (bits l.block.part 8 0 * 32)
    lcore := lcore
    launchid := l.id
    tvec := BitVec.ofNat 64 (tvec / 4 * 4)
    status := .running
    hid := hid
    cl := cl
    core := core
    slot := i
    prio := l.block.prio
    order := order }

/-- A hart added to those that have no issue slot. -/
def State.addHart (s : State) (h : Hart) : State := { s with others := s.others ++ [h], nextHid := s.nextHid + 1, placed := s.placed + 1 }

/-- The initial `tvec` of the job's harts. -/
def State.jobTvec (s : State) (i : Nat) : Nat := match s.jobOf i with
  | none => 0
  | some j => j.tvec

/-- At most `fuel` new harts of a launch placed, in ascending `lcore` from `lc` on; the first `lcore` that is left (R59). -/
def State.placeNew (i cl start grant : Nat) (l : Launch) : Nat → Nat → State → State × Nat
  | 0, lc, s => (s, lc)
  | fuel + 1, lc, s => match s.findCore i cl l.block.part start lc l.id with
    | none => (s, lc)
    | some core => placeNew i cl start grant l fuel (lc + 1)
        ((s.matchLanes i l.id cl core).addHart (l.newHart i (s.jobTvec i) lc cl core grant s.nextHid s.placed))

/-- The hart where it is resumed (R51, R52): the state that its area holds, a new grant, a source that came up meanwhile. Its poisoned items come
with it (R379). What the age counter of a hart newly placed or resumed starts at is open (R63): 0 in the model (DESIGN CHOICE, log 53). -/
def Hart.resumeAt (cl core grant order : Nat) (h : Hart) : Hart :=
  let k := h.restore
  Hart.receive { k with
    preempted := false, cl := cl, core := core, gbase := legalGrant grant h.vlmax, order := order, age := 0, turn := 0, turnOver := false,
    status := if h.status = Status.waiting && h.asyncSource.isSome then Status.running else h.status }

/-- Pre-empted harts resumed one by one; none when one does not fit. -/
def State.resumeAll (cl start grant : Nat) : List Hart → State → Option State
  | [], s => some s
  | h :: r, s => match s.findCore h.slot cl h.poolpart.toNat start h.lcore h.launchid with
    | none => none
    | some core => resumeAll cl start grant r
        ({ (s.matchLanes h.slot h.launchid cl core).updHart h.hid (Hart.resumeAt cl core grant s.placed) with placed := s.placed + 1 }.post
          (.copyEngineOperation h.hid))

/-- One candidate stands ahead of another (R58, R59, R61): priority, the order of readiness, pre-empted harts first, `lcore`. -/
def ahead (a b : Launch × Option Hart) : Bool :=
  if a.1.block.prio ≠ b.1.block.prio then decide (b.1.block.prio < a.1.block.prio)
  else if a.1.ready ≠ b.1.ready then decide (a.1.ready < b.1.ready)
  else match a.2, b.2 with
    | some x, some y => decide (x.lcore < y.lcore)
    | some _, none => true
    | none, _ => false

/-- The candidate that stands ahead of all others. -/
def firstOf (l : List (Launch × Option Hart)) : Option (Launch × Option Hart) :=
  l.foldl (fun b c => match b with
    | none => some c
    | some x => if ahead c x then some c else b) none

/-- The queues of cluster `cl` of job slot `i`: pre-empted harts with their launch, and launches with harts left to place (R58, R61), a launch that
count-downs have completed before among them. Which cluster's queue a pre-empted hart returns to, where another cluster had placed it (R59), is
open: in the model its launch's own (DESIGN CHOICE, log 53). -/
def State.queueOf (s : State) (i cl : Nat) : List (Launch × Option Hart) := match s.jobOf i with
  | none => []
  | some j =>
    let back := (s.harts.filter (fun h => h.slot = i && h.preempted)).filterMap (fun h => match j.launches.find? (·.id = h.launchid) with
      | none => none
      | some l => if l.cl = cl && l.state.alive then some (l, some h) else none)
    let fresh := (j.launches.filter (fun l => l.queued && l.cl = cl && l.state.alive)).map (fun l => (l, none))
    back ++ fresh

/-- The job slot that cluster `cl` runs: its job is running, not held, and its phase includes the cluster (R58). -/
def State.runningIn (s : State) (cl : Nat) : Option Nat := match s.slotOfCluster cl with
  | none => none
  | some i => match s.phaseOf i with
    | none => none
    | some p => if (s.slotOf i).st = 2 && !s.isHeld i && p.begun && p.state = .running && p.clus / 2 ^ cl % 2 = 1 then some i else none

/-- What the placer of cluster `cl` takes next (R59, R60): the first of its own queues, or with these empty the first of another cluster of the
set, where that is no gang. -/
def State.candidate (s : State) (cl : Nat) : Option (Nat × Launch × Option Hart) := match s.runningIn cl with
  | none => none
  | some i =>
    let set := (upFrom 0 Config.clusters).filter (fun c => c ≠ cl && (match s.phaseOf i with
      | none => false
      | some p => p.clus / 2 ^ c % 2 = 1))
    let own := firstOf (s.queueOf i cl)
    let other := firstOf ((set.filterMap (fun c => firstOf (s.queueOf i c))).filter (fun q => !q.1.block.gang))
    (match own with
      | some q => some q
      | none => other).map (fun q => (i, q))

/-- The pre-empted harts of a gang, ascending. -/
def State.gangOf (s : State) (i l : Nat) : List Hart :=
  (s.harts.filter (fun h => h.slot = i && h.launchid = l && h.preempted)).mergeSort (fun a b => decide (a.lcore ≤ b.lcore))

/-- A gang of which one hart has still to leave its core: it is resumed as a unit (R33, R60). -/
def State.gangLeaving (s : State) (i : Nat) (l : Launch) : Bool :=
  l.block.gang && s.harts.any (fun h => h.slot = i && h.launchid = l.id && !h.preempted)

/-- The launch as it stands when its harts below `lc` are placed. -/
def Launch.placedTo (lc : Nat) (l : Launch) : Launch := { l with unplaced := lc, queued := decide (lc < l.block.harts) }

/-! ### Cores that change together (R68) -/

/-- One more round of the cores that change together: those of the legacy launches on cores of the list. -/
def State.growCores (s : State) (cs : List (Nat × Nat)) : List (Nat × Nat) :=
  let ls := (s.harts.filter (fun h => !h.preempted && s.legacyOf h && cs.contains (h.cl, h.core))).map (fun h => (h.slot, h.launchid))
  (cs ++ (s.harts.filter (fun h => !h.preempted && ls.contains (h.slot, h.launchid))).map (fun h => (h.cl, h.core))).eraseDups

/-- The cores that change together with those of the list: they hold legacy launches linked to one another by shared cores (R68). -/
def State.changeSet (s : State) : Nat → List (Nat × Nat) → List (Nat × Nat)
  | 0, cs => cs
  | n + 1, cs => if (s.growCores cs).length = cs.length then cs else changeSet s n (s.growCores cs)

/-- The cores that change together with a core. -/
def State.changeWith (s : State) (cl core : Nat) : List (Nat × Nat) := s.changeSet (s.harts.length + 1) [(cl, core)]

/-- Several cores at lane count `n`, or as many as a core has (R381). -/
def State.setLanes (s : State) (n : Nat) (cs : List (Nat × Nat)) : State :=
  cs.foldl (fun s c => s.setCore c.1 c.2 { s.coreOf c.1 c.2 with lanes := n }) s

/-- The first candidate of a cluster placed as far as it fits; none when nothing of it fits (R59, R60, R61). -/
def State.placeFirst (s : State) (cl core grant : Nat) : Option State := match s.candidate cl with
  | none => none
  | some (i, l, some h) =>
    if s.gangLeaving i l then none else s.resumeAll cl core grant (if l.block.gang then s.gangOf i l.id else [h])
  | some (i, l, none) =>
    let left := l.block.harts - l.unplaced
    let r := s.placeNew i cl core grant l (min left 768) l.unplaced
    if r.2 = l.unplaced || (l.block.gang && decide (r.2 < l.block.harts)) then none
    else some (r.1.updLaunch i l.id (Launch.placedTo r.2))

/-- The harts that are placed, pre-empted and resumed with a placed hart: its gang, or itself alone (R33). -/
def State.unitOf (s : State) (v : Hart) : List Hart :=
  if s.inGang v then s.harts.filter (fun h => h.slot = v.slot && h.launchid = v.launchid && !h.preempted) else [v]

/-- The victims of a placement at priority `p` (R61): the resident hart of lowest priority, of those the one placed last, with its gang; none while an
earlier victim has still to leave, after which the launch may fit. -/
def State.victims (s : State) (cl p : Nat) : List Hart :=
  let here := s.harts.filter (fun h => h.cl = cl && !h.preempted)
  if here.any (·.preemptDue) then []
  else match (here.filter (fun h => decide (h.prio < p))).foldl (fun (b : Option Hart) h => match b with
      | none => some h
      | some v => if h.prio < v.prio || (h.prio = v.prio && decide (v.order < h.order)) then some h else b) none with
  | none => []
  | some v => s.unitOf v

/-- The victims for a candidate of cluster `cl`: only a launch of its own queues pre-empts (R59, R61). -/
def State.victimsFor (s : State) (i cl : Nat) (l : Launch) (back : Bool) : List Hart :=
  if l.cl = cl && !(back && s.gangLeaving i l) then s.victims cl l.block.prio else []

/-- LAUNCH_PLACEMENT (R59 to R61): `core` is the placer's choice, `grant` the scheduler's (R37). Where nothing fits, victims of a lower priority
are pre-empted and the placer tries again. -/
def execLaunchPlacement (cl core grant : Nat) (s : State) : Host.Outcome State Fault Refusal :=
  match s.candidate cl with
  | none => .next s
  | some (i, l, k) => match s.placeFirst cl core grant with
    | some t => .next t
    | none =>
      let vs := s.victimsFor i cl l k.isSome
      .next (if vs.isEmpty then s else s.postAll (vs.map (fun h => .preemption h.hid) ++ [.launchPlacement cl core grant]))

/-- The placer of the cluster has something to do: its first candidate fits, or has victims. -/
def State.canPlace (s : State) (cl : Nat) : Bool := match s.candidate cl with
  | none => false
  | some (i, l, k) => (s.placeFirst cl 0 64).isSome || !(s.victimsFor i cl l k.isSome).isEmpty

/-! ### Pre-emption (R50) -/

/-- The hart is at no point of R49 now: inside a convoy, inside a live segment (R50, R73), or its record is being written (R328). -/
def Hart.cannotStop (h : Hart) : Bool := h.midConvoy || h.inSegment || h.status = .logPub true

/-- The status in which a hart is saved: one that has not begun its wait begins it again. -/
def Status.saved (st : Status) : Status := match st with
  | .stalled => .running
  | .logPub false => .running
  | .msgRoom => .running
  | .halting => .running
  | other => other

/-- The hart off its core with its context saved (R50). -/
def Hart.save (h : Hart) : Hart :=
  { h with preempted := true, preemptDue := false, status := h.status.saved, cur := Cursor.alone, turnOver := true }

/-- The log record that the hart has offered and that is not accepted yet, withdrawn: its LOGPUB or CPREC is issued again (R328). -/
def State.withdraw (s : State) : State := match s.hart.status with
  | .logPub _ => { s with chans := s.chans.map (fun c => { c with queue := c.queue.filter (fun r => r.hid ≠ s.hart.hid) }) }
  | _ => s

/-- The hart at the issue slot pre-empted (R50, R382): its engine at rest, its area written, its rows freed. -/
def State.preempt (s : State) : State :=
  let t := s.withdraw.saveArea
  (t.retireRows t.hart).upd Hart.save

/-- PREEMPTION (R50): where the hart cannot stop, or its rows are still to be reached (R116), it is pre-empted when it can. Its claims stay held. -/
def execPreemption (hid : Nat) (s : State) : Host.Outcome State Fault Refusal :=
  match s.hartOf hid with
  | none => .next s
  | some h =>
    if h.status = .vacant || h.preempted then .next s
    else if h.cannotStop || s.awaited hid then .next (s.updHart hid (fun h => { h with preemptDue := true }))
    else .next (s.on hid State.preempt)

/-! ### The issue selector (R62 to R64) -/

/-- A hart that can take an issue turn (R62): it runs, or it waits on the scoreboard while a source that it can take is pending (R49). -/
def Hart.ready (h : Hart) : Bool :=
  !h.preempted && (h.status = .running || (h.status = .stalled && h.ie && !h.inSegment && !h.midConvoy && h.asyncSource.isSome))

/-- The age at which a counter saturates (R63). -/
def maxAge : Nat := 4096

/-- Hart `a` gets the turn before `b` (R63). -/
def turnBefore (a b : Hart) : Bool :=
  let sa := decide (maxAge ≤ a.age)
  let sb := decide (maxAge ≤ b.age)
  if sa ≠ sb then sa
  else if sa && decide (a.ageSince ≠ b.ageSince) then decide (a.ageSince < b.ageSince)
  else if a.prio ≠ b.prio then decide (b.prio < a.prio)
  else if a.age ≠ b.age then decide (b.age < a.age)
  else decide (a.order < b.order)

/-- The ready residents of a core. -/
def State.readyOn (s : State) (cl core : Nat) : List Hart := s.harts.filter (fun h => h.ready && h.resident cl core)

/-- The hart that gets the core's next turn. -/
def State.chosen (s : State) (cl core : Nat) : Option Hart :=
  (s.readyOn cl core).foldl (fun (b : Option Hart) h => match b with
    | none => some h
    | some v => if turnBefore h v then some h else b) none

/-- The age counters after hart `hid` has received a turn on the core (R63). -/
def Hart.grow (cl core hid since : Nat) (h : Hart) : Hart :=
  if h.hid = hid then { h with age := 0, turn := 0, turnOver := false }
  else if h.ready && h.resident cl core && decide (h.age < maxAge) then { h with age := h.age + 1, ageSince := since } else h

/-- A turn is in progress at the issue slot. -/
def State.inTurn (s : State) : Bool := s.hart.ready && !s.hart.turnOver

/-- The hart moved to the issue slot; one that stood there goes back, a vacant slot leaves nothing behind. -/
def State.giveSlot (s : State) (h : Hart) : State :=
  if s.hart.hid = h.hid then s
  else
    let t := s.swapIn h
    { t with others := t.others.filter (fun k => k.status ≠ .vacant) }

/-! ### Errors in a core's storage (R379, R381, R398) -/

/-- The pool row of a poisoned item, counted from the first of its hart's share; 0 for what is no pool row (log 52). -/
def Hart.poolRow (h : Hart) (kind num elem : Nat) : Nat :=
  let regs := 16 * h.regrows
  if kind = 1 && num < 32 then num * (regs / 32) + elem / 64
  else if kind = 3 then regs + 128 * num + elem / 32
  else if kind = 2 then regs + 128 * h.tiles + elem / 64
  else 0

/-- The structure code of a poisoned item (R379). -/
def structureOf (kind : Nat) : Nat := if kind = 8 then 5 else kind

/-- A lane of a core has had one more corrected error in this period (R381). -/
def CoreInfo.corrected (lane : Nat) (c : CoreInfo) : CoreInfo := { c with errs := mapSet 0 c.errs lane (mapGet 0 c.errs lane + 1) }

/-- The item stands in no lane: it is of a scale bank or of the tensor-identifier table (R379). -/
def noLane (kind : Nat) : Bool := kind = 5 || kind = 8

/-- An error that the check codes find as the hart at the issue slot gets its turn: corrected, or its item poisoned (R379); the dusk event of each
(R398 types 5 and 6), which names the lane, or the core where the item has none; a lane beyond 16 corrections in a period is to be retired (R381). -/
def State.softError (s : State) (e : SoftError) : State :=
  let h := s.hart
  let place := if noLane e.kind then h.core % 256 else e.lane
  let lane := if noLane e.kind then 64 else e.lane
  if !(decide (1 ≤ e.kind) && decide (e.kind ≤ 5) || e.kind = 8) || e.lane ≥ 64 then s
  else if e.hard then
    let p : Poison := ⟨e.kind, e.num, e.elem⟩
    (s.upd (fun h => { h with poison := h.poison.filter (· ≠ p) ++ [p], carried := h.carried.filter (· ≠ p) })).log 6 1 h.cl
      (structureOf e.kind + 256 * place) (h.poolRow e.kind e.num e.elem)
  else
    let c := (s.coreOf h.cl h.core).corrected lane
    let n := mapGet 0 c.errs lane
    let t := (s.setCore h.cl h.core c).log 5 1 h.cl (structureOf e.kind + 256 * place + 65536 * (n % 65536)) (h.poolRow e.kind e.num e.elem)
    if n = 17 && !noLane e.kind then t.post (.laneRetirement h.cl h.core e.lane (some n)) else t

/-- ISSUE_TURN (R62, R63): at a convoy boundary one ready hart of the core gets the turn, with the errors that the core's check codes find
as it does (R379). -/
def execIssueTurn (cl : Nat) (turn : CoreTurn) (s : State) : Host.Outcome State Fault Refusal :=
  let core := turn.core
  if s.inTurn then .next s
  else match s.chosen cl core with
    | none => .next s
    | some h =>
      let since := (s.harts.filter (Hart.resident cl core)).foldl (fun n k => max n (k.ageSince + 1)) 1
      let t := s.mapHarts (Hart.grow cl core h.hid since)
      match t.hartOf h.hid with
      | none => .next t
      | some k => .next (turn.errors.foldl State.softError (t.giveSlot k))

/-! ### Lane counts, clocks, periods, banks (R22, R57, R65, R68, R74, R75) -/

/-- LANE_COUNT_CHANGE (R65, R68, R381): L is 64, 32 or 16 and at most `lmax`. -/
def execLaneCountChange (cl core lanes : Nat) (s : State) : Host.Outcome State Fault Refusal :=
  let cs := s.changeWith cl core
  let ok (c : Nat × Nat) : Bool := s.lanesFree c.1 c.2 && decide (lanes ≤ (s.coreOf c.1 c.2).lmax)
  if (lanes = 64 || lanes = 32 || lanes = 16) && cs.all ok then
    .next (s.setLanes lanes cs)
  else .next s

/-- CLOCK_STRETCH (R74): n from 8 to 32, in a timetabled phase; it takes effect at the next segment or period boundary. A throttled module keeps 32
(R396). -/
def execClockStretch (cl n : Nat) (s : State) : Host.Outcome State Fault Refusal :=
  if n < 8 || 32 < n || !s.timedCluster cl || decide (1 ≤ s.health) then .next s
  else .next (s.setCluster cl { s.clusterOf cl with next := n })

/-- The cores and slices of a cluster begin to count their corrected errors anew (R381, R398). -/
def State.clearErrors (s : State) (cl : Nat) : State :=
  let t := if s.fixes.isEmpty then s else { s with fixes := s.fixes.filter (fun f => f.1 / 64 ≠ cl) }
  if t.cores.isEmpty then t
  else (upFrom 0 Config.cores).foldl (fun s k => if (s.coreOf cl k).errs.isEmpty then s else s.setCore cl k { s.coreOf cl k with errs := [] }) t

/-- PERIOD_BOUNDARY (R57, R74, R75, R381): `tick` advances, a waiting clock stretch takes effect, the error counts restart, and the phase's limit may
have elapsed, while the job is held too. -/
def execPeriodBoundary (cl : Nat) (s : State) : Host.Outcome State Fault Refusal :=
  let c := s.clusterOf cl
  let n := (c.tick + 1) % 2 ^ 64
  let s1 := s.setCluster cl { c.settled with tick := n }
  let s2 := s1.clearErrors cl
  .next (match s.phaseAt cl with
    | none => s2
    | some (i, p) => if p.plim > 0 && p.plim ≤ n then s2.post (.periodLimit i) else s2)

/-- The work of phase `k` passed to phase `k` + 1 (R57): graphs and launches that have not ended, with every launch of such a graph and every launch
that count-downs have completed before its harts were done; the job, and how many children the next phase counts. -/
def Job.passOn (j : Job) (k : Nat) : Job × Nat :=
  let gs := j.graphs.filter (fun g => g.phase = k && g.state.open_)
  let passes (l : Launch) : Bool := l.phase = k && (l.state.open_ || (l.state.alive && decide (l.halted < l.block.harts)) || (match l.graph with
    | none => false
    | some g => gs.any (fun x => x.id = g)))
  ({ j with
      graphs := j.graphs.map (fun g => if g.phase = k && g.state.open_ then { g with phase := k + 1 } else g)
      launches := j.launches.map (fun l => if passes l then { l with phase := k + 1 } else l) },
   gs.length + (j.launches.filter (fun l => l.phase = k && l.state.open_ && l.graph.isNone)).length)

/-- The phase record `k` completed by its period limit, and its parent counted down (R30, R31, R57). -/
def State.closePhase (s : State) (i k : Nat) : State :=
  (((s.updJob i (fun j => j.setRec 2 k 0 .complete)).wakeOn i (mkHandle 2 k)).countDown i (mkHandle 3 0) 1 none).checkReady i

/-- The limit of a phase has elapsed in a cluster of its set: the clusters count their own periods, and the first to reach the limit ends the phase
(R57, R75, log 53). -/
def State.limitReached (s : State) (p : Phase) : Bool :=
  decide (p.plim > 0) && (upFrom 0 Config.clusters).any (fun c => p.clus / 2 ^ c % 2 = 1 && decide (p.plim ≤ (s.clusterOf c).tick))

/-- PERIOD_LIMIT (R57): the residents are pre-empted; the work passes to the next phase, or the last phase is cancelled. -/
def execPeriodLimit (slot : Nat) (s : State) : Host.Outcome State Fault Refusal :=
  match s.jobOf slot, s.phaseOf slot with
  | some j, some p =>
    if !(p.begun && p.state = .running && s.limitReached p && (s.slotOf slot).st = 2) then .next s
    else
      let out := (s.harts.filter (fun h => h.slot = slot && !h.preempted)).map (fun h => Instr.preemption h.hid)
      let k := j.cur
      if k + 1 < j.phases.length then
        let r := j.passOn k
        let s0 := (s.updJob slot (fun _ => r.1)).closePhase slot k
        let s1 := s0.beginPhase slot (k + 1) r.2
        .next ((if !s0.jobRuns slot then s0 else if r.2 = 0 then s1.finish slot .complete climb 2 (k + 1) else s1).postAll out)
      else .next ((s.postAll out).cancel slot 2 k)
  | _, _ => .next s

/-- BANK_TWILIGHT (R22). -/
def execBankTwilight (cl slice bank : Nat) (s : State) : Host.Outcome State Fault Refusal :=
  .next { s with twilight := insertOnce (512 * cl + 8 * slice + bank) s.twilight }

/-- BANK_WAKE (R22). -/
def execBankWake (cl slice bank : Nat) (s : State) : Host.Outcome State Fault Refusal :=
  .next { s with twilight := s.twilight.filter (· ≠ 512 * cl + 8 * slice + bank) }

/-! ### Counters and cancellation (R31, R53, R54) -/

/-- COUNT_DOWN (R31, R32). -/
def execCountDown (slot handle n : Nat) (issuer : Option Nat) (s : State) : Host.Outcome State Fault Refusal :=
  .next (s.countDown slot handle n issuer)

/-- The engine operations of a cancelled hart that run to their end: TST and BCOPY, with the fills that they draw on (R54). -/
def EngineOp.finishes (o : EngineOp) : Bool := o.kind = .tst || o.kind = .bcopy || o.kind = .tld || o.kind = .bcopyTile

/-- What a cancelled hart's message becomes (R54, R386): one with packets on their way stays, to name its hart in a report, and counts nothing down;
one of which nothing is on its way is gone. -/
def Message.unsent (hid : Nat) (m : Message) : Option Message :=
  if m.hid ≠ hid || m.sent then some m
  else if m.left = 0 then none
  else some { m with sent := true, lcc := noHandle }

/-- What a cancellation leaves of the hart at the issue slot (R54): its tile stores and block copies whole, their bytes at their home slices, its
other buffered bytes discarded, its claims and links released, its unsent messages gone, its held reports in the dusk record. -/
def State.discard (s : State) : State :=
  let s1 := (s.hart.engine.filter EngineOp.finishes).foldl (fun s o => (runEngineOp s { o with fault := none }).1) s
  let h := s1.hart
  let bs := (h.wcb.filter (fun b => b.2.2)).map (fun b => (b.1, b.2.1))
  let s2 := (s1.touch (bs.map (·.1))).writeMem 0 bs
  let s3 := { s2 with
    claims := s2.claims.filter (fun c => c.2 ≠ h.hid)
    links := s2.links.filter (fun l => l.1 ≠ h.hid)
    messages := s2.messages.filterMap (Message.unsent h.hid) }
  (h.held.foldl (fun s r => s.loseReport h r) s3).serveWaits

/-- The records that wait for the harts of launch `l` to stop, lowest first. -/
def State.completions (s : State) (i l : Nat) : List Instr := match s.launchAt i l with
  | none => []
  | some r => [.cancellationComplete i (mkHandle 0 l)] ++ (match r.graph with
      | none => []
      | some g => [.cancellationComplete i (mkHandle 1 g)])
    ++ [.cancellationComplete i (mkHandle 2 r.phase), .cancellationComplete i (mkHandle 3 0)]

/-- HART_CANCEL (R53, R54): at once where the hart is at a point of R49 and no peer access is still to reach its rows (R116), else when that is so. -/
def execHartCancel (hid : Nat) (s : State) : Host.Outcome State Fault Refusal :=
  match s.hartOf hid with
  | none => .next s
  | some h =>
    if h.status = .vacant then .next s
    else if (h.cannotStop || s.awaited hid) && !h.preempted then .next (s.updHart hid (fun h => { h with cancelled := true }))
    else .next (((((s.on hid State.discard).retireRows h).remove hid).postAll (s.completions h.slot h.launchid)).closeJob h.slot)

/-- Everything below the record has ended, every hart among it (R54). -/
def State.ended (s : State) (i lvl idx : Nat) (j : Job) : Bool :=
  !s.harts.any (fun h => h.slot = i && j.launches.any (fun l => l.id = h.launchid && inRecord lvl idx l)) && (match lvl with
    | 0 => true
    | 1 => !j.launches.any (fun l => decide (l.graph = some idx) && l.state.open_)
    | 2 => !j.launches.any (fun l => l.phase = idx && l.state.open_) && !j.graphs.any (fun g => g.phase = idx && g.state.open_)
    | _ => !j.phases.any (fun p => p.begun && p.state.open_))

/-- CANCELLATION_COMPLETE (R32, R54): the record reads cancelled, its counter zero, and its parent is counted down once; a job that was already
complete is done (R354). -/
def execCancellationComplete (slot handle : Nat) (s : State) : Host.Outcome State Fault Refusal :=
  let lvl := handleLvl handle
  let idx := handleIdx handle
  match s.jobOf slot, s.record slot lvl idx with
  | some j, some (_, .cancelling) => if s.ended slot lvl idx j then .next (s.finish slot .cancelled climb lvl idx) else .next s
  | _, _ => .next (if lvl = 3 then s.closeJob slot else s)

/-! ### Failing hardware (R381 to R384) -/

/-- The largest lane count that healthy lanes allow (R381); a core with fewer than 16 keeps the lowest, and gets no harts. -/
def lmaxOf (healthy : Nat) : Nat := if healthy ≥ 64 then 64 else if healthy ≥ 32 then 32 else 16

/-- A lane of a core retired (R381, R398 type 14): the cores of the legacy launches on it keep one lane count with it (R68, log 53). -/
def State.retireLane (s : State) (cl core lane corrections : Nat) : State :=
  let c := s.coreOf cl core
  let gone := c.retired ++ [lane]
  let m := lmaxOf (64 - gone.length)
  let t := s.setCore cl core { c with retired := gone, lmax := m, lanes := min c.lanes m }
  (t.setLanes (min c.lanes m) ((t.changeWith cl core).filter (fun k => decide (min c.lanes m < (t.coreOf k.1 k.2).lanes)))).log 14 1 cl
    (core % 256 + 256 * lane + 65536 * m) corrections

/-- LANE_RETIREMENT (R33, R381, R383): a failed self-test, or more than 16 corrections in a period; at a TTSYNC where the core runs a segment. A core
left with fewer than 16 lanes loses its harts, each with its gang. -/
def execLaneRetirement (cl core lane : Nat) (corrections : Option Nat) (s : State) : Host.Outcome State Fault Refusal :=
  let c := s.coreOf cl core
  let n := corrections.getD 0
  let rs := s.harts.filter (Hart.resident cl core)
  if c.retired.contains lane || lane ≥ 64 || !(corrections.isNone || decide (16 < n)) then .next s
  else if rs.any Hart.inSegment then .next (s.setCore cl core { c with due := c.due ++ [(lane, n)] })
  else
    let s1 := s.retireLane cl core lane n
    .next (if c.retired.length < 48 then s1 else s1.postAll (((rs.flatMap s.unitOf).map (·.hid)).eraseDups.map .preemption))

/-- A line marked poisoned, with its structure of R379 (R384). -/
def State.markPoison (s : State) (line k : Nat) : State :=
  { s with poisoned := s.poisoned.filter (fun l => decide (l.1 ≠ line)) ++ [(line, k)] }

/-- What a scrub meets in one line (R384, R398 types 5 and 6): an error corrected, or one that cannot be, which poisons the line; its home is a slice
of the channel. -/
def State.scrubLine (cl slice : Nat) (s : State) (e : Nat × Bool) : State :=
  let line := lineOf e.1
  let main := decide (line < Config.mainBytes)
  let k := if main then 7 else 6
  let blk := if main then 3 else 2
  let n := mapGet 0 s.fixes (64 * cl + slice) + 1
  if !physExists line || s.homeCluster line ≠ cl || homeSlice line ≠ slice then s
  else if e.2 then (s.markPoison line k).log 6 blk cl (k + 256 * slice) line
  else ({ s with fixes := mapSet 0 s.fixes (64 * cl + slice) n } : State).log 5 blk cl (k + 256 * slice + 65536 * (n % 65536)) line

/-- SCRUB (R384): the slice's channel is read through once more; corrected lines keep their contents, lines with an error that cannot be corrected
are poisoned. -/
def execScrub (cl : Nat) (scrub : ScrubOf) (s : State) : Host.Outcome State Fault Refusal :=
  let k := 64 * cl + scrub.slice
  .next (scrub.errors.foldl (State.scrubLine cl scrub.slice) { s with scrubs := mapSet 0 s.scrubs k (mapGet 0 s.scrubs k + 1) })

/-! ### Steps of a hart outside an instruction -/

/-- ASYNC_INTERRUPT (R331, R364, R368): taken at a point of R49 while `ie` is 1; inside a convoy, inside a live segment (R73) and while an accepted record
is being written (R328) it waits. -/
def execAsyncInterrupt (s : State) : Host.Outcome State Fault Refusal :=
  if s.hart.ie && !s.hart.cannotStop then match s.hart.asyncSource with
    | some (code, v) => .next (s.takeAsync code v)
    | none => .next s
  else .next s

/-- The hart at the first member of a convoy whose member `pos` is refused. -/
def State.atMember (s : State) (pos : Nat) : State := s.upd (fun h => { h with cur := { Cursor.alone with pos := pos } })

/-- ILLEGAL_INSTRUCTION (R180, R363): code 0x03 with the word. -/
def execIllegalInstruction (word pos : Nat) (s : State) : Host.Outcome State Fault Refusal := (s.atMember pos).trapWith 0x03 word

/-- FETCH_FAULT (R183, R363): code 0x02 with the fetch address. -/
def execFetchFault (va pos : Nat) (s : State) : Host.Outcome State Fault Refusal := (s.atMember pos).trap (.mem 0x02 4 va)

/-- The bytes of a line claimed for the hart at the issue slot, or the exception (R141, R143, R144). -/
def State.claim (s : State) (va n : Nat) : State := match s.check va n 1 2 2 false with
  | .error (.trap t) => s.takeTrap t
  | .error .stall => s
  | .ok (.scratch _ _) => s
  | .ok (.phys pa _) =>
    let line := lineOf pa
    if !s.hart.wcbAge.contains line && decide (Config.sliceEntries ≤ s.claims.length) && decide (Config.sliceEntries ≤ s.sliceClaims pa) then
      (if s.hart.wcbAge.isEmpty then s else s.takeTrap (.mem 0x21 2 va))
    else
      { s with
        claims := (upFrom pa n).foldl (fun c b => mapSet 0 c b s.hart.hid) s.claims
        hart := { s.hart with wcbAge := insertOnce line s.hart.wcbAge } }

/-- CLAIM_ARRIVAL (R141, R143, R144): a claim on bytes of one line is accepted, or its store takes the exception. -/
def execClaimArrival (hid va n : Nat) (s : State) : Host.Outcome State Fault Refusal :=
  .next (s.on hid (fun s => if s.hart.preempted then s else s.claim va n))

/-- An immediate atomic performed for the hart at the issue slot. -/
def State.atomicAt (s : State) (va op w operand : Nat) : State :=
  let h := s.hart
  let n := if w = 1 then 4 else 8
  let f := h.amoxFmt op w
  match s.rmw va n false false 3 2 (fun m => some (atomicVal op f h.mode h.sat m ⟨operand % 2 ^ (8 * n), 0⟩).1) with
  | .error (.trap t) => s.takeTrap t
  | .error .stall => s.stalled
  | .ok (s1, _) => s1

/-- ATOMIC_ARRIVAL (R147): the operation codes and operands of AMOX (R306), relaxed. -/
def execAtomicArrival (hid va op w operand : Nat) (s : State) : Host.Outcome State Fault Refusal :=
  .next (s.on hid (fun s => if s.hart.preempted then s else s.atomicAt va op w operand))

end Sys2Proof.Machine
end

