-- ==== Sys2Proof/Machine/Host.lean ====
section
/-! DEFINITION. The host link: job slots and the start write, the BAR 0 registers, host accesses through BAR 2, TDISP; the management
controller's bindings, resets, view updates and levels; module reset and bring-up (R5, R143, R154, R173, R350 to R358, R378, R392 to R398). -/

namespace Sys2Proof.Machine

/-! ### The start write (R353, R354, R358, R394) -/

/-- The byte can be read and written through BAR 2: it lies in a non-secure region of a partition (R350, R355), and the package route from the I/O
die passes (R165; where it does not, the access completes as one outside every region, log 51). -/
def State.reachable (s : State) (pa : Nat) : Bool :=
  decide (pa < Config.mainBytes) && (match s.slotOfCluster (s.homeCluster pa) with
    | none => false
    | some i => !s.secureAt i pa && s.hostPasses (s.slotOf i).part (s.homeCluster pa))

/-- The readiness bits of the partition's clusters, of the package network, the security processor and the controller are 1 (R358). -/
def State.isReady (s : State) (i : Nat) : Bool :=
  let need := (s.slotOf i).clus % 64 + 2 ^ 6 + 2 ^ 8 + 2 ^ 9
  Nat.land s.readyReg.toNat need = need

/-- A phase-list entry (R353). -/
def parsePhase (v : Nat) : Phase where
  timed := blockField v 0 1 = 1
  lp := blockField v 1 1
  clus := blockField v 2 1
  plim := blockField v 4 4
  tt := blockField v 8 8
  counter := 0
  state := .running
  begun := false

/-- The refusal of entry `k`, whose bytes are `v`, for a partition of clusters `clus`, followed by `next`: code and offset (R56, R57, R394). Work can
pass only between phases of one kind and cluster set; R57 names two refusals, and a timetabled phase with a limit before a dispatched phase of the
same clusters is refused too (DESIGN CHOICE, log 54). -/
def phaseRefused (clus k v : Nat) (next : Option Nat) : Option (Nat × Nat) :=
  let o := 4096 + 16 * k
  let p := parsePhase v
  if blockField v 0 1 > 1 then some (4, o)
  else if p.lp < 12 || p.lp > 24 then some (4, o + 1)
  else if p.clus = 0 || Nat.land p.clus clus ≠ p.clus then some (4, o + 2)
  else if blockField v 3 1 ≠ 0 then some (2, o + 3)
  else match next with
    | none => none
    | some w =>
      let q := parsePhase w
      if p.plim ≠ 0 && (q.timed || p.timed || q.clus ≠ p.clus) then some (4, o + 4) else none

/-- The refusal of the phase list, entry by entry. -/
def phasesRefused (clus : Nat) : Nat → List Nat → Option (Nat × Nat)
  | _, [] => none
  | k, v :: r => match phaseRefused clus k v r.head? with
    | some e => some e
    | none => phasesRefused clus (k + 1) r

/-- The refusal of a descriptor's own fields (R353, R394; the order of the checks is log 11). -/
def descRefused (v : Nat) : Option (Nat × Nat) :=
  if blockField v 0 4 ≠ 1 then some (1, 0)
  else if bits (blockField v 4 4) 31 2 ≠ 0 then some (2, 4)
  else if blockField v 38 2 ≠ 0 then some (2, 38)
  else if blockField v 32 4 = 0 || blockField v 32 4 > 256 then some (3, 32)
  else if blockField v 8 8 % 4096 ≠ 0 || blockField v 8 8 ≥ Config.mainBytes then some (5, 8)
  else if !physExists (blockField v 24 8) || !physExists (blockField v 24 8 + 16 * blockField v 32 4 - 1) then some (5, 24)
  else if blockField v 40 8 % 8 ≠ 0 then some (5, 40)
  else if blockField v 56 8 % 64 ≠ 0 then some (5, 56)
  else none

/-- The phase-list entries that a descriptor names. -/
def State.phaseList (s : State) (v : Nat) : List Nat :=
  (upFrom 0 (blockField v 32 4)).map (fun k => s.readPhys (blockField v 24 8 + 16 * k) 16)

/-- What refuses a start write before the job's record is made: code and offset (R354, R394). -/
def State.startRefused (s : State) (i desc : Nat) : Option (Nat × Nat) :=
  if (s.slotOf i).clus = 0 then some (9, 0)
  else if !s.isReady i then some (6, 0)
  else if desc % 64 ≠ 0 || !(upFrom desc 64).all (fun a => decide (a < Config.mainBytes) && !s.secureAt i a) then some (5, 0)
  else
    let v := s.readPhys desc 64
    match descRefused v with
    | some e => some e
    | none => match phasesRefused (s.slotOf i).clus 0 (s.phaseList v) with
      | some e => some e
      | none =>
        if blockField v 4 4 % 2 = 1 && !(s.slotOf i).tdisp then some (8, 4)
        else if blockField v 4 4 % 2 = 1 && Config.keyCreationFails s.freeN then some (7, 0)
        else none

/-- A start refused: `st` 0, `jerr`, a dusk event (R394, R395). -/
def State.refuseStart (s : State) (i code off : Nat) : State :=
  let e := code + 256 * off
  let s1 := s.updSlot i (fun sl => { sl with st := 0, jerr := BitVec.ofNat 64 e, pendCancel := false, pendHold := false, job := none })
  let s2 := if code = 7 then { s1 with freeN := s1.freeN + 1 }.log 12 8 0 2 (s.slotOf i).part else s1
  s2.log 11 7 0 i e

/-- The job record that a descriptor and its phase list make (R30, R353): its counter starts at the number of phases. -/
def makeJob (desc : List Byte) (v : Nat) (ps : List Nat) : Job where
  sec := blockField v 4 4 % 2 = 1
  strict := blockField v 4 4 / 2 % 2 = 1
  pgroot := blockField v 8 8
  view := blockField v 16 8
  chmask := blockField v 36 2
  tvec := blockField v 48 8
  rpt := blockField v 56 8
  phases := ps.map parsePhase
  cur := 0
  counter := ps.length
  state := .running
  launches := []
  graphs := []
  image := desc ++ ps.flatMap (fun p => leBytes p 16)

/-- The lowest cluster of a set. -/
def lowestCluster (clus : Nat) : Nat := ((upFrom 0 Config.clusters).find? (fun c => clus / 2 ^ c % 2 = 1)).getD 0

/-- The launch block at `lb`, read through the job's page tables; none when it cannot be read. -/
def State.firstBlock (s : State) (i lb : Nat) : Option Nat := match s.jobRange i lb 64 1 with
  | none => none
  | some pas => if pas.any (fun a => (s.poisonAt a 1).isSome) then none else some (leNat (pas.map s.readByte))

/-- What waited for the start takes effect (R354): a `cancel` before a `hold`. -/
def State.afterStart (s : State) (i : Nat) : State :=
  let sl := s.slotOf i
  if sl.pendCancel then s.post (.jctlCancel i) else if sl.pendHold then s.post (.jctlHold i) else s

/-- The bytes of the view of slot `i`: its header and its tables (R172). -/
def State.viewBytes (s : State) (i : Nat) : List Byte := match s.jobOf i with
  | none => []
  | some j =>
    let n := max 64 (max (s.viewField i 16 8 + 8 * s.viewField i 8 2) (s.viewField i 24 8 + 512 * s.viewField i 10 2))
    s.jobBytes i j.view (min n 1048576)

/-- The controller has the view of slot `i` to write: it holds a topology map (R171), which it does not until a VIEW_UPDATE has given it one (DESIGN
CHOICE, log 51). -/
def State.viewDue (s : State) (i : Nat) : State := if s.topo.isEmpty then s else s.post (.viewUpdate i [])

/-- The job of slot `i` started from its descriptor `v` (R354, steps 5 to 7). -/
def State.startJob (s : State) (i desc v : Nat) : State :=
  let ps := s.phaseList v
  let j := makeJob ((upFrom desc 64).map s.readByte) v ps
  let s1 := s.updSlot i (fun sl => { sl with jerr := 0, held := false, job := some j })
  let s2 := s1.beginPhase i 0 0
  let lb := blockField v 40 8
  match s2.firstBlock i lb with
  | none => s.refuseStart i 10 40
  | some b => match s2.blockRefused i lb b none with
    | some _ => s.refuseStart i 10 40
    | none =>
      let s3 := ((s2.addLaunch i (lowestCluster (parsePhase (ps.headD 0)).clus) (parseLaunch b) none).checkReady i).updSlot i
        (fun sl => { sl with st := 2, view := s2.viewBytes i })
      ((if j.sec then { s3 with keys := insertOnce i s3.keys, freeN := s3.freeN + 1 } else s3).afterStart i).viewDue i

/-- The bytes of a descriptor in memory and of the phase list that it names, read once (R354), reach their banks (R22). -/
def State.touchStart (s : State) (desc : Nat) : State :=
  let v := s.readPhys desc 64
  (s.touch (upFrom desc 64)).touch (upFrom (blockField v 24 8) (16 * min 256 (blockField v 32 4)))

/-- The start that a write of `jstart` has made due (R354). -/
def State.beginStart (s : State) (slot : Nat) : State :=
  let desc := (s.slotOf slot).desc
  let t := s.touchStart desc
  match s.startRefused slot desc with
  | some e => t.refuseStart slot e.1 e.2
  | none => t.startJob slot desc (s.readPhys desc 64)

/-- JSTART (R354): a host write with a descriptor's address is ignored unless `st` is 0 or 4; it sets `st` to 1, and the start is the step that it
makes due, which has no address. -/
def execJstart (slot : Nat) (desc : Option Nat) (s : State) : Host.Outcome State Fault Refusal :=
  let st := (s.slotOf slot).st
  match desc with
  | some d =>
    if slot < 6 && (st = 0 || st = 4) then .next ((s.updSlot slot (fun sl => { sl with st := 1, desc := d })).post (.jstart slot none)) else .next s
  | none => if slot < 6 && st = 1 then .next (s.beginStart slot) else .next s

/-! ### Job controls (R352) -/

/-- JCTL_CANCEL (R352, R354): CANCEL of the job record. -/
def execJctlCancel (slot : Nat) (s : State) : Host.Outcome State Fault Refusal :=
  if (s.slotOf slot).st = 1 then .next (s.updSlot slot (fun sl => { sl with pendCancel := true }))
  else if (s.slotOf slot).st = 2 then .next ((s.updSlot slot (fun sl => { sl with pendCancel := false, pendHold := false })).cancelAt slot 3 0 1)
  else .next s

/-- The harts of a job pre-empted. -/
def State.preemptJob (s : State) (i : Nat) : State := s.postAll ((s.harts.filter (fun h => h.slot = i && !h.preempted)).map (fun h => .preemption h.hid))

/-- JCTL_HOLD (R352, R354): every hart is pre-empted and stays unplaced. -/
def execJctlHold (slot : Nat) (s : State) : Host.Outcome State Fault Refusal :=
  if (s.slotOf slot).st = 1 then .next (s.updSlot slot (fun sl => { sl with pendHold := true }))
  else if (s.slotOf slot).st = 2 then .next ((s.updSlot slot (fun sl => { sl with held := true, pendHold := false })).preemptJob slot)
  else .next s

/-- JCTL_RESUME (R352): held harts return to their queues. -/
def execJctlResume (slot : Nat) (s : State) : Host.Outcome State Fault Refusal :=
  .next (s.updSlot slot (fun sl => { sl with held := false, pendHold := false }))

/-! ### BAR 0 (R350, R352, R355, R358, R394, R396, R397) -/

/-- DCLR (R397). -/
def execDclr (s : State) : Host.Outcome State Fault Refusal := .next { s with dusk := [], dcnt := 0 }

/-- HOST_REGISTER_WRITE (R350, R397): `dsel` is the only such register that keeps what is written. -/
def execHostRegisterWrite (off val : Nat) (s : State) : Host.Outcome State Fault Refusal :=
  if off = 0x800 then .next { s with dsel := BitVec.ofNat 64 val } else .next s

/-- An event as `ddat` shows it (R397). -/
def duskBytes (e : DuskEvent) : List Byte :=
  leBytes e.n 8 ++ leBytes e.time.toNat 8 ++ leBytes e.etype 2 ++ leBytes e.blk 1 ++ leBytes e.inst 1 ++ leBytes e.a.toNat 4 ++ leBytes e.b.toNat 8

/-- `ddat` (R397): the event that `dsel` selects, all zeros when the record does not hold it. -/
def State.ddat (s : State) : List Byte :=
  let n := s.dsel.toNat
  if n ≥ s.dcnt || n + Config.duskEvents < s.dcnt then List.replicate 32 0
  else match s.dusk.find? (·.n = n) with
    | none => List.replicate 32 0
    | some e => duskBytes e

/-- A region register's two words (R355). -/
def regionWord (r : Region) (hi : Bool) : Nat :=
  if hi then r.lim % 2 ^ 36 + 2 ^ 62 * r.secure.toNat + 2 ^ 63 * r.valid.toNat else r.base % 2 ^ 36

/-- The register of job slot `p` at offset `o` (R352, R394). -/
def JobSlot.reg (sl : JobSlot) (o : Nat) : Nat :=
  if o = 0x08 then sl.st else if o = 0x18 then sl.jerr.toNat else if o = 0x20 then sl.part % 65536 + 65536 * (sl.clus % 64) else 0

/-- The eight bytes of BAR 0 at offset `o`, a multiple of 8 (R350). -/
def State.barWord (s : State) (o : Nat) : Nat :=
  if o = 0 then s.readyReg.toNat
  else if o = 8 then s.health
  else if o = 0x800 then s.dsel.toNat
  else if o = 0x808 then s.dcnt
  else if 0x820 ≤ o && o < 0x840 then leNat ((s.ddat.drop (o - 0x820)).take 8)
  else if 0x1000 ≤ o && o < 0x1600 then (s.slotOf ((o - 0x1000) / 256)).reg (o % 256)
  else if 0x2000 ≤ o && o < 0x2600 then
    match (s.slotOf ((o - 0x2000) / 256)).regions[o % 256 / 16]? with
    | none => 0
    | some r => regionWord r (o % 16 = 8)
  else 0

/-- One byte of BAR 0. -/
def State.barByte (s : State) (a : Nat) : Byte := BitVec.ofNat 8 (s.barWord (a / 8 * 8) / 256 ^ (a % 8))

/-! ### Host accesses through BAR 2 (R143, R154, R350, R378, R384) -/

/-- A completion leaves for the host (log 10). -/
def State.complete (s : State) (tag status : Nat) (bs : List Byte) : State := { s with toHost := s.toHost ++ [.completion tag status bs] }

/-- A host write. -/
def HostWait.isWrite (w : HostWait) : Bool := match w with
  | .write _ _ _ => true
  | _ => false

/-- The bytes that a waiting access touches are claimed. -/
def State.waitClaimed (s : State) (w : HostWait) : Bool := match w with
  | .read a n _ => s.claimed (upFrom a n)
  | .register _ _ _ => false
  | .write a bs _ => s.claimed (upFrom a bs.length)
  | .packet p =>
    if p.kind = 1 then s.judge p p.k0 p.payload.length 2 p.k1 = .wait
    else if p.kind = 2 then s.judge p p.k0 (p.k1 % 2 ^ 32) 1 noHandle = .wait
    else match s.messages.find? (fun m => m.mid = p.k0 % 2 ^ 32 && m.kind = 2) with
      | none => false
      | some m => s.claimed ((upFrom (p.k0 / 2 ^ 32) p.payload.length).map m.target)

/-- An access may be served now: its bytes are unclaimed, no write of `before` holds it back (R154), and no earlier packet of its stream (R323). -/
def State.servable (s : State) (before : List HostWait) (w : HostWait) : Bool :=
  !s.waitClaimed w && (match w with
    | .read _ _ _ => !before.any HostWait.isWrite
    | .register _ _ _ => !before.any HostWait.isWrite
    | .write _ _ relaxed => relaxed || !before.any HostWait.isWrite
    | .packet p => !before.any (HostWait.streamOf p))

/-- An access served: a read completes, poisoned where a line is (R384); a write is performed, and log channels may go on (R328). -/
def State.serve (s : State) (w : HostWait) : State := match w with
  | .read a n tag => if (s.poisonAt a n).isSome then s.complete tag 3 [] else (s.touch (upFrom a n)).complete tag 0 ((upFrom a n).map s.readByte)
  | .register a n tag => s.complete tag 0 ((upFrom a n).map s.barByte)
  | .write a bs _ => ((s.touch (upFrom a bs.length)).writePhys 0 a bs).pumpAll
  | .packet p => s.endpoint p

/-- An access that reaches the slices: served, or made to wait. -/
def State.hostAccess (s : State) (w : HostWait) : State :=
  if s.servable s.hostWait w then s.serve w else { s with hostWait := s.hostWait ++ [w] }

/-- HOST_READ (R154, R350): `space` is the BAR; every read waits for the earlier writes; a BAR 2 read outside every non-secure region is an
Unsupported Request. -/
def execHostRead (space addr len tag : Nat) (s : State) : Host.Outcome State Fault Refusal :=
  if space = 0 then .next (s.hostAccess (.register addr len tag))
  else if (upFrom addr len).all s.reachable then .next (s.hostAccess (.read addr len tag))
  else .next (s.complete tag 1 [])

/-- HOST_POSTED_WRITE (R154, R350): outside every non-secure region it moves no byte. -/
def execHostPostedWrite (addr : Nat) (bytes : List Byte) (relaxed : Bool) (s : State) : Host.Outcome State Fault Refusal :=
  if (upFrom addr bytes.length).all s.reachable then .next (s.hostAccess (.write addr bytes relaxed)) else .next s

/-- Waiting access `k` taken out. -/
def State.dropWait (s : State) (k : Nat) : State := { s with hostWait := s.hostWait.eraseIdx k }

/-- HOST_ACCESS_AFTER_CLAIM (R143, R154): the first access from place `k` on that can be served now is served. -/
def execHostAccessAfterClaim (k : Nat) (s : State) : Host.Outcome State Fault Refusal :=
  match (upFrom k (s.hostWait.length - k)).find? (fun j => match s.hostWait[j]? with
      | none => false
      | some w => s.servable (s.hostWait.take j) w) with
  | none => .next s
  | some j => match s.hostWait[j]? with
    | none => .next s
    | some w => .next ((s.dropWait j).serve w)

/-- The dusk event of a claim timeout (R398 type 4). -/
def State.logTimeout (s : State) (flags : Nat) (pas : List Nat) : State :=
  let pa := (pas.find? (fun a => s.owner a ≠ 0)).getD 0
  s.log 4 2 (s.homeCluster pa) (flags + 2 ^ 24 * homeSlice pa) pa

/-- HOST_CLAIM_TIMEOUT (R378, R398 types 4 and 10): a read ends in Completer Abort, a write is discarded whole and reported. -/
def execHostClaimTimeout (k : Nat) (s : State) : Host.Outcome State Fault Refusal :=
  match s.hostWait[k]? with
  | some (.read a n tag) =>
    if s.claimed (upFrom a n) then .next (((s.logTimeout 0 (upFrom a n)).dropWait k).complete tag 2 []).serveWaits else .next s
  | some (.write a bs _) =>
    if s.claimed (upFrom a bs.length) then
      let s1 := ((s.logTimeout 1 (upFrom a bs.length)).dropWait k).log 10 7 0 4 0
      .next ({ s1 with toHost := s1.toHost ++ [HostMsg.aer a] }).serveWaits
    else .next s
  | _ => .next s

/-- The bytes that a waiting packet touches. -/
def State.packetBytes (s : State) (p : Packet) : List Nat :=
  if p.kind = 3 then match s.messages.find? (fun m => m.mid = p.k0 % 2 ^ 32 && m.kind = 2) with
    | none => []
    | some m => (upFrom (p.k0 / 2 ^ 32) p.payload.length).map m.target
  else match s.slotOfPart p.part with
    | none => []
    | some i => (s.jobRange i p.k0 (if p.kind = 2 then p.k1 % 2 ^ 32 else p.payload.length) (if p.kind = 2 then 1 else 2)).getD []

/-- MESSAGE_CLAIM_TIMEOUT (R378, R387, R398 type 4): the packet is refused with `why` 4; the reply of an MGET is refused at its own module, which
reports to the hart. -/
def execMessageClaimTimeout (k : Nat) (s : State) : Host.Outcome State Fault Refusal :=
  match s.hostWait[k]? with
  | some (.packet p) =>
    if s.waitClaimed (.packet p) then
      let s1 := (s.logTimeout (2 + (if p.kind = 2 then 0 else 1)) (s.packetBytes p)).dropWait k
      .next (if p.kind = 3 then s1.failPacket (p.k0 % 2 ^ 32) p.sender (reportOn p 4 0 4) else s1.refuse p 4).serveWaits
    else .next s
  | _ => .next s

/-! ### TDISP, the link, partitions (R351, R352, R392, R393) -/

/-- TDISP_ENTER_RUN (R351). -/
def execTdispEnterRun (slot : Nat) (s : State) : Host.Outcome State Fault Refusal :=
  .next (s.updSlot slot (fun sl => { sl with tdisp := decide (sl.clus ≠ 0) }))

/-- TDISP_EXIT_RUN (R351, R392): the running job is cancelled and the partition reset. -/
def execTdispExitRun (slot : Nat) (s : State) : Host.Outcome State Fault Refusal :=
  if (s.slotOf slot).tdisp then
    .next (((s.updSlot slot (fun sl => { sl with tdisp := false })).cancel slot 3 0).post (.partitionReset slot 2))
  else .next s

/-- The job of slot `i` is secure. -/
def State.secureJob (s : State) (i : Nat) : Bool := match s.jobOf i with
  | none => false
  | some j => j.sec

/-- HOST_LINK_FAILURE (R393, R398 type 10): every interface leaves RUN, and every secure job is cancelled and its partition reset. -/
def execHostLinkFailure (why : Nat) (s : State) : Host.Outcome State Fault Refusal :=
  let t := (s.log 10 7 0 why 0).postAll ((upFrom 0 6).map (fun i => .tdispExitRun i))
  .next (((upFrom 0 6).filter (fun i => s.secureJob i && !(s.slotOf i).tdisp)).foldl (fun s i => s.cancelAt i 3 0 2) t)

/-- The clusters of a set. -/
def clustersOf (clus : Nat) : List Nat := (upFrom 0 Config.clusters).filter (fun c => clus / 2 ^ c % 2 = 1)

/-- The fabric, hub and die-to-die ports of a partition of these clusters (R174). -/
def portsOf (clus : Nat) : List Nat :=
  (clustersOf clus).flatMap (fun c => upFrom (16 * c) 16 ++ [200 + c, 210 + c, 220 + c] ++ upFrom (300 + 16 * c) 16 ++ upFrom (500 + 16 * c) 16
    ++ ((clustersOf clus).filter (· ≠ c)).map (fun d => 96 + 6 * c + d))

/-- The partition number of ports written (R174). -/
def State.setPorts (s : State) (ps : List Nat) (prt : Nat) : State := ps.foldl (fun s k => s.setPort k { s.portAt k with prt := prt }) s

/-- A port number at a cluster of a set. -/
def portIn (clus k : Nat) : Bool := (portClusters k).any (fun c => clus / 2 ^ c % 2 = 1)

/-- A switch port cabled to a fabric port of this module at a cluster of a set (R174). -/
def State.cabledIn (s : State) (clus : Nat) (e : SwitchPort) : Bool := e.mod = s.module_ && e.port < 96 && portIn clus e.port

/-- The ports at clusters of a set, and the switch ports cabled to their fabric ports, get the numbers that the bindings give them (R174). -/
def State.bindPorts (s : State) (clus : Nat) : State :=
  { s with
    ports := s.ports.map (fun p => if portIn clus p.1 then (p.1, { p.2 with prt := s.portPart p.1 }) else p)
    topo := s.topo.map (fun e => if s.cabledIn clus e then { e with prt := s.portPart e.port } else e) }

/-- A binding that R352 allows for a slot: its clusters are in no other slot, and the slots ascend by their partitions' lowest clusters; the
partition's number is its own (R174). -/
def State.bindable (s : State) (slot part clus : Nat) : Bool :=
  clus = 0 || (part ≠ 0xffff && ((upFrom 0 6).filter (fun j => j ≠ slot && (s.slotOf j).clus ≠ 0)).all (fun j =>
    Nat.land (s.slotOf j).clus clus = 0 && (s.slotOf j).part ≠ part
      && decide (j < slot) = decide (lowestCluster (s.slotOf j).clus < lowestCluster clus)))

/-- A region register's fields as wide as they are (R355). -/
def Region.masked (r : Region) : Region := { r with base := r.base % 2 ^ 36, lim := r.lim % 2 ^ 36 }

/-- PARTITION_BINDING (R352, R355): while no job runs in the slot; the controller writes the slot's registers, the ports of the clusters that the
partition gains or loses, and the worlds of the blocks. With another partition the slot keeps no view, job or report to measure (R357). -/
def execPartitionBinding (slot part : Nat) (bound : BoundTo) (regions : List Region) (s : State) : Host.Outcome State Fault Refusal :=
  let sl := s.slotOf slot
  let clus := bound.clus
  if slot < 6 && (sl.st = 0 || sl.st = 4) && s.bindable slot (part % 65536) (clus % 64) then
    let t := s.updSlot slot (fun sl =>
      { (if sl.part = part % 65536 then sl else { sl with view := [], job := none, report := [] }) with
        part := part % 65536, clus := clus % 64, regions := (regions.take 16).map Region.masked })
    .next (({ t with secureBlocks := bound.secure }.bindPorts (Nat.lor sl.clus (clus % 64))).viewDue slot)
  else .next s

/-- PARTITION_RESET (R392): sink mode, and the end of the drain is due. A reset that comes during a drain ends with it (DESIGN CHOICE, log 60). -/
def execPartitionReset (slot why : Nat) (s : State) : Host.Outcome State Fault Refusal :=
  if (s.slotOf slot).sink then .next (s.updSlot slot (fun sl => { sl with resets := sl.resets ++ [why] }))
  else
    let s1 := { s with freeN := s.freeN + 1 }.updSlot slot (fun sl => { sl with sink := true, why := why })
    .next (s1.post (.partitionDrainEnd slot (Config.drainMicros s.freeN % 26)))

/-- A packet of the partition that waits at claims. -/
def HostWait.ofPart (part : Nat) (w : HostWait) : Bool := match w with
  | .packet p => p.part = part
  | _ => false

/-- A step in which a packet of the partition travels. -/
def travels (part : Nat) (i : Instr) : Bool := match i with
  | .packetHop p => p.part = part
  | .putPacket p => p.part = part
  | .getRequest p => p.part = part
  | .getReply p => p.part = part
  | .signalPacket p => p.part = part
  | _ => false

/-- A report on its way to a hart of slot `i`, or to one that a message of it names (R385, R392). -/
def State.reportsTo (s : State) (i : Nat) (q : Instr) : Bool := match q with
  | .reportArrival hid _ => (match s.hartOf hid with
      | none => false
      | some h => h.slot = i) || s.messages.any (fun m => m.hid = hid && m.slot = i)
  | _ => false

/-- What the controller discards of slot `i` at the end of a drain (R392): packets under way, reports, unacknowledged packets, messages; its
harts that waited on a message's end go on. -/
def State.discardNet (s : State) (i part : Nat) : State :=
  { s with
    agenda := s.agenda.filter (fun q => !travels part q && !s.reportsTo i q)
    unacked := s.unacked.filter (fun u => u.slot ≠ i)
    messages := s.messages.filter (fun m => m.slot ≠ i)
    hostWait := s.hostWait.filter (fun w => !w.ofPart part) }.mapHarts (fun h => if h.slot = i then ({ h with held := [] } : Hart).unstall.receive else h)

/-- PARTITION_DRAIN_END (R392, R395, R398 type 9): the ports are closed, what is under way is discarded, sink mode is left, with a dusk event for
each reset that ends; a job whose key could not be erased is done. -/
def execPartitionDrainEnd (slot us : Nat) (s : State) : Host.Outcome State Fault Refusal :=
  let sl := s.slotOf slot
  if sl.sink then
    let whys := sl.why :: sl.resets
    let t := whys.foldl (fun s w => s.log 9 9 0 (sl.part % 65536 + 65536 * w) us)
      (((s.setPorts (portsOf sl.clus) 0xffff).discardNet slot sl.part).updSlot slot (fun sl => { sl with sink := false, why := 0, resets := [] }))
    .next (if whys.contains 4 && sl.st = 3 then t.jobDone slot else t)
  else .next s

/-- A line of the host window delivered as poisoned, with its dusk event (R393, R398 type 6). -/
def State.poisonWindow (s : State) (line : Nat) : State := (s.markPoison line 6).log 6 2 (s.homeCluster line) (6 + 256 * homeSlice line) line

/-- The values of a byte of the host window once its oldest outstanding write has completed: the value without the others, then theirs (R393). -/
def windowLeft (failed : Bool) (vs : List Byte) : List Byte := if failed then vs.take 1 ++ vs.drop 2 else vs.drop 1

/-- The write of [pa, pa + n) completed: a failed one is dropped, and its bytes are as the writes that stand leave them (R393). The oldest
outstanding write of each byte is the one that completes (DESIGN CHOICE, log 60). -/
def State.windowWritten (s : State) (pa n : Nat) (failed : Bool) : State :=
  let here (a : Nat) : Bool := decide (pa ≤ a) && decide (a < pa + n)
  let left := s.window.map (fun q => if here q.1 then (q.1, windowLeft failed q.2) else q)
  { s with
    window := left.filter (fun q => !here q.1 || decide (1 < q.2.length))
    mem := if failed then (left.filter (fun q => here q.1)).foldl (fun m q => mapSet unlisted m q.1 (q.2.getLastD unlisted)) s.mem else s.mem }

/-- HOST_WINDOW_COMPLETION (R393, R398 types 6 and 10): a failed read is delivered as poisoned lines, a failed write is dropped and recorded; a good
read delivers its lines whole. -/
def execHostWindowCompletion (pa len err : Nat) (write : Bool) (s : State) : Host.Outcome State Fault Refusal :=
  if pa < Config.hostBase || Config.physEnd < pa + len then .fault .noSuchAddress
  else
    let ls := ((upFrom pa len).map lineOf).eraseDups
    if write then
      let t := s.windowWritten pa len (err ≠ 0)
      .next (if err = 0 then t else t.log 10 7 0 3 (pa - Config.hostBase))
    else if err = 0 then .next { s with poisoned := s.poisoned.filter (fun l => !ls.contains l.1) }
    else .next (ls.foldl State.poisonWindow s)

/-- A range of the job's virtual memory as the controller finds it, none where a page is not mapped. -/
def State.viewRange (s : State) (i va n : Nat) : Option (List Nat) :=
  (upFrom va n).mapM (fun a => match s.walk i (a % 2 ^ 64) with
    | .error _ => none
    | .ok (bs, leaf) => some (leafPa bs leaf a))

/-- Bytes written into the view of slot `i` at an offset. -/
def State.viewWrite (i view : Nat) (s : State) (c : Nat × List Byte) : State := match s.viewRange i (view + c.1) c.2.length with
  | none => s
  | some pas => (s.touch pas).writeMem 0 (pas.zip c.2)

/-- A port of the topology map changed or added (R171). -/
def mapPort (topo : List SwitchPort) (e : SwitchPort) : List SwitchPort := topo.filter (fun q => !(q.plane = e.plane && q.sw = e.sw)) ++ [e]

/-- The fabric ports of the partition of slot `i`, in the order of its view ports. -/
def State.fabricPorts (s : State) (i : Nat) : List Nat := (clustersOf (s.slotOf i).clus).flatMap (fun c => upFrom (16 * c) 16)

/-- A port entry of the view: fabric port `k` (R172). -/
def State.portEntry (s : State) (k : Nat) : List Byte := match s.cableOf k with
  | none => List.replicate 8 0
  | some e => leBytes e.plane 1 ++ leBytes ((s.portAt k).up && e.up).toNat 1 ++ leBytes e.sw 2 ++ leBytes (s.portAt k).rko 1
      ++ leBytes (s.portAt k).rki 1 ++ leBytes 0 2

/-- The `reach` word of module `m` for fabric port `k` of a partition: the switch port of the port's plane that is cabled to the module; `up` is that
of the switch port and its cable, which the map lists together (R172). -/
def State.reachWord (s : State) (part m k : Nat) : Nat := match s.cableOf k with
  | none => 0
  | some a => match s.topo.find? (fun e => e.plane = a.plane && e.mod = m && e.prt = part) with
    | none => 0
    | some e => e.sw % 1024 + 1024 * (e.rko % 256) + 2 ^ 31 * e.up.toNat

/-- The other modules that the ports of a partition reach, in the order of the map. -/
def State.viewModules (s : State) (part : Nat) (ks : List Nat) : List Nat :=
  ((s.topo.map (·.mod)).eraseDups.filter (fun m => m ≠ s.module_ && ks.any (fun k => s.reachWord part m k ≠ 0))).take 1024

/-- A module entry of the view (R172). -/
def State.moduleEntry (s : State) (part : Nat) (ks : List Nat) (m : Nat) : List Byte :=
  leBytes m 2 ++ leBytes 0 6 ++ (upFrom 0 96).flatMap (fun i => leBytes (match ks[i]? with
    | none => 0
    | some k => s.reachWord part m k) 4) ++ leBytes 0 120

/-- The view of the partition of slot `i` after its `gen`, written from the topology map (R171, R172, R174): the port table at 64, the module table
behind it (log 51). -/
def State.viewImage (s : State) (i : Nat) : List Byte :=
  let part := (s.slotOf i).part
  let ks := s.fabricPorts i
  let ms := s.viewModules part ks
  leBytes s.module_ 2 ++ leBytes part 2 ++ leBytes ks.length 2 ++ leBytes ms.length 2 ++ leBytes 0 4 ++ leBytes 64 8 ++ leBytes (64 + 8 * ks.length) 8
    ++ leBytes 0 32 ++ ks.flatMap s.portEntry ++ ms.flatMap (s.moduleEntry part ks)

/-- The changed bytes of the view of slot `i` written (R173). -/
def State.viewChanges (s : State) (i view : Nat) (bs : List Byte) : State := match s.viewRange i (view + 4) bs.length with
  | none => s
  | some pas => (s.touch pas).writeMem 0 ((pas.zip bs).filter (fun q => s.readByte q.1 ≠ q.2))

/-- The view of slot `i` written anew: `gen` + 1, the changed entries, `gen` + 2 (R173). -/
def State.writeView (s : State) (i view : Nat) : State :=
  let gen := s.viewField i 0 4
  let bs := s.viewImage i
  let s1 := State.viewWrite i view s (0, leBytes (gen + 1) 4)
  let s2 := State.viewWrite i view (s1.viewChanges i view bs) (0, leBytes (gen + 2) 4)
  s2.updSlot i (fun sl => { sl with view := leBytes (gen + 2) 4 ++ bs })

/-- The topology map changed: the views of the other slots' jobs are due to be written too (R173). -/
def State.mapChanged (s : State) (slot : Nat) (changes : List SwitchPort) : State :=
  let due := (upFrom 0 6).filter (fun k => !changes.isEmpty && k ≠ slot && (s.jobOf k).isSome)
  { s with topo := changes.foldl mapPort s.topo, agenda := s.agenda ++ due.map (fun k => .viewUpdate k []) }

/-- VIEW_UPDATE (R171, R173): `changes` are those of the topology map, from which the controller writes the partition's view. -/
def execViewUpdate (slot : Nat) (changes : List SwitchPort) (s : State) : Host.Outcome State Fault Refusal :=
  let t := s.mapChanged slot changes
  match t.jobOf slot with
  | none => .next t
  | some j => .next (if t.topo.isEmpty then t else t.writeView slot j.view)

/-! ### Levels (R396) -/

/-- The clusters of timetabled phases run at n = 32 from their next segment or period boundary on (R74, R396). -/
def State.stretchAll (s : State) : State :=
  (upFrom 0 Config.clusters).foldl (fun s c => match s.slotOfCluster c with
    | none => s
    | some i => if s.timedIn i then s.setCluster c { s.clusterOf c with next := 32 } else s) s

/-- THERMAL_LEVEL_CHANGE (R396, R398 type 13): the level rises; at level 2 every job is held. -/
def execThermalLevelChange (lvl why reading : Nat) (s : State) : Host.Outcome State Fault Refusal :=
  if s.health < lvl && lvl ≤ 2 then
    let s1 := ({ s with health := lvl }.log 13 9 0 (lvl + 4 * (why % 64)) reading).stretchAll
    .next (if lvl = 2 then (upFrom 0 6).foldl State.preemptJob s1 else s1)
  else .next s

/-- LEVEL_FALL (R396, R398 type 13). -/
def execLevelFall (lvl why reading : Nat) (s : State) : Host.Outcome State Fault Refusal :=
  if lvl < s.health then .next ({ s with health := lvl }.log 13 9 0 (lvl + 4 * (why % 64)) reading) else .next s

/-! ### Reset and bring-up (R5, R358, R395) -/

/-- The module after a module reset (R5): every field at its reset value; the dusk record is kept, a boot is counted, memory stands, that of
a secure job whose key is gone is dead (R356). -/
def State.restart (s : State) : State :=
  let t := s.keys.foldl State.sealMemory s
  { State.reset with
    dusk := s.dusk, dcnt := s.dcnt, boots := s.boots + 1, mem := t.mem, dead := t.dead, poisoned := t.poisoned, toHost := s.toHost,
    freeN := t.freeN, nextHid := s.nextHid }

/-- MODULE_RESET (R5). -/
def execModuleReset (s : State) : Host.Outcome State Fault Refusal := .next s.restart

/-- THERMAL_TRIP (R396, R398 type 13): a dusk event, then module reset. -/
def execThermalTrip (why reading : Nat) (s : State) : Host.Outcome State Fault Refusal :=
  .next (s.log 13 9 0 (3 + 4 * (why % 64)) reading).restart

/-- BLOCK_READY (R358, R395, R398 type 12): the security processor stays unready where a boot stage fails its signature check. -/
def execBlockReady (bit failed : Nat) (s : State) : Host.Outcome State Fault Refusal :=
  if bit = 8 && failed ≠ 0 then .next (s.log 12 8 0 (1 + 256 * failed) 0)
  else if bit < 16 then .next { s with readyReg := s.readyReg ||| BitVec.ofNat 16 (2 ^ bit) }
  else .next s

end Sys2Proof.Machine
end

