-- ==== Sys2Proof/Machine/Perm.lean ====
section
/-! DEFINITION. Permutation and mask instructions (R237 to R243). -/

namespace Sys2Proof.Machine

/-- The issue check of the permutation instructions (R78). -/
def chkPerm (s : State) : Option Trap := s.needVtype

/-- VMV (R238): the unit with its tails. -/
def execVmv (_c : Bool) (mk d a : Nat) (s : State) : Host.Outcome State Fault Refusal :=
  s.gate (chkPerm s) (fun s => s.moves mk d (fun h e => h.raw a e))

/-- VMVX (R238). -/
def execVmvx (_c : Bool) (mk d a : Nat) (s : State) : Host.Outcome State Fault Refusal :=
  s.gate (chkPerm s) (fun s =>
    let v := (s.hart.getX a).toNat
    .next (s.upd (fun h => ((h.active mk).foldl (fun h e => h.setBits d e v) (h.dirtyV d)).next)))

/-- The x value of a unit from its slots (R239). -/
def Hart.unitX (h : Hart) (lo hi : Slot) : Word :=
  if fmtWide h.fmt then BitVec.ofNat 64 (lo.data.toNat + 2 ^ 32 * hi.data.toNat)
  else if h.pack = 1 && fmtSigned h.fmt then sx lo.data.toNat (fmtWidth h.fmt)
  else BitVec.ofNat 64 lo.data.toNat

/-- VMVS (R238, R239): unmasked; a unit at or beyond `vl` reads `fill()`. -/
def execVmvs (_c : Bool) (d a b : Nat) (s : State) : Host.Outcome State Fault Refusal :=
  s.gate (chkPerm s) (fun s =>
    let k := (s.hart.getX b).toNat
    .next (s.upd (fun h => (h.setX d (if k < h.vl then h.unitX (h.lowSlot h.fmt a k) (h.highSlot h.fmt a k) else h.unitX h.fill h.fill)).next)))

/-- VSLIDEU (R237, R238). -/
def execVslideu (_c : Bool) (mk d a b : Nat) (s : State) : Host.Outcome State Fault Refusal :=
  s.gate (chkPerm s) (fun s =>
    let o := s.hart
    let k := (o.getX b).toNat
    .next (s.upd (fun h => (((h.active mk).filter (fun e => k ≤ e)).foldl (fun h e => h.setRaw d e (o.raw a (e - k))) (h.dirtyV d)).next)))

/-- vd[e] ← va[src e], read as the register stood before, `fill()` at or beyond `vl` (R237). -/
def State.permute (s : State) (d a : Nat) (src : Nat → Nat) (es : List Nat) : Host.Outcome State Fault Refusal :=
  let o := s.hart
  .next (s.upd (fun h => (es.foldl (fun h e => h.setRaw d e (o.rawOrFill a (src e))) (h.dirtyV d)).next))

/-- VSLIDED (R237, R238). -/
def execVslided (_c : Bool) (mk d a b : Nat) (s : State) : Host.Outcome State Fault Refusal :=
  s.gate (chkPerm s) (fun s => s.permute d a (fun e => e + (s.hart.getX b).toNat) (s.hart.active mk))

/-- VGATH (R237, R238). -/
def execVgath (_c : Bool) (mk d a b : Nat) (s : State) : Host.Outcome State Fault Refusal :=
  s.gate (chkPerm s) (fun s => s.permute d a (fun e => (s.hart.getSlot b e).data.toNat) (s.hart.active mk))

/-- The active elements of [0, `vl`), whatever `vstart` holds (R239). -/
def Hart.allActive (h : Hart) (mk : Nat) : List Nat := (upFrom 0 h.vl).filter (h.maskBit mk)

/-- VCOMP (R238, R239). -/
def execVcomp (_c : Bool) (mk d a : Nat) (s : State) : Host.Outcome State Fault Refusal :=
  s.gate (chkPerm s) (fun s =>
    let o := s.hart
    let src := o.allActive mk
    .next (s.upd (fun h =>
      ((src.zip (upFrom 0 src.length)).foldl (fun h p => h.setRaw d p.2 (o.raw a p.1)) (h.dirtyV d)).next)))

/-- VEXPD (R238, R239). -/
def execVexpd (_c : Bool) (mk d a : Nat) (s : State) : Host.Outcome State Fault Refusal :=
  s.gate (chkPerm s) (fun s =>
    let o := s.hart
    let dst := o.allActive mk
    .next (s.upd (fun h =>
      ((dst.zip (upFrom 0 dst.length)).foldl (fun h p => h.setRaw d p.1 (o.raw a p.2)) (h.dirtyV d)).next)))

/-- VSEL (R238): every element of [`vstart`, `vl`). -/
def execVsel (_c : Bool) (mk d a b : Nat) (s : State) : Host.Outcome State Fault Refusal :=
  s.gate (chkPerm s) (fun s =>
    s.moves 0 d (fun h e => h.raw (if h.maskBit mk e then a else b) e))

/-- The issue check of VPACK (R240). -/
def chkVpack (s : State) : Option Trap := firstTrap s.needVtype (s.illegalIf (s.hart.pack = 1))

/-- VPACK (R240). -/
def execVpack (_c : Bool) (mk d a b : Nat) (s : State) : Host.Outcome State Fault Refusal :=
  s.gate (chkVpack s) (fun s =>
    let o := s.hart
    s.moves mk d (fun _ e => (upFrom 0 o.pack).map (fun j => (o.raw (if j % 2 = 0 then a else b) e).getD (j / 2) ⟨0, 0⟩)))

/-- The issue check of VUNPK (R240). -/
def chkVunpk (k : Nat) (s : State) : Option Trap := firstTrap s.needVtype (s.illegalIf (s.hart.pack = 1 || decide (k ≥ s.hart.pack)))

/-- VUNPK (R240). -/
def execVunpk (_c : Bool) (mk d a k : Nat) (s : State) : Host.Outcome State Fault Refusal :=
  s.gate (chkVunpk k s) (fun s =>
    .next (s.upd (fun h => ((h.active mk).foldl (fun h e =>
      let i := (h.raw a e).getD k ⟨0, 0⟩
      h.setSlot d e ⟨BitVec.ofNat 32 i.enc, BitVec.ofNat 8 i.tail⟩) (h.dirtyV d)).next)))

/-- The issue check of VIOTA (R239). -/
def chkViota (s : State) : Option Trap := firstTrap s.needVtype (s.illegalIf (s.hart.pack > 1))

/-- The 1 bits of mask `m` in [0, n). -/
def Hart.countBelow (h : Hart) (m n : Nat) : Nat := (upFrom 0 n).countP (h.maskBit m)

/-- VIOTA (R238, R239): from element 0 whatever `vstart` holds. -/
def execViota (_c : Bool) (mk d a : Nat) (s : State) : Host.Outcome State Fault Refusal :=
  s.gate (chkViota s) (fun s =>
    .next (s.upd (fun h => ((h.allActive mk).foldl (fun h e => h.setBits d e (h.countBelow a e)) (h.dirtyV d)).next)))

/-! ### Masks (R242, R243) -/

/-- A bitwise mask operation on [`vstart`, `vl`). -/
def State.maskOp (s : State) (d a b : Nat) (f : Bool → Bool → Bool) : Host.Outcome State Fault Refusal :=
  .next (s.upd (fun h => (h.writeMask d (fun e => f (h.maskBit a e) (h.maskBit b e)) h.span).next))

/-- MAND (R243). -/
def execMand (_c : Bool) (d a b : Nat) (s : State) : Host.Outcome State Fault Refusal := s.maskOp d a b (fun x y => x && y)
/-- MOR (R243). -/
def execMor (_c : Bool) (d a b : Nat) (s : State) : Host.Outcome State Fault Refusal := s.maskOp d a b (fun x y => x || y)
/-- MXOR (R243). -/
def execMxor (_c : Bool) (d a b : Nat) (s : State) : Host.Outcome State Fault Refusal := s.maskOp d a b (fun x y => x != y)
/-- MANDN (R243). -/
def execMandn (_c : Bool) (d a b : Nat) (s : State) : Host.Outcome State Fault Refusal := s.maskOp d a b (fun x y => x && !y)

/-- MSET (R243): every element of [0, VLMAX). -/
def execMset (_c : Bool) (d v : Nat) (s : State) : Host.Outcome State Fault Refusal :=
  .next (s.upd (fun h => (h.setMask d (if v = 1 then h.getMask d ||| onesTo h.vlmax else h.getMask d &&& ~~~ (onesTo h.vlmax)) (upFrom 0 h.vlmax)).next))

/-- VCUT (R47, R243). -/
def execVcut (_c : Bool) (d a : Nat) (s : State) : Host.Outcome State Fault Refusal :=
  .next (s.upd (fun h =>
    match (upFrom 0 h.vl).find? (h.maskBit a) with
    | none => (h.setMask d (h.getMask d) []).next
    | some f => (h.setMask d (h.getMask d &&& ~~~ (onesTo h.vl &&& ~~~ (onesTo f))) (upFrom f (h.vl - f))).next))

/-- VPOPM (R243). -/
def execVpopm (_c : Bool) (d a : Nat) (s : State) : Host.Outcome State Fault Refusal :=
  .next (s.upd (fun h => (h.setX d (BitVec.ofNat 64 (h.countBelow a h.vl))).next))

end Sys2Proof.Machine
end

