-- ==== Sys2Proof/Machine/Sha2.lean ====
section
/-! DEFINITION. SHA-384 (FIPS 180-4), the hash of the SPDM responder (R357). -/

namespace Sys2Proof.Machine

/-- The largest r ≤ `r` + 2^`k` − 1 with r^e ≤ n, from the bits below `k`. -/
def rootFrom (e n : Nat) : Nat → Nat → Nat
  | 0, r => r
  | k + 1, r => if (r + 2 ^ k) ^ e ≤ n then rootFrom e n k (r + 2 ^ k) else rootFrom e n k r

/-- The first 64 bits of the fraction of the `e`-th root of `p`. -/
def rootBits (e p : Nat) : BitVec 64 := BitVec.ofNat 64 (rootFrom e (p * 2 ^ (64 * e)) 70 0)

/-- The first 80 primes. -/
def primes80 : List Nat :=
  [2, 3, 5, 7, 11, 13, 17, 19, 23, 29, 31, 37, 41, 43, 47, 53, 59, 61, 67, 71, 73, 79, 83, 89, 97, 101, 103, 107, 109, 113, 127, 131,
   137, 139, 149, 151, 157, 163, 167, 173] ++
  [179, 181, 191, 193, 197, 199, 211, 223, 227, 229, 233, 239, 241, 251, 257, 263, 269, 271, 277, 281, 283, 293, 307, 311, 313, 317,
   331, 337, 347, 349, 353, 359, 367, 373, 379, 383, 389, 397, 401, 409]

/-- The constants K of SHA-512: cube roots of the first 80 primes. -/
def sha2K : List (BitVec 64) := primes80.map (rootBits 3)
/-- The initial value of SHA-384: square roots of the 9th to 16th prime. -/
def sha2Start : List (BitVec 64) := ((primes80.drop 8).take 8).map (rootBits 2)

/-- Big-endian bytes as a number. -/
def beNat (bs : List Byte) : Nat := bs.foldl (fun a b => 256 * a + b.toNat) 0
/-- A number as `n` big-endian bytes. -/
def beBytes (v n : Nat) : List Byte := ((List.range n).map (fun i => BitVec.ofNat 8 (v / 256 ^ i))).reverse

/-- The message schedule: word t from the 16 before it, newest first. -/
def sha2Extend (w : List (BitVec 64)) : List (BitVec 64) :=
  let a := w.getD 14 0
  let b := w.getD 1 0
  let s0 := a.rotateRight 1 ^^^ a.rotateRight 8 ^^^ (a >>> 7)
  let s1 := b.rotateRight 19 ^^^ b.rotateRight 61 ^^^ (b >>> 6)
  (s1 + w.getD 6 0 + s0 + w.getD 15 0) :: w

/-- The schedule extended `n` times. -/
def sha2Schedule : Nat → List (BitVec 64) → List (BitVec 64)
  | 0, w => w
  | n + 1, w => sha2Schedule n (sha2Extend w)

/-- One round on the eight working variables. -/
def sha2Round (v : List (BitVec 64)) (kw : BitVec 64 × BitVec 64) : List (BitVec 64) :=
  match v with
  | [a, b, c, d, e, f, g, h] =>
    let t1 := h + (e.rotateRight 14 ^^^ e.rotateRight 18 ^^^ e.rotateRight 41) + ((e &&& f) ^^^ (~~~e &&& g)) + kw.1 + kw.2
    let t2 := (a.rotateRight 28 ^^^ a.rotateRight 34 ^^^ a.rotateRight 39) + ((a &&& b) ^^^ (a &&& c) ^^^ (b &&& c))
    [t1 + t2, a, b, c, d + t1, e, f, g]
  | _ => v

/-- One block of 128 bytes. -/
def sha2Block (h : List (BitVec 64)) (m : List Byte) : List (BitVec 64) :=
  let w := ((List.range 16).map (fun i => BitVec.ofNat 64 (beNat ((m.drop (8 * i)).take 8)))).reverse
  let ws := (sha2Schedule 64 w).reverse
  (h.zip ((sha2K.zip ws).foldl sha2Round h)).map (fun p => p.1 + p.2)

/-- The blocks of a padded message. -/
def sha2Blocks : Nat → List (BitVec 64) → List Byte → List (BitVec 64)
  | 0, h, _ => h
  | n + 1, h, m => sha2Blocks n (sha2Block h m) (m.drop 128)

/-- The 48-byte SHA-384 digest. -/
def sha384 (m : List Byte) : List Byte :=
  let z := (128 - (m.length + 17) % 128) % 128
  let p := m ++ [0x80] ++ List.replicate z 0 ++ beBytes (8 * m.length) 16
  ((sha2Blocks (p.length / 128) sha2Start p).take 6).flatMap (fun x => beBytes x.toNat 8)

end Sys2Proof.Machine
end

