-- ==== Sys2Proof/Machine/Spdm.lean ====
section
/-! DEFINITION. The security processor as an SPDM 1.3 responder (R356, R357, R395). The message codes are SPDM's own (log 9); what a message
holds is what R357 states of it. Stages: 0 none, 1 version, 2 capabilities, 3 algorithms agreed. -/

namespace Sys2Proof.Machine

/-- A response leaves, and enters the transcript with its request. -/
def State.respond (s : State) (req : List Byte) (code : Nat) (body : List Byte) : State :=
  { s with
    spdm := { s.spdm with transcript := s.spdm.transcript ++ req ++ [BitVec.ofNat 8 code] ++ body }
    toHost := s.toHost ++ [.spdm code body] }

/-- An SPDM ERROR response (R395): it enters no transcript. -/
def State.spdmError (s : State) (code : Nat) : State := { s with toHost := s.toHost ++ [.spdm 0x7f [BitVec.ofNat 8 code]] }

/-- ERROR codes: a request with a bad field, one out of order, one that is not served. -/
def errInvalid : Nat := 0x01
/-- A request out of order. -/
def errUnexpected : Nat := 0x04
/-- A request that is not served. -/
def errUnsupported : Nat := 0x07

/-- A request that needs stage `n` of a security processor that is ready (R358, R395). -/
def State.atStage (s : State) (n : Nat) (f : State → State) : Host.Outcome State Fault Refusal :=
  .next (if s.readyReg.getLsbD 8 && decide (n ≤ s.spdm.stage) then f s else s.spdmError errUnexpected)

/-- The responder at stage `n`. -/
def State.toStage (s : State) (n : Nat) : State := { s with spdm := { s.spdm with stage := n } }

/-- `n` bytes of a free value. -/
def exactly (n : Nat) (bs : List Byte) : List Byte := (bs ++ List.replicate n 0).take n

/-- Fresh random bytes (R356, log 13). -/
def State.random (s : State) (n : Nat) : State × List Byte :=
  ({ s with spdm := { s.spdm with draws := s.spdm.draws + 1 } }, exactly n (Config.randomBytes s.spdm.draws))

/-- The two signatures of a signed response over one transcript hash (R357): RSASSA-PSS of 384 bytes, SLH-DSA of 16,224 bytes. -/
def signatures (transcript : List Byte) : List Byte :=
  exactly 384 (Config.rsaSignature (sha384 transcript)) ++ exactly 16224 (Config.slhSignature (sha384 transcript))

/-- A signed response. -/
def State.respondSigned (s : State) (req : List Byte) (code : Nat) (body : List Byte) : State :=
  s.respond req code (body ++ signatures (s.spdm.transcript ++ req ++ [BitVec.ofNat 8 code] ++ body))

/-- GET_VERSION (R357): version 1.3; the exchange begins anew. -/
def execGetVersion (s : State) : Host.Outcome State Fault Refusal :=
  s.atStage 0 (fun s => ({ s with spdm := { s.spdm with stage := 1, transcript := [], session := none } }).respond [0x84] 0x04 [0x13])

/-- GET_CAPABILITIES (R357). -/
def execGetCapabilities (s : State) : Host.Outcome State Fault Refusal :=
  s.atStage 1 (fun s => (s.toStage 2).respond [0xe1] 0x61 [])

/-- NEGOTIATE_ALGORITHMS (R357): SHA-384 (bit 1 of the offered hashes), RSASSA-PSS and SLH-DSA. -/
def execNegotiateAlgorithms (hash : Nat) (s : State) : Host.Outcome State Fault Refusal :=
  s.atStage 2 (fun s => if hash / 2 % 2 = 1 then (s.toStage 3).respond ([0xe3] ++ leBytes hash 4) 0x63 (leBytes 2 4) else s.spdmError errInvalid)

/-- GET_DIGESTS (R357): the hashes of the chains in slots 0 and 1. -/
def execGetDigests (s : State) : Host.Outcome State Fault Refusal :=
  s.atStage 3 (fun s => s.respond [0x81] 0x01 (sha384 (Config.certificate 0) ++ sha384 (Config.certificate 1)))

/-- GET_CERTIFICATE (R357): part of the chain in slot 0 (RSA-3072) or 1 (SLH-DSA). -/
def execGetCertificate (chain off len : Nat) (s : State) : Host.Outcome State Fault Refusal :=
  s.atStage 3 (fun s => if chain > 1 then s.spdmError errInvalid
    else s.respond ([0x82] ++ leBytes chain 1 ++ leBytes off 2 ++ leBytes len 2) 0x02 (((Config.certificate chain).drop off).take len))

/-- CHALLENGE (R357): the chain's hash, a nonce, and the two signatures. -/
def execChallenge (slot nonce : Nat) (s : State) : Host.Outcome State Fault Refusal :=
  s.atStage 3 (fun s => if slot > 1 then s.spdmError errInvalid
    else
      let r := s.random 32
      r.1.respondSigned ([0x83] ++ leBytes slot 1 ++ leBytes nonce 32) 0x03 (sha384 (Config.certificate slot) ++ r.2))

/-- The content of a measurement for the partition of slot `i` (R357): the view as last written, the descriptor as read, the report area as it
stood at the end of the partition's last job. -/
def State.measurement (s : State) (i index : Nat) : List Byte :=
  if index ≤ 4 then Config.bootMeasurement index
  else if index = 5 then (s.slotOf i).view
  else if index = 6 then (match s.jobOf i with
    | none => []
    | some j => j.image)
  else (s.slotOf i).report

/-- A measurement block: its index, and the hash of its content, or the bytes of index 7 themselves (R357). -/
def State.measureBlock (s : State) (i index : Nat) : List Byte :=
  [BitVec.ofNat 8 index] ++ (if index = 7 then leBytes (s.slotOf i).report.length 2 ++ (s.slotOf i).report
    else leBytes 48 2 ++ sha384 (s.measurement i index))

/-- GET_MEASUREMENTS (R357): index 0 asks for their number, 255 for all. -/
def execGetMeasurements (slot index nonce : Nat) (s : State) : Host.Outcome State Fault Refusal :=
  s.atStage 3 (fun s =>
    let req := [0xe0] ++ leBytes slot 1 ++ leBytes index 1 ++ leBytes nonce 32
    if index = 0 then s.respondSigned req 0x60 [0x07]
    else if index = 255 then s.respondSigned req 0x60 ((upFrom 1 7).flatMap (s.measureBlock slot))
    else if index ≤ 7 then s.respondSigned req 0x60 (s.measureBlock slot index)
    else s.spdmError errInvalid)

/-- KEY_EXCHANGE (R356, R357): a session with an exported secret (log 13). -/
def execKeyExchange (slot share : Nat) (s : State) : Host.Outcome State Fault Refusal :=
  s.atStage 3 (fun s => if slot > 1 then s.spdmError errInvalid
    else
      let d := s.spdm.draws
      let r := s.random 32
      let t := r.1.respondSigned ([0xe4] ++ leBytes slot 1 ++ leBytes share 48) 0x64 r.2
      { t with spdm := { t.spdm with session := some (d, exactly 64 (Config.sessionSecret d share)) } })

/-- The session's secret in the first 64 bytes of the job's report area (R356). -/
def State.giveSecret (s : State) (i : Nat) (secret : List Byte) : State := match s.jobOf i with
  | none => s
  | some j => if j.rpt = 0 || (s.slotOf i).st ≠ 2 then s
    else match s.viewRange i j.rpt 64 with
      | none => s
      | some pas => (s.touch pas).writeMem 0 (pas.zip secret)

/-- FINISH (R356, R357): the session is complete; its secret goes to the job of slot `slot`. -/
def execFinish (slot : Nat) (s : State) : Host.Outcome State Fault Refusal :=
  s.atStage 3 (fun s => match s.spdm.session with
    | none => s.spdmError errUnexpected
    | some (_, secret) =>
      let t := (s.giveSecret slot secret).respond [0xe5] 0x65 []
      { t with spdm := { t.spdm with session := none } })

/-- UNSUPPORTED_SPDM_REQUEST (R395). -/
def execUnsupportedSpdmRequest (code : Nat) (s : State) : Host.Outcome State Fault Refusal :=
  .next { s with toHost := s.toHost ++ [.spdm 0x7f [BitVec.ofNat 8 errUnsupported, BitVec.ofNat 8 code]] }

end Sys2Proof.Machine
end

