-- ==== Sys2Proof/Machine/Tree.lean ====
section
/-! DEFINITION. Topology registers and tree instructions (R265 to R277, R374). -/

namespace Sys2Proof.Machine

/-- A topology element as an instruction writes it: bits 13:12 are 0 (R265). -/
def topoBits (v : Nat) : BitVec 16 := BitVec.ofNat 16 (v &&& 0xcfff)

/-- Element `e` of topology register `n` written; its `vdirty` bit is set (R51). -/
def Hart.putG (h : Hart) (n e : Nat) (v : BitVec 16) : Hart := (h.setG n e v).dirty (40 + n)

/-- The issue check of GFROMV and GTOV: pack 1 and no 64-bit format (R267). -/
def chkTopo (s : State) : Option Trap := firstTrap s.needVtype (s.illegalIf (s.hart.pack > 1 || fmtWide s.hart.fmt))

/-- GFROMV (R267). -/
def execGfromv (_c : Bool) (mk d a : Nat) (s : State) : Host.Outcome State Fault Refusal :=
  s.gate (chkTopo s) (fun s =>
    .next (s.upd (fun h => ((h.active mk).foldl (fun h e => h.putG d e (topoBits (h.getSlot a e).data.toNat)) (h.dirty (40 + d))).next)))

/-- GTOV (R267). -/
def execGtov (_c : Bool) (mk d a : Nat) (s : State) : Host.Outcome State Fault Refusal :=
  s.gate (chkTopo s) (fun s =>
    .next (s.upd (fun h => ((h.active mk).foldl (fun h e =>
      h.setSlot d e ⟨BitVec.ofNat 32 (h.getG a e &&& 0xcfff).toNat, 0⟩) (h.dirtyV d)).next)))

/-! ### Doubling (R266, R270 to R274) -/

/-- link(e) of R266. -/
def Hart.link (h : Hart) (g e : Nat) : Option Nat :=
  let v := h.getG g e
  if v.getLsbD 15 || v.getLsbD 14 || decide (bits v.toNat 11 0 ≥ h.vl) then none else some (bits v.toNat 11 0)

/-- The doubling instructions, with the combining code of R269. -/
inductive TreeKind where
  | up (op : Nat)
  | down (op : Nat)
  | bcast
  | depth
  | anc
  | isanc
  | contract
  | check
  deriving DecidableEq, Repr

/-- Steps of a doubling instruction: 0 for `vl` ≤ 1, else ceil(log2 `vl`) (R270). -/
def stepsFor (vl : Nat) : Nat := if vl ≤ 1 then 0 else Nat.log2 (vl - 1) + 1

/-- The combination of two elements under a combining code: 0 add, 1 max, 2 min (R273). -/
def combElem (f op : Nat) (x y : Image) : Image × BitVec 5 :=
  match op with
  | 0 => if fmtFloat f then addFlt f x y else addInt f x y
  | 1 => if fmtFloat f then maxFlt f x y else maxInt f x y
  | _ => if fmtFloat f then minFlt f x y else minInt f x y

/-- comb(x, y) of R272, into the place of `own`: an absent side gives the other. -/
def Partial.comb (own : Partial) (f op : Nat) (x y : Partial) : Partial :=
  if !x.has then { own with has := y.has, slot := y.slot }
  else if !y.has then { own with has := x.has, slot := x.slot }
  else
    let r := combElem f op (subImage f 1 x.slot 0) (subImage f 1 y.slot 0)
    { own with has := true, slot := slotOfUnit f 1 [r.1], flags := own.flags ||| r.2 }

/-- start(e) of R272; `mb` says which elements TCONTRACT keeps. TCONTRACT's also holds what its result needs of the sources: g[e] and
mb[e] (R274, R276). -/
def Hart.treeStart (h : Hart) (k : TreeKind) (a g : Nat) (mb : Nat → Bool) (act : Bool) (e : Nat) : Partial :=
  let none' : Partial := ⟨false, Slot.zero, none, 0, 0, 0⟩
  let d := (h.getSlot a e).data.toNat
  match k with
  | .up _ => { none' with has := act, slot := h.getSlot a e }
  | .down _ => { none' with has := act, slot := h.getSlot a e }
  | .bcast => { none' with has := act, slot := h.getSlot a e }
  | .depth => { none' with num := if (h.link g e).isSome then 1 else 0 }
  | .anc => { none' with cur := some e, num := d }
  | .isanc => { none' with cur := some e, num := bits d 31 16, cand := bits d 11 0 }
  | .contract =>
    let own : Partial := { none' with slot := ⟨BitVec.ofNat 32 (h.getG g e).toNat, 0⟩, cand := if mb e then 1 else 0 }
    match h.link g e with
    | none => { own with cur := some e }
    | some p => { own with has := mb p, num := p, cur := some p }
  | .check => none'

/-- The partial value at an index. -/
def partAt (x : List Partial) (i : Nat) : Partial := x.getD i ⟨false, Slot.zero, none, 0, 0, 0⟩

/-- X'(e) of step `st` (R272). -/
def treeStep (k : TreeKind) (f st : Nat) (j : List (Option Nat)) (x : List Partial) (e : Nat) : Partial :=
  let o := partAt x e
  let je := j.getD e none
  match k with
  | .depth => match je with
    | none => o
    | some p => { o with num := o.num + (partAt x p).num }
  | .down op => match je with
    | none => o
    | some p => o.comb f op (partAt x p) o
  | .up op => ((upFrom 0 x.length).filter (fun g => j.getD g none = some e)).foldl (fun a g => a.comb f op a (partAt x g)) o
  | .bcast => match je with
    | none => o
    | some p => if !o.has && (partAt x p).has then { o with has := true, slot := (partAt x p).slot } else o
  | .anc => if o.num / 2 ^ st % 2 = 1 then { o with cur := o.cur.bind (fun c => j.getD c none) } else o
  | .isanc => if o.num / 2 ^ st % 2 = 1 then { o with cur := o.cur.bind (fun c => j.getD c none) } else o
  | .contract =>
    let o1 := match je with
      | none => o
      | some p => if !o.has && (partAt x p).has then { o with has := true, num := (partAt x p).num } else o
    { o1 with cur := o.cur.bind (fun r => (partAt x r).cur) }
  | .check => o

/-- The steps from `st` on: J and X after the last (R270). -/
def treeSteps (k : TreeKind) (f vl : Nat) : Nat → Nat → List (Option Nat) → List Partial → List (Option Nat) × List Partial
  | 0, _, j, x => (j, x)
  | n + 1, st, j, x =>
    treeSteps k f vl n (st + 1) (j.map (fun p => p.bind (fun q => j.getD q none))) ((upFrom 0 vl).map (treeStep k f st j x))

/-- The result of element `e` written (R272, R274, R374). TUP, TDOWN and TBCAST write an element image (R87): at an integer format its tail is 0, while
R272 has TBCAST carry the tail (R102), as moves do with whatever stands in the slot (DESIGN CHOICE, log 25). -/
def Hart.treeWrite (h o : Hart) (k : TreeKind) (d l : Nat) (j : List (Option Nat)) (x : List Partial)
    (act : List Bool) (e : Nat) : Hart :=
  let v := partAt x e
  let a := act.getD e false
  let word (n : Nat) : Slot := ⟨BitVec.ofNat 32 n, 0⟩
  let el : Slot := slotOfUnit o.fmt 1 [subImage o.fmt 1 v.slot 0]
  match k with
  | .up _ => if a then h.setSlot d e el else h
  | .down _ => if a then h.setSlot d e el else h
  | .bcast => if v.has then h.setSlot d e el else h
  | .depth => if a then h.setSlot d e (word v.num) else h
  | .anc => if a then h.setSlot d e (word (match v.cur with
      | some c => if v.num < 2 ^ l then c else 0xffffffff
      | none => 0xffffffff)) else h
  | .isanc => if a then h.writeMask d (fun _ => decide (v.num < 2 ^ l) && decide (v.cur = some v.cand)) [e] else h
  | .contract =>
    let cyc := (j.getD e none).isSome
    let p := (partAt x (v.cur.getD e)).slot.data
    h.putG d e (if cyc || v.cand = 0 then 0x8000
      else if v.has then topoBits v.num
      else if !p.getLsbD 15 && p.getLsbD 14 then BitVec.ofNat 16 (0x4000 + bits p.toNat 11 0)
      else 0x8000)
  | .check => h.writeMask d (fun _ => (j.getD e none).isSome) [e]

/-- The `vdirty` bit of the destination (R51). -/
def Hart.dirtyTree (h : Hart) (k : TreeKind) (d : Nat) : Hart :=
  match k with
  | .isanc => h.setMask d (h.getMask d) []
  | .check => h.setMask d (h.getMask d) []
  | .contract => h.dirty (40 + d)
  | _ => h.dirtyV d

/-- The issue check of a doubling instruction (R268, R276). -/
def chkTree (classed : Bool) (s : State) : Option Trap :=
  let h := s.hart
  let v := h.vstart.toNat
  let resume := v % 4096 = 0 && decide (v / 4096 < stepsFor h.vl) && h.vdirty.getLsbD 56 && (match h.tree with
    | none => false
    | some t => t.word = h.cur.word && t.vl = h.vl)
  firstTrap s.needVtype (s.illegalIf (h.pack > 1 || fmtWide h.fmt || (classed && !(fmtInt h.fmt || fmtFloat h.fmt))
    || (v ≠ 0 && !resume)))

/-- A doubling instruction behind its check: `a` values, `g` forest, `mb` the kept set of TCONTRACT (R270). It stops before the step that the
cursor names, with its working state held and `tws` set (R49, R276). -/
def State.doubling (s : State) (k : TreeKind) (mk d a g mb : Nat) : Host.Outcome State Fault Refusal :=
  let o := s.hart
  let l := stepsFor o.vl
  let st := o.vstart.toNat / 4096
  let es := upFrom 0 o.vl
  let kept (e : Nat) : Bool := o.maskBit mb e
  let w : TreeState := match st, o.tree with
    | _ + 1, some t => t
    | _, _ =>
      let act := es.map (o.maskBit mk)
      ⟨o.cur.word, o.vl, es.map (o.link g), es.map (fun e => o.treeStart k a g kept (o.maskBit mk e) e), act⟩
  if st < o.cur.stop && o.cur.stop < l then
    let r := treeSteps k o.fmt o.vl (o.cur.stop - st) st w.ptr w.val
    .next (s.upd (fun h => Hart.dirty { h with tree := some { w with ptr := r.1, val := r.2 }, vstart := BitVec.ofNat 32 (4096 * o.cur.stop) } 56))
  else
  let r := treeSteps k o.fmt o.vl (l - st) st w.ptr w.val
  let cyc (e : Nat) : Bool := (r.1.getD e none).isSome
  let fl := es.foldl (fun f e => f ||| (if k = .check then 0 else if cyc e then flNV else (partAt r.2 e).flags)) 0
  .next (s.upd (fun h =>
    let h1 := es.foldl (fun h e => h.treeWrite o k d l r.1 r.2 w.act e) (if o.vl = 0 then h else h.dirtyTree k d)
    (Hart.raise { h1 with tree := none, vdirty := h1.vdirty &&& ~~~ (BitVec.ofNat 64 (2 ^ 56)) } fl).next))

/-- TUP (R272). -/
def execTup (_c : Bool) (mk d a b y : Nat) (s : State) : Host.Outcome State Fault Refusal :=
  s.gate (chkTree true s) (fun s => s.doubling (.up y) mk d a b 0)
/-- TDOWN (R272). -/
def execTdown (_c : Bool) (mk d a b y : Nat) (s : State) : Host.Outcome State Fault Refusal :=
  s.gate (chkTree true s) (fun s => s.doubling (.down y) mk d a b 0)
/-- TBCAST (R272). -/
def execTbcast (_c : Bool) (mk d a b : Nat) (s : State) : Host.Outcome State Fault Refusal :=
  s.gate (chkTree false s) (fun s => s.doubling .bcast mk d a b 0)
/-- TDEPTH (R272). -/
def execTdepth (_c : Bool) (mk d a : Nat) (s : State) : Host.Outcome State Fault Refusal :=
  s.gate (chkTree false s) (fun s => s.doubling .depth mk d 0 a 0)
/-- TANC (R272). -/
def execTanc (_c : Bool) (mk d a b : Nat) (s : State) : Host.Outcome State Fault Refusal :=
  s.gate (chkTree false s) (fun s => s.doubling .anc mk d a b 0)
/-- TISANC (R272). -/
def execTisanc (_c : Bool) (mk d a b : Nat) (s : State) : Host.Outcome State Fault Refusal :=
  s.gate (chkTree false s) (fun s => s.doubling .isanc mk d a b 0)
/-- TCONTRACT (R272, R274). -/
def execTcontract (_c : Bool) (d a b : Nat) (s : State) : Host.Outcome State Fault Refusal :=
  s.gate (chkTree false s) (fun s => s.doubling .contract 0 d 0 a b)
/-- TCHECK (R271, R272). -/
def execTcheck (_c : Bool) (d a : Nat) (s : State) : Host.Outcome State Fault Refusal :=
  s.gate (chkTree false s) (fun s => s.doubling .check 0 d 0 a 0)

end Sys2Proof.Machine
end

