-- ==== Sys2Proof/Machine/VConfig.lean ====
section
/-! DEFINITION. Vector configuration, pointers and loop control (R187, R221 to R226). -/

namespace Sys2Proof.Machine

/-- The pack field that VSETT writes (R187): the logarithm of the larger pack when `pk` is 1. -/
def packField (f pk : Nat) : Nat := if pk = 1 && fmtListed f && f ≠ 9 then Nat.log2 (naturalPack f) else 0

/-- VSETT (R187, R221): `vtype` as encoded, `vl` 0; `vstart` stays. -/
def execVsett (t g p k n l o f : Nat) (s : State) : Host.Outcome State Fault Refusal :=
  let w := f + 2 ^ 5 * packField f p + 2 ^ 8 * g + 2 ^ 12 * k + 2 ^ 16 * o + 2 ^ 19 * t + 2 ^ 20 * n + 2 ^ 24 * l
  .next (s.upd (fun h => { h with vtype := BitVec.ofNat 64 w, vl := 0 }.step4))

/-- The issue check of STRIP (R78, R222). -/
def chkStrip (s : State) : Option Trap := s.needVtype

/-- The pointers that a STRIP's mask names, advanced by `vl` × size (R222). -/
def Hart.advancePointers (h : Hart) (p : Nat) : Hart :=
  (upFrom 0 8).foldl (fun h i =>
    if p / 2 ^ i % 2 = 1 then
      let q := h.getP i
      h.setP i { q with addr := q.addr + BitVec.ofNat 64 (h.vl * q.size) }
    else h) h

/-- STRIP (R222). -/
def execStrip (d p : Nat) (s : State) : Host.Outcome State Fault Refusal :=
  s.gate (chkStrip s) (fun s =>
    let g := if fmtWide s.hart.fmt then s.grant / 2 else s.grant
    let c := if s.hart.cap = 0 then 4096 else 2 ^ (s.hart.cap - 1)
    let n := (s.hart.getX d).toNat
    let v := min n (min g c)
    .next (s.upd (fun h => ({ h.advancePointers p with vl := v }.setX d (BitVec.ofNat 64 (n - v))).step4)))

/-- VSETC (R223). -/
def execVsetc (a : Nat) (s : State) : Host.Outcome State Fault Refusal :=
  .next (s.upd (fun h => { h with vlc := min (h.getX a).toNat 4096 }.step4))

/-- PSET (R224). -/
def execPset (d a k : Nat) (s : State) : Host.Outcome State Fault Refusal :=
  .next (s.upd (fun h => (h.setP d ⟨h.getX a, 2 ^ k⟩).step4))

/-- PGET (R224). -/
def execPget (d a : Nat) (s : State) : Host.Outcome State Fault Refusal :=
  .next (s.upd (fun h => (h.setX d (h.getP a).addr).step4))

/-- A branch of the vector loop instructions: by `off` words from here when `c` holds (R225, R226). -/
def State.vbranch (s : State) (c : Bool) (off : Int) : Host.Outcome State Fault Refusal :=
  .next (s.upd (fun h => if c then { h.step4 with pc := h.pc + ofInt (4 * off) } else h.step4))

/-- VLOOP (R14, R225); `e` is the depth less 1. -/
def execVloop (e a : Nat) (off : Int) (s : State) : Host.Outcome State Fault Refusal :=
  let n := (s.hart.getX a).toNat - 1
  let h1 := { s.hart.setX a (BitVec.ofNat 64 n) with vrot := s.hart.vrot - 1 }
  let h2 := h1.setMask 4 (if n ≠ 0 then onesTo h1.vlmax else 0) (upFrom 0 h1.vlmax)
  let live := (upFrom 4 (e + 1)).any (fun m => (h2.getMask m &&& onesTo h2.vlmax) ≠ 0)
  { s with hart := h2 }.vbranch live off

/-- VBANY (R226). -/
def execVbany (k : Nat) (off : Int) (s : State) : Host.Outcome State Fault Refusal :=
  s.vbranch ((s.hart.getMask k &&& onesTo s.hart.vl) ≠ 0) off

/-- VBNONE (R226). -/
def execVbnone (k : Nat) (off : Int) (s : State) : Host.Outcome State Fault Refusal :=
  s.vbranch ((s.hart.getMask k &&& onesTo s.hart.vl) = 0) off

end Sys2Proof.Machine
end

