-- ==== Sys2Proof/Machine/Dispatch.lean ====
section
/-! DEFINITION. One arm per row of spec/opcode_table.json: the meaning of each instruction and of each step of another agent. -/

namespace Sys2Proof.Machine

/-- The meaning of `i` in the state `s`. -/
def exec (i : Instr) (s : State) : Host.Outcome State Fault Refusal :=
  match i with
  | .moduleReset => Sys2Proof.Machine.execModuleReset s
  | .blockReady bit failed => Sys2Proof.Machine.execBlockReady bit failed s
  | .jstart slot desc => Sys2Proof.Machine.execJstart slot desc s
  | .jctlCancel slot => Sys2Proof.Machine.execJctlCancel slot s
  | .jctlHold slot => Sys2Proof.Machine.execJctlHold slot s
  | .jctlResume slot => Sys2Proof.Machine.execJctlResume slot s
  | .dclr => Sys2Proof.Machine.execDclr s
  | .hostRegisterWrite off val => Sys2Proof.Machine.execHostRegisterWrite off val s
  | .hostRead space addr len tag => Sys2Proof.Machine.execHostRead space addr len tag s
  | .hostPostedWrite addr bytes relaxed => Sys2Proof.Machine.execHostPostedWrite addr bytes relaxed s
  | .hostAccessAfterClaim k => Sys2Proof.Machine.execHostAccessAfterClaim k s
  | .hostClaimTimeout k => Sys2Proof.Machine.execHostClaimTimeout k s
  | .tdispExitRun slot => Sys2Proof.Machine.execTdispExitRun slot s
  | .hostLinkFailure why => Sys2Proof.Machine.execHostLinkFailure why s
  | .getVersion => Sys2Proof.Machine.execGetVersion s
  | .getCapabilities => Sys2Proof.Machine.execGetCapabilities s
  | .negotiateAlgorithms hash => Sys2Proof.Machine.execNegotiateAlgorithms hash s
  | .getDigests => Sys2Proof.Machine.execGetDigests s
  | .getCertificate chain off len => Sys2Proof.Machine.execGetCertificate chain off len s
  | .challenge slot nonce => Sys2Proof.Machine.execChallenge slot nonce s
  | .getMeasurements slot index nonce => Sys2Proof.Machine.execGetMeasurements slot index nonce s
  | .keyExchange slot share => Sys2Proof.Machine.execKeyExchange slot share s
  | .finish slot => Sys2Proof.Machine.execFinish slot s
  | .countDown slot handle n issuer => Sys2Proof.Machine.execCountDown slot handle n issuer s
  | .hartCancel hid => Sys2Proof.Machine.execHartCancel hid s
  | .cancellationComplete slot handle => Sys2Proof.Machine.execCancellationComplete slot handle s
  | .launchPlacement cl core grant => Sys2Proof.Machine.execLaunchPlacement cl core grant s
  | .preemption hid => Sys2Proof.Machine.execPreemption hid s
  | .issueTurn cl core => Sys2Proof.Machine.execIssueTurn cl core s
  | .laneCountChange cl core lanes => Sys2Proof.Machine.execLaneCountChange cl core lanes s
  | .clockStretch cl n => Sys2Proof.Machine.execClockStretch cl n s
  | .periodBoundary cl => Sys2Proof.Machine.execPeriodBoundary cl s
  | .periodLimit slot => Sys2Proof.Machine.execPeriodLimit slot s
  | .daybreakPulse cl => Sys2Proof.Machine.execDaybreakPulse cl s
  | .bankTwilight cl slice bank => Sys2Proof.Machine.execBankTwilight cl slice bank s
  | .bankWake cl slice bank => Sys2Proof.Machine.execBankWake cl slice bank s
  | .asyncInterrupt => Sys2Proof.Machine.execAsyncInterrupt s
  | .claimArrival hid va n => Sys2Proof.Machine.execClaimArrival hid va n s
  | .atomicArrival hid va op w operand => Sys2Proof.Machine.execAtomicArrival hid va op w operand s
  | .copyEngineOperation hid => Sys2Proof.Machine.execCopyEngineOperation hid s
  | .feedQueueFillResume hid fq => Sys2Proof.Machine.execFeedQueueFillResume hid fq s
  | .collectiveDrain slot launch => Sys2Proof.Machine.execCollectiveDrain slot launch s
  | .barrierRelease slot launch k => Sys2Proof.Machine.execBarrierRelease slot launch k s
  | .haltComplete hid => Sys2Proof.Machine.execHaltComplete hid s
  | .packetHop p => Sys2Proof.Machine.execPacketHop p s
  | .putPacket p => Sys2Proof.Machine.execPutPacket p s
  | .getRequest p => Sys2Proof.Machine.execGetRequest p s
  | .getReply p => Sys2Proof.Machine.execGetReply p s
  | .signalPacket p => Sys2Proof.Machine.execSignalPacket p s
  | .acknowledgment dst seq => Sys2Proof.Machine.execAcknowledgment dst seq s
  | .messageClaimTimeout k => Sys2Proof.Machine.execMessageClaimTimeout k s
  | .reportArrival hid r => Sys2Proof.Machine.execReportArrival hid r s
  | .retransmitTimeout dst seq => Sys2Proof.Machine.execRetransmitTimeout dst seq s
  | .flitCrcError port tries => Sys2Proof.Machine.execFlitCrcError port tries s
  | .linkDown port => Sys2Proof.Machine.execLinkDown port s
  | .viewUpdate slot changes => Sys2Proof.Machine.execViewUpdate slot changes s
  | .logRecordWrite hid => Sys2Proof.Machine.execLogRecordWrite hid s
  | .mtimerExpiry desc => Sys2Proof.Machine.execMtimerExpiry desc s
  | .partitionReset slot why => Sys2Proof.Machine.execPartitionReset slot why s
  | .partitionDrainEnd slot us => Sys2Proof.Machine.execPartitionDrainEnd slot us s
  | .thermalLevelChange lvl why reading => Sys2Proof.Machine.execThermalLevelChange lvl why reading s
  | .levelFall lvl why reading => Sys2Proof.Machine.execLevelFall lvl why reading s
  | .thermalTrip why reading => Sys2Proof.Machine.execThermalTrip why reading s
  | .laneRetirement cl core lane corrections => Sys2Proof.Machine.execLaneRetirement cl core lane corrections s
  | .scrub cl slice => Sys2Proof.Machine.execScrub cl slice s
  | .illegalInstruction word pos => Sys2Proof.Machine.execIllegalInstruction word pos s
  | .fetchFault va pos => Sys2Proof.Machine.execFetchFault va pos s
  | .tdispEnterRun slot => Sys2Proof.Machine.execTdispEnterRun slot s
  | .partitionBinding slot part clus regions => Sys2Proof.Machine.execPartitionBinding slot part clus regions s
  | .hostWindowCompletion pa len err write => Sys2Proof.Machine.execHostWindowCompletion pa len err write s
  | .unsupportedSpdmRequest code => Sys2Proof.Machine.execUnsupportedSpdmRequest code s
  | .lui d imm => Sys2Proof.Machine.execLui d imm s
  | .auipc d imm => Sys2Proof.Machine.execAuipc d imm s
  | .jal d off => Sys2Proof.Machine.execJal d off s
  | .jalr d a imm => Sys2Proof.Machine.execJalr d a imm s
  | .beq a b off => Sys2Proof.Machine.execBeq a b off s
  | .bne a b off => Sys2Proof.Machine.execBne a b off s
  | .blt a b off => Sys2Proof.Machine.execBlt a b off s
  | .bge a b off => Sys2Proof.Machine.execBge a b off s
  | .bltu a b off => Sys2Proof.Machine.execBltu a b off s
  | .bgeu a b off => Sys2Proof.Machine.execBgeu a b off s
  | .lb d a imm => Sys2Proof.Machine.execLb d a imm s
  | .lh d a imm => Sys2Proof.Machine.execLh d a imm s
  | .lw d a imm => Sys2Proof.Machine.execLw d a imm s
  | .ld d a imm => Sys2Proof.Machine.execLd d a imm s
  | .lbu d a imm => Sys2Proof.Machine.execLbu d a imm s
  | .lhu d a imm => Sys2Proof.Machine.execLhu d a imm s
  | .lwu d a imm => Sys2Proof.Machine.execLwu d a imm s
  | .sb a b off => Sys2Proof.Machine.execSb a b off s
  | .sh a b off => Sys2Proof.Machine.execSh a b off s
  | .sw a b off => Sys2Proof.Machine.execSw a b off s
  | .sd a b off => Sys2Proof.Machine.execSd a b off s
  | .addi d a imm => Sys2Proof.Machine.execAddi d a imm s
  | .slti d a imm => Sys2Proof.Machine.execSlti d a imm s
  | .sltiu d a imm => Sys2Proof.Machine.execSltiu d a imm s
  | .xori d a imm => Sys2Proof.Machine.execXori d a imm s
  | .ori d a imm => Sys2Proof.Machine.execOri d a imm s
  | .andi d a imm => Sys2Proof.Machine.execAndi d a imm s
  | .slli d a sf => Sys2Proof.Machine.execSlli d a sf s
  | .srli d a sf => Sys2Proof.Machine.execSrli d a sf s
  | .srai d a sf => Sys2Proof.Machine.execSrai d a sf s
  | .add d a b => Sys2Proof.Machine.execAdd d a b s
  | .sub d a b => Sys2Proof.Machine.execSub d a b s
  | .sll d a b => Sys2Proof.Machine.execSll d a b s
  | .slt d a b => Sys2Proof.Machine.execSlt d a b s
  | .sltu d a b => Sys2Proof.Machine.execSltu d a b s
  | .xor d a b => Sys2Proof.Machine.execXor d a b s
  | .srl d a b => Sys2Proof.Machine.execSrl d a b s
  | .sra d a b => Sys2Proof.Machine.execSra d a b s
  | .or d a b => Sys2Proof.Machine.execOr d a b s
  | .and d a b => Sys2Proof.Machine.execAnd d a b s
  | .mul d a b => Sys2Proof.Machine.execMul d a b s
  | .mulh d a b => Sys2Proof.Machine.execMulh d a b s
  | .mulhsu d a b => Sys2Proof.Machine.execMulhsu d a b s
  | .mulhu d a b => Sys2Proof.Machine.execMulhu d a b s
  | .div d a b => Sys2Proof.Machine.execDiv d a b s
  | .divu d a b => Sys2Proof.Machine.execDivu d a b s
  | .rem d a b => Sys2Proof.Machine.execRem d a b s
  | .remu d a b => Sys2Proof.Machine.execRemu d a b s
  | .addiw d a imm => Sys2Proof.Machine.execAddiw d a imm s
  | .slliw d a sf => Sys2Proof.Machine.execSlliw d a sf s
  | .srliw d a sf => Sys2Proof.Machine.execSrliw d a sf s
  | .sraiw d a sf => Sys2Proof.Machine.execSraiw d a sf s
  | .addw d a b => Sys2Proof.Machine.execAddw d a b s
  | .subw d a b => Sys2Proof.Machine.execSubw d a b s
  | .sllw d a b => Sys2Proof.Machine.execSllw d a b s
  | .srlw d a b => Sys2Proof.Machine.execSrlw d a b s
  | .sraw d a b => Sys2Proof.Machine.execSraw d a b s
  | .mulw d a b => Sys2Proof.Machine.execMulw d a b s
  | .divw d a b => Sys2Proof.Machine.execDivw d a b s
  | .divuw d a b => Sys2Proof.Machine.execDivuw d a b s
  | .remw d a b => Sys2Proof.Machine.execRemw d a b s
  | .remuw d a b => Sys2Proof.Machine.execRemuw d a b s
  | .fence d a f p sf => Sys2Proof.Machine.execFence d a f p sf s
  | .ecall => Sys2Proof.Machine.execEcall s
  | .ebreak => Sys2Proof.Machine.execEbreak s
  | .csrrw d csr a => Sys2Proof.Machine.execCsrrw d csr a s
  | .csrrs d csr a => Sys2Proof.Machine.execCsrrs d csr a s
  | .csrrc d csr a => Sys2Proof.Machine.execCsrrc d csr a s
  | .csrrwi d csr uimm => Sys2Proof.Machine.execCsrrwi d csr uimm s
  | .csrrsi d csr uimm => Sys2Proof.Machine.execCsrrsi d csr uimm s
  | .csrrci d csr uimm => Sys2Proof.Machine.execCsrrci d csr uimm s
  | .strip d p => Sys2Proof.Machine.execStrip d p s
  | .vsetc a => Sys2Proof.Machine.execVsetc a s
  | .pset d a sf => Sys2Proof.Machine.execPset d a sf s
  | .pget d a => Sys2Proof.Machine.execPget d a s
  | .vloop e a off => Sys2Proof.Machine.execVloop e a off s
  | .vbany k off => Sys2Proof.Machine.execVbany k off s
  | .vbnone k off => Sys2Proof.Machine.execVbnone k off s
  | .vsett t g p sf n l o f => Sys2Proof.Machine.execVsett t g p sf n l o f s
  | .vld c mk d a => Sys2Proof.Machine.execVld c mk d a s
  | .vlds c mk d a b => Sys2Proof.Machine.execVlds c mk d a b s
  | .vldx c mk d a b => Sys2Proof.Machine.execVldx c mk d a b s
  | .vldf c mk d a => Sys2Proof.Machine.execVldf c mk d a s
  | .vldxf c mk d a b => Sys2Proof.Machine.execVldxf c mk d a b s
  | .vst c mk d a => Sys2Proof.Machine.execVst c mk d a s
  | .vsts c mk d a b => Sys2Proof.Machine.execVsts c mk d a b s
  | .vstx c mk d a b => Sys2Proof.Machine.execVstx c mk d a b s
  | .vldp c mk d a => Sys2Proof.Machine.execVldp c mk d a s
  | .vstp c mk d a => Sys2Proof.Machine.execVstp c mk d a s
  | .vspill c mk d a => Sys2Proof.Machine.execVspill c mk d a s
  | .vreload c mk d a => Sys2Proof.Machine.execVreload c mk d a s
  | .qld c t d a => Sys2Proof.Machine.execQld c t d a s
  | .vldt c mk d a f => Sys2Proof.Machine.execVldt c mk d a f s
  | .vmv c mk d a => Sys2Proof.Machine.execVmv c mk d a s
  | .vmvx c mk d a => Sys2Proof.Machine.execVmvx c mk d a s
  | .vmvs c d a b => Sys2Proof.Machine.execVmvs c d a b s
  | .vslideu c mk d a b => Sys2Proof.Machine.execVslideu c mk d a b s
  | .vslided c mk d a b => Sys2Proof.Machine.execVslided c mk d a b s
  | .vgath c mk d a b => Sys2Proof.Machine.execVgath c mk d a b s
  | .vcomp c mk d a => Sys2Proof.Machine.execVcomp c mk d a s
  | .vexpd c mk d a => Sys2Proof.Machine.execVexpd c mk d a s
  | .vsel c mk d a b => Sys2Proof.Machine.execVsel c mk d a b s
  | .vpack c mk d a b => Sys2Proof.Machine.execVpack c mk d a b s
  | .vunpk c mk d a sf => Sys2Proof.Machine.execVunpk c mk d a sf s
  | .viota c mk d a => Sys2Proof.Machine.execViota c mk d a s
  | .mand c d a b => Sys2Proof.Machine.execMand c d a b s
  | .mor c d a b => Sys2Proof.Machine.execMor c d a b s
  | .mxor c d a b => Sys2Proof.Machine.execMxor c d a b s
  | .mandn c d a b => Sys2Proof.Machine.execMandn c d a b s
  | .mset c d v => Sys2Proof.Machine.execMset c d v s
  | .vcut c d a => Sys2Proof.Machine.execVcut c d a s
  | .vpopm c d a => Sys2Proof.Machine.execVpopm c d a s
  | .vadd c mk d a b => Sys2Proof.Machine.execVadd c mk d a b s
  | .vsub c mk d a b => Sys2Proof.Machine.execVsub c mk d a b s
  | .vmul c mk d a b => Sys2Proof.Machine.execVmul c mk d a b s
  | .vmulh c mk d a b => Sys2Proof.Machine.execVmulh c mk d a b s
  | .vdiv c mk d a b => Sys2Proof.Machine.execVdiv c mk d a b s
  | .vrem c mk d a b => Sys2Proof.Machine.execVrem c mk d a b s
  | .vmin c mk d a b => Sys2Proof.Machine.execVmin c mk d a b s
  | .vmax c mk d a b => Sys2Proof.Machine.execVmax c mk d a b s
  | .vand c mk d a b => Sys2Proof.Machine.execVand c mk d a b s
  | .vor c mk d a b => Sys2Proof.Machine.execVor c mk d a b s
  | .vxor c mk d a b => Sys2Proof.Machine.execVxor c mk d a b s
  | .vsll c mk d a b => Sys2Proof.Machine.execVsll c mk d a b s
  | .vsrl c mk d a b => Sys2Proof.Machine.execVsrl c mk d a b s
  | .vsra c mk d a b => Sys2Proof.Machine.execVsra c mk d a b s
  | .vadds c mk d a b => Sys2Proof.Machine.execVadds c mk d a b s
  | .vaddsSub c mk d a b => Sys2Proof.Machine.execVaddsSub c mk d a b s
  | .vicmp c mk d a b y => Sys2Proof.Machine.execVicmp c mk d a b y s
  | .vfadd c mk d a b => Sys2Proof.Machine.execVfadd c mk d a b s
  | .vfsub c mk d a b => Sys2Proof.Machine.execVfsub c mk d a b s
  | .vfmul c mk d a b => Sys2Proof.Machine.execVfmul c mk d a b s
  | .vffma c mk d a b => Sys2Proof.Machine.execVffma c mk d a b s
  | .vfmin c mk d a b => Sys2Proof.Machine.execVfmin c mk d a b s
  | .vfmax c mk d a b => Sys2Proof.Machine.execVfmax c mk d a b s
  | .vfcmp c mk d a b y => Sys2Proof.Machine.execVfcmp c mk d a b y s
  | .vfcmpF c mk d a b y => Sys2Proof.Machine.execVfcmpF c mk d a b y s
  | .vfcvt c mk d a f => Sys2Proof.Machine.execVfcvt c mk d a f s
  | .vfrnd c mk d a o => Sys2Proof.Machine.execVfrnd c mk d a o s
  | .vfcls c mk d a => Sys2Proof.Machine.execVfcls c mk d a s
  | .vfabs c mk d a => Sys2Proof.Machine.execVfabs c mk d a s
  | .vfdiv c mk d a b => Sys2Proof.Machine.execVfdiv c mk d a b s
  | .vfsqrt c mk d a => Sys2Proof.Machine.execVfsqrt c mk d a s
  | .vrsqe c mk d a => Sys2Proof.Machine.execVrsqe c mk d a s
  | .vrcpe c mk d a => Sys2Proof.Machine.execVrcpe c mk d a s
  | .vexp c mk d a => Sys2Proof.Machine.execVexp c mk d a s
  | .vlog c mk d a => Sys2Proof.Machine.execVlog c mk d a s
  | .vsigm c mk d a => Sys2Proof.Machine.execVsigm c mk d a s
  | .vtanh c mk d a => Sys2Proof.Machine.execVtanh c mk d a s
  | .vredsum c mk d a b => Sys2Proof.Machine.execVredsum c mk d a b s
  | .vredtree c mk d a b => Sys2Proof.Machine.execVredtree c mk d a b s
  | .vredx c mk a q => Sys2Proof.Machine.execVredx c mk a q s
  | .vred c mk d a o => Sys2Proof.Machine.execVred c mk d a o s
  | .vscan c mk d a o => Sys2Proof.Machine.execVscan c mk d a o s
  | .vffs c mk d a => Sys2Proof.Machine.execVffs c mk d a s
  | .laget c d f => Sys2Proof.Machine.execLaget c d f s
  | .laclr c => Sys2Proof.Machine.execLaclr c s
  | .smx c mk d a b => Sys2Proof.Machine.execSmx c mk d a b s
  | .vrng c mk d a w => Sys2Proof.Machine.execVrng c mk d a w s
  | .vutf c mk d a => Sys2Proof.Machine.execVutf c mk d a s
  | .vtbl c mk d a b => Sys2Proof.Machine.execVtbl c mk d a b s
  | .vaddP c d a b sf => Sys2Proof.Machine.execVaddP c d a b sf s
  | .vsubP c d a b sf => Sys2Proof.Machine.execVsubP c d a b sf s
  | .vmulP c d a b sf => Sys2Proof.Machine.execVmulP c d a b sf s
  | .vminP c d a b sf => Sys2Proof.Machine.execVminP c d a b sf s
  | .vfaddP c d a b sf => Sys2Proof.Machine.execVfaddP c d a b sf s
  | .vfsubP c d a b sf => Sys2Proof.Machine.execVfsubP c d a b sf s
  | .vfmulP c d a b sf => Sys2Proof.Machine.execVfmulP c d a b sf s
  | .vffmaP c d a b sf => Sys2Proof.Machine.execVffmaP c d a b sf s
  | .vaddVx c mk d a b => Sys2Proof.Machine.execVaddVx c mk d a b s
  | .vsubVx c mk d a b => Sys2Proof.Machine.execVsubVx c mk d a b s
  | .vmulVx c mk d a b => Sys2Proof.Machine.execVmulVx c mk d a b s
  | .vmulhVx c mk d a b => Sys2Proof.Machine.execVmulhVx c mk d a b s
  | .vdivVx c mk d a b => Sys2Proof.Machine.execVdivVx c mk d a b s
  | .vremVx c mk d a b => Sys2Proof.Machine.execVremVx c mk d a b s
  | .vminVx c mk d a b => Sys2Proof.Machine.execVminVx c mk d a b s
  | .vmaxVx c mk d a b => Sys2Proof.Machine.execVmaxVx c mk d a b s
  | .vandVx c mk d a b => Sys2Proof.Machine.execVandVx c mk d a b s
  | .vorVx c mk d a b => Sys2Proof.Machine.execVorVx c mk d a b s
  | .vxorVx c mk d a b => Sys2Proof.Machine.execVxorVx c mk d a b s
  | .vsllVx c mk d a b => Sys2Proof.Machine.execVsllVx c mk d a b s
  | .vsrlVx c mk d a b => Sys2Proof.Machine.execVsrlVx c mk d a b s
  | .vsraVx c mk d a b => Sys2Proof.Machine.execVsraVx c mk d a b s
  | .vaddsVx c mk d a b => Sys2Proof.Machine.execVaddsVx c mk d a b s
  | .vicmpVx c mk d a b y => Sys2Proof.Machine.execVicmpVx c mk d a b y s
  | .vaddVi c mk d b imm => Sys2Proof.Machine.execVaddVi c mk d b imm s
  | .vminVi c mk d b imm => Sys2Proof.Machine.execVminVi c mk d b imm s
  | .vmaxVi c mk d b imm => Sys2Proof.Machine.execVmaxVi c mk d b imm s
  | .vandVi c mk d b imm => Sys2Proof.Machine.execVandVi c mk d b imm s
  | .vorVi c mk d b imm => Sys2Proof.Machine.execVorVi c mk d b imm s
  | .vxorVi c mk d b imm => Sys2Proof.Machine.execVxorVi c mk d b imm s
  | .vsllVi c mk d b imm => Sys2Proof.Machine.execVsllVi c mk d b imm s
  | .vsrlVi c mk d b imm => Sys2Proof.Machine.execVsrlVi c mk d b imm s
  | .vsraVi c mk d b imm => Sys2Proof.Machine.execVsraVi c mk d b imm s
  | .vaddsVi c mk d b imm => Sys2Proof.Machine.execVaddsVi c mk d b imm s
  | .vicmpVi c mk d b imm y => Sys2Proof.Machine.execVicmpVi c mk d b imm y s
  | .vfaddVf c mk d a b => Sys2Proof.Machine.execVfaddVf c mk d a b s
  | .vfsubVf c mk d a b => Sys2Proof.Machine.execVfsubVf c mk d a b s
  | .vfmulVf c mk d a b => Sys2Proof.Machine.execVfmulVf c mk d a b s
  | .vffmaVf c mk d a b => Sys2Proof.Machine.execVffmaVf c mk d a b s
  | .vfminVf c mk d a b => Sys2Proof.Machine.execVfminVf c mk d a b s
  | .vfmaxVf c mk d a b => Sys2Proof.Machine.execVfmaxVf c mk d a b s
  | .vfcmpVf c mk d a b y => Sys2Proof.Machine.execVfcmpVf c mk d a b y s
  | .vfcmpFVf c mk d a b y => Sys2Proof.Machine.execVfcmpFVf c mk d a b y s
  | .vfdivVf c mk d a b => Sys2Proof.Machine.execVfdivVf c mk d a b s
  | .fadd g d a b => Sys2Proof.Machine.execFadd g d a b s
  | .fsub g d a b => Sys2Proof.Machine.execFsub g d a b s
  | .fmul g d a b => Sys2Proof.Machine.execFmul g d a b s
  | .ffma g d a b => Sys2Proof.Machine.execFfma g d a b s
  | .fmin g d a b => Sys2Proof.Machine.execFmin g d a b s
  | .fmax g d a b => Sys2Proof.Machine.execFmax g d a b s
  | .fcmp g d a b => Sys2Proof.Machine.execFcmp g d a b s
  | .fcmpF g d a b => Sys2Proof.Machine.execFcmpF g d a b s
  | .fcvt g d a sf => Sys2Proof.Machine.execFcvt g d a sf s
  | .frnd g d a o => Sys2Proof.Machine.execFrnd g d a o s
  | .fcls g d a => Sys2Proof.Machine.execFcls g d a s
  | .fmvx g d a => Sys2Proof.Machine.execFmvx g d a s
  | .fmvf g d a => Sys2Proof.Machine.execFmvf g d a s
  | .fld g d a off => Sys2Proof.Machine.execFld g d a off s
  | .fst g d a off => Sys2Proof.Machine.execFst g d a off s
  | .fspill d a off => Sys2Proof.Machine.execFspill d a off s
  | .ffill d a off => Sys2Proof.Machine.execFfill d a off s
  | .gfromv c mk d a => Sys2Proof.Machine.execGfromv c mk d a s
  | .gtov c mk d a => Sys2Proof.Machine.execGtov c mk d a s
  | .tup c mk d a b y => Sys2Proof.Machine.execTup c mk d a b y s
  | .tdown c mk d a b y => Sys2Proof.Machine.execTdown c mk d a b y s
  | .tbcast c mk d a b => Sys2Proof.Machine.execTbcast c mk d a b s
  | .tdepth c mk d a => Sys2Proof.Machine.execTdepth c mk d a s
  | .tanc c mk d a b => Sys2Proof.Machine.execTanc c mk d a b s
  | .tisanc c mk d a b => Sys2Proof.Machine.execTisanc c mk d a b s
  | .tcontract c d a b => Sys2Proof.Machine.execTcontract c d a b s
  | .tcheck c d a => Sys2Proof.Machine.execTcheck c d a s
  | .tidset c t a => Sys2Proof.Machine.execTidset c t a s
  | .tidget c t a => Sys2Proof.Machine.execTidget c t a s
  | .wset c d a b => Sys2Proof.Machine.execWset c d a b s
  | .tld c t d a => Sys2Proof.Machine.execTld c t d a s
  | .tst c t d a => Sys2Proof.Machine.execTst c t d a s
  | .bcopy c g d a b => Sys2Proof.Machine.execBcopy c g d a b s
  | .opa c mk d a b y x => Sys2Proof.Machine.execOpa c mk d a b y x s
  | .tmm c d a q p => Sys2Proof.Machine.execTmm c d a q p s
  | .aclr c d => Sys2Proof.Machine.execAclr c d s
  | .ardv c mk d a b => Sys2Proof.Machine.execArdv c mk d a b s
  | .awrv c mk d a b => Sys2Proof.Machine.execAwrv c mk d a b s
  | .asave c d a => Sys2Proof.Machine.execAsave c d a s
  | .arestore c d a => Sys2Proof.Machine.execArestore c d a s
  | .tdigest c t a => Sys2Proof.Machine.execTdigest c t a s
  | .qset c d a b => Sys2Proof.Machine.execQset c d a b s
  | .vgl c mk d b y p => Sys2Proof.Machine.execVgl c mk d b y p s
  | .vamoAdd c mk d b y p => Sys2Proof.Machine.execVamoAdd c mk d b y p s
  | .vamoFadd c mk d b y p => Sys2Proof.Machine.execVamoFadd c mk d b y p s
  | .vamoMin c mk d b y p => Sys2Proof.Machine.execVamoMin c mk d b y p s
  | .vamoMax c mk d b y p => Sys2Proof.Machine.execVamoMax c mk d b y p s
  | .vamoAnd c mk d b y p => Sys2Proof.Machine.execVamoAnd c mk d b y p s
  | .vamoOr c mk d b y p => Sys2Proof.Machine.execVamoOr c mk d b y p s
  | .vamoXor c mk d b y p => Sys2Proof.Machine.execVamoXor c mk d b y p s
  | .vamoSwap c mk d b y p => Sys2Proof.Machine.execVamoSwap c mk d b y p s
  | .vamooAdd mk d b p => Sys2Proof.Machine.execVamooAdd mk d b p s
  | .vamooFadd mk d b p => Sys2Proof.Machine.execVamooFadd mk d b p s
  | .vamooMin mk d b p => Sys2Proof.Machine.execVamooMin mk d b p s
  | .vamooMax mk d b p => Sys2Proof.Machine.execVamooMax mk d b p s
  | .vamooAnd mk d b p => Sys2Proof.Machine.execVamooAnd mk d b p s
  | .vamooOr mk d b p => Sys2Proof.Machine.execVamooOr mk d b p s
  | .vamooXor mk d b p => Sys2Proof.Machine.execVamooXor mk d b p s
  | .vamooSwap mk d b p => Sys2Proof.Machine.execVamooSwap mk d b p s
  | .vsc c mk d b y p => Sys2Proof.Machine.execVsc c mk d b y p s
  | .fas c mk d b y p => Sys2Proof.Machine.execFas c mk d b y p s
  | .amoxAdd d a w y => Sys2Proof.Machine.execAmoxAdd d a w y s
  | .amoxFadd d a w y => Sys2Proof.Machine.execAmoxFadd d a w y s
  | .amoxMin d a w y => Sys2Proof.Machine.execAmoxMin d a w y s
  | .amoxMax d a w y => Sys2Proof.Machine.execAmoxMax d a w y s
  | .amoxAnd d a w y => Sys2Proof.Machine.execAmoxAnd d a w y s
  | .amoxOr d a w y => Sys2Proof.Machine.execAmoxOr d a w y s
  | .amoxXor d a w y => Sys2Proof.Machine.execAmoxXor d a w y s
  | .amoxSwap d a w y => Sys2Proof.Machine.execAmoxSwap d a w y s
  | .ldaq d a w sf => Sys2Proof.Machine.execLdaq d a w sf s
  | .strl d a w sf => Sys2Proof.Machine.execStrl d a w sf s
  | .fencev sf => Sys2Proof.Machine.execFencev sf s
  | .fencevColl sf => Sys2Proof.Machine.execFencevColl sf s
  | .fencel => Sys2Proof.Machine.execFencel s
  | .launch d a => Sys2Proof.Machine.execLaunch d a s
  | .graphrun d a => Sys2Proof.Machine.execGraphrun d a s
  | .ccadd a b => Sys2Proof.Machine.execCcadd a b s
  | .ccwait a => Sys2Proof.Machine.execCcwait a s
  | .ccread d a => Sys2Proof.Machine.execCcread d a s
  | .cancel a l => Sys2Proof.Machine.execCancel a l s
  | .yield => Sys2Proof.Machine.execYield s
  | .halt => Sys2Proof.Machine.execHalt s
  | .ttstart a => Sys2Proof.Machine.execTtstart a s
  | .ttsync => Sys2Proof.Machine.execTtsync s
  | .mput d a b => Sys2Proof.Machine.execMput d a b s
  | .mget d a b => Sys2Proof.Machine.execMget d a b s
  | .msig d a b => Sys2Proof.Machine.execMsig d a b s
  | .mchk d a => Sys2Proof.Machine.execMchk d a s
  | .logpub a b => Sys2Proof.Machine.execLogpub a b s
  | .cprec a b => Sys2Proof.Machine.execCprec a b s
  | .tret => Sys2Proof.Machine.execTret s
  | .wait => Sys2Proof.Machine.execWait s
  | .ctxsave a => Sys2Proof.Machine.execCtxsave a s
  | .ctxload a => Sys2Proof.Machine.execCtxload a s
  | .tinv a b => Sys2Proof.Machine.execTinv a b s
  | .bar a => Sys2Proof.Machine.execBar a s

end Sys2Proof.Machine
end

