-- ==== Sys2Proof/Machine/Issue.lean ====
section
/-! DEFINITION. What the members of a convoy read, write and use: the registers of R39, R40 and R366, the resources of R43, the issue checks of R365,
the poisoned items of R379, the pass counts of R26. -/

namespace Sys2Proof.Machine

/-- A register that a convoy member names (R197): by its name in the instruction, or `vl`, which a fault-only-first load writes and at which
every later member runs (R46); it is a CSR and no register that an address or an activity depends on (R365, log 39). -/
inductive Reg where
  | v (n : Nat)
  | m (n : Nat)
  | g (n : Nat)
  | acc (n : Nat)
  | q (n : Nat)
  | x (n : Nat)
  | f (n : Nat)
  | p (n : Nat)
  | t (n : Nat)
  | tid (n : Nat)
  | long
  | vl
  deriving DecidableEq, Repr

/-- The names that are no register: x0 and m0 (R201, R242). -/
def Reg.real (r : Reg) : Bool := r ≠ .x 0 && r ≠ .m 0

/-- A convoy member: its issue check, the mask of its activity, the registers it reads at its own positions and at others (R39), writes, and
on which the addresses and the activity of its memory units depend (R365); the resources of R43; `mem`: it accesses memory; `fixed`:
it makes a convoy that is not restartable (R366); `rows`: it can be performed row by row; `solo`: it stands alone in its convoy. -/
structure Member where
  chk   : State → Option Trap
  msk   : Nat
  own   : List Reg
  far   : List Reg
  out   : List Reg
  late  : List Reg
  ln    : Bool
  cells : Bool
  eng   : Bool
  long  : Bool
  mem   : Bool
  fixed : Bool
  rows  : Bool
  solo  : Bool

/-- No issue check. -/
def noCheck (_s : State) : Option Trap := none
/-- An elementwise member. -/
def Member.elem (chk : State → Option Trap) (mk : Nat) (own far out : List Reg) : Member :=
  ⟨chk, mk, own.filter Reg.real, far.filter Reg.real, out.filter Reg.real, [], false, false, false, false, false, false, true, false⟩
/-- A member that reads its registers at positions other than its own. -/
def Member.whole (chk : State → Option Trap) (mk : Nat) (far out : List Reg) : Member := { Member.elem chk mk [] far out with rows := false }
/-- A member with memory units. -/
def Member.unit (chk : State → Option Trap) (mk : Nat) (own far out late : List Reg) : Member :=
  { Member.elem chk mk own far out with late := (.m mk :: late).filter Reg.real, mem := true }
/-- An instruction that is always a convoy of one. -/
def Member.alone (chk : State → Option Trap) (mk : Nat) (far out : List Reg) : Member :=
  { Member.whole chk mk far out with solo := true, mem := true }

/-- The register of a T code (R180). -/
def tcode (d : Nat) : Reg := if d ≥ 8 && d < 16 then .acc (d - 8) else .t d

/-- The part of TIDSET's check that needs memory (R278, R365): the entry as it stands at the convoy's start. -/
def chkTidset (_t a : Nat) (s : State) : Option Trap :=
  let xa := (s.hart.getX a).toNat
  match s.loadBlock xa 64 8 1 with
  | .error _ => none
  | .ok (_, v) => if entryRefused (BitVec.ofNat 512 v) then some (.of 0x0e xa) else none

/-- What an instruction is as a convoy member; `wide`: `vtype.fmt` has 64 bits. -/
def memberOf (wide : Bool) (i : Instr) : Member :=
  match i with
  | .vadd _ mk d a b => Member.elem chkInt mk [.m mk, .v a, .v b] [] [.v d]
  | .vsub _ mk d a b => Member.elem chkInt mk [.m mk, .v a, .v b] [] [.v d]
  | .vmul _ mk d a b => Member.elem chkInt mk [.m mk, .v a, .v b] [] [.v d]
  | .vmulh _ mk d a b => Member.elem chkInt mk [.m mk, .v a, .v b] [] [.v d]
  | .vdiv _ mk d a b => Member.elem chkInt mk [.m mk, .v a, .v b] [] [.v d]
  | .vrem _ mk d a b => Member.elem chkInt mk [.m mk, .v a, .v b] [] [.v d]
  | .vmin _ mk d a b => Member.elem chkInt mk [.m mk, .v a, .v b] [] [.v d]
  | .vmax _ mk d a b => Member.elem chkInt mk [.m mk, .v a, .v b] [] [.v d]
  | .vadds _ mk d a b => Member.elem chkInt mk [.m mk, .v a, .v b] [] [.v d]
  | .vaddsSub _ mk d a b => Member.elem chkInt mk [.m mk, .v a, .v b] [] [.v d]
  | .vand _ mk d a b => Member.elem chkBits mk [.m mk, .v a, .v b] [] [.v d]
  | .vor _ mk d a b => Member.elem chkBits mk [.m mk, .v a, .v b] [] [.v d]
  | .vxor _ mk d a b => Member.elem chkBits mk [.m mk, .v a, .v b] [] [.v d]
  | .vsll _ mk d a b => Member.elem chkBits mk [.m mk, .v a, .v b] [] [.v d]
  | .vsrl _ mk d a b => Member.elem chkBits mk [.m mk, .v a, .v b] [] [.v d]
  | .vsra _ mk d a b => Member.elem chkBits mk [.m mk, .v a, .v b] [] [.v d]
  | .vfadd _ mk d a b => Member.elem chkFloat mk [.m mk, .v a, .v b] [] [.v d]
  | .vfsub _ mk d a b => Member.elem chkFloat mk [.m mk, .v a, .v b] [] [.v d]
  | .vfmul _ mk d a b => Member.elem chkFloat mk [.m mk, .v a, .v b] [] [.v d]
  | .vfmin _ mk d a b => Member.elem chkFloat mk [.m mk, .v a, .v b] [] [.v d]
  | .vfmax _ mk d a b => Member.elem chkFloat mk [.m mk, .v a, .v b] [] [.v d]
  | .vfdiv _ mk d a b => Member.elem chkFloat mk [.m mk, .v a, .v b] [] [.v d]
  | .vffma _ mk d a b => Member.elem chkFloat mk [.m mk, .v a, .v b, .v d] [] [.v d]
  | .vicmp _ mk d a b _ => Member.elem chkIntCmp mk [.m mk, .v a, .v b] [] [.m d]
  | .vfcmp _ mk d a b _ => Member.elem chkFloatCmp mk [.m mk, .v a, .v b] [] [.m d]
  | .vfcmpF _ mk d a b _ => Member.elem chkFloatCmp mk [.m mk, .v a, .v b] [] [.m d]
  | .vaddVx _ mk d a b => Member.elem chkInt mk [.m mk, .v b] [.x a] [.v d]
  | .vsubVx _ mk d a b => Member.elem chkInt mk [.m mk, .v b] [.x a] [.v d]
  | .vmulVx _ mk d a b => Member.elem chkInt mk [.m mk, .v b] [.x a] [.v d]
  | .vmulhVx _ mk d a b => Member.elem chkInt mk [.m mk, .v b] [.x a] [.v d]
  | .vdivVx _ mk d a b => Member.elem chkInt mk [.m mk, .v b] [.x a] [.v d]
  | .vremVx _ mk d a b => Member.elem chkInt mk [.m mk, .v b] [.x a] [.v d]
  | .vminVx _ mk d a b => Member.elem chkInt mk [.m mk, .v b] [.x a] [.v d]
  | .vmaxVx _ mk d a b => Member.elem chkInt mk [.m mk, .v b] [.x a] [.v d]
  | .vaddsVx _ mk d a b => Member.elem chkInt mk [.m mk, .v b] [.x a] [.v d]
  | .vandVx _ mk d a b => Member.elem chkBits mk [.m mk, .v b] [.x a] [.v d]
  | .vorVx _ mk d a b => Member.elem chkBits mk [.m mk, .v b] [.x a] [.v d]
  | .vxorVx _ mk d a b => Member.elem chkBits mk [.m mk, .v b] [.x a] [.v d]
  | .vsllVx _ mk d a b => Member.elem chkBits mk [.m mk, .v b] [.x a] [.v d]
  | .vsrlVx _ mk d a b => Member.elem chkBits mk [.m mk, .v b] [.x a] [.v d]
  | .vsraVx _ mk d a b => Member.elem chkBits mk [.m mk, .v b] [.x a] [.v d]
  | .vicmpVx _ mk d a b _ => Member.elem chkIntCmp mk [.m mk, .v b] [.x a] [.m d]
  | .vaddVi _ mk d b _ => Member.elem chkInt mk [.m mk, .v b] [] [.v d]
  | .vminVi _ mk d b _ => Member.elem chkInt mk [.m mk, .v b] [] [.v d]
  | .vmaxVi _ mk d b _ => Member.elem chkInt mk [.m mk, .v b] [] [.v d]
  | .vaddsVi _ mk d b _ => Member.elem chkInt mk [.m mk, .v b] [] [.v d]
  | .vandVi _ mk d b _ => Member.elem chkBits mk [.m mk, .v b] [] [.v d]
  | .vorVi _ mk d b _ => Member.elem chkBits mk [.m mk, .v b] [] [.v d]
  | .vxorVi _ mk d b _ => Member.elem chkBits mk [.m mk, .v b] [] [.v d]
  | .vsllVi _ mk d b _ => Member.elem chkBits mk [.m mk, .v b] [] [.v d]
  | .vsrlVi _ mk d b _ => Member.elem chkBits mk [.m mk, .v b] [] [.v d]
  | .vsraVi _ mk d b _ => Member.elem chkBits mk [.m mk, .v b] [] [.v d]
  | .vicmpVi _ mk d b _ _ => Member.elem chkIntCmp mk [.m mk, .v b] [] [.m d]
  | .vfaddVf _ mk d a b => Member.elem chkFloat mk [.m mk, .v b] [.f a] [.v d]
  | .vfsubVf _ mk d a b => Member.elem chkFloat mk [.m mk, .v b] [.f a] [.v d]
  | .vfmulVf _ mk d a b => Member.elem chkFloat mk [.m mk, .v b] [.f a] [.v d]
  | .vfminVf _ mk d a b => Member.elem chkFloat mk [.m mk, .v b] [.f a] [.v d]
  | .vfmaxVf _ mk d a b => Member.elem chkFloat mk [.m mk, .v b] [.f a] [.v d]
  | .vfdivVf _ mk d a b => Member.elem chkFloat mk [.m mk, .v b] [.f a] [.v d]
  | .vffmaVf _ mk d a b => Member.elem chkFloat mk [.m mk, .v b, .v d] [.f a] [.v d]
  | .vfcmpVf _ mk d a b _ => Member.elem chkFloatCmp mk [.m mk, .v b] [.f a] [.m d]
  | .vfcmpFVf _ mk d a b _ => Member.elem chkFloatCmp mk [.m mk, .v b] [.f a] [.m d]
  | .vaddP _ d a b s => Member.elem (chkIntP s) 0 [.v a, .v b] [] [.v d]
  | .vsubP _ d a b s => Member.elem (chkIntP s) 0 [.v a, .v b] [] [.v d]
  | .vmulP _ d a b s => Member.elem (chkIntP s) 0 [.v a, .v b] [] [.v d]
  | .vminP _ d a b s => Member.elem (chkIntP s) 0 [.v a, .v b] [] [.v d]
  | .vfaddP _ d a b s => Member.elem (chkFloatP s) 0 [.v a, .v b] [] [.v d]
  | .vfsubP _ d a b s => Member.elem (chkFloatP s) 0 [.v a, .v b] [] [.v d]
  | .vfmulP _ d a b s => Member.elem (chkFloatP s) 0 [.v a, .v b] [] [.v d]
  | .vffmaP _ d a b s => Member.elem (chkFloatP s) 0 [.v a, .v b, .v d] [] [.v d]
  | .vfrnd _ mk d a _ => Member.elem chkFloat mk [.m mk, .v a] [] [.v d]
  | .vfabs _ mk d a => Member.elem chkFloat mk [.m mk, .v a] [] [.v d]
  | .vfsqrt _ mk d a => Member.elem chkFloat mk [.m mk, .v a] [] [.v d]
  | .vrsqe _ mk d a => Member.elem chkFloat mk [.m mk, .v a] [] [.v d]
  | .vrcpe _ mk d a => Member.elem chkFloat mk [.m mk, .v a] [] [.v d]
  | .vexp _ mk d a => Member.elem chkFloat mk [.m mk, .v a] [] [.v d]
  | .vlog _ mk d a => Member.elem chkFloat mk [.m mk, .v a] [] [.v d]
  | .vsigm _ mk d a => Member.elem chkFloat mk [.m mk, .v a] [] [.v d]
  | .vtanh _ mk d a => Member.elem chkFloat mk [.m mk, .v a] [] [.v d]
  | .vfcls _ mk d a => Member.elem chkFloatCmp mk [.m mk, .v a] [] [.v d]
  | .vfcvt _ mk d a f => { Member.elem (chkVfcvt f) mk (.m mk :: (if wide || fmtWide f then [] else [.v a])) (if wide || fmtWide f then [.v a] else []) [.v d] with rows := !(wide || fmtWide f) }
  | .vmv _ mk d a => Member.elem chkPerm mk [.m mk, .v a] [] [.v d]
  | .vmvx _ mk d a => Member.elem chkPerm mk [.m mk] [.x a] [.v d]
  | .vsel _ mk d a b => Member.elem chkPerm mk [.m mk, .v a, .v b] [] [.v d]
  | .vpack _ mk d a b => Member.elem chkVpack mk [.m mk, .v a, .v b] [] [.v d]
  | .vunpk _ mk d a s => Member.elem (chkVunpk s) mk [.m mk, .v a] [] [.v d]
  | .vrng _ mk d a _ => Member.elem chkVrng mk [.m mk] [.x a] [.v d]
  | .vutf _ mk d a => Member.elem chkVutf mk [.m mk, .v a] [] [.v d]
  | .gfromv _ mk d a => Member.elem chkTopo mk [.m mk, .v a] [] [.g d]
  | .gtov _ mk d a => Member.elem chkTopo mk [.m mk, .g a] [] [.v d]
  | .mand _ d a b => Member.elem noCheck 0 [.m a, .m b] [] [.m d]
  | .mor _ d a b => Member.elem noCheck 0 [.m a, .m b] [] [.m d]
  | .mxor _ d a b => Member.elem noCheck 0 [.m a, .m b] [] [.m d]
  | .mandn _ d a b => Member.elem noCheck 0 [.m a, .m b] [] [.m d]
  | .ardv _ mk d a b => { Member.elem (chkTileVec a) mk [.m mk] [.acc a, .x b] [.v d] with cells := true }
  | .awrv _ mk d a b => { Member.elem (chkTileVec d) mk [.m mk, .v a] [.x b] [.acc d] with cells := true }
  | .vredx _ mk a q => { Member.elem (chkVredx q) mk [.m mk, .v a] [.q q, .long] [.long] with fixed := true }
  | .vslideu _ mk d a b => { Member.whole chkPerm mk [.m mk, .v a, .x b] [.v d] with ln := true }
  | .vslided _ mk d a b => { Member.whole chkPerm mk [.m mk, .v a, .x b] [.v d] with ln := true }
  | .vgath _ mk d a b => { Member.whole chkPerm mk [.m mk, .v a, .v b] [.v d] with ln := true }
  | .vcomp _ mk d a => { Member.whole chkPerm mk [.m mk, .v a] [.v d] with ln := true }
  | .vexpd _ mk d a => { Member.whole chkPerm mk [.m mk, .v a] [.v d] with ln := true }
  | .vmvs _ d a b => Member.whole chkPerm 0 [.v a, .x b] [.x d]
  | .viota _ mk d a => Member.whole chkViota mk [.m mk, .m a] [.v d]
  | .mset _ d _ => Member.whole noCheck 0 [] [.m d]
  | .vcut _ d a => Member.whole noCheck 0 [.m a] [.m d]
  | .vpopm _ d a => Member.whole noCheck 0 [.m a] [.x d]
  | .vredsum _ mk d a b => Member.whole chkReduce mk [.m mk, .v a, .v b] [.v d]
  | .vredtree _ mk d a b => Member.whole chkReduce mk [.m mk, .v a, .v b] [.v d]
  | .vred _ mk d a o => Member.whole (chkRed o) mk [.m mk, .v a] [.v d]
  | .vscan _ mk d a o => Member.whole (chkRed o) mk [.m mk, .v a] [.v d]
  | .vffs _ mk d a => Member.whole noCheck mk [.m mk, .m a] [.x d]
  | .laget _ d _ => { Member.whole noCheck 0 [.long] [.f d] with fixed := true }
  | .laclr _ => { Member.whole noCheck 0 [] [.long] with fixed := true }
  | .smx _ mk d a b => Member.whole chkSmx mk [.m mk, .v a, .f b, .f (b + 1)] [.v d, .f b, .f (b + 1), .f (b + 2)]
  | .tup _ mk d a b _ => { Member.whole (chkTree true) mk [.m mk, .v a, .g b] [.v d] with ln := true, long := true, fixed := true }
  | .tdown _ mk d a b _ => { Member.whole (chkTree true) mk [.m mk, .v a, .g b] [.v d] with ln := true, long := true, fixed := true }
  | .tbcast _ mk d a b => { Member.whole (chkTree false) mk [.m mk, .v a, .g b] [.v d] with ln := true, long := true, fixed := true }
  | .tdepth _ mk d a => { Member.whole (chkTree false) mk [.m mk, .g a] [.v d] with ln := true, long := true, fixed := true }
  | .tanc _ mk d a b => { Member.whole (chkTree false) mk [.m mk, .v a, .g b] [.v d] with ln := true, long := true, fixed := true }
  | .tisanc _ mk d a b => { Member.whole (chkTree false) mk [.m mk, .v a, .g b] [.m d] with ln := true, long := true, fixed := true }
  | .tcontract _ d a b => { Member.whole (chkTree false) 0 [.g a, .m b] [.g d] with ln := true, long := true, fixed := true }
  | .tcheck _ d a => { Member.whole (chkTree false) 0 [.g a] [.m d] with ln := true, long := true, fixed := true }
  | .opa _ mk d a b y x => { Member.whole (chkOpa d a b x y) mk [.m mk, .acc d, .q (2 * (d % 4)), .q (2 * (d % 4) + 1), if x = 1 then .t a else .v a, if y = 1 then .t b else .v b] [.acc d] with cells := true, fixed := true }
  | .tmm _ d a q p => { Member.whole (chkTmm d a q p) 0 [.x a, .acc d, .q (2 * (d % 4)), .q (2 * (d % 4) + 1), .t p, .t q] [.acc d] with cells := true, long := true, fixed := true, mem := true }
  | .aclr _ d => { Member.whole (chkAcc d) 0 [] [.acc d] with cells := true }
  | .qset _ d a b => Member.whole noCheck 0 [.x a, .x b] [.q d]
  | .wset _ d a b => Member.whole (chkWset d a b) 0 [.x a, .x b] [.t d]
  | .tld _ t d a => { Member.whole (chkTld d) 0 [.x a, .tid t] [.t d] with eng := true, fixed := true, mem := true }
  | .tst _ t d a => { Member.whole (chkTst d) 0 [.x a, .tid t, tcode d] [] with eng := true, fixed := true, mem := true }
  | .bcopy _ g d a b => { Member.whole (chkBcopy g d b) 0 [.x a, .x b, if g = 0 then .x d else .x 0] [if g = 0 then .x 0 else .t d] with eng := true, fixed := true, mem := true }
  | .qld _ t d a => { Member.whole (chkQld t) 0 [.x a, .tid t] [.q d] with eng := true, fixed := true, mem := true }
  | .tdigest _ t a => { Member.whole (chkTdigest t a) 0 [.x a, .tid t] [] with eng := true, fixed := true, mem := true }
  | .tidset _ t a => { Member.whole (chkTidset t a) 0 [.x a] [.tid t] with mem := true, late := [.x a] }
  | .tidget _ t a => { Member.whole noCheck 0 [.x a, .tid t] [] with mem := true, late := [.x a] }
  | .asave _ d a => { Member.whole (chkAcc d) 0 [.p a, .acc d] [] with cells := true, mem := true, late := [.p a] }
  | .arestore _ d a => { Member.whole (chkAcc d) 0 [.p a] [.acc d] with cells := true, mem := true, late := [.p a] }
  | .vld _ mk d a => Member.unit chkVmem mk [.m mk] [.p a] [.v d] [.p a]
  | .vlds _ mk d a b => Member.unit chkVmem mk [.m mk] [.p a, .x b] [.v d] [.p a, .x b]
  | .vst _ mk d a => Member.unit chkVmem mk [.m mk, .v d] [.p a] [] [.p a]
  | .vsts _ mk d a b => Member.unit chkVmem mk [.m mk, .v d] [.p a, .x b] [] [.p a, .x b]
  | .vldp _ mk d a => Member.unit chkVmem mk [.m mk] [.p a] [.v d] [.p a]
  | .vreload _ mk d a => Member.unit chkVmem mk [.m mk] [.p a] [.v d] [.p a]
  | .vldt _ mk d a f => Member.unit (chkVldt f) mk [.m mk] [.p a] [.v d] [.p a]
  | .vstp _ mk d a => Member.unit chkVmem mk [.m mk, .v d] [.p a] [] [.p a]
  | .vspill _ mk d a => Member.unit chkVmem mk [.m mk, .v d] [.p a] [] [.p a]
  | .vtbl _ mk d a b => Member.unit chkVtbl mk [.m mk, .v a] [.x b] [.v d] [.x b, .v a]
  | .vldx _ mk d a b => { Member.unit chkVmem mk (.m mk :: (if wide then [] else [.v b])) (.p a :: (if wide then [.v b] else [])) [.v d] [.p a, .v b] with ln := true }
  | .vstx _ mk d a b => { Member.unit chkVmem mk (.m mk :: .v d :: (if wide then [] else [.v b])) (.p a :: (if wide then [.v b] else [])) [] [.p a, .v b] with ln := true }
  | .vldf _ mk d a => { Member.unit chkVmem mk [.m mk] [.p a] [.v d, .vl] [.p a] with fixed := true }
  | .vldxf _ mk d a b => { Member.unit chkVmem mk (.m mk :: (if wide then [] else [.v b])) (.p a :: (if wide then [.v b] else [])) [.v d, .vl] [.p a, .v b] with fixed := true, ln := true }
  | .vamoAdd c mk d b _ p => { Member.unit (chkVamo 0 c mk b p) mk (.m mk :: .v d :: (if wide then [] else [.v b])) (.p p :: (if wide then [.v b] else [])) [.v d] [.p p, .v b] with ln := true, fixed := true }
  | .vamoFadd c mk d b _ p => { Member.unit (chkVamo 1 c mk b p) mk (.m mk :: .v d :: (if wide then [] else [.v b])) (.p p :: (if wide then [.v b] else [])) [.v d] [.p p, .v b] with ln := true, fixed := true }
  | .vamoMin c mk d b _ p => { Member.unit (chkVamo 2 c mk b p) mk (.m mk :: .v d :: (if wide then [] else [.v b])) (.p p :: (if wide then [.v b] else [])) [.v d] [.p p, .v b] with ln := true, fixed := true }
  | .vamoMax c mk d b _ p => { Member.unit (chkVamo 3 c mk b p) mk (.m mk :: .v d :: (if wide then [] else [.v b])) (.p p :: (if wide then [.v b] else [])) [.v d] [.p p, .v b] with ln := true, fixed := true }
  | .vamoAnd c mk d b _ p => { Member.unit (chkVamo 4 c mk b p) mk (.m mk :: .v d :: (if wide then [] else [.v b])) (.p p :: (if wide then [.v b] else [])) [.v d] [.p p, .v b] with ln := true, fixed := true }
  | .vamoOr c mk d b _ p => { Member.unit (chkVamo 5 c mk b p) mk (.m mk :: .v d :: (if wide then [] else [.v b])) (.p p :: (if wide then [.v b] else [])) [.v d] [.p p, .v b] with ln := true, fixed := true }
  | .vamoXor c mk d b _ p => { Member.unit (chkVamo 6 c mk b p) mk (.m mk :: .v d :: (if wide then [] else [.v b])) (.p p :: (if wide then [.v b] else [])) [.v d] [.p p, .v b] with ln := true, fixed := true }
  | .vamoSwap c mk d b _ p => { Member.unit (chkVamo 7 c mk b p) mk (.m mk :: .v d :: (if wide then [] else [.v b])) (.p p :: (if wide then [.v b] else [])) [.v d] [.p p, .v b] with ln := true, fixed := true }
  | .vgl c mk d b _ p => { Member.unit (chkLinked c mk b p) mk (.m mk :: (if wide then [] else [.v b])) (.p p :: (if wide then [.v b] else [])) [.v d] [.p p, .v b] with ln := true, fixed := true }
  | .vsc c mk d b _ p => { Member.unit (chkLinked c mk b p) mk (.m mk :: .v d :: (if wide then [] else [.v b])) (.p p :: (if wide then [.v b] else [])) [.m mk] [.p p, .v b] with ln := true, fixed := true }
  | .fas c mk d b _ p => { Member.unit (chkFas c mk p) mk [.m mk] [.p p, .v b] [.v d] [.p p] with fixed := true, rows := false }
  | .strip d _ => Member.alone chkStrip 0 [.x d] [.x d]
  | .vsetc a => Member.alone noCheck 0 [.x a] []
  | .pset d a _ => Member.alone noCheck 0 [.x a] [.p d]
  | .pget d a => Member.alone noCheck 0 [.p a] [.x d]
  | .vloop _ a _ => Member.alone noCheck 0 [.x a] [.x a, .m 4]
  | .vbany k _ => Member.alone noCheck 0 [.m k] []
  | .vbnone k _ => Member.alone noCheck 0 [.m k] []
  | .vamooAdd mk d b p => { Member.alone (chkVamoo 0 mk) mk [.m mk, .v d, .v b, .p p] [] with fixed := true }
  | .vamooFadd mk d b p => { Member.alone (chkVamoo 1 mk) mk [.m mk, .v d, .v b, .p p] [] with fixed := true }
  | .vamooMin mk d b p => { Member.alone (chkVamoo 2 mk) mk [.m mk, .v d, .v b, .p p] [] with fixed := true }
  | .vamooMax mk d b p => { Member.alone (chkVamoo 3 mk) mk [.m mk, .v d, .v b, .p p] [] with fixed := true }
  | .vamooAnd mk d b p => { Member.alone (chkVamoo 4 mk) mk [.m mk, .v d, .v b, .p p] [] with fixed := true }
  | .vamooOr mk d b p => { Member.alone (chkVamoo 5 mk) mk [.m mk, .v d, .v b, .p p] [] with fixed := true }
  | .vamooXor mk d b p => { Member.alone (chkVamoo 6 mk) mk [.m mk, .v d, .v b, .p p] [] with fixed := true }
  | .vamooSwap mk d b p => { Member.alone (chkVamoo 7 mk) mk [.m mk, .v d, .v b, .p p] [] with fixed := true }
  | .amoxAdd d a _ _ => { Member.alone noCheck 0 [.x d, .x a] [.x d] with fixed := true }
  | .amoxFadd d a _ _ => { Member.alone noCheck 0 [.x d, .x a] [.x d] with fixed := true }
  | .amoxMin d a _ _ => { Member.alone noCheck 0 [.x d, .x a] [.x d] with fixed := true }
  | .amoxMax d a _ _ => { Member.alone noCheck 0 [.x d, .x a] [.x d] with fixed := true }
  | .amoxAnd d a _ _ => { Member.alone noCheck 0 [.x d, .x a] [.x d] with fixed := true }
  | .amoxOr d a _ _ => { Member.alone noCheck 0 [.x d, .x a] [.x d] with fixed := true }
  | .amoxXor d a _ _ => { Member.alone noCheck 0 [.x d, .x a] [.x d] with fixed := true }
  | .amoxSwap d a _ _ => { Member.alone noCheck 0 [.x d, .x a] [.x d] with fixed := true }
  | .ldaq d a _ _ => Member.alone noCheck 0 [.x a] [.x d]
  | .launch d a => Member.alone noCheck 0 [.x a] [.x d]
  | .graphrun d a => Member.alone noCheck 0 [.x a] [.x d]
  | .ccread d a => Member.alone noCheck 0 [.x a] [.x d]
  | .mchk d a => Member.alone noCheck 0 [.x a] [.x d]
  | _ => Member.alone noCheck 0 [] []

/-- A list of registers shares one with another. -/
def meets (a b : List Reg) : Bool := a.any b.contains
/-- All registers that a member reads. -/
def Member.reads (m : Member) : List Reg := m.own ++ m.far
/-- A member must stay behind an earlier one in every element: it reads or writes what that writes (R39); every member stays behind a
fault-only-first load, at whose `vl` it runs (R46). -/
def Member.after (e m : Member) : Bool := e.out.contains .vl || meets e.out (m.reads ++ m.out)
/-- The registers of which the convoy keeps the old values for earlier members (R40). -/
def Reg.keeps : Reg → Bool
  | .v _ => true
  | .m _ => true
  | .x _ => true
  | .tid _ => true
  | _ => false
/-- The registers that an earlier member reads and a later one writes (R40). -/
def Member.overwrites (e m : Member) : List Reg := e.reads.filter m.out.contains
/-- Two members, the first earlier, cannot be performed row by row side by side. -/
def Member.crosses (e m : Member) : Bool := meets e.out m.far || meets e.far m.out

/-! ### Structural conflicts (R43, R183, R365, R366) -/

/-- Every member with those before it. -/
def withEarlier (acc : List Member) : List Member → List (List Member × Member)
  | [] => []
  | m :: r => (acc, m) :: withEarlier (acc ++ [m]) r

/-- The convoy is restartable (R366). -/
def restartable (ms : List Member) : Bool :=
  (withEarlier [] ms).all (fun p => !p.2.fixed && !meets p.2.out (p.2.reads ++ p.1.flatMap Member.reads))

/-- Some memory unit depends on a register that an earlier member writes (R365). -/
def anyLate (ms : List Member) : Bool := (withEarlier [] ms).any (fun p => p.2.mem && p.1.any (fun e => meets e.out p.2.late))

/-- A resource is used twice. -/
def twice (ms : List Member) (f : Member → Bool) : Bool := decide (1 < ms.countP f)

/-- The convoy has a structural conflict (R43, R183), or a late unit in a convoy that is not restartable (R366). -/
def conflict (ms : List Member) : Bool :=
  decide (16 < ms.length) || twice ms Member.ln || twice ms Member.cells || twice ms Member.eng || twice ms Member.long
    || (anyLate ms && !restartable ms)

/-! ### Poisoned items (R379) -/

/-- The item is slot `sl` of vector register `n`. -/
def Hart.isSlot (h : Hart) (p : Poison) (n : Nat) (sl : Nat → Bool) : Bool := p.kind = 1 && p.num = h.physV n && sl p.elem
/-- The item is a bit of mask register `n` at an element that `el` names; m0 is no storage (R242). -/
def Hart.isBit (h : Hart) (p : Poison) (n : Nat) (el : Nat → Bool) : Bool := n ≠ 0 && p.kind = 1 && p.num = 32 + h.physM n && el p.elem
/-- The item is one of the slots of vector register `n` at an element that `el` names (R79). -/
def Hart.isElem (h : Hart) (p : Poison) (n : Nat) (el : Nat → Bool) : Bool := h.isSlot p n (fun k => el (k / h.slotsPer))

/-- Element `e` lies in the window at hand. -/
def Hart.inSpan (h : Hart) (e : Nat) : Bool := decide (max h.vstart.toNat h.cur.lo ≤ e) && decide (e < min h.vl h.cur.hi)
/-- Element `e` of the window at hand is active. -/
def Hart.isActive (h : Hart) (mk e : Nat) : Bool := h.inSpan e && h.maskBit mk e
/-- Element `e` is active in [0, `vl`), whatever `vstart` holds. -/
def Hart.isOn (h : Hart) (mk e : Nat) : Bool := decide (e < h.vl) && h.maskBit mk e
/-- The places of an element among the active ones of [0, `vl`). -/
def Hart.activeCount (h : Hart) (mk : Nat) : Nat := (upFrom 0 h.vl).countP (h.maskBit mk)

/-- A register read at the member's own positions meets the item: where the element is active. -/
def Hart.ownPoison (h : Hart) (mk : Nat) (p : Poison) (r : Reg) : Bool :=
  match r with
  | .v n => h.isElem p n (h.isActive mk)
  | .m n => h.isBit p n (h.isActive mk)
  | .g n => p.kind = 4 && p.num = n && h.isActive mk p.elem
  | _ => false

/-- Slot `e` of an index register, for each active element `e` (R228). -/
def Hart.indexPoison (h : Hart) (mk b : Nat) (p : Poison) : Bool := h.isSlot p b (h.isActive mk)

/-- The sources of a doubling instruction, read at step 0 alone (R379): the values, the pointers, the mask. -/
def Hart.treePoison (h : Hart) (a : Option Nat) (g mk mb : Nat) (p : Poison) : Bool :=
  h.vstart = 0 && ((match a with
      | some n => h.isElem p n (fun e => decide (e < h.vl))
      | none => false)
    || (p.kind = 4 && p.num = g && decide (p.elem < h.vl)) || h.isBit p mk (fun e => decide (e < h.vl)) || h.isBit p mb (fun e => decide (e < h.vl)))

/-- The item is read by an atomic of vector units: its increments and its index slots. -/
def Hart.atomicPoison (h : Hart) (mk d b : Nat) (p : Poison) : Bool := h.isElem p d (h.isActive mk) || h.indexPoison mk b p

/-- The instruction reads the item at positions other than its own (R379). -/
def Hart.farPoison (h : Hart) (p : Poison) (i : Instr) : Bool :=
  let below (e : Nat) : Bool := decide (e < h.vl)
  match i with
  | .vfcvt _ u _ a f => h.isSlot p a (fun k => h.isActive u (if fmtWide f then k / 2 else k))
  | .vsel _ u _ a b => h.isElem p a (fun e => h.isActive u e) || h.isElem p b (fun e => h.inSpan e && !h.maskBit u e)
  | .vslideu _ u _ a b => h.isElem p a (fun e => h.isActive u (e + (h.getX b).toNat))
  | .vslided _ u _ a b => h.isElem p a (fun e => below e && decide ((h.getX b).toNat ≤ e) && h.isActive u (e - (h.getX b).toNat))
  | .vgath _ u _ a b => h.indexPoison u b p
      || h.isElem p a (fun e => below e && (h.active u).any (fun k => (h.getSlot b k).data.toNat = e))
  | .vcomp _ u _ a => h.isElem p a (h.isOn u) || h.isBit p u below
  | .vexpd _ u _ a => h.isElem p a (fun e => decide (e < h.activeCount u)) || h.isBit p u below
  | .vmvs _ _ a b => h.isElem p a (fun e => below e && e = (h.getX b).toNat)
  | .viota _ u _ a => h.isBit p a below || h.isBit p u below
  | .vcut _ _ a => h.isBit p a below
  | .vpopm _ _ a => h.isBit p a below
  | .vffs _ u _ a => h.isBit p a below || h.isBit p u below
  | .vredsum _ u _ a b => h.isElem p a (h.isActive u) || h.isElem p b (fun e => decide (e < h.rowsOf.length))
  | .vredtree _ u _ a b => h.isElem p a (h.isActive u) || h.isElem p b (fun e => decide (e < h.rowsOf.length))
  | .vred _ u _ a _ => h.isElem p a (h.isActive u)
  | .vscan _ u _ a _ => h.isElem p a (h.isActive u)
  | .smx _ u _ a _ => h.isElem p a (h.isActive u)
  | .vredx _ u _ q => fmtScaled h.fmt && p.kind = 5 && p.num = q
      && (h.active u).any (fun e => (upFrom (e * h.pack) h.pack).any (fun x => x / 2 ^ blockShift h.blen % 512 = p.elem))
  | .ardv _ u _ a b => p.kind = 3 && p.num = a
      && (h.active u).any (fun e => (upFrom 0 h.pack).any (fun j => cellIndex (h.getX b).toNat e h.pack j = p.elem))
  | .asave _ d _ => p.kind = 3 && p.num = d
  | .opa _ u _ a b y x =>
    let on (e : Nat) : Bool := below e && h.maskBit u e
    (x = 0 && h.isSlot p a on) || (y = 0 && h.isSlot p b on)
  | .tidget _ t _ => p.kind = 8 && p.num = t
  | .tld _ t _ _ => p.kind = 8 && p.num = t
  | .tst _ t _ _ => p.kind = 8 && p.num = t
  | .qld _ t _ _ => p.kind = 8 && p.num = t
  | .tdigest _ t _ => p.kind = 8 && p.num = t
  | .vldx _ u _ _ b => h.indexPoison u b p
  | .vldxf _ u _ _ b => h.indexPoison u b p
  | .vstx _ u _ _ b => h.indexPoison u b p
  | .vgl _ u _ b _ _ => h.indexPoison u b p
  | .vsc _ u _ b _ _ => h.indexPoison u b p
  | .vamoAdd _ u _ b _ _ => h.indexPoison u b p
  | .vamoFadd _ u _ b _ _ => h.indexPoison u b p
  | .vamoMin _ u _ b _ _ => h.indexPoison u b p
  | .vamoMax _ u _ b _ _ => h.indexPoison u b p
  | .vamoAnd _ u _ b _ _ => h.indexPoison u b p
  | .vamoOr _ u _ b _ _ => h.indexPoison u b p
  | .vamoXor _ u _ b _ _ => h.indexPoison u b p
  | .vamoSwap _ u _ b _ _ => h.indexPoison u b p
  | .fas _ u _ b _ _ => h.isElem p b (h.isOn u) || h.isBit p u below
  | .vamooAdd u d b _ => h.atomicPoison u d b p
  | .vamooFadd u d b _ => h.atomicPoison u d b p
  | .vamooMin u d b _ => h.atomicPoison u d b p
  | .vamooMax u d b _ => h.atomicPoison u d b p
  | .vamooAnd u d b _ => h.atomicPoison u d b p
  | .vamooOr u d b _ => h.atomicPoison u d b p
  | .vamooXor u d b _ => h.atomicPoison u d b p
  | .vamooSwap u d b _ => h.atomicPoison u d b p
  | .vbany k _ => h.isBit p k below
  | .vbnone k _ => h.isBit p k below
  | .tup _ u _ a b _ => h.treePoison (some a) b u 0 p
  | .tdown _ u _ a b _ => h.treePoison (some a) b u 0 p
  | .tbcast _ u _ a b => h.treePoison (some a) b u 0 p
  | .tdepth _ u _ a => h.treePoison none a u 0 p
  | .tanc _ u _ a b => h.treePoison (some a) b u 0 p
  | .tisanc _ u _ a b => h.treePoison (some a) b u 0 p
  | .tcontract _ _ a b => h.treePoison none a 0 b p
  | .tcheck _ _ a => h.treePoison none a 0 0 p
  | _ => false

/-- The instruction reads all of its governing mask itself, or none of it after its first step. -/
def readsOwnMask (i : Instr) : Bool := match i with
  | .vcomp .. => true
  | .vexpd .. => true
  | .viota .. => true
  | .vffs .. => true
  | .fas .. => true
  | .tup .. => true
  | .tdown .. => true
  | .tbcast .. => true
  | .tdepth .. => true
  | .tanc .. => true
  | .tisanc .. => true
  | _ => false

/-- The registers that the member reads at its own positions wherever it is active; VSEL reads one of its two sources at each element. -/
def ownReads (m : Member) (i : Instr) : List Reg := match i with
  | .vsel .. => []
  | _ => m.own

/-- The poisoned item that instruction `i` reads as the member `m` (R379): a bit of the mask that governs it, in its window; a register at its own
active positions; what it reads at others. -/
def Hart.poisonRead (h : Hart) (m : Member) (i : Instr) : Option Poison :=
  if h.poison.isEmpty then none
  else h.poison.find? (fun p => (!readsOwnMask i && h.isBit p m.msk h.inSpan) || (ownReads m i).any (h.ownPoison m.msk p) || h.farPoison p i)

/-! ### The units of a vector memory instruction (R131, R231, R368) -/

/-- The bytes of the active units of a vector memory instruction in element order: address, length, and whether they are written. -/
def Hart.unitSpans (h : Hart) (i : Instr) : List (Nat × Nat × Bool) :=
  let units (mk : Nat) (addr : Nat → Nat) (w : Bool) : List (Nat × Nat × Bool) := (h.active mk).map (fun e => (addr e, h.unitBytes, w))
  let slots (mk : Nat) (f : Nat → List (Nat × Nat × Bool)) : List (Nat × Nat × Bool) := ((h.active mk).flatMap h.slotsOf).flatMap f
  let peer (a : Nat) (w : Bool) (k : Nat) : List (Nat × Nat × Bool) :=
    [(((h.getP a).addr.toNat + 256 * (k / 64) + 4 * (k % 64)) % 2 ^ 64, 4, w)]
  let block (a : Nat) (w : Bool) (k : Nat) : List (Nat × Nat × Bool) :=
    let pa := (h.getP a).addr.toNat
    [((pa + 4 * k) % 2 ^ 64, 4, w), ((pa + 4 * h.blockSlots + k) % 2 ^ 64, 1, w)]
  match i with
  | .vld _ u _ a => units u (h.unitAddr a) false
  | .vldf _ u _ a => units u (h.unitAddr a) false
  | .vlds _ u _ a b => units u (h.strideAddr a b) false
  | .vldx _ u _ a b => units u (h.indexAddr a b) false
  | .vldxf _ u _ a b => units u (h.indexAddr a b) false
  | .vst _ u _ a => units u (h.unitAddr a) true
  | .vsts _ u _ a b => units u (h.strideAddr a b) true
  | .vstx _ u _ a b => units u (h.indexAddr a b) true
  | .vldp _ u _ a => slots u (peer a false)
  | .vstp _ u _ a => slots u (peer a true)
  | .vspill _ u _ a => slots u (block a true)
  | .vreload _ u _ a => slots u (block a false)
  | .vldt _ u _ a f => (h.active u).flatMap (fun e => (upFrom (e * h.pack) h.pack).map (fun k =>
      let p := codePlace f (h.getP a).addr.toNat k
      (p.1 % 2 ^ 64, p.2.1, false)))
  | .vtbl _ u _ a b =>
    let n := fmtWidth h.fmt / 8
    (h.active u).flatMap (fun e => (h.unit a e).map (fun x => (((h.getX b).toNat + x.enc * n) % 2 ^ 64, n, false)))
  | .vgl _ u _ b _ p => units u (h.indexAddr p b) false
  | .vsc _ u _ b _ p => units u (h.indexAddr p b) true
  | .vamoAdd _ u _ b _ p => units u (h.indexAddr p b) true
  | .vamoFadd _ u _ b _ p => units u (h.indexAddr p b) true
  | .vamoMin _ u _ b _ p => units u (h.indexAddr p b) true
  | .vamoMax _ u _ b _ p => units u (h.indexAddr p b) true
  | .vamoAnd _ u _ b _ p => units u (h.indexAddr p b) true
  | .vamoOr _ u _ b _ p => units u (h.indexAddr p b) true
  | .vamoXor _ u _ b _ p => units u (h.indexAddr p b) true
  | .vamoSwap _ u _ b _ p => units u (h.indexAddr p b) true
  | .vamooAdd u _ b p => units u (h.indexAddr p b) true
  | .vamooFadd u _ b p => units u (h.indexAddr p b) true
  | .vamooMin u _ b p => units u (h.indexAddr p b) true
  | .vamooMax u _ b p => units u (h.indexAddr p b) true
  | .vamooAnd u _ b p => units u (h.indexAddr p b) true
  | .vamooOr u _ b p => units u (h.indexAddr p b) true
  | .vamooXor u _ b p => units u (h.indexAddr p b) true
  | .vamooSwap u _ b p => units u (h.indexAddr p b) true
  | _ => []

/-- The pages of all active units of a vector memory instruction translated (R131), whichever of them faults (R369). -/
def State.fillUnits (s : State) (i : Instr) : State :=
  s.fill s.hart.slot (((s.hart.unitSpans i).map (fun u => u.1 / 4096 * 4096)).eraseDups.filter (fun a => canonical a && !inAperture a))

/-- The deferred fault of the engine operation that some unit of the instruction waits on, which comes before every fault of the units (R368). -/
def State.unitWait (s : State) (i : Instr) : Option Trap :=
  if !s.hart.engine.any (·.fault.isSome) then none
  else (s.hart.unitSpans i).findSome? (fun u => match s.waitBytes u.1 u.2.1 u.2.2 with
    | .error (.trap t) => some t
    | _ => none)

/-! ### Old values (R40) -/

/-- The values of register `r` in the elements [lo, hi) below `vl`, or as a whole; of a window its declaration. -/
def Hart.valuesOf (h : Hart) (lo hi : Nat) (r : Reg) : List OldReg := match r with
  | .v n => (upFrom (h.slotsPer * lo) (h.slotsPer * (min hi h.vl - lo))).map (fun k => .slot n k (h.getSlot n k))
  | .m n => if n = 0 then [] else (upFrom lo (hi - lo)).map (fun k => .bit n k (h.maskBit n k))
  | .x n => [.int n (h.getX n)]
  | .tid n => [.entry n (h.getTid n)]
  | .t n => [.win n (h.window n)]
  | _ => []

/-- A value put back. -/
def Hart.putOld (h : Hart) (o : OldReg) : Hart := match o with
  | .slot r n v => h.setSlot r n v
  | .bit r n v =>
    let m := h.getMask r
    { h with m := mapSet 0 h.m (h.physM r) (if v then m ||| (1#4096 <<< n) else m &&& ~~~(1#4096 <<< n)) }
  | .int r v => h.setX r v
  | .entry t v => h.setTid t v
  | .win t w => h.setWindow t w

/-- What stands now where the value stood. -/
def Hart.inPlaceOf (h : Hart) (o : OldReg) : OldReg := match o with
  | .slot r n _ => .slot r n (h.getSlot r n)
  | .bit r n _ => .bit r n (h.maskBit r n)
  | .int r _ => .int r (h.getX r)
  | .entry t _ => .entry t (h.getTid t)
  | .win t _ => .win t (h.window t)

/-- The values that member `pos` reads in place of what later members, or earlier rows of its own, have written; the last is the oldest (R40). -/
def Cursor.oldsFor (c : Cursor) (pos : Nat) : List OldReg :=
  (upFrom pos 16).reverse.flatMap (fun q => ((c.olds.filter (·.1 = q)).map (·.2)).reverse)

/-! ### Passes of the lane network (R26, R230, R241, R275, R301) -/

/-- The passes of `rows` rows: each row takes the largest number of distinct words that one lane bank supplies to it, at least one. A request is (row, bank, word). -/
def passes (rows : Nat) (reqs : List (Nat × Nat × Nat)) : Nat :=
  ((upFrom 0 rows).map (fun r =>
    let here := (reqs.filter (·.1 = r)).eraseDups
    (upFrom 0 64).foldl (fun n b => max n (here.countP (·.2.1 = b))) 1)).sum

/-- The rows of `n` slots. -/
def rowsFor (n : Nat) : Nat := (n + 63) / 64

/-- The address lies in the hart's own scratchpad aperture (R115). -/
def inOwn (a : Nat) : Bool := inAperture a && bits a 28 21 = 255

/-- The own-scratchpad words of the units at `addr` (R230); with `apart` each unit is a word of its own (R301). -/
def Hart.wordRequests (h : Hart) (mk : Nat) (addr : Nat → Nat) (apart : Bool) : List (Nat × Nat × Nat) :=
  (h.active mk).flatMap (fun e =>
    if inOwn (addr e) then
      (upFrom 0 h.slotsPer).map (fun k =>
        let w := bits (addr e) 20 0 / 4 + k
        ((h.slotsPer * e + k) / 64, w % 64, if apart then 2 ^ 20 + e else w))
    else [])

/-- The passes of a unit-stride access (R114, R229, R230): none where no unit is the core's own, or on the pool path. -/
def Hart.stridePasses (h : Hart) (mk a : Nat) : Nat :=
  let pa := (h.getP a).addr.toNat
  let r := h.wordRequests mk (h.unitAddr a) false
  if inOwn pa && decide (4 ≤ h.unitBytes) && pa % 256 = 0 then 0
  else if !inOwn pa && r.isEmpty then 0
  else passes (rowsFor (h.vl * h.slotsPer)) r

/-- The passes of a strided access: none where no unit is the core's own (R230). -/
def Hart.strided (h : Hart) (mk a b : Nat) : Nat :=
  let r := h.wordRequests mk (h.strideAddr a b) false
  if r.isEmpty then 0 else passes (rowsFor (h.vl * h.slotsPer)) r

/-- The passes of an image block: its data plane off the pool path, and its tail plane, where they reach the core's own words (R233). -/
def Hart.blockPasses (h : Hart) (a : Nat) : Nat :=
  let pa := (h.getP a).addr.toNat
  let k := h.vl * h.slotsPer
  let plane (b l : Nat) : Nat := if inOwn (b % 2 ^ 64) || inOwn ((b + l - 1) % 2 ^ 64) then rowsFor k else 0
  (if pa % 256 = 0 then 0 else plane pa (4 * k)) + plane (pa + 4 * k) k

/-- The passes of VLDT: one for each scratchpad row that its bytes touch, none on the pool path (R114, R234). -/
def Hart.densePasses (h : Hart) (mk a f : Nat) : Nat :=
  let pa := (h.getP a).addr.toNat
  if inOwn pa && pa % 256 = 0 && ((f = 7 && h.pack = 4) || ((f = 6 || f = 12) && h.pack = 8)) then 0
  else ((h.active mk).flatMap (fun e => (upFrom (e * h.pack) h.pack).flatMap (fun k =>
    let p := codePlace f pa k
    ((upFrom p.1 p.2.1).filter (fun b => inOwn (b % 2 ^ 64))).map (· / 256)))).eraseDups.length

/-- The passes of VTBL over the words it reads (R230, R264). -/
def Hart.tablePasses (h : Hart) (mk a b : Nat) : Nat :=
  passes (rowsFor h.vl) ((h.active mk).flatMap (fun e => (h.unit a e).map (fun i =>
    let w := (bits (h.getX b).toNat 20 0 + i.enc * (fmtWidth h.fmt / 8)) / 4
    (e / 64, w % 64, w))))

/-- The source slots that the elements read (R241): pairs of destination and source slot. -/
def slotRequests (ps : List (Nat × Nat)) : List (Nat × Nat × Nat) := ps.map (fun p => (p.1 / 64, p.2 % 64, p.2))

/-- The slots of pairs of elements (R79). -/
def Hart.elemPairs (h : Hart) (ps : List (Nat × Nat)) : List (Nat × Nat) :=
  ps.flatMap (fun p => (upFrom 0 h.slotsPer).map (fun k => (h.slotsPer * p.1 + k, h.slotsPer * p.2 + k)))

/-- The passes of a doubling instruction, step by step (R275). -/
def treePasses (k : TreeKind) (f vl : Nat) : Nat → Nat → List (Option Nat) → List Partial → Nat
  | 0, _, _, _ => 0
  | n + 1, st, j, x =>
    let req (p : Nat → Option Nat) : List (Nat × Nat × Nat) := (upFrom 0 vl).flatMap (fun e => match p e with
      | none => []
      | some q => [(e / 64, q % 64, q)])
    let second : Nat := match k with
      | .anc => passes (rowsFor vl) (req (fun e => (partAt x e).cur))
      | .isanc => passes (rowsFor vl) (req (fun e => (partAt x e).cur))
      | .contract => passes (rowsFor vl) (req (fun e => (partAt x e).cur))
      | _ => 0
    passes (rowsFor vl) (req (fun e => j.getD e none)) + second
      + treePasses k f vl n (st + 1) (j.map (fun p => p.bind (fun q => j.getD q none))) ((upFrom 0 vl).map (treeStep k f st j x))

/-- The passes of a doubling instruction from its start (R275). -/
def Hart.doublingPasses (h : Hart) (k : TreeKind) (mk a g mb : Nat) : Nat :=
  let es := upFrom 0 h.vl
  max 1 (treePasses k h.fmt h.vl (stepsFor h.vl) 0 (es.map (h.link g))
    (es.map (fun e => h.treeStart k a g (h.maskBit mb) (h.maskBit mk e) e)))

/-- The passes of an instruction through the lane network, 0 for one that does not use it (R71). -/
def Hart.passCount (h : Hart) (i : Instr) : Nat :=
  let rows := rowsFor h.blockSlots
  match i with
  | .vld _ u _ a => h.stridePasses u a
  | .vldf _ u _ a => h.stridePasses u a
  | .vst _ u _ a => h.stridePasses u a
  | .vlds _ u _ a b => h.strided u a b
  | .vsts _ u _ a b => h.strided u a b
  | .vspill _ _ _ a => h.blockPasses a
  | .vreload _ _ _ a => h.blockPasses a
  | .vldt _ u _ a f => h.densePasses u a f
  | .vtbl _ u _ a b => h.tablePasses u a b
  | .vldx _ u _ a b => passes rows (h.wordRequests u (h.indexAddr a b) false)
  | .vldxf _ u _ a b => passes rows (h.wordRequests u (h.indexAddr a b) false)
  | .vstx _ u _ a b => passes rows (h.wordRequests u (h.indexAddr a b) false)
  | .vgl _ u _ b _ p => passes rows (h.wordRequests u (h.indexAddr p b) false)
  | .vsc _ u _ b _ p => passes rows (h.wordRequests u (h.indexAddr p b) false)
  | .vamoAdd _ u _ b _ p => passes rows (h.wordRequests u (h.indexAddr p b) true)
  | .vamoFadd _ u _ b _ p => passes rows (h.wordRequests u (h.indexAddr p b) true)
  | .vamoMin _ u _ b _ p => passes rows (h.wordRequests u (h.indexAddr p b) true)
  | .vamoMax _ u _ b _ p => passes rows (h.wordRequests u (h.indexAddr p b) true)
  | .vamoAnd _ u _ b _ p => passes rows (h.wordRequests u (h.indexAddr p b) true)
  | .vamoOr _ u _ b _ p => passes rows (h.wordRequests u (h.indexAddr p b) true)
  | .vamoXor _ u _ b _ p => passes rows (h.wordRequests u (h.indexAddr p b) true)
  | .vamoSwap _ u _ b _ p => passes rows (h.wordRequests u (h.indexAddr p b) true)
  | .vslideu _ _ _ _ _ => rows
  | .vslided _ _ _ _ _ => rows
  | .vgath _ u _ _ b => passes rows (slotRequests (h.elemPairs ((((h.active u).map (fun e => (e, (h.getSlot b e).data.toNat)))).filter
      (fun p => decide (p.2 < h.vl)))))
  | .vcomp _ u _ _ => passes rows (slotRequests (h.elemPairs ((upFrom 0 (h.allActive u).length).zip (h.allActive u))))
  | .vexpd _ u _ _ => passes rows (slotRequests (h.elemPairs ((h.allActive u).zip (upFrom 0 (h.allActive u).length))))
  | .tup _ u _ a b y => h.doublingPasses (.up y) u a b 0
  | .tdown _ u _ a b y => h.doublingPasses (.down y) u a b 0
  | .tbcast _ u _ a b => h.doublingPasses .bcast u a b 0
  | .tdepth _ u _ a => h.doublingPasses .depth u 0 a 0
  | .tanc _ u _ a b => h.doublingPasses .anc u a b 0
  | .tisanc _ u _ a b => h.doublingPasses .isanc u a b 0
  | .tcontract _ _ a b => h.doublingPasses .contract 0 0 a b
  | .tcheck _ _ a => h.doublingPasses .check 0 0 a 0
  | _ => 0

end Sys2Proof.Machine
end

