-- ==== Sys2Proof/Machine/Convoy.lean ====
section
/-! DEFINITION. The steps of a hart: fetching and checking a convoy, performing its members in the order of R39 to R41 (R38 to R43, R62, R182,
R183, R365 to R367), the timetable's hold on them (R71, R73, R319); which step comes next; placing a word for a run from reset. -/

namespace Sys2Proof.Machine

/-! ### Words (R179, R182) -/

/-- The word has a custom major opcode (R176). -/
def isCustom (w : Nat) : Bool := w % 128 = 11 || w % 128 = 43 || w % 128 = 91 || w % 128 = 123
/-- The word is scalar floating point: the F-form codes of custom-2 (R182). -/
def isScalarFp (w : Nat) : Bool :=
  w % 128 = 91 && decide (37 ≤ 8 * (w / 536870912 % 8) + w / 4096 % 8) && decide (8 * (w / 536870912 % 8) + w / 4096 % 8 ≤ 53)
/-- The word is a vector, tree or tile word, which carries a C bit (R182). -/
def isVector (w : Nat) : Bool := isCustom w && !isScalarFp w
/-- A continuing word (R182). -/
def continuing (w : Nat) : Bool := isVector w && w / 268435456 % 2 = 0
/-- A VSETT word, whatever its C bit (R179). -/
def isVsett (w : Nat) : Bool := w % 128 = 11 && w / 1073741824 % 4 = 3

/-- The continuing words from `va` on, or the first fetch that faults with its position (R183). -/
def State.gather (s : State) : Nat → Nat → Nat → Except (Nat × Trap) (List Nat)
  | 0, _, _ => .ok []
  | fuel + 1, va, pos => match s.fetchWord (va % 2 ^ 64) with
    | .error (.trap t) => .error (pos, t)
    | .error .stall => .ok []
    | .ok w => if continuing w then match gather s fuel (va + 4) (pos + 1) with
        | .error e => .error e
        | .ok r => .ok (w :: r)
      else .ok []

/-- The `n` words fetched from the pc on: their pages in the caches of the core (R130, R369), and their lines' banks reached (R22). -/
def State.fetched (s : State) (n : Nat) : State :=
  let vas := ((upFrom 0 n).map (fun k => (s.hart.pc.toNat + 4 * k) % 2 ^ 64)).filter (fun a => canonical a && !inAperture a)
  let lines := (vas.map lineOf).eraseDups.filterMap (fun a => match s.translate s.hart.slot a 3 with
    | .ok (pa, _) => some pa
    | .error _ => none)
  (s.fill s.hart.slot ((vas.map (fun a => a / 4096 * 4096)).eraseDups)).touch lines

/-! ### Members -/

/-- A member of the convoy at hand: its position, its word, its instruction, what it is; `follows`: it comes after a doubling instruction
that is being resumed, so that the convoy's `vstart` is not its own (R49). -/
structure Placed where
  pos : Nat
  word : Nat
  ins : Instr
  mem : Member
  follows : Bool

/-- A word inside a convoy decoded; a VSETT, which is no reserved encoding there, as if its C bit were 1 (R183). -/
noncomputable def decodeInside (w : Nat) : Except Reject Instr :=
  if isVsett w && w / 268435456 % 2 = 0 then decodeWord (w + 268435456) else decodeWord w

/-- A nonzero bank of VREDX with an unscaled format (R189, R260). -/
def Hart.badBank (h : Hart) (i : Instr) : Bool := match i with
  | .vredx _ _ _ q => h.redxReserved q
  | _ => false

/-- A member that is a reserved encoding (R180, R183). -/
noncomputable def Hart.reserved (h : Hart) (w : Nat) : Bool := match decodeInside w with
  | .error _ => true
  | .ok i => h.badBank i

/-- The member is a doubling instruction (R43). -/
def Member.doubles (m : Member) : Bool := m.long && m.ln

/-- A VAMO at the start of its convoy: the addresses of its active units. -/
def Hart.vamoAddrs (h : Hart) (i : Instr) : Option (List Nat) := match i with
  | .vamoAdd _ u _ b _ p => some (h.unitAddrs u p b)
  | .vamoFadd _ u _ b _ p => some (h.unitAddrs u p b)
  | .vamoMin _ u _ b _ p => some (h.unitAddrs u p b)
  | .vamoMax _ u _ b _ p => some (h.unitAddrs u p b)
  | .vamoAnd _ u _ b _ p => some (h.unitAddrs u p b)
  | .vamoOr _ u _ b _ p => some (h.unitAddrs u p b)
  | .vamoXor _ u _ b _ p => some (h.unitAddrs u p b)
  | .vamoSwap _ u _ b _ p => some (h.unitAddrs u p b)
  | _ => none

/-- The instruction as a member of a convoy: a VAMO uses the lane network where it acts at scratchpad (R43), which its first active element decides
(R184), by the registers at the convoy's start (DESIGN CHOICE, log 59, where an earlier member writes them; one with no active element acts
nowhere). VGL and VSC, which the table of R43 names without that condition, use it on either side. -/
def Hart.memberAs (h : Hart) (i : Instr) : Member :=
  let m := memberOf (fmtWide h.fmt) i
  match h.vamoAddrs i with
  | none => m
  | some as => { m with ln := inAperture (as.headD 0) }

/-- The members of a convoy that begins at `vstart`. -/
noncomputable def Hart.membersOf (h : Hart) (vstart : BitVec 32) (ws : List Nat) : List Placed :=
  let resumes : Bool := vstart ≠ 0 && (match decodeInside (ws.headD 0) with
    | .ok i => (memberOf (fmtWide h.fmt) i).doubles
    | .error _ => false)
  let k : Hart := { h with vstart := vstart }
  (ws.zip (upFrom 0 ws.length)).filterMap (fun p => match decodeInside p.1 with
    | .ok i => some ⟨p.2, p.1, i, k.memberAs i, resumes && decide (0 < p.2)⟩
    | .error _ => none)

/-- The `vl` at which member `pos` runs: the least that a fault-only-first load before it, or itself, has left (R46). -/
def Cursor.vlAt (c : Cursor) (pos vl : Nat) : Nat := (c.vls.filter (fun e => decide (e.1 ≤ pos))).foldl (fun n e => min n e.2) vl

/-- The `vl` at which a convoy begins. -/
def Cursor.vlFirst (c : Cursor) (vl : Nat) : Nat := (c.vls.headD (0, vl)).2

/-- The state in which member `p` is performed over the elements [lo, hi); `c` is the convoy's cursor. -/
def State.atPlaced (s : State) (c : Cursor) (p : Placed) (lo hi : Nat) : State :=
  s.upd (fun h => { h with
    pc := c.pc + BitVec.ofNat 64 (4 * p.pos), vstart := if p.follows then 0 else c.vstart, resumeMid := false,
    vl := c.vlAt p.pos (c.vlFirst h.vl), cur := { c with pos := p.pos, lo := lo, hi := hi, word := p.word } })

/-- The trap of a poisoned item that the member reads (R379); a long instruction traps at itself (R367). -/
def State.poisonTrap (s : State) (m : Member) (i : Instr) : Option Trap := match s.hart.poisonRead m i with
  | none => none
  | some p => some ⟨0x22, 0, structureOf p.kind + 256 * p.num, none, m.long, 0⟩

/-! ### Phases 3 and 4 (R365) -/

/-- The first issue check that fails, with its member. -/
def State.issueTrap (s : State) (c : Cursor) (ps : List Placed) : Option (Placed × Trap) :=
  ps.findSome? (fun p => (p.mem.chk (s.atPlaced c p 0 4096)).map (fun t => (p, t)))

/-- The doubling instruction behind other members whose issue check fails with code 0x05: its trap is taken at itself, the members before it completed
(R367). -/
def State.doublingTrap (s : State) (c : Cursor) (ps : List Placed) : Option (Placed × Trap) :=
  (s.issueTrap c (ps.filter (fun p => p.mem.doubles && decide (0 < p.pos)))).filter (fun q => q.2.code = 0x05)

/-- The codes that phase 4 looks for. -/
def earlyCode (c : Nat) : Bool := (decide (0x08 ≤ c) && decide (c ≤ 0x0d)) || c = 0x20 || c = 0x21

/-- A fault that phase 4 finds: its member, its unit, the trap, and the state with the race recorded (R376). -/
structure EarlyFault where
  who  : Placed
  unit : Nat
  trap : Trap
  log  : State

/-- The state for a trial of member `p` alone: nothing waits on the engine, nothing is poisoned, no handler runs. -/
def State.trialAt (s : State) (c : Cursor) (p : Placed) : State :=
  { (s.atPlaced { c with size := 1 } p 0 4096).upd (fun h => { h with engine := [], poison := [], tstatus := 0 }) with poisoned := [] }

/-- The trial of a member: the fault it meets, the state with its claims, the cursor with the `vl` that it leaves (R46). -/
noncomputable def State.trial (s : State) (c : Cursor) (p : Placed) : Option EarlyFault × State × Cursor :=
  let s0 := s.trialAt c p
  match exec p.ins s0 with
  | .next t =>
    let k := t.hart.tcause.toNat
    if t.hart.intrap then
      (if earlyCode (k % 256) && decide (k / 65536 % 8 < 5) then
        some ⟨p, t.hart.vstart.toNat, .mem (k % 256) (k / 65536 % 8) t.hart.tval.toNat, t⟩ else none, s, c)
    else (none, { s with claims := t.claims, hart := { s.hart with wcb := t.hart.wcb, wcbAge := t.hart.wcbAge } },
      if t.hart.vl = s0.hart.vl then c else { c with vls := c.vls ++ [(p.pos, t.hart.vl)] })
  | _ => (none, s, c)

/-- The member's memory units are early, after the earlier members `e` (R365). -/
def Member.early (m : Member) (e : List Member) : Bool := m.mem && !(e.any (fun k => meets k.out m.late))

/-- The pages of every early unit translated (R131, R365, R369); `e` are the earlier members. -/
def State.fillEarly (c : Cursor) : List Member → State → List Placed → State
  | _, s, [] => s
  | e, s, p :: r =>
    let k := s.atPlaced c p 0 4096
    fillEarly c (e ++ [p.mem]) (if p.mem.early e then { k.fillUnits p.ins with hart := s.hart } else s) r

/-- The faults of the early memory units (R365), each member after the claims of those before it; `e` are the earlier members. -/
noncomputable def State.earlyFaults : List Member → State → Cursor → List Placed → List EarlyFault
  | _, _, _, [] => []
  | e, s, c, p :: r =>
    if p.mem.early e then
      match s.trial c p with
      | (some f, t, d) => f :: earlyFaults (e ++ [p.mem]) t d r
      | (none, t, d) => earlyFaults (e ++ [p.mem]) t d r
    else earlyFaults (e ++ [p.mem]) s c r

/-- One fault stands before another under R41: element row, then position, then unit. -/
def EarlyFault.before (a b : EarlyFault) : Bool :=
  let x := a.unit / 64
  let y := b.unit / 64
  decide (x < y) || (x = y && (decide (a.who.pos < b.who.pos) || (a.who.pos = b.who.pos && decide (a.unit < b.unit))))

/-- The fault that is taken. -/
def lowestFault (fs : List EarlyFault) : Option EarlyFault := fs.foldl (fun b f => match b with
  | none => some f
  | some g => if f.before g then some f else b) none

/-- The fault of a fault-only-first load's first active element, which R367 takes at the load, the members before it completed (log 48). -/
def EarlyFault.first (f : EarlyFault) : Bool := f.who.mem.out.contains .vl && decide (f.trap.code ≤ 0x0d)

/-! ### Interruption points (R49) -/

/-- The interruption points inside instruction `i` from where it stands: destination rows (32 elements of 64 bits, R79), elements, OPA steps or
doubling steps. A gather or an indexed
access that overwrites its own index register has none that resumption could start from (log 49). -/
def Hart.stopCount (h : Hart) (i : Instr) : Nat :=
  let rows := rowsFor (h.vl * h.slotsPer) - h.vstart.toNat * h.slotsPer / 64 - 1
  let steps := stepsFor h.vl - h.vstart.toNat / 4096 - 1
  match i with
  | .vldx _ _ d _ b => if fmtWide h.fmt && d = b then 0 else rows
  | .vldxf _ _ d _ b => if fmtWide h.fmt && d = b then 0 else rows
  | .vstx _ _ _ _ _ => rows
  | .vgath _ _ d a b => if d = a || (fmtWide h.fmt && d = b) then 0 else rows
  | .vldf _ _ _ _ => h.vl - h.vstart.toNat - 1
  | .tmm _ d a q p => h.tmmLeft d a q p - 1
  | .tup _ _ _ _ _ _ => steps
  | .tdown _ _ _ _ _ _ => steps
  | .tbcast _ _ _ _ _ => steps
  | .tdepth _ _ _ _ => steps
  | .tanc _ _ _ _ _ => steps
  | .tisanc _ _ _ _ _ => steps
  | .tcontract _ _ _ _ => steps
  | .tcheck _ _ _ => steps
  | _ => 0

/-- The cursor of an instruction that stops at the `k`-th of its interruption points. -/
def Hart.stopAt (h : Hart) (i : Instr) (k : Nat) (c : Cursor) : Cursor :=
  let row := { c with hi := 64 / h.slotsPer * (h.vstart.toNat * h.slotsPer / 64 + k) }
  match i with
  | .vldx _ _ _ _ _ => row
  | .vldxf _ _ _ _ _ => row
  | .vstx _ _ _ _ _ => row
  | .vgath _ _ _ _ _ => row
  | .vldf _ _ _ _ => { c with hi := h.vstart.toNat + k }
  | .tmm _ _ _ _ _ => { c with stop := k }
  | _ => { c with stop := h.vstart.toNat / 4096 + k }

/-- The hart set to stop inside `i` at a point that is free (R49), none inside a segment (R50, R73); 0 for none. -/
noncomputable def State.chooseStop (s : State) (i : Instr) : State × Nat :=
  let n := s.hart.stopCount i
  if n = 0 || s.hart.inSegment then (s, 0)
  else
    let k := Config.stopPoint s.freeN % (n + 1)
    ({ s with freeN := s.freeN + 1 }.upd (fun h => if k = 0 then h else { h with cur := h.stopAt i k h.cur }), k)

/-- The hart at the interruption point up to which its instruction ran (R49): the elements from there on are still to come. -/
def Hart.partly (o h : Hart) : Hart :=
  if h.pc = o.pc + 4 && h.intrap = o.intrap && decide (o.cur.hi < h.vl) then
    { h with pc := o.pc, vstart := BitVec.ofNat 32 o.cur.hi, resumeMid := o.cur.mid, cur := Cursor.alone }
  else { h with cur := Cursor.alone }

/-- An instruction that is no member of a longer convoy, performed as far as the interruption point it stops at (R49). -/
noncomputable def State.performAlone (i : Instr) (s : State) : Host.Outcome State Fault Refusal :=
  let c := s.chooseStop i
  if c.2 = 0 then exec i c.1
  else match exec i c.1 with
    | .next t => .next (t.upd c.1.hart.partly)
    | o => o

/-! ### Performing (R39 to R41) -/

/-- The stretch of the convoy that a position belongs to; each position of `cuts` is a stretch of its own. -/
def stretchOf (cuts : List Nat) (pos : Nat) : Nat := cuts.countP (fun c => decide (c ≤ pos)) + cuts.countP (fun c => decide (c < pos))

/-- The member is performed row by row; one at a cut is performed whole. -/
def Placed.byRows (cuts : List Nat) (p : Placed) : Bool := p.mem.rows && !cuts.contains p.pos

/-- The rows of a member: its passes by element rows, or one. -/
def Placed.rows (cuts : List Nat) (p : Placed) (n : Nat) : Nat := if p.byRows cuts then n else 1

/-- What must be performed before row `r` of member `p`: pairs of position and row of earlier members. Every earlier stretch; all before and all of a
long instruction (R294, R405); for an engine operation every earlier memory access (R287), unless only its registers are asked for (`eng` false); what
writes a register that the row reads or writes (R39). An earlier reader of a register that the row writes is waited for only where no old value is
kept for it (R40): topology registers, accumulators, scale banks, tile registers, f registers, and all while a poisoned item stands in the
core (`bare`; DESIGN CHOICE, log 47). -/
def needs (bare eng : Bool) (cuts : List Nat) (n : Nat) (ps : List Placed) (p : Placed) (r : Nat) : List (Nat × Nat) :=
  (ps.filter (fun e => decide (e.pos < p.pos))).flatMap (fun e =>
    let all := (upFrom 0 (e.rows cuts n)).map (fun k => (e.pos, k))
    let whole := !p.byRows cuts || !e.byRows cuts
    if stretchOf cuts e.pos ≠ stretchOf cuts p.pos || e.mem.long || p.mem.long || (eng && p.mem.eng && e.mem.mem) then all
    else if (e.mem.overwrites p.mem).any (fun x => bare || !x.keeps) then (if whole || e.mem.crosses p.mem then all else [(e.pos, r)])
    else if !(e.mem.after p.mem) then []
    else if whole || meets e.mem.out p.mem.far then all
    else [(e.pos, r)])

/-- The order of R41 in one stretch: memory accesses row by row, then by position, one that is made by no element rows with row 0; an engine operation
and what accesses no memory come when they are needed, or last. -/
def stretchOrder (cuts : List Nat) (n : Nat) (ps : List Placed) : List (Nat × Nat) :=
  let mems := ps.filter (fun p => p.mem.mem && !p.mem.eng)
  let first := (upFrom 0 n).flatMap (fun r => (mems.filter (fun p => decide (r < p.rows cuts n))).map (fun p => (p.pos, r)))
  first ++ ps.flatMap (fun p => (upFrom 0 (p.rows cuts n)).map (fun r => (p.pos, r)))

/-- The order of a convoy (R41): stretch after stretch. -/
def accessOrder (cuts : List Nat) (n : Nat) (ps : List Placed) : List (Nat × Nat) :=
  (upFrom 0 (2 * cuts.length + 1)).flatMap (fun g => stretchOrder cuts n (ps.filter (fun p => decide (stretchOf cuts p.pos = g))))

/-- How a member ended that did not complete. -/
inductive How where
  /-- It trapped, or met what ends a run: this is the outcome. -/
  | over
  /-- It waits on the engine (R118). -/
  | waits
  /-- It stands at an interruption point (R49). -/
  | stands
  deriving DecidableEq, Repr

/-- A member that did not complete; `cut`: the members before it are to have completed and none after it to have begun (R49, R73, R118, R367). -/
structure Ended where
  who : Placed
  cut : Bool
  how : How
  out : Host.Outcome State Fault Refusal

/-- How far a convoy has come: the state, the cursor with the rows performed, the member that ended it early. -/
structure Progress where
  s     : State
  c     : Cursor
  ended : Option Ended

/-- The engine moves while a member waits on it (R118, R282). -/
def State.engineMoves (s : State) : State := s.engineOrder runWhole [] s.hart.engine

/-- The trap that the member has taken stops the convoy at the member itself: of the engine (R367), of a long instruction, a deviation. -/
def Hart.trappedHere (h : Hart) (p : Placed) (pc : BitVec 64) : Bool :=
  p.mem.long || decide (h.tepc ≠ pc) || decide (bits h.tcause.toNat 19 16 ≥ 5)

/-- Member `p` performed on the state at hand. A wait is a deviation in a segment, at `cycle` (R73); else the engine moves and the member tries
again. -/
noncomputable def State.tryMember (p : Placed) (cycle : Option Nat) : Nat → State → State × Option Ended
  | fuel, s =>
    match exec p.ins s with
    | .next t =>
      if t.hart.status = .stalled then
        match cycle, fuel with
        | some k, _ => (s, some ⟨p, true, .over, s.deviate 1 k⟩)
        | none, 0 => (t, some ⟨p, true, .waits, .next t⟩)
        | none, n + 1 =>
          let u := t.engineMoves
          if u.hart.status = .stalled then (u, some ⟨p, true, .waits, .next u⟩) else tryMember p cycle n u
      else if t.hart.cur.size ≠ s.hart.cur.size then (t, some ⟨p, t.hart.trappedHere p s.hart.cur.pc, .over, .next t⟩)
      else if t.hart.pc = s.hart.pc + 4 then (t, none)
      else (t, some ⟨p, true, .stands, .next t⟩)
    | o => (s, some ⟨p, false, .over, o⟩)

/-- The cursor after row `r` of member `p`, all of its `n` rows when it is performed whole, with the `vl` it left (R46) and the old values `os` kept
for what still reads them (R40). -/
def Cursor.performed (c : Cursor) (cuts : List Nat) (p : Placed) (n r vl vl' : Nat) (os : List OldReg) : Cursor :=
  { c with
    done := (if p.byRows cuts then [(p.pos, r)] else (upFrom 0 n).map (fun k => (p.pos, k))) ++ c.done
    vls := if vl' = vl then c.vls else c.vls ++ [(p.pos, vl')]
    olds := c.olds ++ os.map (fun o => (p.pos, o)) }

/-- The registers that member `p` writes and of which old values are kept: an earlier member with rows to come reads them, or itself in later rows
(R40); a window for every memory access to come before it. -/
def Progress.keeps (g : Progress) (cuts : List Nat) (n : Nat) (ps : List Placed) (p : Placed) : List Reg :=
  let due := ps.filter (fun e => decide (e.pos < p.pos) && !((upFrom 0 (e.rows cuts n)).all (fun k => g.c.done.contains (e.pos, k))))
  p.mem.out.filter (fun x => match x with
    | .t _ => due.any (·.mem.mem) && !p.mem.eng
    | x => x.keeps && (due.any (fun e => e.mem.reads.contains x) || p.byRows cuts && p.mem.far.contains x))

/-- The state for row `r` of member `p`: the hart with the old values that it reads (R40). -/
def Progress.before (g : Progress) (cuts : List Nat) (p : Placed) (r : Nat) : State :=
  let rows := p.byRows cuts
  (g.s.atPlaced g.c p (if rows then 64 * r else 0) (if rows then 64 * (r + 1) else 4096)).upd
    (fun h => (g.c.oldsFor p.pos).foldl Hart.putOld h)

/-- The outcome of a member with the new values put back. -/
def Ended.restored (now : List OldReg) (e : Ended) : Ended := match e.out with
  | .next t => { e with out := .next (t.upd (fun h => now.foldl Hart.putOld h)) }
  | _ => e

/-- Row `r` of member `p` performed, with the old values that it reads in place. -/
noncomputable def Progress.run (cuts : List Nat) (live : Option TimePos) (n : Nat) (ps : List Placed) (g : Progress) (p : Placed) (r : Nat) : Progress :=
  let s := g.before cuts p r
  let now := (g.c.oldsFor p.pos).map g.s.hart.inPlaceOf
  let back (t : State) : State := t.upd (fun h => now.foldl Hart.putOld h)
  match s.poisonTrap p.mem p.ins with
  | some t => { g with ended := some (Ended.restored now ⟨p, p.mem.long, .over, s.trap t⟩) }
  | none =>
    let s1 := if p.mem.long then (s.chooseStop p.ins).1 else s.fillUnits p.ins
    let q := State.tryMember p (live.map (fun t => s.entryCycle { t with entry := t.entry + (p.pos - g.c.pos) })) (s.hart.engine.length + 2) s1
    match q.2 with
    | some e => ⟨back q.1, g.c, some (e.restored now)⟩
    | none => ⟨back q.1, g.c.performed cuts p n r s.hart.vl q.1.hart.vl
        ((g.keeps cuts n ps p).flatMap (s.hart.valuesOf s.hart.cur.lo s.hart.cur.hi)), none⟩

/-- The engine operation `e` of the convoy, not yet issued, would make row `r` of the later member `p` wait: they share bytes (R287), or the row reads
what the operation fills (R118). -/
noncomputable def Progress.waitsOn (g : Progress) (cuts : List Nat) (p : Placed) (r : Nat) (e : Placed) : Bool :=
  match exec e.ins (g.before cuts e 0) with
  | .next t =>
    t.hart.status ≠ .stalled && t.hart.cur.size = g.c.size && (match exec p.ins (({ g with s := t } : Progress).before cuts p r) with
      | .next u => u.hart.status = .stalled
      | _ => false)
  | _ => false

/-- A row performed after what it needs; a memory access after an engine operation of an earlier member that it would wait on (R287). -/
noncomputable def Progress.demand (cuts : List Nat) (live : Option TimePos) (n : Nat) (ps : List Placed) : Nat → Progress → Nat × Nat → Progress
  | 0, g, _ => g
  | fuel + 1, g, t =>
    if g.ended.isSome || g.c.done.contains t then g
    else match ps.find? (·.pos = t.1) with
      | none => g
      | some p =>
        let bare := !g.s.hart.poison.isEmpty
        let after (g : Progress) (ds : List (Nat × Nat)) : Progress := ds.foldl (fun g d => demand cuts live n ps fuel g d) g
        let g1 := after g (needs bare true cuts n ps p t.2)
        let g2 := match ps.find? (fun e => e.mem.eng && p.mem.mem && decide (e.pos < p.pos) && !g1.c.done.contains (e.pos, 0)) with
          | none => g1
          | some e =>
            let k := after g1 (needs bare false cuts n ps e 0)
            if k.ended.isNone && k.waitsOn cuts p t.2 e then after k [(e.pos, 0)] else k
        if g2.ended.isSome then g2 else g2.run cuts live n ps p t.2

/-- The members performed; from the start again, cut at a member that is to stand alone where it does not complete. -/
noncomputable def State.performing (live : Option TimePos) (ps : List Placed) (c : Cursor) (s : State) : Nat → List Nat → Progress
  | 0, _ => ⟨s, c, none⟩
  | fuel + 1, cuts =>
    let n := max 1 (rowsFor (c.vlFirst s.hart.vl))
    let g := (accessOrder cuts n ps).foldl (Progress.demand cuts live n ps (ps.length + 1)) ⟨s, c, none⟩
    match g.ended with
    | none => g
    | some e => if e.cut && !cuts.contains e.who.pos then performing live ps c s fuel (e.who.pos :: cuts) else g

/-- `vl` as the fault-only-first loads performed have left it (R46). -/
def Cursor.vlLast (c : Cursor) (h : Hart) : Hart := { h with vl := c.vls.foldl (fun n e => min n e.2) (c.vlFirst h.vl) }

/-- The hart at member `pos` as at a boundary: the rest of the convoy begins there (R49, R296). -/
def Hart.parkAt (c : Cursor) (pos : Nat) (h : Hart) : Hart := { h with cur := Cursor.alone, resumeMid := c.mid || decide (0 < pos) }

/-- The hart inside its convoy, which goes on when the wait is over (log 48). -/
def Hart.holdAt (c : Cursor) (pos : Nat) (h : Hart) : Hart :=
  { h with pc := c.pc, vstart := c.vstart, resumeMid := false, cur := { c with pos := pos, lo := 0, hi := 4096, stop := 0 } }

/-- The hart at the end of a convoy of `n` members. -/
def Hart.pass (c : Cursor) (n : Nat) (h : Hart) : Hart :=
  { h with pc := c.pc + BitVec.ofNat 64 (4 * n), vstart := 0, cur := Cursor.alone, resumeMid := false }

/-- The hart has completed a step of a TMM that is not at its end (R295, R296). -/
def Hart.tmmBegun (h : Hart) : Bool := decide (0 < bits h.seqstate.toNat 55 32)

/-- The state at the end of what was performed of a convoy. A member that waits leaves the hart inside the convoy, at no point of R49, but for a
TMM that has completed a step, and for one before which nothing was performed. -/
def Progress.close (g : Progress) : Host.Outcome State Fault Refusal :=
  match g.ended with
  | none => .next (g.s.upd (fun h => (g.c.vlLast h).pass g.c g.c.words.length))
  | some e => match e.how, e.out with
    | .over, .next t => .next (t.upd g.c.vlLast)
    | .stands, .next t => .next (t.upd (fun h => (g.c.vlLast h).parkAt g.c e.who.pos))
    | .waits, .next t => .next (t.upd (fun h => if e.who.mem.long && h.tmmBegun || g.c.done.isEmpty then (g.c.vlLast h).parkAt g.c e.who.pos
        else (g.c.vlLast h).holdAt g.c e.who.pos))
    | _, o => o

/-- The convoy's members performed (R39 to R41). -/
noncomputable def State.perform (s : State) (live : Option TimePos) (c : Cursor) (ps : List Placed) : Progress :=
  s.performing live ps c (ps.length + 1) []

/-! ### Timetables (R71, R73, R319) -/

/-- The state in which the members before position `k` have run one after another, each at the `vl` that those before it left (R46): the registers that
the pass count of member `k` reads. -/
noncomputable def State.ahead (k : Nat) : Cursor → State → List Placed → State
  | _, s, [] => s
  | c, s, p :: r =>
    let s1 := s.atPlaced c p 0 4096
    if p.pos ≥ k then s1 else match exec p.ins s1 with
    | .next t => ahead k (if t.hart.vl = s1.hart.vl then c else { c with vls := c.vls ++ [(p.pos, t.hart.vl)] }) t r
    | _ => s

/-- The scratchpad address of a scalar access, or of a vector access to a peer (R115, R232, R306, R307). -/
def Hart.peerAddr (h : Hart) (i : Instr) : Option Nat :=
  let at' (a : Nat) (off : Int) : Option Nat := some (h.getX a + ofInt off).toNat
  match i with
  | .vldp _ _ _ a => some (h.getP a).addr.toNat
  | .vstp _ _ _ a => some (h.getP a).addr.toNat
  | .lb _ a o => at' a o
  | .lh _ a o => at' a o
  | .lw _ a o => at' a o
  | .ld _ a o => at' a o
  | .lbu _ a o => at' a o
  | .lhu _ a o => at' a o
  | .lwu _ a o => at' a o
  | .sb a _ o => at' a o
  | .sh a _ o => at' a o
  | .sw a _ o => at' a o
  | .sd a _ o => at' a o
  | .fld g _ a o => at' a (o * fmtBytes g)
  | .fst g _ a o => at' a (o * fmtBytes g)
  | .fspill _ a o => at' a (o * 16)
  | .ffill _ a o => at' a (o * 16)
  | .ldaq _ a _ _ => at' a 0
  | .strl _ a _ _ => at' a 0
  | .amoxAdd _ a _ _ => at' a 0
  | .amoxFadd _ a _ _ => at' a 0
  | .amoxMin _ a _ _ => at' a 0
  | .amoxMax _ a _ _ => at' a 0
  | .amoxAnd _ a _ _ => at' a 0
  | .amoxOr _ a _ _ => at' a 0
  | .amoxXor _ a _ _ => at' a 0
  | .amoxSwap _ a _ _ => at' a 0
  | _ => none

/-- The instruction reaches a peer's scratchpad over the lane plane (R116, R164). -/
def Hart.crossesPlane (h : Hart) (i : Instr) : Bool := match h.peerAddr i with
  | none => false
  | some a => inAperture a && decide (bits a 28 21 < 192)

/-- The deviation of a member before it issues: no entry is left (kind 6), contention on the lane plane (kind 2, free), or its passes exceed its
budget (kind 3). -/
noncomputable def State.memberDeviates (s : State) (c : Cursor) (ps : List Placed) (p : Placed) (t : TimePos) : Option Nat :=
  match s.entryAt t (t.entry + (p.pos - c.pos)) with
  | none => some 6
  | some e =>
    let h := (State.ahead p.pos c s ps).hart
    if h.crossesPlane p.ins && Config.contends (s.freeN + (p.pos - c.pos)) then some 2
    else if decide (bits e 47 32 < h.passCount p.ins) then some 3 else none

/-- The hart's timetable moved on by `n` entries. -/
def Hart.spend (n : Nat) (h : Hart) : Hart := match h.time with
  | none => h
  | some t => { h with time := some { t with entry := t.entry + n } }

/-- One draw taken for each member of a convoy of `n`. -/
def State.drawn (s : State) (n : Nat) : State := { s with freeN := s.freeN + n }

/-- The deviation of a stall inside a segment (kind 1, R72, R73); TTSYNC may wait (R71). -/
def State.afterIssue (s : State) (sync : Bool) (o : Host.Outcome State Fault Refusal) : Host.Outcome State Fault Refusal :=
  match o with
  | .next t => if s.hart.inSegment && t.hart.status = .stalled && !sync then s.deviate 1 (match s.hart.time with
      | some u => s.entryCycle u
      | none => 0) else .next t
  | o => o

/-- The first member that deviates before it issues, with the kind. -/
noncomputable def State.firstDeviation (s : State) (c : Cursor) (ps : List Placed) (t : TimePos) : Option (Placed × Nat) :=
  ps.findSome? (fun p => (s.memberDeviates c ps p t).map (fun d => (p, d)))

/-- An instruction alone, or a member of no longer convoy, under the timetable's rules (R71, R73). -/
noncomputable def State.aloneTimed (s : State) (c : Cursor) (p : Placed) (sync : Bool)
    (k : State → Host.Outcome State Fault Refusal) : Host.Outcome State Fault Refusal :=
  match s.hart.time with
  | none => k s
  | some t => if !t.live then k s
    else match s.memberDeviates c [p] p t with
      | some d => (s.drawn 1).deviate d (s.entryCycle t)
      | none =>
        let s1 := s.drawn 1
        s1.afterIssue sync (k (if sync then s1 else s1.upd (Hart.spend 1)))

/-- The members of a convoy in a live segment that are due before another core's next entry (R71, R138): the first, and those whose cycles come
earlier. -/
def State.dueMembers (s : State) (c : Cursor) (t : TimePos) (ps : List Placed) : List Placed :=
  let rivals := s.harts.filterMap (fun k => match k.time with
    | none => none
    | some u => if u.live && u.image = t.image && k.slot = s.hart.slot && k.cl = s.hart.cl && k.hid ≠ s.hart.hid && k.ready then
        some (({ s with hart := k } : State).entryCycle u) else none)
  ps.takeWhile (fun p => p.pos = c.pos || rivals.all (fun k => decide (s.entryCycle { t with entry := t.entry + (p.pos - c.pos) } < k)))

/-- A convoy's members performed under the timetable's rules (R71, R73): one that deviates as it would issue ends the convoy there, those before
it performed. Members that come after another core's entry wait for it inside the convoy (R138; so R41 orders the accesses of members that no
other core's entry divides: DESIGN CHOICE, log 43). -/
noncomputable def State.convoyTimed (s : State) (c : Cursor) (ps : List Placed) : Host.Outcome State Fault Refusal :=
  match s.hart.time with
  | none => (s.perform none c ps).close
  | some t => if !t.live then (s.perform none c ps).close
    else
      let rest := ps.filter (fun p => decide (c.pos ≤ p.pos))
      let due := s.dueMembers c t rest
      match s.firstDeviation c due t with
      | some (p, d) =>
        let g := (s.drawn due.length).perform (some t) c (due.filter (fun q => decide (q.pos < p.pos)))
        if g.ended.isSome then g.close
        else (g.s.atPlaced g.c p 0 4096).deviate d (s.entryCycle { t with entry := t.entry + (p.pos - c.pos) })
      | none =>
        let g := ((s.drawn due.length).upd (Hart.spend due.length)).perform (some t) c due
        if g.ended.isSome || due.length = rest.length then g.close
        else .next (g.s.upd (fun h => (g.c.vlLast h).holdAt g.c (c.pos + due.length)))

/-! ### Issue (R62, R182, R183) -/

/-- The hart after an instruction or a convoy of its turn (R62); inside a segment each entry is a turn, so that the cores of a timetable follow
its cycles (R71). -/
def Hart.endTurn (convoy : Bool) (h : Hart) : Hart :=
  if h.status = .vacant then h
  else { h with turn := h.turn + 1, turnOver := h.turnOver || convoy || h.inSegment || decide (64 ≤ h.turn + 1) || decide (h.status ≠ .running) }

/-- The outcome of an instruction or a convoy, counted in the turn. -/
def countTurn (convoy : Bool) (o : Host.Outcome State Fault Refusal) : Host.Outcome State Fault Refusal := match o with
  | .next t => .next (t.upd (Hart.endTurn convoy))
  | o => o

/-- The cursor of an instruction that is alone: its word, and whether a convoy of it alone is restartable (R366). -/
def Hart.aloneCursor (h : Hart) (w : Nat) (m : Member) : Cursor :=
  { Cursor.alone with pc := h.pc, vstart := h.vstart, nr := isVector w && !restartable [m], mid := h.resumeMid, word := w }

/-- The instruction is TTSYNC. -/
def isTtsync (i : Instr) : Bool := match i with
  | .ttsync => true
  | _ => false

/-- An instruction that is no member of a longer convoy: the decoded instruction performed. -/
noncomputable def State.single (s : State) (w : Nat) (i : Instr) : Host.Outcome State Fault Refusal :=
  let m := memberOf (fmtWide s.hart.fmt) i
  let c := s.hart.aloneCursor w m
  let s1 := s.upd (fun h => { h with cur := c })
  match (if isVector w && (m.chk s1).isNone then s1.poisonTrap m i else none) with
  | some t => s1.trap t
  | none => (if (m.chk s1).isNone then s1.fillUnits i else s1).aloneTimed c ⟨0, w, i, m, false⟩ (isTtsync i) (State.performAlone i)

/-- The cursor of a convoy of the words `ws` at the hart's pc, its members' checks made. -/
def Hart.convoyCursor (h : Hart) (ws : List Nat) (nr : Bool) : Cursor :=
  ⟨h.pc, 0, true, h.vstart, nr, 0, 4096, ws.length, h.resumeMid, 0, ws, [], 0, [(0, h.vl)], [], []⟩

/-- The harts that the peer accesses of the convoy name (R116, R232). -/
def State.peersOf (s : State) (ps : List Placed) : List Nat :=
  ps.filterMap (fun p => match p.mem.rows && p.mem.mem, s.hart.peerAddr p.ins with
    | true, some a => if inAperture a && decide (bits a 28 21 < 192) then (s.peer (bits a 28 21)).map (·.hid) else none
    | _, _ => none)

/-- A trap at member `p` itself, the members before it performed (R46, R367). -/
noncomputable def State.trapAt (s : State) (c : Cursor) (ps : List Placed) (p : Placed) (t : Trap) : Host.Outcome State Fault Refusal :=
  let g := s.perform none c (ps.filter (fun q => decide (q.pos < p.pos)))
  if g.ended.isSome then g.close else .next ((g.s.atPlaced g.c p 0 4096).takeTrap { t with here := true })

/-- A convoy of several members (R365): decode, structural conflicts, issue checks, early units, then its members. -/
noncomputable def State.convoyOf (s : State) (ws : List Nat) : Host.Outcome State Fault Refusal :=
  match ws.find? s.hart.reserved with
  | some w => exec (.illegalInstruction w (min (ws.idxOf w) 15)) s
  | none =>
    let ps := s.hart.membersOf s.hart.vstart ws
    let ms := ps.map (·.mem)
    if ws.any isVsett || conflict ms then s.trapWith 0x04 (ws.headD 0)
    else
      let c := s.hart.convoyCursor ws (!restartable ms)
      let late := s.doublingTrap c ps
      match s.issueTrap c (ps.filter (fun p => late.all (fun q => q.1.pos ≠ p.pos))) with
      | some (p, t) => .next ((s.atPlaced c p 0 4096).takeTrap t)
      | none =>
        let s0 := State.fillEarly c [] s ps
        match lowestFault (State.earlyFaults [] s0 c ps), late with
        | some f, late =>
          if f.first then (match late with
            | some q => if q.1.pos < f.who.pos then s0.trapAt c ps q.1 q.2 else s0.trapAt c ps f.who f.trap
            | none => s0.trapAt c ps f.who f.trap)
          else
            let s1 := if f.trap.code = 0x20 then { s0 with dusk := f.log.dusk, dcnt := f.log.dcnt } else s0
            .next ((s1.atPlaced c f.who 0 4096).takeTrap f.trap)
        | none, some q => s0.trapAt c ps q.1 q.2
        | none, none => s0.convoyTimed { c with reach := s0.peersOf ps } ps

/-- The most words that one convoy's fetch follows. -/
def fetchFuel : Nat := 1048576

/-- A vector, tree or tile word issued with its convoy (R182, R183, R365). After an instruction that is always a convoy of one (R38) the fetch
follows every continuing word as after any other, so that a fetch fault there is taken at that instruction; without one it is performed, and
the first continuing word is an illegal instruction in its turn (DESIGN CHOICE, log 59: STRIP, VSETC, PSET, PGET, VLOOP, VBANY, VBNONE and the
ordered atomics; the spec says only that no continuing word may follow them). -/
noncomputable def State.issueVector (s : State) (w : Nat) : Host.Outcome State Fault Refusal :=
  if continuing w && !s.hart.resumeMid then exec (.illegalInstruction w 0) s
  else match s.gather fetchFuel (s.hart.pc.toNat + 4) 1 with
    | .error (pos, t) =>
      let s1 := s.fetched (pos + 1)
      if t.code = 0x02 then exec (.fetchFault t.tval (min pos 15)) s1 else (s1.atMember (min pos 15)).trap t
    | .ok ws =>
      let s1 := s.fetched (ws.length + 2)
      match decodeWord w with
      | .error _ => exec (.illegalInstruction w 0) s1
      | .ok i =>
        if ws.isEmpty || (memberOf (fmtWide s.hart.fmt) i).solo && !isVsett w then s1.single w i
        else s1.convoyOf (w :: ws)

/-- The trap of an engine fault that the next instruction waits on, which comes before every later check of it (R368). -/
noncomputable def State.deferredTrap (s : State) : Option State :=
  if s.hart.intrap || !s.hart.engine.any (·.fault.isSome) then none
  else match s.fetchWord s.hart.pc.toNat with
    | .error _ => none
    | .ok w => if isVector w && continuing w && !s.hart.resumeMid then none
      else match decodeWord w with
        | .error _ => none
        | .ok i =>
          let s1 := s.upd (fun h => { h with cur := { h.aloneCursor w (memberOf (fmtWide h.fmt) i) with checked := true } })
          match s1.unitWait i with
          | some t => some (s1.takeTrap t)
          | none => match exec i s1 with
            | .next t => if t.hart.intrap && decide (bits t.hart.tcause.toNat 19 16 ≥ 5) then some t else none
            | _ => none

/-- The next instruction or convoy of the hart. -/
noncomputable def State.issueNext (s0 : State) : Host.Outcome State Fault Refusal :=
  match s0.fetchWord s0.hart.pc.toNat with
  | .error (.trap t) =>
    let s := s0.fetched 1
    if t.code = 0x02 then exec (.fetchFault s.hart.pc.toNat 0) s else (s.atMember 0).trap t
  | .error .stall => .next s0
  | .ok w =>
    if isVector w then countTurn true (s0.issueVector w)
    else
      let s := s0.fetched 1
      match decodeWord w with
      | .error _ => countTurn false (exec (.illegalInstruction w 0) s)
      | .ok i => countTurn false (s.single w i)

/-- The hart begins its next instruction or convoy. -/
noncomputable def State.issue (s0 : State) : Host.Outcome State Fault Refusal :=
  let s := s0.upd (fun h => { h with cur := Cursor.alone })
  match s.deferredTrap with
  | some t => countTurn true (.next t)
  | none => s.issueNext

/-- The convoy that waited goes on with what is left of it (R71, R118, log 48). -/
noncomputable def State.continueConvoy (s : State) : Host.Outcome State Fault Refusal :=
  let c := s.hart.cur
  countTurn true (s.convoyTimed c (s.hart.membersOf c.vstart c.words))

/-- The trap of a deviation elsewhere (R73, R370): at the next member of a convoy whose earlier members have issued. -/
noncomputable def State.deviated (s : State) (lc : Nat) : Host.Outcome State Fault Refusal :=
  let t := s.upd (fun h => { h with time := none })
  let c := s.hart.cur
  match (if s.hart.midConvoy then (s.hart.membersOf c.vstart c.words).find? (·.pos = c.pos) else none) with
  | none => t.trapWith 0x14 lc
  | some p => (t.atPlaced c p 0 4096).trap { Trap.of 0x14 lc with here := true }

/-- The hart does at its turn: the trap of a deviation elsewhere (R73), the rest of a convoy that waited, a pending source (R364, R368), or its
next instruction. -/
noncomputable def State.hartStep (s : State) : Host.Outcome State Fault Refusal :=
  match s.hart.time.bind (·.dev) with
  | some lc => s.deviated lc
  | none =>
    if s.hart.midConvoy then s.continueConvoy
    else if s.hart.ie && !s.hart.inSegment && s.hart.asyncSource.isSome then
      exec .asyncInterrupt (s.upd (fun h => { h with status := .running }))
    else s.issue

/-! ### Which step comes next -/

/-- A hart's HALT, its cancellation or its pre-emption that has waited and can take effect: at a point of R49 (R50, R53), its rows no longer to be
reached (R116, R318). -/
def State.overdue (s : State) : Option Instr :=
  (s.harts.find? (fun h => (h.cancelled || h.preemptDue || h.status = .halting) && !h.cannotStop && !h.preempted && !s.awaited h.hid)).map (fun h =>
    if h.cancelled then .hartCancel h.hid else if h.preemptDue then .preemption h.hid else .haltComplete h.hid)

/-- The cycle of the hart's next entry (R319). -/
def State.cycleOf (s : State) (h : Hart) (t : TimePos) : Nat := ({ s with hart := h } : State).entryCycle t

/-- The hart's next entry comes later than that of another core of its timetable, which goes first (R71). -/
def State.behind (s : State) (h : Hart) : Bool := match h.time with
  | none => false
  | some t => t.live && s.harts.any (fun k => match k.time with
    | none => false
    | some u => u.live && u.image = t.image && k.slot = h.slot && k.cl = h.cl && k.ready && decide (s.cycleOf k u < s.cycleOf h t))

/-- The cores that hold a ready hart whose turn it may be. -/
def State.readyCores (s : State) : List (Nat × Nat) :=
  ((s.harts.filter (fun h => h.ready && !h.preempted && !s.behind h)).map (fun h => (h.cl, h.core))).eraseDups

/-- One free choice of the scheduler taken (log 21). -/
def State.draw (s : State) : State := { s with freeN := s.freeN + 1 }

/-- A step with no other agent's step due: reports reach their harts, a waiting pre-emption or cancellation takes effect, the turn goes on, a placer
places, a core gets an issue turn. With none of these the module is idle. -/
noncomputable def State.quietStep (s0 : State) : Host.Outcome State Fault Refusal :=
  let s := s0.receiveAll
  match s.overdue with
  | some i => exec i s
  | none =>
    if s.inTurn then s.hartStep
    else match (upFrom 0 Config.clusters).find? s.canPlace with
      | some cl => exec (.launchPlacement cl (Config.placeCore s.freeN % Config.cores) (Config.placeGrant s.freeN)) s.draw
      | none => match s.readyCores[Config.nextCore s.freeN % s.readyCores.length]? with
        | some c => exec (.issueTurn c.1 ⟨c.2, []⟩) s.draw
        | none => .next s

/-! ### A word placed for the next step (log 22) -/

/-- A page-table entry of four bytes or fewer, written at `pa` (R128). -/
def State.putEntry (s : State) (pa v : Nat) : State := s.writePhys 0 pa (leBytes v 8)

/-- The job of one hart that stands for a load of a program: a dispatched phase of one stand-alone launch with the default partition. -/
def bootJob : Job where
  sec := false
  strict := false
  pgroot := 0x1000
  view := 0
  chmask := 0
  tvec := 0
  rpt := 0
  phases := [⟨false, 0, 1, 0, 0, 1, .running, true⟩]
  cur := 0
  counter := 1
  state := .running
  launches := [⟨0, ⟨0x10000, 0, 1, 0, false, false, Config.defaultPart, []⟩, none, 0, 0, 1, .running, 1, false, 0, [], [], 0, []⟩]
  graphs := []
  image := []

/-- A job in slot 0 with one hart in its turn at 0x10000: its 2 MiB page at physical address 0 is readable, writable and executable. -/
def State.boot (s : State) : State :=
  let s1 := (((s.putEntry 0x1000 0x2001).putEntry 0x2000 0x3001).putEntry 0x3000 0x4001).putEntry 0x4000 0x0f
  { s1.updSlot 0 (fun sl => { sl with st := 2, clus := 1, held := false, sink := false, regions := [⟨true, false, 0, 31⟩], job := some bootJob }) with
    hart := { Hart.vacant with pc := 0x10000, status := .running, hid := s.nextHid, order := s.placed }
    others := s.others.map (fun h => { h with cancelled := false, preemptDue := false, held := [] })
    agenda := []
    xlat := []
    poisoned := []
    nextHid := s.nextHid + 1
    placed := s.placed + 1 }

/-- The next step fetches an instruction of the hart at the issue slot. -/
def State.fetching (s : State) : Bool :=
  s.inTurn && s.hart.time.isNone && s.hart.asyncSource.isNone && s.overdue.isNone && s.poisoned.isEmpty
    && (match s.fetchWord s.hart.pc.toNat with
      | .ok _ => true
      | .error _ => false)

/-- The word of an instruction where the hart fetches next; a continuing word is legal there (R182). -/
def State.placeWord (s0 : State) (w : Nat) : State :=
  let s := if s0.fetching then s0 else s0.boot
  match s.translate s.hart.slot s.hart.pc.toNat 3 with
  | .error _ => s
  | .ok (pa, _) => { s.writePhys 0 pa (wordBytes w) with agenda := [], hart := { s.hart with resumeMid := continuing w } }

end Sys2Proof.Machine
end

