-- ==== Sys2Proof/Machine/Step.lean ====
section
/-! DEFINITION. One step of the module: the oldest step of another agent that is due, else what comes next of its own. -/

namespace Sys2Proof.Machine

/-- One step of the module. -/
noncomputable def step (s : State) : Host.Outcome State Fault Refusal :=
  match s.agenda with
  | i :: r => exec i { s with agenda := r }
  | [] => s.quietStep

/-- The state with the instruction whose bits are `w` stored where the next step fetches. -/
def State.withFetchWord (s : State) (nbits w : Nat) : State := s.placeWord (w % 2 ^ nbits % 4294967296)

end Sys2Proof.Machine
end

