-- ==== Sys2Proof/Safety.lean ====
section
/-! DEFINITION. What counts as a safe run: the module keeps stepping, and its storage keeps its form. -/

namespace Sys2Proof

/-- The step answers a next state: neither a fault nor a refusal. -/
def Steps (s : Machine.State) : Prop := ∃ t, Machine.step s = .next t

/-- The state's memory has its canonical form. -/
def MemoryOk (s : Machine.State) : Prop := Machine.Memory.wf s.mem = true

/-- What every step keeps: memory and the claims of the write-combining buffers in their canonical forms, six job slots, and a dusk log no
longer than it can be (R148, R376, log 2). -/
structure Machine.State.Inv (s : Machine.State) : Prop where
  mem    : Machine.Memory.wf s.mem = true
  claims : Machine.mapWf 0 s.claims = true
  slots  : s.slots.length = 6
  dusk   : s.dusk.length ≤ Config.duskEvents

/-- `n` steps from `s` all answer next states with canonical memory. -/
def SafeFor : Nat → Machine.State → Prop
  | 0, s => MemoryOk s
  | n + 1, s => MemoryOk s ∧ ∃ t, Machine.step s = .next t ∧ SafeFor n t

/-- No run from `s` stops (log 2: steps of other agents stand in the agenda). -/
def Safe (s : Machine.State) : Prop := ∀ n, SafeFor n s

end Sys2Proof
end

