-- ==== Sys2Proof/Certificates/Slice0/Obligations.lean ====
section
/-! DEFINITION. The statements for the provers, with the words they are said in: what a frame keeps, what a result is, when an access goes through. -/

namespace Sys2Proof.Machine

/-! ### Frames -/

/-- No byte of physical memory, performed or buffered by the hart, and no byte of the hart's scratchpad has changed. -/
def SameBytes (s t : State) : Prop :=
  (∀ a, t.readByte a = s.readByte a) ∧ (∀ a, t.peek a = s.peek a) ∧ ∀ o, mapGet 0 t.hart.scratch o = mapGet 0 s.hart.scratch o

/-- `t` is `s` but for x register `d`, which takes `v` unless it is x0, and the pc, which takes `pc` (R201). -/
structure WroteX (s t : State) (d : Nat) (v : Word) (pc : BitVec 64) : Prop where
  x     : ∀ r, t.hart.getX r = if r = d ∧ d ≠ 0 then v else s.hart.getX r
  rest  : t = { s with hart := { s.hart with x := t.hart.x, pc := pc, resumeMid := false } }
  bytes : SameBytes s t

/-- `t` is `s` but for f register `d`, which takes `v`, the flags `fl` raised, and the pc (R208, R220). -/
structure WroteF (s t : State) (d : Nat) (v : BitVec 66) (fl : BitVec 5) : Prop where
  f     : ∀ r, t.hart.getF r = if r = d then v else s.hart.getF r
  flags : t.hart.vflags = s.hart.vflags ||| fl
  rest  : t = { s with hart := { s.hart with f := t.hart.f, vflags := t.hart.vflags, pc := s.hart.pc + 4, resumeMid := false } }
  bytes : SameBytes s t

/-- The hart stands in no trap handler and between convoys. -/
def Hart.plain (h : Hart) : Prop := h.intrap = false ∧ h.cur.size = 1 ∧ h.cur.pos = 0

/-- The trap entry of R331 at a single instruction: the saved registers, bits 1:0 of `tepc` zero (R362), the status, the handler's address, the
links dropped (R302), and nothing else. -/
structure TookTrap (s t : State) (code acc tval : Nat) : Prop where
  tepc    : t.hart.tepc = s.hart.pc &&& ~~~ 3
  tcause  : t.hart.tcause = BitVec.ofNat 64 (code + 65536 * acc)
  tval    : t.hart.tval = BitVec.ofNat 64 tval
  ie      : t.hart.ie = false
  pie     : t.hart.tstatus.getLsbD 5 = s.hart.ie
  intrap  : t.hart.intrap = true
  mid     : t.hart.mid = s.hart.resumeMid
  pc      : t.hart.pc = s.hart.tvec &&& ~~~ 3
  links   : t.links = s.links.filter (fun l => l.1 ≠ s.hart.hid)
  rest    : t = { s with links := t.links, hart := { s.hart with
              links := [], tepc := t.hart.tepc, tcause := t.hart.tcause, tval := t.hart.tval, tstatus := t.hart.tstatus, pc := t.hart.pc,
              resumeMid := false, cur := Cursor.alone } }
  bytes   : SameBytes s t

/-! ### Base instructions -/

/-- Signed and unsigned 32-bit halves as 64-bit values (R201). -/
def low32 (v : Word) : BitVec 32 := v.setWidth 32

/-- The x register that an integer instruction writes, and its value (R201, R202). -/
def intResult (h : Hart) : Instr → Option (Nat × Word)
  | .lui d i => some (d, (BitVec.ofNat 32 (i * 4096)).signExtend 64)
  | .auipc d i => some (d, h.pc + (BitVec.ofNat 32 (i * 4096)).signExtend 64)
  | .addi d a i => some (d, BitVec.ofInt 64 ((h.getX a).toInt + i))
  | .slti d a i => some (d, if (h.getX a).toInt < (BitVec.ofInt 64 i).toInt then 1 else 0)
  | .sltiu d a i => some (d, if (h.getX a).toNat < (BitVec.ofInt 64 i).toNat then 1 else 0)
  | .xori d a i => some (d, h.getX a ^^^ BitVec.ofInt 64 i)
  | .ori d a i => some (d, h.getX a ||| BitVec.ofInt 64 i)
  | .andi d a i => some (d, h.getX a &&& BitVec.ofInt 64 i)
  | .slli d a n => some (d, BitVec.ofNat 64 ((h.getX a).toNat * 2 ^ n))
  | .srli d a n => some (d, BitVec.ofNat 64 ((h.getX a).toNat / 2 ^ n))
  | .srai d a n => some (d, BitVec.ofInt 64 ((h.getX a).toInt / 2 ^ n))
  | .addiw d a i => some (d, (low32 (h.getX a) + BitVec.ofInt 32 i).signExtend 64)
  | .slliw d a n => some (d, (low32 (h.getX a) <<< n).signExtend 64)
  | .srliw d a n => some (d, (low32 (h.getX a) >>> n).signExtend 64)
  | .sraiw d a n => some (d, BitVec.ofInt 64 ((low32 (h.getX a)).toInt / 2 ^ n))
  | .add d a b => some (d, BitVec.ofNat 64 ((h.getX a).toNat + (h.getX b).toNat))
  | .sub d a b => some (d, BitVec.ofInt 64 ((h.getX a).toInt - (h.getX b).toInt))
  | .sll d a b => some (d, BitVec.ofNat 64 ((h.getX a).toNat * 2 ^ ((h.getX b).toNat % 64)))
  | .slt d a b => some (d, if (h.getX a).toInt < (h.getX b).toInt then 1 else 0)
  | .sltu d a b => some (d, if (h.getX a).toNat < (h.getX b).toNat then 1 else 0)
  | .xor d a b => some (d, h.getX a ^^^ h.getX b)
  | .srl d a b => some (d, BitVec.ofNat 64 ((h.getX a).toNat / 2 ^ ((h.getX b).toNat % 64)))
  | .sra d a b => some (d, BitVec.ofInt 64 ((h.getX a).toInt / 2 ^ ((h.getX b).toNat % 64)))
  | .or d a b => some (d, h.getX a ||| h.getX b)
  | .and d a b => some (d, h.getX a &&& h.getX b)
  | .mul d a b => some (d, BitVec.ofNat 64 ((h.getX a).toNat * (h.getX b).toNat))
  | .mulh d a b => some (d, BitVec.ofInt 64 ((h.getX a).toInt * (h.getX b).toInt / 2 ^ 64))
  | .mulhsu d a b => some (d, BitVec.ofInt 64 ((h.getX a).toInt * ((h.getX b).toNat : Int) / 2 ^ 64))
  | .mulhu d a b => some (d, BitVec.ofNat 64 ((h.getX a).toNat * (h.getX b).toNat / 2 ^ 64))
  | .addw d a b => some (d, (low32 (h.getX a) + low32 (h.getX b)).signExtend 64)
  | .subw d a b => some (d, (low32 (h.getX a) - low32 (h.getX b)).signExtend 64)
  | .sllw d a b => some (d, (low32 (h.getX a) <<< ((h.getX b).toNat % 32)).signExtend 64)
  | .srlw d a b => some (d, (low32 (h.getX a) >>> ((h.getX b).toNat % 32)).signExtend 64)
  | .sraw d a b => some (d, BitVec.ofInt 64 ((low32 (h.getX a)).toInt / 2 ^ ((h.getX b).toNat % 32)))
  | .mulw d a b => some (d, (low32 (h.getX a) * low32 (h.getX b)).signExtend 64)
  | _ => none

/-- The quotient or remainder that a division writes: the register, whether it is signed, its width, whether it is the remainder (R201). -/
def divisionOf : Instr → Option (Nat × Nat × Nat × Bool × Nat × Bool)
  | .div d a b => some (d, a, b, true, 64, false)
  | .divu d a b => some (d, a, b, false, 64, false)
  | .rem d a b => some (d, a, b, true, 64, true)
  | .remu d a b => some (d, a, b, false, 64, true)
  | .divw d a b => some (d, a, b, true, 32, false)
  | .divuw d a b => some (d, a, b, false, 32, false)
  | .remw d a b => some (d, a, b, true, 32, true)
  | .remuw d a b => some (d, a, b, false, 32, true)
  | _ => none

/-- The low `w` bits of a register as an integer. -/
def operandInt (signed : Bool) (w : Nat) (v : Word) : Int :=
  if signed then (v.setWidth w).toInt else ((v.setWidth w).toNat : Int)

/-- The value of a division (R201, R202): rounded toward zero, the remainder with the sign of the dividend; all ones or the dividend for a zero
divisor; extended from bit w − 1. -/
def divisionValue (signed : Bool) (w : Nat) (rem : Bool) (x y : Word) : Word :=
  let n := operandInt signed w x
  let k := operandInt signed w y
  let q : Int := if k = 0 then (if rem then n else -1) else if rem then n.tmod k else n.tdiv k
  (BitVec.ofInt w q).signExtend 64

/-- Whether a branch is taken, and its offset (R201). -/
def branchOf (h : Hart) : Instr → Option (Bool × Int)
  | .beq a b o => some (decide (h.getX a = h.getX b), o)
  | .bne a b o => some (decide (h.getX a ≠ h.getX b), o)
  | .blt a b o => some (decide ((h.getX a).toInt < (h.getX b).toInt), o)
  | .bge a b o => some (decide ((h.getX b).toInt ≤ (h.getX a).toInt), o)
  | .bltu a b o => some (decide ((h.getX a).toNat < (h.getX b).toNat), o)
  | .bgeu a b o => some (decide ((h.getX b).toNat ≤ (h.getX a).toNat), o)
  | _ => none

/-- The link register and the target of a transfer of control that is taken (R201, R203). -/
def transferOf (h : Hart) (i : Instr) : Option (Nat × Word) :=
  match i with
  | .jal d o => some (d, h.pc + BitVec.ofInt 64 o)
  | .jalr d a o => some (d, (h.getX a + BitVec.ofInt 64 o) &&& ~~~ 1)
  | i => match branchOf h i with
    | some (true, o) => some (0, h.pc + BitVec.ofInt 64 o)
    | _ => none

/-! ### Memory accesses -/

/-- No entry that a translation cache may still hold for the hart's job differs from the page tables (R130). -/
def State.fresh (s : State) : Prop := ∀ a, s.stale s.hart.slot a = []

/-- The `n` bytes at offset `off` of the scratchpad of hart `k` can be read: they are inside its rows, outside its declared feed queues, and none of
them is poisoned (R113, R117, R379). -/
def Hart.scratchReady (k : Hart) (off n : Nat) : Prop :=
  k.scratchOk off n = true ∧ ∀ p ∈ k.poison, p.kind = 2 → overlap (4 * p.elem) 4 off n = false

/-- The `n` bytes at `a` are off-core bytes at physical address `pa`, whose page has the permission bit `perm`, and no other hart claims one of them
(R129, R143). -/
def State.mapped (s : State) (a n perm pa : Nat) : Prop :=
  place a = .ok (.virt a) ∧ (∃ leaf, s.translate s.hart.slot a perm = .ok (pa, leaf)) ∧ s.raceAt s.hart.hid (upFrom pa n) = none

/-- The `n` bytes at `a` can be read and hold `v`: they stand in the hart's own scratchpad, off-core, where its own buffered stores come before
memory, or, where peers are allowed, in the scratchpad of a peer (R116, R140, R205, R229). -/
def State.finds (s : State) (peers : Bool) (a n v : Nat) : Prop :=
  (∃ off, place a = .ok (.own off) ∧ s.hart.scratchReady off n ∧ v = s.hart.readScratch off n) ∨
  (∃ pa, s.mapped a n 1 pa ∧ s.poisonAt pa n = none ∧ v = leNat ((upFrom pa n).map s.peek)) ∨
  (peers = true ∧ ∃ lc off k, place a = .ok (.peer lc off) ∧ s.peerTarget lc a n = some k ∧ s.hartOf k.hid = some k ∧ k.scratchReady off n ∧
    v = k.readScratch off n)

/-- A load of `n` aligned bytes at `a` goes through and gives `v` (R204). -/
def State.loads (s : State) (peers : Bool) (a n v : Nat) : Prop := a % n = 0 ∧ s.finds peers a n v

/-- The steps that became due wake banks that were at retention voltage (R22). -/
def Wakes (s t : State) : Prop := ∃ ws : List Instr, t.agenda = s.agenda ++ ws ∧ ∀ i ∈ ws, ∃ c l b, i = .bankWake c l b

/-- `t` is `s` with the translations, host-window homes and waking banks of its accesses noted (R22, R122, R130); no byte has changed. -/
structure Noted (s t : State) : Prop where
  rest  : t = { s with xlat := t.xlat, homes := t.homes, agenda := t.agenda, freeN := t.freeN }
  wakes : Wakes s t
  bytes : SameBytes s t

/-- Where a store at `a` leads: an offset of the hart's own scratchpad (true), or a physical address (false) (R112, R129). -/
def State.storeTarget (s : State) (a : Nat) : Option (Bool × Nat) :=
  match place a with
  | .ok (.own off) => some (true, off)
  | .ok (.virt va) => match s.translate s.hart.slot va 2 with
    | .ok (pa, _) => some (false, pa)
    | .error _ => none
  | _ => none

/-- The stores of a list that go to the hart's own scratchpad, with their offsets. -/
def State.ownStores (s : State) (ws : List (Nat × List Byte)) : List (Nat × List Byte) :=
  ws.filterMap (fun w => match s.storeTarget w.1 with
    | some (true, off) => some (off, w.2)
    | _ => none)

/-- The stores of a list that go off-core, with their physical addresses. -/
def State.physStores (s : State) (ws : List (Nat × List Byte)) : List (Nat × List Byte) :=
  ws.filterMap (fun w => match s.storeTarget w.1 with
    | some (false, pa) => some (pa, w.2)
    | _ => none)

/-- What the last store of a list that covers byte `a` writes there. -/
def lastByte (ws : List (Nat × List Byte)) (a : Nat) : Option Byte :=
  ws.foldl (fun r w => if w.1 ≤ a ∧ a < w.1 + w.2.length then some (w.2.getD (a - w.1) 0) else r) none

/-- The claim entries of the module: one per claimed line per claiming hart (R144). -/
def State.claimLines (s : State) : Nat := (s.claims.map (fun c => (lineOf c.1, c.2))).eraseDups.length

/-- The stores of a list, in order, go through: no engine operation is outstanding, each is aligned to its length, inside the hart's own rows or
mapped and unclaimed, and the store buffer and the claim entries have room for their lines (R141 to R144, R204, R205, R229). -/
structure State.storable (s : State) (ws : List (Nat × List Byte)) : Prop where
  engine  : s.hart.engine = []
  fresh   : 1 < ws.length → s.fresh
  aligned : ∀ w ∈ ws, w.1 % w.2.length = 0
  own     : ∀ w ∈ ws, ∀ off, s.storeTarget w.1 = some (true, off) → s.hart.scratchOk off w.2.length = true
  phys    : ∀ w ∈ ws, ∀ pa, s.storeTarget w.1 = some (false, pa) → s.raceAt s.hart.hid (upFrom pa w.2.length) = none
  reached : ∀ w ∈ ws, s.storeTarget w.1 ≠ none
  room    : (∀ p ∈ s.physStores ws, lineOf p.1 ∈ s.hart.wcbAge) ∨
              ∃ ls : List Nat, (∀ p ∈ s.physStores ws, lineOf p.1 ∈ ls) ∧ s.hart.wcbAge.length + ls.length ≤ Config.wcbBytes / 128 ∧
                s.claimLines + ls.length ≤ Config.sliceEntries

/-- `t` is `s` after the stores `own` into the hart's scratchpad and `phys` into its store buffer, in order: the bytes read as the last store left
them, the buffered bytes are claimed, memory itself and the links on its lines wait for a drain, links on the scratchpad words written are broken,
and no other byte has changed (R136, R140, R141, R302). -/
structure Stored (s t : State) (own phys : List (Nat × List Byte)) : Prop where
  scratch : ∀ o, mapGet 0 t.hart.scratch o = (lastByte own o).getD (mapGet 0 s.hart.scratch o)
  peek    : ∀ a, t.peek a = (lastByte phys a).getD (s.peek a)
  mem     : t.mem = s.mem
  owner   : ∀ a, t.owner a = if (lastByte phys a).isSome then s.hart.hid else s.owner a
  words   : ∀ w ∈ t.hart.links, w ∈ s.hart.links ∧ ∀ b ∈ own, 4 * w + 4 ≤ b.1 ∨ b.1 + b.2.length ≤ 4 * w
  poison  : ∀ p ∈ t.hart.poison, p ∈ s.hart.poison
  wakes   : Wakes s t
  routes  : ∀ r ∈ t.routes, r ∈ s.routes
  rest    : t = { s with
              claims := t.claims, routes := t.routes, xlat := t.xlat, homes := t.homes, agenda := t.agenda, freeN := t.freeN,
              hart := { s.hart with
                scratch := t.hart.scratch, links := t.hart.links, poison := t.hart.poison, wcb := t.hart.wcb, wcbAge := t.hart.wcbAge } }

/-- The base loads with LDAQ (R201, R307): destination, address, bytes, whether the value is sign-extended. -/
def loadOf (h : Hart) : Instr → Option (Nat × Word × Nat × Bool)
  | .lb d a i => some (d, h.getX a + BitVec.ofInt 64 i, 1, true)
  | .lh d a i => some (d, h.getX a + BitVec.ofInt 64 i, 2, true)
  | .lw d a i => some (d, h.getX a + BitVec.ofInt 64 i, 4, true)
  | .ld d a i => some (d, h.getX a + BitVec.ofInt 64 i, 8, true)
  | .lbu d a i => some (d, h.getX a + BitVec.ofInt 64 i, 1, false)
  | .lhu d a i => some (d, h.getX a + BitVec.ofInt 64 i, 2, false)
  | .lwu d a i => some (d, h.getX a + BitVec.ofInt 64 i, 4, false)
  | .ldaq d a w _ => some (d, h.getX a, 2 ^ w, false)
  | _ => none

/-- The base stores (R201): address, bytes, the register stored. -/
def storeOf (h : Hart) : Instr → Option (Word × Nat × Word)
  | .sb a b o => some (h.getX a + BitVec.ofInt 64 o, 1, h.getX b)
  | .sh a b o => some (h.getX a + BitVec.ofInt 64 o, 2, h.getX b)
  | .sw a b o => some (h.getX a + BitVec.ofInt 64 o, 4, h.getX b)
  | .sd a b o => some (h.getX a + BitVec.ofInt 64 o, 8, h.getX b)
  | _ => none

/-! ### CSRs -/

/-- The bits of a CSR that a CSR instruction writes (R178, R197 to R199, R207, R330, R360 to R362); 0 for a read-only CSR. -/
def csrMask (c : Nat) : Word :=
  if c = 0x804 || c = 0x805 then 0xffffffff
  else if c = 0x806 then 7
  else if c = 0x807 then 0x01fffffeffffffff
  else if c = 0x808 then 0x1f
  else if c = 0x840 then 0x8000000001ff00ff
  else if c = 0x842 || c = 0x844 then 0xfffffffffffffffc
  else if c = 0x843 then 0xf0
  else if c = 0x80E || c = 0x80F || c = 0x841 || c = 0x845 || c = 0x846 then 0xffffffffffffffff
  else 0

/-- A CSR instruction (R207): destination, CSR, whether it writes, and the value it would write. -/
def csrOf (s : State) : Instr → Option (Nat × Nat × Bool × Word)
  | .csrrw d c a => some (d, c, true, s.hart.getX a)
  | .csrrs d c a => some (d, c, a ≠ 0, s.readCsr c ||| s.hart.getX a)
  | .csrrc d c a => some (d, c, a ≠ 0, s.readCsr c &&& ~~~ (s.hart.getX a))
  | .csrrwi d c u => some (d, c, true, BitVec.ofNat 64 u)
  | .csrrsi d c u => some (d, c, u ≠ 0, s.readCsr c ||| BitVec.ofNat 64 u)
  | .csrrci d c u => some (d, c, u ≠ 0, s.readCsr c &&& ~~~ (BitVec.ofNat 64 u))
  | _ => none

/-- `t` is `s` but for the writable CSRs, the x registers and the pc. -/
structure OnlyCsrs (s t : State) : Prop where
  rest  : t = { s with hart := { s.hart with
            x := t.hart.x, pc := s.hart.pc + 4, resumeMid := false, vstart := t.hart.vstart, vfv := t.hart.vfv, vrot := t.hart.vrot,
            vdirty := t.hart.vdirty, vflags := t.hart.vflags, rngkey := t.hart.rngkey, rngkeyh := t.hart.rngkeyh, tcause := t.hart.tcause,
            tval := t.hart.tval, tepc := t.hart.tepc, tstatus := t.hart.tstatus, tvec := t.hart.tvec, tscratch := t.hart.tscratch,
            seqstate := t.hart.seqstate } }
  bytes : SameBytes s t

/-! ### Traps -/

/-- The instructions and events whose effect is a trap, with its code, access and `tval` (R180, R183, R206, R363). -/
def trapOf : Instr → Option (Nat × Nat × Nat)
  | .ecall => some (0x07, 0, 0)
  | .ebreak => some (0x06, 0, 0)
  | .illegalInstruction w _ => some (0x03, 0, w)
  | .fetchFault va _ => some (0x02, 4, va)
  | _ => none

/-- The position within a convoy that the events of R183 name. -/
def trapPos : Instr → Nat
  | .illegalInstruction _ p => p
  | .fetchFault _ p => p
  | _ => 0

/-! ### Scalar floating point -/

/-- The f register that a scalar floating-point instruction writes, the image and the flags (R95, R211, R212, R214, R215, R217). -/
def floatResult (h : Hart) : Instr → Option (Nat × Image × BitVec 5)
  | .fadd g d a b => some (d, oddResult g (sumVal (h.valF a g) (h.valF b g)))
  | .fsub g d a b => some (d, oddResult g (subVal (h.valF a g) (h.valF b g)))
  | .fmul g d a b => some (d, oddResult g (mulVal (h.valF a g) (h.valF b g)))
  | .ffma g d a b => some (d, oddResult g (fmaVal (h.valF a g) (h.valF b g) (h.valF d g)))
  | .fmin g d a b => some (d, minMaxImage g (h.imgF a g) (h.imgF b g) false)
  | .fmax g d a b => some (d, minMaxImage g (h.imgF a g) (h.imgF b g) true)
  | .fcvt g d a k => some (d, toFloat g (h.valF a k))
  | .frnd g d a o =>
    if o = 7 ∧ 6 ≤ h.mode then none
    else
      let r := finFloat (h.valF a g) g (if o = 7 then h.mode else o) h.sat
      some (d, ⟨r.1, 0⟩, r.2)
  | .fmvf g d a => some (d, ⟨(h.getX a).toNat % 2 ^ fmtWidth g, 0⟩, 0)
  | _ => none

/-- The x register that a scalar floating-point instruction writes, the value and the flags (R213, R216, R217). -/
def floatToX (h : Hart) : Instr → Option (Nat × Word × BitVec 5)
  | .fcmp g d a b => some (d, orderWord (cmpVal (h.valF a g) (h.valF b g)), if (h.valF a g).sig || (h.valF b g).sig then flNV else 0)
  | .fcmpF g d a b =>
    if 6 ≤ h.mode then none
    else some (d, orderWord (cmpVal (finalised (h.valF a g) g h.mode h.sat) (finalised (h.valF b g) g h.mode h.sat)),
      if (h.valF a g).sig || (h.valF b g).sig then flNV else 0)
  | .fcls g d a => some (d, BitVec.ofNat 64 (classOf g (h.imgF a g)), 0)
  | .fmvx g d a => some (d, BitVec.ofNat 64 ((h.getF a).toNat % 2 ^ fmtWidth g), 0)
  | _ => none

/-- `t` is `s` but for x register `d`, the flags `fl` raised, and the pc. -/
structure WroteXFlags (s t : State) (d : Nat) (v : Word) (fl : BitVec 5) : Prop where
  x     : ∀ r, t.hart.getX r = if r = d ∧ d ≠ 0 then v else s.hart.getX r
  flags : t.hart.vflags = s.hart.vflags ||| fl
  rest  : t = { s with hart := { s.hart with x := t.hart.x, vflags := t.hart.vflags, pc := s.hart.pc + 4, resumeMid := false } }
  bytes : SameBytes s t

/-! ### Vector configuration -/

/-- Pointer `i` after a STRIP with mask `p` (R222). -/
def stripPointer (h : Hart) (p i : Nat) : Pointer :=
  if i < 8 ∧ p.testBit i then ⟨(h.getP i).addr + BitVec.ofNat 64 (h.vl * (h.getP i).size), (h.getP i).size⟩ else h.getP i

/-- The elements that a STRIP takes of `n` (R66, R222): the grant in elements, the `cap` limit. -/
def stripTake (s : State) (n : Nat) : Nat :=
  min n (min (if fmtWide s.hart.fmt then s.grant / 2 else s.grant) (if s.hart.cap = 0 then 4096 else 2 ^ (s.hart.cap - 1)))


/-- Mask `m` has an element below `n` (R225, R226). -/
def Hart.anyBelow (h : Hart) (m n : Nat) : Bool := (List.range (min n 4096)).any (h.maskBit m)

/-! ### Vector registers -/

/-- Element `e` is in [`vstart`, `vl`), inside the pass, and has mask bit 1 (R18, R41, R45). -/
def Hart.acts (h : Hart) (mk e : Nat) : Bool :=
  decide (h.vstart.toNat ≤ e) && decide (h.cur.lo ≤ e) && decide (e < h.vl) && decide (e < h.cur.hi) && h.maskBit mk e

/-- `t` is `s` after a convoy member that writes vector register `d`: slot i of it takes `w i` where that is a slot, flag b is raised where `raised b`,
the register's `vdirty` bit is set and `vstart` is 0 (R18, R51, R379); nothing else is changed. -/
structure WroteV (s t : State) (d : Nat) (w : Nat → Option Slot) (raised : Nat → Prop) : Prop where
  slots  : ∀ i, t.hart.getSlot d i = (w i).getD (s.hart.getSlot d i)
  others : ∀ n i, s.hart.physV n ≠ s.hart.physV d → t.hart.getSlot n i = s.hart.getSlot n i
  dirty  : t.hart.vdirty = s.hart.vdirty ||| BitVec.ofNat 64 (2 ^ s.hart.physV d)
  flags  : ∀ b, t.hart.vflags.getLsbD b = true ↔ s.hart.vflags.getLsbD b = true ∨ raised b
  poison : ∀ p, p ∈ t.hart.poison ↔ p ∈ s.hart.poison ∧ ¬ (p.kind = 1 ∧ p.num = s.hart.physV d ∧ (w p.elem).isSome = true)
  rest   : t = { s with hart := { s.hart with
             v := t.hart.v, vdirty := t.hart.vdirty, vflags := t.hart.vflags, poison := t.hart.poison, pc := s.hart.pc + 4, vstart := 0,
             resumeMid := false } }
  bytes  : SameBytes s t

/-- No flag is raised. -/
def noFlag : Nat → Prop := fun _ => False

/-- The slots that elements with `p` take when element e takes the low and high slot `g e` (R79). -/
def Hart.slotsOver (h : Hart) (p : Nat → Bool) (g : Nat → Slot × Slot) (i : Nat) : Option Slot :=
  if fmtWide h.fmt then (if p (i / 2) then some (if i % 2 = 0 then (g (i / 2)).1 else (g (i / 2)).2) else none)
  else if p i then some (g i).1 else none

/-- The low and high slot of a unit: the data, and the tails of the formats that have them (R79, R90, R93). -/
def pairOf (f p : Nat) (is : List Image) : Slot × Slot :=
  if fmtWide f then
    let i := is.headD ⟨0, 0⟩
    (⟨BitVec.ofNat 32 i.enc, if hasTail f then BitVec.ofNat 8 (i.tail % 4) else 0⟩, ⟨BitVec.ofNat 32 (i.enc / 2 ^ 32), 0⟩)
  else (slotOfUnit f p is, Slot.zero)

/-- The low and high slot of plain bits, with tails 0: 64 bits, the whole slot at pack above 1, else the element's width (R79, R227). -/
def Hart.bitsPair (h : Hart) (v : Nat) : Slot × Slot :=
  if fmtWide h.fmt then (⟨BitVec.ofNat 32 v, 0⟩, ⟨BitVec.ofNat 32 (v / 2 ^ 32), 0⟩)
  else (⟨BitVec.ofNat 32 (if h.pack > 1 then v else v % 2 ^ regWidth h.fmt), 0⟩, Slot.zero)

/-- Flag b is raised by an element that acts. -/
def Hart.raisedBy (h : Hart) (mk : Nat) (fl : Nat → BitVec 5) (b : Nat) : Prop := ∃ e, h.acts mk e = true ∧ (fl e).getLsbD b = true

/-- The register `d` takes unit `(g e).1` at each element that acts, and the flags `(g e).2` are raised (R246). -/
def Elementwise (s t : State) (mk d : Nat) (g : Nat → List Image × BitVec 5) : Prop :=
  WroteV s t d (s.hart.slotsOver (s.hart.acts mk) (fun e => pairOf s.hart.fmt s.hart.pack (g e).1)) (s.hart.raisedBy mk (fun e => (g e).2))

/-- The flags of several results together. -/
def allFlags (l : List (Image × BitVec 5)) : BitVec 5 := l.foldl (fun f r => f ||| r.2) 0

/-- Two units combined subword by subword (R90). -/
def pairwise (op : Image → Image → Image × BitVec 5) (x y : List Image) : List Image × BitVec 5 :=
  ((List.zipWith op x y).map (·.1), allFlags (List.zipWith op x y))

/-- A unit changed subword by subword (R90). -/
def eachSubword (op : Image → Image × BitVec 5) (x : List Image) : List Image × BitVec 5 := ((x.map op).map (·.1), allFlags (x.map op))

/-! ### Integer and bitwise vector instructions -/

/-- A `w`-bit number as an integer, signed or unsigned. -/
def numOf (sg : Bool) {w : Nat} (x : BitVec w) : Int := if sg then x.toInt else (x.toNat : Int)

/-- The least and the largest number of `w` bits. -/
def leastOf (sg : Bool) (w : Nat) : Int := if sg then -((2 : Int) ^ (w - 1)) else 0
/-- The largest number of `w` bits. -/
def mostOf (sg : Bool) (w : Nat) : Int := if sg then (2 : Int) ^ (w - 1) - 1 else (2 : Int) ^ w - 1

/-- An exact integer in `w` bits, saturated with OF (R248). -/
def clamp (sg : Bool) (w : Nat) (i : Int) : BitVec w × BitVec 5 :=
  if leastOf sg w ≤ i ∧ i ≤ mostOf sg w then (BitVec.ofInt w i, 0) else (BitVec.ofInt w (if i < 0 then leastOf sg w else mostOf sg w), flOF)

/-- The integer and bitwise operations (R247, R248). -/
inductive VectorOp where
  | add | sub | mul | mulh | div | rem | min | max | and | or | xor | sll | srl | sra | adds | subs
  deriving DecidableEq, Repr

/-- The operation takes the integer class only; the others take the float formats too (R245). -/
def VectorOp.intOnly (o : VectorOp) : Bool := !(o = .and || o = .or || o = .xor || o = .sll || o = .srl || o = .sra)

/-- An operation on two subwords of `w` bits, signed or unsigned, with its flags (R247, R248). -/
def VectorOp.eval (o : VectorOp) (sg : Bool) {w : Nat} (x y : BitVec w) : BitVec w × BitVec 5 :=
  match o with
  | .add => (x + y, 0)
  | .sub => (x - y, 0)
  | .mul => (x * y, 0)
  | .mulh => (BitVec.ofInt w (numOf sg x * numOf sg y / 2 ^ w), 0)
  | .div => if y = 0 then (BitVec.allOnes w, flDZ) else (BitVec.ofInt w ((numOf sg x).tdiv (numOf sg y)), 0)
  | .rem => if y = 0 then (x, flDZ) else (BitVec.ofInt w ((numOf sg x).tmod (numOf sg y)), 0)
  | .min => (if numOf sg y < numOf sg x then y else x, 0)
  | .max => (if numOf sg x < numOf sg y then y else x, 0)
  | .and => (x &&& y, 0)
  | .or => (x ||| y, 0)
  | .xor => (x ^^^ y, 0)
  | .sll => (x <<< (y.toNat % w), 0)
  | .srl => (x >>> (y.toNat % w), 0)
  | .sra => (x.sshiftRight (y.toNat % w), 0)
  | .adds => clamp sg w (numOf sg x + numOf sg y)
  | .subs => clamp sg w (numOf sg x - numOf sg y)

/-- The operation on images of a format, tail 0b00 (R247). -/
def VectorOp.images (o : VectorOp) (f : Nat) (x y : Image) : Image × BitVec 5 :=
  let r := o.eval (fmtSigned f) (BitVec.ofNat (fmtWidth f) x.enc) (BitVec.ofNat (fmtWidth f) y.enc)
  (⟨r.1.toNat, 0⟩, r.2)

/-- An integer or bitwise vector instruction: operation, mask, destination, operands x and y (R190, R244, R247). -/
def vectorOpOf (h : Hart) : Instr → Option (VectorOp × Nat × Nat × Source × Source)
  | .vadd _ mk d a b => some (.add, mk, d, .vec a, .vec b)
  | .vsub _ mk d a b => some (.sub, mk, d, .vec a, .vec b)
  | .vmul _ mk d a b => some (.mul, mk, d, .vec a, .vec b)
  | .vmulh _ mk d a b => some (.mulh, mk, d, .vec a, .vec b)
  | .vdiv _ mk d a b => some (.div, mk, d, .vec a, .vec b)
  | .vrem _ mk d a b => some (.rem, mk, d, .vec a, .vec b)
  | .vmin _ mk d a b => some (.min, mk, d, .vec a, .vec b)
  | .vmax _ mk d a b => some (.max, mk, d, .vec a, .vec b)
  | .vand _ mk d a b => some (.and, mk, d, .vec a, .vec b)
  | .vor _ mk d a b => some (.or, mk, d, .vec a, .vec b)
  | .vxor _ mk d a b => some (.xor, mk, d, .vec a, .vec b)
  | .vsll _ mk d a b => some (.sll, mk, d, .vec a, .vec b)
  | .vsrl _ mk d a b => some (.srl, mk, d, .vec a, .vec b)
  | .vsra _ mk d a b => some (.sra, mk, d, .vec a, .vec b)
  | .vadds _ mk d a b => some (.adds, mk, d, .vec a, .vec b)
  | .vaddsSub _ mk d a b => some (.subs, mk, d, .vec a, .vec b)
  | .vaddP _ d a b k => some (.add, 0, d, .vec a, .sel b k)
  | .vsubP _ d a b k => some (.sub, 0, d, .vec a, .sel b k)
  | .vmulP _ d a b k => some (.mul, 0, d, .vec a, .sel b k)
  | .vminP _ d a b k => some (.min, 0, d, .vec a, .sel b k)
  | .vaddVx _ mk d a b => some (.add, mk, d, .vec b, h.scalarX a)
  | .vsubVx _ mk d a b => some (.sub, mk, d, .vec b, h.scalarX a)
  | .vmulVx _ mk d a b => some (.mul, mk, d, .vec b, h.scalarX a)
  | .vmulhVx _ mk d a b => some (.mulh, mk, d, .vec b, h.scalarX a)
  | .vdivVx _ mk d a b => some (.div, mk, d, .vec b, h.scalarX a)
  | .vremVx _ mk d a b => some (.rem, mk, d, .vec b, h.scalarX a)
  | .vminVx _ mk d a b => some (.min, mk, d, .vec b, h.scalarX a)
  | .vmaxVx _ mk d a b => some (.max, mk, d, .vec b, h.scalarX a)
  | .vandVx _ mk d a b => some (.and, mk, d, .vec b, h.scalarX a)
  | .vorVx _ mk d a b => some (.or, mk, d, .vec b, h.scalarX a)
  | .vxorVx _ mk d a b => some (.xor, mk, d, .vec b, h.scalarX a)
  | .vsllVx _ mk d a b => some (.sll, mk, d, .vec b, h.scalarX a)
  | .vsrlVx _ mk d a b => some (.srl, mk, d, .vec b, h.scalarX a)
  | .vsraVx _ mk d a b => some (.sra, mk, d, .vec b, h.scalarX a)
  | .vaddsVx _ mk d a b => some (.adds, mk, d, .vec b, h.scalarX a)
  | .vaddVi _ mk d b i => some (.add, mk, d, .vec b, h.scalarI i)
  | .vminVi _ mk d b i => some (.min, mk, d, .vec b, h.scalarI i)
  | .vmaxVi _ mk d b i => some (.max, mk, d, .vec b, h.scalarI i)
  | .vandVi _ mk d b i => some (.and, mk, d, .vec b, h.scalarI i)
  | .vorVi _ mk d b i => some (.or, mk, d, .vec b, h.scalarI i)
  | .vxorVi _ mk d b i => some (.xor, mk, d, .vec b, h.scalarI i)
  | .vsllVi _ mk d b i => some (.sll, mk, d, .vec b, h.scalarI i)
  | .vsrlVi _ mk d b i => some (.srl, mk, d, .vec b, h.scalarI i)
  | .vsraVi _ mk d b i => some (.sra, mk, d, .vec b, h.scalarI i)
  | .vaddsVi _ mk d b i => some (.adds, mk, d, .vec b, h.scalarI i)
  | _ => none

/-- A P-form needs a pack above 1 and a selector below it (R90, R190). -/
def Hart.selects (h : Hart) (y : Source) : Prop :=
  match y with
  | .sel _ k => h.pack ≠ 1 ∧ k < h.pack
  | _ => True

/-! ### Floating-point vector instructions -/

/-- A floating-point instruction of two operands: its operation on images, mask, destination, operands (R190, R244, R249). -/
def floatOpOf (h : Hart) : Instr → Option ((Image → Image → Image × BitVec 5) × Nat × Nat × Source × Source)
  | .vfadd _ mk d a b => some (fun x y => oddResult h.fmt (sumVal (x.val h.fmt) (y.val h.fmt)), mk, d, .vec a, .vec b)
  | .vfsub _ mk d a b => some (fun x y => oddResult h.fmt (subVal (x.val h.fmt) (y.val h.fmt)), mk, d, .vec a, .vec b)
  | .vfmul _ mk d a b => some (fun x y => oddResult h.fmt (mulVal (x.val h.fmt) (y.val h.fmt)), mk, d, .vec a, .vec b)
  | .vfdiv _ mk d a b => some (fun x y => oddResult h.fmt (divVal (x.val h.fmt) (y.val h.fmt)), mk, d, .vec a, .vec b)
  | .vfmin _ mk d a b => some (fun x y => minMaxImage h.fmt x y false, mk, d, .vec a, .vec b)
  | .vfmax _ mk d a b => some (fun x y => minMaxImage h.fmt x y true, mk, d, .vec a, .vec b)
  | .vfaddP _ d a b k => some (fun x y => oddResult h.fmt (sumVal (x.val h.fmt) (y.val h.fmt)), 0, d, .vec a, .sel b k)
  | .vfsubP _ d a b k => some (fun x y => oddResult h.fmt (subVal (x.val h.fmt) (y.val h.fmt)), 0, d, .vec a, .sel b k)
  | .vfmulP _ d a b k => some (fun x y => oddResult h.fmt (mulVal (x.val h.fmt) (y.val h.fmt)), 0, d, .vec a, .sel b k)
  | .vfaddVf _ mk d a b => some (fun x y => oddResult h.fmt (sumVal (x.val h.fmt) (y.val h.fmt)), mk, d, .vec b, h.scalarF a)
  | .vfsubVf _ mk d a b => some (fun x y => oddResult h.fmt (subVal (x.val h.fmt) (y.val h.fmt)), mk, d, .vec b, h.scalarF a)
  | .vfmulVf _ mk d a b => some (fun x y => oddResult h.fmt (mulVal (x.val h.fmt) (y.val h.fmt)), mk, d, .vec b, h.scalarF a)
  | .vfminVf _ mk d a b => some (fun x y => minMaxImage h.fmt x y false, mk, d, .vec b, h.scalarF a)
  | .vfmaxVf _ mk d a b => some (fun x y => minMaxImage h.fmt x y true, mk, d, .vec b, h.scalarF a)
  | .vfdivVf _ mk d a b => some (fun x y => oddResult h.fmt (divVal (x.val h.fmt) (y.val h.fmt)), mk, d, .vec b, h.scalarF a)
  | _ => none

/-- A fused multiply and add: mask, destination, operands x and y; the addend is the destination (R244, R249). -/
def fusedOf (h : Hart) : Instr → Option (Nat × Nat × Source × Source)
  | .vffma _ mk d a b => some (mk, d, .vec a, .vec b)
  | .vffmaP _ d a b k => some (0, d, .vec a, .sel b k)
  | .vffmaVf _ mk d a b => some (mk, d, .vec b, h.scalarF a)
  | _ => none

/-- x × y + z, subword by subword, rounded once (R211, R249). -/
def fusedUnit (f : Nat) (x y z : List Image) : List Image × BitVec 5 :=
  let rs := List.zipWith (fun p c => oddResult f (fmaVal (p.1.val f) (p.2.val f) (c.val f))) (x.zip y) z
  (rs.map (·.1), allFlags rs)

/-- A floating-point instruction of one operand: its operation on images, mask, destination, source (R252, R253). -/
def floatFnOf (h : Hart) : Instr → Option ((Image → Image × BitVec 5) × Nat × Nat × Nat)
  | .vfsqrt _ mk d a => some (fun x => oddResult h.fmt (sqrtVal (x.val h.fmt)), mk, d, a)
  | .vrsqe _ mk d a => some (fun x => oddResult h.fmt (rsqeVal (x.val h.fmt)), mk, d, a)
  | .vrcpe _ mk d a => some (fun x => oddResult h.fmt (rcpeVal (x.val h.fmt)), mk, d, a)
  | .vexp _ mk d a => some (fun x => oddResult h.fmt (expVal (x.val h.fmt)), mk, d, a)
  | .vlog _ mk d a => some (fun x => oddResult h.fmt (lnVal (x.val h.fmt)), mk, d, a)
  | .vsigm _ mk d a => some (fun x => oddResult h.fmt (sigmVal (x.val h.fmt)), mk, d, a)
  | .vtanh _ mk d a => some (fun x => oddResult h.fmt (tanhVal (x.val h.fmt)), mk, d, a)
  | .vfabs _ mk d a => some (fun x => (⟨x.enc % 2 ^ (fmtWidth h.fmt - 1), x.tail⟩, 0), mk, d, a)
  | .vfrnd _ mk d a o => some (fun x =>
      let r := finFloat (x.val h.fmt) h.fmt (if o = 7 then h.mode else o) h.sat
      (⟨r.1, 0⟩, r.2), mk, d, a)
  | _ => none

/-- VFCVT accepts the source format `f` (R251). -/
def Hart.converts (h : Hart) (f : Nat) : Bool :=
  (fmtInt h.fmt || fmtFloat h.fmt) &&
    (if fmtWide f || fmtWide h.fmt then h.pack = 1 && decide (h.vl ≤ h.vlmax / 2) else decide (regWidth f ≤ 32 / h.pack))

/-- One subword converted from format `f` (R251). -/
def Hart.convert (h : Hart) (f : Nat) (i : Image) : Image × BitVec 5 :=
  if fmtFloat h.fmt then toFloat h.fmt (i.val f) else toInteger h.fmt h.mode (i.val f)

/-- The slots of vector register `d` when VFCVT comes to element `n` of a conversion in place: the elements before it that act are converted (R251;
their order is log 25). -/
def Hart.converting (h : Hart) (f mk d : Nat) : Nat → Nat → Slot
  | 0, i => h.getSlot d i
  | n + 1, i =>
    let w := h.converting f mk d n
    let r := pairOf h.fmt h.pack (eachSubword (h.convert f) (unitOf f h.pack (if fmtWide f then w (2 * n) else w n)
      (if fmtWide f then w (2 * n + 1) else Slot.zero))).1
    if h.acts mk n = false then w i
    else if fmtWide h.fmt then (if i = 2 * n then r.1 else if i = 2 * n + 1 then r.2 else w i)
    else if i = n then r.1 else w i

/-- The unit that VFCVT converts at element `e`: of its source as it stands then (R251). -/
def Hart.convertedUnit (h : Hart) (f mk d a e : Nat) : List Image :=
  let w : Nat → Slot := if h.physV a = h.physV d then h.converting f mk d e else h.getSlot a
  unitOf f h.pack (if fmtWide f then w (2 * e) else w e) (if fmtWide f then w (2 * e + 1) else Slot.zero)

/-! ### Moves -/

/-- The low and high slot of a unit that a move carries, with the tails that it had (R93, R102, R237). -/
def Hart.rawPair (h : Hart) (is : List Image) : Slot × Slot :=
  if fmtWide h.fmt then
    let i := is.headD ⟨0, 0⟩
    (⟨BitVec.ofNat 32 i.enc, BitVec.ofNat 8 (i.tail % 4)⟩, ⟨BitVec.ofNat 32 (i.enc / 2 ^ 32), 0⟩)
  else (slotOfRaw h.fmt h.pack is, Slot.zero)

/-- The instructions that write one vector register and raise no flag: the destination and the slots it takes; none where the form is illegal
at issue (R237 to R240, R252, R262, R263, R267). -/
def moveOf (h : Hart) : Instr → Option (Nat × (Nat → Option Slot))
  | .vmv _ mk d a => some (d, h.slotsOver (h.acts mk) (fun e => h.rawPair (h.raw a e)))
  | .vmvx _ mk d a => some (d, h.slotsOver (h.acts mk) (fun _ => h.bitsPair (h.getX a).toNat))
  | .vsel _ mk d a b => some (d, h.slotsOver (h.acts 0) (fun e => h.rawPair (h.raw (if h.maskBit mk e then a else b) e)))
  | .vpack _ mk d a b =>
    if h.pack = 1 then none
    else some (d, h.slotsOver (h.acts mk) (fun e =>
      h.rawPair ((List.range h.pack).map (fun j => (h.raw (if j % 2 = 0 then a else b) e).getD (j / 2) ⟨0, 0⟩))))
  | .vunpk _ mk d a k =>
    if h.pack = 1 ∨ h.pack ≤ k then none
    else some (d, fun i => if h.acts mk i then
      let u := (h.raw a i).getD k ⟨0, 0⟩
      some ⟨BitVec.ofNat 32 u.enc, BitVec.ofNat 8 u.tail⟩ else none)
  | .vslideu _ mk d a b =>
    some (d, h.slotsOver (fun e => h.acts mk e && decide ((h.getX b).toNat ≤ e))
      (fun e => h.rawPair (h.raw a (e - (h.getX b).toNat))))
  | .vslided _ mk d a b =>
    some (d, h.slotsOver (h.acts mk) (fun e => h.rawPair (h.rawOrFill a (e + (h.getX b).toNat))))
  | .vgath _ mk d a b =>
    some (d, h.slotsOver (h.acts mk) (fun e => h.rawPair (h.rawOrFill a (h.getSlot b e).data.toNat)))
  | .vcomp _ mk d a =>
    some (d, h.slotsOver (fun e => decide (e < ((List.range h.vl).filter (h.maskBit mk)).length))
      (fun e => h.rawPair (h.raw a (((List.range h.vl).filter (h.maskBit mk)).getD e 0))))
  | .vexpd _ mk d a =>
    some (d, h.slotsOver (fun e => decide (e < h.vl) && h.maskBit mk e)
      (fun e => h.rawPair (h.raw a ((List.range e).countP (h.maskBit mk)))))
  | .viota _ mk d a =>
    if h.pack ≠ 1 then none
    else some (d, h.slotsOver (fun e => decide (e < h.vl) && h.maskBit mk e) (fun e => h.bitsPair ((List.range e).countP (h.maskBit a))))
  | .vfcls _ mk d a =>
    if h.pack ≠ 1 ∨ fmtFloat h.fmt = false then none
    else some (d, h.slotsOver (h.acts mk) (fun e => (⟨BitVec.ofNat 32 (classOf h.fmt (h.elem a e)), 0⟩, Slot.zero)))
  | .gtov _ mk d a =>
    if h.pack ≠ 1 ∨ fmtWide h.fmt = true then none
    else some (d, fun i => if h.acts mk i then some ⟨(h.getG a i &&& 0xcfff).setWidth 32, 0⟩ else none)
  | .vrng _ mk d a w =>
    if h.fmt ≠ 18 ∧ h.fmt ≠ 22 then none
    else some (d, h.slotsOver (h.acts mk) (fun e =>
      let n := (h.getX a).toNat + e
      let c := philox 10 (n % 2 ^ 32, n / 2 ^ 32 % 2 ^ 32, h.rngkeyh.toNat % 2 ^ 32, h.rngkeyh.toNat / 2 ^ 32)
        (h.rngkey.toNat % 2 ^ 32) (h.rngkey.toNat / 2 ^ 32)
      pairOf h.fmt h.pack [⟨pickWord c w, 0⟩]))
  | .vutf _ mk d a =>
    if h.fmt ≠ 20 then none
    else some (d, h.slotsOver (h.acts mk) (fun e => pairOf h.fmt h.pack ((h.unit a e).map (fun i => ⟨utfClass i.enc, 0⟩))))
  | _ => none

/-! ### Masks -/

/-- `t` is `s` after a convoy member that writes mask `d`, where m0 discards the write: bit e takes `b e` where that is a bit, flag i is raised where
`raised i`, the mask's `vdirty` bit is set and `vstart` is 0 (R18, R45, R51, R242, R379); nothing else is changed. -/
structure WroteM (s t : State) (d : Nat) (b : Nat → Option Bool) (raised : Nat → Prop) : Prop where
  bits   : d ≠ 0 → ∀ e, e < 4096 → t.hart.maskBit d e = (b e).getD (s.hart.maskBit d e)
  others : ∀ n, n ≠ 0 → (d = 0 ∨ s.hart.physM n ≠ s.hart.physM d) → t.hart.getMask n = s.hart.getMask n
  dirty  : t.hart.vdirty = if d = 0 then s.hart.vdirty else s.hart.vdirty ||| BitVec.ofNat 64 (2 ^ (32 + s.hart.physM d))
  flags  : ∀ i, t.hart.vflags.getLsbD i = true ↔ s.hart.vflags.getLsbD i = true ∨ raised i
  poison : ∀ p, p ∈ t.hart.poison ↔ p ∈ s.hart.poison ∧ ¬ (d ≠ 0 ∧ p.kind = 1 ∧ p.num = 32 + s.hart.physM d ∧ (b p.elem).isSome = true)
  rest   : t = { s with hart := { s.hart with
             m := t.hart.m, vdirty := t.hart.vdirty, vflags := t.hart.vflags, poison := t.hart.poison, pc := s.hart.pc + 4, vstart := 0,
             resumeMid := false } }
  bytes  : SameBytes s t

/-- A mask instruction: the destination and the bits it takes (R47, R242, R243). -/
def maskOf (h : Hart) : Instr → Option (Nat × (Nat → Option Bool))
  | .mand _ d a b => some (d, fun e => if h.acts 0 e then some (h.maskBit a e && h.maskBit b e) else none)
  | .mor _ d a b => some (d, fun e => if h.acts 0 e then some (h.maskBit a e || h.maskBit b e) else none)
  | .mxor _ d a b => some (d, fun e => if h.acts 0 e then some (xor (h.maskBit a e) (h.maskBit b e)) else none)
  | .mandn _ d a b => some (d, fun e => if h.acts 0 e then some (h.maskBit a e && !h.maskBit b e) else none)
  | .mset _ d v => some (d, fun e => if e < h.vlmax then some (decide (v = 1)) else none)
  | .vcut _ d a => some (d, fun e => if e < h.vl ∧ (List.range (e + 1)).any (h.maskBit a) then some false else none)
  | _ => none

/-- A comparison with its condition: 0 equal, 1 not equal, 2 less, 3 greater; an unordered pair meets "not equal" alone (R189, R250). -/
def condMet (c : Nat) (o : Option Ordering) : Bool :=
  match o with
  | some .eq => c = 0
  | some .lt => c = 1 || c = 2
  | some .gt => c = 1 || c ≥ 3
  | none => c = 1

/-- A vector comparison: mask, destination, condition, operands, and whether it is finalised (R248, R250). -/
def compareOf (h : Hart) : Instr → Option (Nat × Nat × Nat × Source × Source × Bool × Bool)
  | .vicmp _ mk d a b c => some (mk, d, c, .vec a, .vec b, false, false)
  | .vicmpVx _ mk d a b c => some (mk, d, c, .vec b, h.scalarX a, false, false)
  | .vicmpVi _ mk d b i c => some (mk, d, c, .vec b, h.scalarI i, false, false)
  | .vfcmp _ mk d a b c => some (mk, d, c, .vec a, .vec b, true, false)
  | .vfcmpVf _ mk d a b c => some (mk, d, c, .vec b, h.scalarF a, true, false)
  | .vfcmpF _ mk d a b c => some (mk, d, c, .vec a, .vec b, true, true)
  | .vfcmpFVf _ mk d a b c => some (mk, d, c, .vec b, h.scalarF a, true, true)
  | _ => none

/-- The order of two elements: integers, values, or values as finalised under `vtype.mode` (R101, R248, R250). -/
def Hart.orderOf (h : Hart) (flt fin : Bool) (x y : Image) : Option Ordering :=
  if !flt then some (compare (numOf (fmtSigned h.fmt) (BitVec.ofNat (fmtWidth h.fmt) x.enc))
    (numOf (fmtSigned h.fmt) (BitVec.ofNat (fmtWidth h.fmt) y.enc)))
  else if fin then cmpVal (finalised (x.val h.fmt) h.fmt h.mode h.sat) (finalised (y.val h.fmt) h.fmt h.mode h.sat)
  else cmpVal (x.val h.fmt) (y.val h.fmt)

/-- The single subword of a source at element `e`, at pack 1. -/
def Hart.one (h : Hart) (o : Source) (e : Nat) : Image := (h.source o e).headD ⟨0, 0⟩

/-- `t` is `s` after a convoy member that writes x register `d` (R18). -/
structure WroteXV (s t : State) (d : Nat) (v : Word) : Prop where
  x     : ∀ r, t.hart.getX r = if r = d ∧ d ≠ 0 then v else s.hart.getX r
  rest  : t = { s with hart := { s.hart with x := t.hart.x, pc := s.hart.pc + 4, vstart := 0, resumeMid := false } }
  bytes : SameBytes s t

/-- VPOPM, VFFS and VMVS: the destination and its value (R239, R243, R259). -/
def maskToX (h : Hart) : Instr → Option (Nat × Word)
  | .vpopm _ d a => some (d, BitVec.ofNat 64 ((List.range h.vl).countP (h.maskBit a)))
  | .vffs _ mk d a => some (d, match (List.range h.vl).find? (fun e => h.maskBit a e && h.maskBit mk e) with
      | none => BitVec.allOnes 64
      | some e => BitVec.ofNat 64 e)
  | .vmvs _ d a b =>
    if h.vtypeOk = false then none
    else
      let k := (h.getX b).toNat
      let lo := if k < h.vl then h.lowSlot h.fmt a k else ⟨h.vfv, 0⟩
      let hi := if k < h.vl then h.highSlot h.fmt a k else ⟨h.vfv, 0⟩
      some (d, if fmtWide h.fmt then BitVec.ofNat 64 (lo.data.toNat + 2 ^ 32 * hi.data.toNat)
        else if h.pack = 1 ∧ fmtSigned h.fmt = true then (lo.data.setWidth (fmtWidth h.fmt)).signExtend 64 else lo.data.setWidth 64)
  | _ => none

/-! ### Reductions -/

/-- The first element of the row of the view that holds element `e` (R48). -/
def Hart.rowStart (h : Hart) (e : Nat) : Nat := if h.dim2 = true ∧ h.vlc ≠ 0 then e / h.vlc * h.vlc else 0
/-- The rows of the view (R48). -/
def Hart.rowCount (h : Hart) : Nat := if h.vl = 0 then 0 else if h.dim2 = true ∧ h.vlc ≠ 0 then (h.vl - 1) / h.vlc + 1 else 1
/-- The first element of row `r`. -/
def Hart.rowFirst (h : Hart) (r : Nat) : Nat := if h.dim2 = true ∧ h.vlc ≠ 0 then r * h.vlc else 0
/-- The end of row `r`. -/
def Hart.rowEnd (h : Hart) (r : Nat) : Nat := if h.dim2 = true ∧ h.vlc ≠ 0 then min ((r + 1) * h.vlc) h.vl else h.vl
/-- Element `e` takes part in a reduction: at or beyond `vstart`, mask bit 1 (R255). -/
def Hart.part (h : Hart) (mk e : Nat) : Bool := decide (h.vstart.toNat ≤ e) && h.maskBit mk e
/-- The elements of register `a` that take part, from `lo` up to `hi`, in order. -/
def Hart.parts (h : Hart) (mk a lo hi : Nat) : List Image := (((List.range hi).filter (fun e => decide (lo ≤ e) && h.part mk e))).map (h.elem a)

/-- The values of a list combined one after the other from `x` on, with all flags (R107). -/
def inTurn (op : Image → Image → Image × BitVec 5) : Image → List Image → Image × BitVec 5
  | x, [] => (x, 0)
  | x, y :: r => let v := op x y
    let t := inTurn op v.1 r
    (t.1, v.2 ||| t.2)

/-- The combination of a list without an initial operand. -/
def inTurnOf (op : Image → Image → Image × BitVec 5) : List Image → Option (Image × BitVec 5)
  | [] => none
  | x :: r => some (inTurn op x r)

/-- The fixed tree of R108 over the 2^k positions from `lo` on: the two halves combined, a lone half as it is. -/
def halves (op : Image → Image → Image × BitVec 5) (w : Nat → Option Image) : Nat → Nat → Option Image × BitVec 5
  | 0, lo => (w lo, 0)
  | k + 1, lo =>
    let x := halves op w k lo
    let y := halves op w k (lo + 2 ^ k)
    match x.1, y.1 with
    | some a, some b => let v := op a b
      (some v.1, x.2 ||| y.2 ||| v.2)
    | none, b => (b, x.2 ||| y.2)
    | a, none => (a, x.2 ||| y.2)

/-- The combinations of VRED and VSCAN in the destination's format (R257, R258). -/
def reduceOp (f : Nat) (o : Nat) : Image → Image → Image × BitVec 5 :=
  match o with
  | 0 => if fmtFloat f then fun x y => minMaxImage f x y false else VectorOp.min.images f
  | 1 => if fmtFloat f then fun x y => minMaxImage f x y true else VectorOp.max.images f
  | 2 => VectorOp.and.images f
  | _ => VectorOp.or.images f

/-- The sum of two elements (R107, R255). -/
def sumOp (f : Nat) : Image → Image → Image × BitVec 5 :=
  if fmtFloat f then fun x y => oddResult f (sumVal (x.val f) (y.val f)) else VectorOp.add.images f

/-- An element with its NaN made quiet, as a lone floating-point operand is returned (R107). -/
def quieted (f : Nat) (i : Image) : Image × BitVec 5 :=
  if fmtFloat f then oddResult f ((propagate [i.val f]).getD (i.val f, 0)) else (i, 0)

/-- A reduction: the destination and the result of row r, none where the row writes nothing (R107, R108, R255 to R257). -/
def reduceOf (h : Hart) : Instr → Option (Nat × (Nat → Option (Image × BitVec 5)))
  | .vredsum _ mk d a b => some (d, fun r =>
      let l := h.parts mk a (h.rowFirst r) (h.rowEnd r)
      some (if l = [] then quieted h.fmt (h.elem b r) else inTurn (sumOp h.fmt) (h.elem b r) l))
  | .vredtree _ mk d a b => some (d, fun r =>
      let t := halves (sumOp h.fmt) (fun k => let e := h.rowFirst r + k
        if e < h.rowEnd r ∧ h.part mk e = true then some (h.elem a e) else none) 13 0
      some (match t.1 with
        | none => (h.elem b r, t.2)
        | some v => let q := sumOp h.fmt (h.elem b r) v
          (q.1, t.2 ||| q.2)))
  | .vred _ mk d a o =>
    if 2 ≤ o ∧ fmtInt h.fmt = false then none
    else some (d, fun r => inTurnOf (reduceOp h.fmt o) (h.parts mk a (h.rowFirst r) (h.rowEnd r)))
  | _ => none

/-! ### Softmax -/

/-- The running maximum of SMX over a list from `x` on, a NaN winning, with NV for each signalling operand (R261). -/
def maxOver (f : Nat) (x : Image) (l : List Image) : Image × BitVec 5 := l.foldl (smxMax f) (x, 0)

/-! ### Vector memory -/

/-- The elements that act, in order. -/
def Hart.actors (h : Hart) (mk : Nat) : List Nat := (List.range h.vl).filter (h.acts mk)

/-- The address of the unit of element `e` at pointer `a` (R227, R228). -/
def Hart.plainAddr (h : Hart) (a e : Nat) : Nat := ((h.getP a).addr + BitVec.ofNat 64 (e * h.unitBytes)).toNat
/-- The address with stride xb. -/
def Hart.stridedAddr (h : Hart) (a b e : Nat) : Nat := ((h.getP a).addr + BitVec.ofNat 64 e * h.getX b).toNat
/-- The address indexed by the signed 32-bit slot e of vb (R228). -/
def Hart.indexedAddr (h : Hart) (a b e : Nat) : Nat := ((h.getP a).addr + (h.getSlot b e).data.signExtend 64).toNat

/-- A load of units: mask, destination, the unit's address, and whether it is fault-only-first (R46, R228). -/
def unitLoadOf (h : Hart) : Instr → Option (Nat × Nat × (Nat → Nat) × Bool)
  | .vld _ mk d a => some (mk, d, h.plainAddr a, false)
  | .vlds _ mk d a b => some (mk, d, h.stridedAddr a b, false)
  | .vldx _ mk d a b => some (mk, d, h.indexedAddr a b, false)
  | .vldf _ mk d a => some (mk, d, h.plainAddr a, true)
  | .vldxf _ mk d a b => some (mk, d, h.indexedAddr a b, true)
  | _ => none

/-- A store of units: mask, source, the unit's address (R228). -/
def unitStoreOf (h : Hart) : Instr → Option (Nat × Nat × (Nat → Nat))
  | .vst _ mk n a => some (mk, n, h.plainAddr a)
  | .vsts _ mk n a b => some (mk, n, h.stridedAddr a b)
  | .vstx _ mk n a b => some (mk, n, h.indexedAddr a b)
  | _ => none

/-- `t` is `s` after a convoy member that raises flags and writes no register (R18). -/
structure Finished (s t : State) (raised : Nat → Prop) : Prop where
  flags : ∀ b, t.hart.vflags.getLsbD b = true ↔ s.hart.vflags.getLsbD b = true ∨ raised b
  rest  : t = { s with hart := { s.hart with vflags := t.hart.vflags, pc := s.hart.pc + 4, vstart := 0, resumeMid := false } }

/-- The saved registers and the status of a trap entry at a single instruction (R331, R362). -/
structure TrapRegs (s t : State) (code acc tval : Nat) : Prop where
  tepc   : t.hart.tepc = s.hart.pc &&& ~~~ 3
  tcause : t.hart.tcause = BitVec.ofNat 64 (code + 65536 * acc)
  tval   : t.hart.tval = BitVec.ofNat 64 tval
  ie     : t.hart.ie = false
  pie    : t.hart.tstatus.getLsbD 5 = s.hart.ie
  intrap : t.hart.intrap = true
  mid    : t.hart.mid = s.hart.resumeMid
  pc     : t.hart.pc = s.hart.tvec &&& ~~~ 3

/-- The word of a peer transfer for slot `i` at `pa`: the hart that holds it, reached over the lane plane of the slot, and its offset (R115, R164,
R232). -/
def State.peerWord (s : State) (pa i : Nat) : Option (Hart × Nat) :=
  match place pa with
  | .ok (.own off) => some (s.hart, off + 4 * i)
  | .ok (.peer lc off) => (s.peerTarget lc ((pa + 4 * i) % 2 ^ 64) 4).map (fun k => (k, off + 4 * i))
  | _ => none

/-- The element that slot `i` belongs to (R79). -/
def Hart.elemOf (h : Hart) (i : Nat) : Nat := if fmtWide h.fmt then i / 2 else i

/-- Slot `i` of the stored form of register `n`: the low or high word of the unit after final rounding (R228, R232). -/
def Hart.storedWord (h : Hart) (n i : Nat) : Nat :=
  if fmtWide h.fmt then (h.stBits n (i / 2)).1 / 2 ^ (32 * (i % 2)) % 2 ^ 32 else (h.stBits n i).1 % 2 ^ 32

/-- The slots of the elements that act, in order. -/
def Hart.actingSlots (h : Hart) (mk : Nat) : List Nat :=
  (h.actors mk).flatMap (fun e => if fmtWide h.fmt then [2 * e, 2 * e + 1] else [e])

/-- The stores of VSPILL at `pa`: for each slot its word in the data plane, then its byte in the tail plane (R102, R233). -/
def Hart.spillStores (h : Hart) (mk n pa : Nat) : List (Nat × List Byte) :=
  (h.actingSlots mk).flatMap (fun i =>
    [((pa + 4 * i) % 2 ^ 64, leBytes (h.getSlot n i).data.toNat 4),
     ((pa + 4 * (h.vl * (if fmtWide h.fmt then 2 else 1)) + i) % 2 ^ 64, leBytes (h.getSlot n i).tail.toNat 1)])

/-- Code `k` of a densely packed format at `pa`, from the bytes `bv` (R86, R234). -/
def denseCode (bv : Nat → Nat) (f pa k : Nat) : Nat :=
  if f = 7 then bv (pa + k)
  else if f = 8 then
    let p := pa + 3 * (k / 4)
    (bv p + 256 * bv (p + 1) + 65536 * bv (p + 2)) / 2 ^ (6 * (k % 4)) % 64
  else bv (pa + k / 2) / 16 ^ (k % 2) % 16

/-- The bytes that code `k` stands in, with its group of three for a format of six bits (R86). -/
def denseBytes (f pa k : Nat) : List Nat :=
  if f = 7 then [pa + k] else if f = 8 then [pa + 3 * (k / 4), pa + 3 * (k / 4) + 1, pa + 3 * (k / 4) + 2] else [pa + k / 2]

/-! ### Trees -/

/-- `t` is `s` after a convoy member that writes topology register `d` (R18, R51, R379). -/
structure WroteG (s t : State) (d : Nat) (w : Nat → Option (BitVec 16)) (raised : Nat → Prop) : Prop where
  elems  : ∀ e, t.hart.getG d e = (w e).getD (s.hart.getG d e)
  others : ∀ n e, n < 8 → n ≠ d → t.hart.getG n e = s.hart.getG n e
  dirty  : t.hart.vdirty = s.hart.vdirty ||| BitVec.ofNat 64 (2 ^ (40 + d))
  flags  : ∀ b, t.hart.vflags.getLsbD b = true ↔ s.hart.vflags.getLsbD b = true ∨ raised b
  poison : ∀ p, p ∈ t.hart.poison ↔ p ∈ s.hart.poison ∧ ¬ (p.kind = 4 ∧ p.num = d ∧ (w p.elem).isSome = true)
  rest   : t = { s with hart := { s.hart with
             g := t.hart.g, vdirty := t.hart.vdirty, vflags := t.hart.vflags, poison := t.hart.poison, pc := s.hart.pc + 4, vstart := 0,
             resumeMid := false } }
  bytes  : SameBytes s t

/-- `n` links up from element `e`, none past a root (R266). -/
def Hart.climbs (h : Hart) (g : Nat) : Nat → Nat → Option Nat
  | 0, e => some e
  | n + 1, e => (h.link g e).bind (h.climbs g n)

/-- Element `e` never comes to a root (R271). -/
def Hart.loops (h : Hart) (g e : Nat) : Prop := ∀ n, h.climbs g n e ≠ none

/-- The pointer of element `e` at step `st` of a doubling instruction (R270). -/
def Hart.jumps (h : Hart) (g : Nat) : Nat → Nat → Option Nat
  | 0, e => h.link g e
  | n + 1, e => (h.jumps g n e).bind (h.jumps g n)

/-- The combination of two partial values, an absent one giving the other, with its flags (R272, R273). -/
def Hart.joined (h : Hart) (o : Nat) (x y : Option Image) : Option Image × BitVec 5 :=
  match x, y with
  | some a, some b =>
    let r := (match o with
      | 0 => sumOp h.fmt
      | 1 => if fmtFloat h.fmt then fun x y => minMaxImage h.fmt x y true else VectorOp.max.images h.fmt
      | _ => if fmtFloat h.fmt then fun x y => minMaxImage h.fmt x y false else VectorOp.min.images h.fmt) a b
    (some r.1, r.2)
  | none, b => (b, 0)
  | a, none => (a, 0)

/-- What element `e` of TDOWN holds after `st` steps, with its flags (R272). -/
def Hart.downAt (h : Hart) (o mk a g : Nat) : Nat → Nat → Option Image × BitVec 5
  | 0, e => (if h.maskBit mk e then some (h.elem a e) else none, 0)
  | n + 1, e => match h.jumps g n e with
    | none => h.downAt o mk a g n e
    | some p =>
      let r := h.joined o (h.downAt o mk a g n p).1 (h.downAt o mk a g n e).1
      (r.1, (h.downAt o mk a g n e).2 ||| r.2)

/-- What element `e` of TUP holds after `st` steps, with its flags: its own value, then those that point at it, in ascending order (R272). -/
def Hart.upAt (h : Hart) (o mk a g : Nat) : Nat → Nat → Option Image × BitVec 5
  | 0, e => (if h.maskBit mk e then some (h.elem a e) else none, 0)
  | n + 1, e => ((List.range h.vl).filter (fun k => h.jumps g n k = some e)).foldl (fun r k =>
      let q := h.joined o r.1 (h.upAt o mk a g n k).1
      (q.1, r.2 ||| q.2)) (h.upAt o mk a g n e)

/-- The state without the working state of an interrupted doubling instruction (R276). -/
def State.noTree (s : State) : State :=
  { s with hart := { s.hart with tree := none, vdirty := s.hart.vdirty &&& ~~~ (BitVec.ofNat 64 (2 ^ 56)) } }

/-- The state allows a doubling instruction from its first step, and the model has not set it to stop on the way (R49, R268, R276; log 49). -/
def State.doubles (s : State) : Prop :=
  s.hart.vtypeOk = true ∧ s.hart.pack = 1 ∧ fmtWide s.hart.fmt = false ∧ s.hart.vstart = 0 ∧ 0 < s.hart.vl ∧ s.hart.cur.stop = 0

/-- The state with its hart set to stop before step `k` of a doubling instruction, or after `k` steps of a TMM; 0 for none (R49; log 49). -/
def State.stopping (s : State) (k : Nat) : State := { s with hart := { s.hart with cur := { s.hart.cur with stop := k } } }

/-- TUP or TDOWN, which combine values (R269). -/
def combines : Instr → Bool
  | .tup _ _ _ _ _ _ => true
  | .tdown _ _ _ _ _ _ => true
  | _ => false

/-- A doubling instruction (R270). -/
def isDoubling : Instr → Bool
  | .tbcast _ _ _ _ _ => true
  | .tdepth _ _ _ _ => true
  | .tanc _ _ _ _ _ => true
  | .tisanc _ _ _ _ _ => true
  | .tcontract _ _ _ _ => true
  | .tcheck _ _ _ => true
  | i => combines i

/-- TUP and TDOWN: combining code, mask, destination, values, forest, and whether the values go down (R269). -/
def sweepOf : Instr → Option (Nat × Nat × Nat × Nat × Nat × Bool)
  | .tup _ mk d a b o => some (o, mk, d, a, b, false)
  | .tdown _ mk d a b o => some (o, mk, d, a, b, true)
  | _ => none

/-! ### Tiles -/

/-- The bytes of a copy-engine operation's issue: the operation appended, its turn due (R118, R282). -/
def State.issued (s : State) (o : EngineOp) : State :=
  { s with
    hart := { s.hart with engine := s.hart.engine ++ [o], pc := s.hart.pc + 4, vstart := 0, resumeMid := false }
    agenda := s.agenda ++ [.copyEngineOperation s.hart.hid] }

/-- The operation that an engine instruction issues, with its entry and `vtype` fields as captured; none where it is illegal at issue (R235, R279,
R283 to R286). -/
def engineOf (s : State) : Instr → Option EngineOp
  | .tld _ t d a =>
    if (s.hart.window d).rows = 0 then none
    else some ⟨.tld, s.hart.pc.toNat, d, (s.hart.getX a).toNat, 0, 0, s.hart.getTid t, s.hart.fmt, s.hart.mode, s.hart.sat, false, 0, 0, none, []⟩
  | .tst _ t d a =>
    if (if 8 ≤ d ∧ d < 16 then s.hart.vtypeOk = true ∧ d - 8 < s.hart.tiles else (s.hart.window d).rows ≠ 0) then
      some ⟨.tst, s.hart.pc.toNat, d, (s.hart.getX a).toNat, 0, 0, s.hart.getTid t, s.hart.fmt, s.hart.mode, s.hart.sat, false, 0, 0, none, []⟩
    else none
  | .bcopy _ g d a b =>
    let src := (s.hart.getX a).toNat
    let n := (s.hart.getX b).toNat
    if g = 0 then
      let dst := (s.hart.getX d).toNat
      some ⟨.bcopy, s.hart.pc.toNat, 0, src, n, dst, 0, s.hart.fmt, s.hart.mode, s.hart.sat, decide (src < dst ∧ dst < src + n), 0, 0, none, []⟩
    else
      let w := s.hart.window d
      let dst := ownAddr (256 * w.row)
      if w.rows = 0 ∨ (if d < 4 then n % 4 ≠ 0 else 256 * w.rows < n) then none
      else some ⟨.bcopyTile, s.hart.pc.toNat, d, src, n, 0, 0, s.hart.fmt, s.hart.mode, s.hart.sat,
        decide (4 ≤ d ∧ src < dst ∧ dst < src + n), 0, 0, none, []⟩
  | .qld _ t d a =>
    if fmtScaled (entryFmt (s.hart.getTid t)) = false then none
    else some ⟨.qld, s.hart.pc.toNat, 32, (s.hart.getX a).toNat, 0, d, s.hart.getTid t, s.hart.fmt, s.hart.mode, s.hart.sat, false, 0, 0, none, []⟩
  | .tdigest _ t a =>
    if (s.hart.getTid t).toNat / 2 ^ (8 * 48 + 19) % 2 = 0 ∨ (s.hart.getX a).toNat % 8 ≠ 0 then none
    else some ⟨.tdigest, s.hart.pc.toNat, 32, 0, 0, (s.hart.getX a).toNat, s.hart.getTid t, s.hart.fmt, s.hart.mode, s.hart.sat, false, 0, 0, none, []⟩
  | _ => none

/-- `t` is `s` after a convoy member that writes cells of accumulator `n`: cell c takes `w c` where that is a cell (R18, R51, R379). -/
structure WroteAcc (s t : State) (n : Nat) (w : Nat → Option AccCell) (raised : Nat → Prop) : Prop where
  cells  : ∀ c, t.hart.getAcc n c = (w c).getD (s.hart.getAcc n c)
  others : ∀ m c, m < 8 → m ≠ n → t.hart.getAcc m c = s.hart.getAcc m c
  dirty  : t.hart.vdirty = s.hart.vdirty ||| BitVec.ofNat 64 (2 ^ (48 + n))
  flags  : ∀ b, t.hart.vflags.getLsbD b = true ↔ s.hart.vflags.getLsbD b = true ∨ raised b
  poison : ∀ p, p ∈ t.hart.poison → p ∈ s.hart.poison
  rest   : t = { s with hart := { s.hart with
             acc := t.hart.acc, vdirty := t.hart.vdirty, vflags := t.hart.vflags, poison := t.hart.poison, pc := s.hart.pc + 4, vstart := 0,
             resumeMid := false } }
  bytes  : SameBytes s t

/-- The value that AWRV leaves in a cell, with its flags (R297). -/
def Hart.cellFrom (h : Hart) (i : Image) : AccCell × BitVec 5 :=
  if fmtInt h.fmt then (⟨⟨BitVec.ofNat 32 i.enc, 0⟩, Slot.zero⟩, 0) else cellOf (i.val h.fmt)

/-- The value that ARDV reads from a cell, with its flags (R104, R297). -/
def Hart.cellTo (h : Hart) (c : AccCell) : Image × BitVec 5 :=
  if fmtInt h.fmt then (⟨c.s.data.toNat, 0⟩, 0) else oddResult h.fmt ((propagate [c.val]).getD (c.val, 0))

/-- The parts of a tile's image block at `pa`: 8,192 words, then 8,192 bytes of tails (R102, R298). -/
def Hart.tileStores (h : Hart) (n pa : Nat) : List (Nat × List Byte) :=
  let slot (i : Nat) : Slot := if i % 2 = 0 then (h.getAcc n (i / 2)).s else (h.getAcc n (i / 2)).e
  (List.range 8192).map (fun i => ((pa + 4 * i) % 2 ^ 64, leBytes (slot i).data.toNat 4)) ++
    (List.range 8192).map (fun i => ((pa + 32768 + i) % 2 ^ 64, leBytes (slot i).tail.toNat 1))

/-- An accumulator that ARDV and AWRV accept: the format is a float, or 32-bit integers at pack 1 (R297). -/
def Hart.tileVec (h : Hart) (n : Nat) : Prop :=
  h.vtypeOk = true ∧ n < h.tiles ∧ n < 8 ∧ (fmtFloat h.fmt = true ∨ ((h.fmt = 18 ∨ h.fmt = 22) ∧ h.pack = 1))

/-- The update of cell (i, j) by group k of an OPA whose operands are registers or queue positions from `pa` and `pb` on (R290 to R292). -/
def Hart.groupUpdate (h : Hart) (n a b : Nat) (qa qb : Bool) (pa pb i j k : Nat) (c : AccCell) : AccCell × BitVec 5 :=
  let x := h.opaUnit (h.opaSlot a pa qa (64 * k + i)) (2 * (n % 4)) ((if qa then pa else 0) + 64 * k + i)
  let y := h.opaUnit (h.opaSlot b pb qb (64 * k + j)) (2 * (n % 4) + 1) ((if qb then pb else 0) + 64 * k + j)
  cellUpdate h.sr h.fmt c x.1 y.1 x.2 y.2

/-- Cell (i, j) after the groups below `k`, in ascending order; a group updates it when both its mask bits are 1 (R291). -/
def Hart.groupsTo (h : Hart) (n mk a b : Nat) (qa qb : Bool) (pa pb i j : Nat) : Nat → AccCell × BitVec 5
  | 0 => (h.getAcc n (64 * i + j), 0)
  | k + 1 =>
    let r := h.groupsTo n mk a b qa qb pa pb i j k
    if h.maskBit mk (64 * k + i) && h.maskBit mk (64 * k + j) then
      let u := h.groupUpdate n a b qa qb pa pb i j k r.1
      (u.1, r.2 ||| u.2)
    else r

/-- The state allows an OPA on accumulator `n` (R78, R290, R291). -/
def State.multiplies (s : State) (n : Nat) (qs : List Nat) : Prop :=
  s.hart.vtypeOk = true ∧ n < 8 ∧ opaIllegal s.hart n qs = false ∧ s.hart.engine = []

/-- Queue `q` holds `n` slots more than it has given, and none of them is poisoned (R119, R379). -/
def Hart.queued (h : Hart) (q n : Nat) : Prop := q < 4 ∧ (h.getFq q).used + n ≤ (h.getFq q).fill ∧ h.queuePoison q n = none

/-! ### Atomics -/

/-- What the hart reads of its scratchpad (true) and of physical memory (false). -/
def State.view (s : State) : Bool → Nat → Byte := fun b a => if b then mapGet 0 s.hart.scratch a else s.peek a

/-- The `n` bytes of a view at (b, p) as a number. -/
def readView (v : Bool → Nat → Byte) (b : Bool) (p n : Nat) : Nat := leNat ((upFrom p n).map (v b))

/-- A view with the `n` bytes of `x` at (b, p). -/
def writeView (v : Bool → Nat → Byte) (b : Bool) (p n x : Nat) : Bool → Nat → Byte :=
  fun c q => if c = b ∧ p ≤ q ∧ q < p + n then BitVec.ofNat 8 (x / 256 ^ (q - p)) else v c q

/-- Read-modify-writes in order of their elements: the view after them, and the old value of each (R147, R301). -/
def rmwRun (n : Nat) (tg : Nat → Bool × Nat) (new : Nat → Nat → Nat) : List Nat → (Bool → Nat → Byte) → (Bool → Nat → Byte) × List (Nat × Nat)
  | [], v => (v, [])
  | e :: r, v =>
    let old := readView v (tg e).1 (tg e).2 n
    let t := rmwRun n tg new r (writeView v (tg e).1 (tg e).2 n (new e old))
    (t.1, (e, old) :: t.2)

/-- The old value of element `e`. -/
def oldOf (l : List (Nat × Nat)) (e : Nat) : Nat := ((l.find? (fun p => p.1 = e)).map (·.2)).getD 0

/-- An atomic access of `n` bytes at `a` reaches (b, p): aligned, writable or with permission `perm` readable, unclaimed by others, unpoisoned
(R143, R147, R379, R384). -/
def State.atomicAt' (s : State) (a n perm : Nat) (t : Bool × Nat) : Prop :=
  a % n = 0 ∧
    (if t.1 then place a = .ok (.own t.2) ∧ s.hart.scratchReady t.2 n else s.mapped a n perm t.2 ∧ s.poisonAt t.2 n = none)

/-- The addresses of the table entries that a walk reads on from the entry `e` of `level` (R128). -/
def walkReads (s : State) (va : Nat) : Nat → Nat → List Nat
  | 0, _ => []
  | l + 1, e =>
    if e % 2 = 0 ∨ e / 2 % 8 ≠ 0 then []
    else
      let a := entryAddr l (e / 2 ^ 8 % 2 ^ 44 * 256) va
      a :: walkReads s va l (s.readPhys a 8)

/-- Byte `a` belongs to a table entry on which a translation of the hart's job rests: of a walk from its root table, or on from an entry that a
cache of the hart holds (R128, R130). -/
def State.tableByte (s : State) (a : Nat) : Prop :=
  ∃ va r, r ≤ a ∧ a < r + 8 ∧
    ((∃ j, s.jobOf s.hart.slot = some j ∧ r ∈ entryAddr 4 j.pgroot va :: walkReads s va 4 (rootEntry s va j.pgroot)) ∨
     (∃ c ∈ s.xlat, c.cache ∈ s.hart.caches ∧ c.slot = s.hart.slot ∧ r ∈ walkReads s va (bitsLevel c.bits) c.leaf.toNat))

/-- No translation of the hart's job rests on a byte that `touched` names: its page tables are elsewhere (R128). -/
def State.tablesApart (s : State) (touched : Nat → Prop) : Prop := ∀ a, touched a → ¬ s.tableByte a

/-- `t` shows the view `v`; a byte of memory is as it was or as the hart now reads it, and the bytes that `done` names are performed (R147). -/
structure Viewed (s t : State) (v : Bool → Nat → Byte) (done : Nat → Prop) : Prop where
  scratch : ∀ o, mapGet 0 t.hart.scratch o = v true o
  peek    : ∀ a, t.peek a = v false a
  memory  : ∀ a, t.readByte a = s.readByte a ∨ t.readByte a = t.peek a
  home    : ∀ a, done a → t.readByte a = t.peek a

/-- The fields that accesses at memory may change: bytes, claims, links, poison, translations, buffers, cached routes, and steps that become due. -/
def State.memoryOf (s t : State) : State :=
  { s with
    mem := t.mem, claims := t.claims, links := t.links, poisoned := t.poisoned, window := t.window, homes := t.homes, dead := t.dead
    routes := t.routes, xlat := t.xlat, freeN := t.freeN, agenda := t.agenda
    hart := { s.hart with
      scratch := t.hart.scratch, links := t.hart.links, poison := t.hart.poison, wcb := t.hart.wcb, wcbAge := t.hart.wcbAge } }

/-- The steps that became due serve accesses that wait at claims, or wake banks (R22, R143). -/
def OnlyWaits (s t : State) : Prop :=
  ∃ ws : List Instr, t.agenda = s.agenda ++ ws ∧ ∀ i ∈ ws, i = .hostAccessAfterClaim 0 ∨ ∃ c l b, i = .bankWake c l b

/-- A scalar atomic: operation code, destination and operand, address register, whether it is the 32-bit form, sync code (R306). -/
def amoxOf : Instr → Option (Nat × Nat × Nat × Nat × Nat)
  | .amoxAdd d a w y => some (0, d, a, w, y)
  | .amoxFadd d a w y => some (1, d, a, w, y)
  | .amoxMin d a w y => some (2, d, a, w, y)
  | .amoxMax d a w y => some (3, d, a, w, y)
  | .amoxAnd d a w y => some (4, d, a, w, y)
  | .amoxOr d a w y => some (5, d, a, w, y)
  | .amoxXor d a w y => some (6, d, a, w, y)
  | .amoxSwap d a w y => some (7, d, a, w, y)
  | _ => none

/-- The operation of an atomic on integers of `n` bytes (R300). -/
def atomicInt (o : Nat) (sg : Bool) (n old x : Nat) : Nat :=
  let a := BitVec.ofNat (8 * n) old
  let b := BitVec.ofNat (8 * n) x
  (match o with
    | 0 => a + b
    | 2 => if numOf sg b < numOf sg a then b else a
    | 3 => if numOf sg a < numOf sg b then b else a
    | 4 => a &&& b
    | 5 => a ||| b
    | 6 => a ^^^ b
    | _ => b).toNat

/-- A vector atomic: operation code, alone bit, mask, register, index register, sync code, pointer (R301). -/
def vamoOf : Instr → Option (Nat × Bool × Nat × Nat × Nat × Nat × Nat)
  | .vamoAdd c mk d b y p => some (0, c, mk, d, b, y, p)
  | .vamoFadd c mk d b y p => some (1, c, mk, d, b, y, p)
  | .vamoMin c mk d b y p => some (2, c, mk, d, b, y, p)
  | .vamoMax c mk d b y p => some (3, c, mk, d, b, y, p)
  | .vamoAnd c mk d b y p => some (4, c, mk, d, b, y, p)
  | .vamoOr c mk d b y p => some (5, c, mk, d, b, y, p)
  | .vamoXor c mk d b y p => some (6, c, mk, d, b, y, p)
  | .vamoSwap c mk d b y p => some (7, c, mk, d, b, y, p)
  | _ => none

/-- An ordered atomic: operation code, mask, operand register, index register, pointer (R305). -/
def vamooOf : Instr → Option (Nat × Nat × Nat × Nat × Nat)
  | .vamooAdd mk d b p => some (0, mk, d, b, p)
  | .vamooFadd mk d b p => some (1, mk, d, b, p)
  | .vamooMin mk d b p => some (2, mk, d, b, p)
  | .vamooMax mk d b p => some (3, mk, d, b, p)
  | .vamooAnd mk d b p => some (4, mk, d, b, p)
  | .vamooOr mk d b p => some (5, mk, d, b, p)
  | .vamooXor mk d b p => some (6, mk, d, b, p)
  | .vamooSwap mk d b p => some (7, mk, d, b, p)
  | _ => none

/-- The indexed A-form is used as R184 says: off-core units stand alone in their convoy, and all units are on one side. -/
def State.sided (s : State) (c : Bool) (as : List Nat) : Prop :=
  (∀ a ∈ as, ∀ b ∈ as, inAperture a = inAperture b) ∧ ((∃ a ∈ as, inAperture a = false) → c = true ∧ s.hart.cur.size ≤ 1)

/-- A byte of the line of `a` is in the hart's store buffer, or the line stands in its order of age (R141). -/
def State.holdsLine (s : State) (a : Nat) : Prop := lineOf a ∈ s.hart.wcbAge ∨ ∃ b ∈ s.hart.wcb, lineOf b.1 = lineOf a

/-- `t` is `s` after a drain point: what the hart reads is unchanged, its buffered bytes are performed at their home slices and their claims released,
and nothing else is changed but the accesses served again (R142). -/
structure Drained (s t : State) : Prop where
  peek    : ∀ a, t.peek a = s.peek a
  home    : ∀ a, t.readByte a = s.peek a
  scratch : t.hart.scratch = s.hart.scratch
  buffer  : t.hart.wcb = [] ∧ t.hart.wcbAge = []
  claims  : ∀ a, (s.owner a = s.hart.hid ∧ s.holdsLine a → t.owner a = 0) ∧
              (¬ (s.owner a = s.hart.hid ∧ s.holdsLine a) → t.owner a = s.owner a)
  waits   : OnlyWaits s t

/-! ### Decoding and stepping -/

/-- Words that the spec calls illegal: bits 1:0 not 0b11, LOAD-FP, FENCE.I, a reserved custom-0 code (R175 to R177, R185). -/
def illegalWords : List Nat := [0x00000000, 0x00000007, 0x0000100f, 0x1000700b]

/-- The hart at the issue slot has the turn and nothing comes before its next instruction: no step of another agent is due, no report waits, no
pre-emption, cancellation or end of a HALT can take effect, it stands in no convoy, no timetable runs, no fault of its engine is deferred, and no
asynchronous source is to be taken (R49, R62, R288). -/
structure State.issues (s : State) : Prop where
  agenda  : s.agenda = []
  turn    : s.inTurn = true
  reports : ∀ h ∈ s.harts, h.held = []
  overdue : ∀ h ∈ s.harts, (h.cancelled = true ∨ h.preemptDue = true ∨ h.status = .halting) →
              h.cannotStop = true ∨ h.preempted = true ∨ s.awaited h.hid = true
  between : s.hart.midConvoy = false
  untimed : s.hart.time = none
  engine  : s.hart.intrap = true ∨ ∀ o ∈ s.hart.engine, o.fault = none
  source  : s.hart.ie = false ∨ s.hart.asyncSource = none

/-- The state after `n` words were fetched from the pc on: what the translation caches hold is noted (R130), the model's cursor stands at none (log
2). -/
def State.reads (s : State) (n : Nat) : State := ({ s with hart := { s.hart with cur := Cursor.alone } } : State).fetched n

/-- The state in which an instruction word `w` that is alone is performed after `n` words were fetched: the model's cursor names it (log 2); where its
issue check passes, what the translations of its units leave is noted (R130, R369). -/
def State.singly (s : State) (n w : Nat) (i : Instr) : State :=
  let m := memberOf (fmtWide s.hart.fmt) i
  let u := { s.reads n with hart := { (s.reads n).hart with cur := (s.reads n).hart.aloneCursor w m } }
  if (m.chk u).isNone then u.fillUnits i else u

/-- `o` is the outcome of instruction `i` alone on `u`: of `exec`, or, where it has interruption points, as far as one of them, from which it is
resumed (R49; which one is free, log 49). -/
def State.performedAs (u : State) (i : Instr) (o : Host.Outcome State Fault Refusal) : Prop :=
  (u.hart.stopCount i = 0 → o = exec i u) ∧
  (0 < u.hart.stopCount i → ∃ k v, k ≤ u.hart.stopCount i ∧
    v = { u with freeN := u.freeN + 1, hart := { u.hart with cur := if k = 0 then u.hart.cur else u.hart.stopAt i k u.hart.cur } } ∧
    (k = 0 → o = exec i v) ∧ (0 < k → ∀ t, exec i v = .next t → o = .next { t with hart := v.hart.partly t.hart }))

/-! ### Work records -/

/-- The block of `n` bytes at `a`, which must be a multiple of `al`, goes through as one plain load, word by word, and holds the number `v`
(R406). -/
def State.blockHolds (s : State) (al a n v : Nat) : Prop :=
  a % al = 0 ∧ ∃ f : Nat → Nat, (∀ w ∈ blockWords a n, s.finds true (w.1 % 2 ^ 64) w.2 (f w.1)) ∧
    v = ((blockWords a n).map (fun w => f w.1 * 2 ^ (8 * (w.1 - a)))).sum

/-- A wait that is over: the all-ones handle, or a record whose counter reads zero (R58). -/
def State.waitDone (s : State) (i h : Nat) : Prop := h = noHandle ∨ ∃ st, s.record i (handleLvl h) (handleIdx h) = some (0, st)

/-- A valid pool partition word (R35, R36). -/
def validPart (w : Nat) : Prop :=
  ∃ r a p, w = r + 512 * a + 262144 * p ∧ r ∈ [2, 4, 8, 16, 32, 64, 128] ∧ a ∈ [0, 8, 16, 24, 32, 40, 48, 56, 64] ∧ r + a + p ≤ 384

/-- The 64 bytes of a launch block as a number (R314). -/
def LaunchBlock.word (b : LaunchBlock) : Nat :=
  b.entry + 2 ^ 64 * b.args + 2 ^ 128 * b.harts + 2 ^ 160 * (b.prio + 8 * b.gang.toNat + 16 * b.legacy.toNat) + 2 ^ 192 * b.part +
    2 ^ 256 * b.waits.getD 0 0 + 2 ^ 320 * b.waits.getD 1 0 + 2 ^ 384 * b.waits.getD 2 0 + 2 ^ 448 * b.waits.getD 3 0

/-- The fields of a launch block are in range (R33, R36, R314). -/
structure LaunchBlock.legal (b : LaunchBlock) : Prop where
  entry : b.entry % 4 = 0 ∧ b.entry < 2 ^ 64
  args  : b.args < 2 ^ 64
  harts : 1 ≤ b.harts ∧ b.harts ≤ 1048576
  prio  : b.prio < 8
  part  : b.part = 0 ∨ validPart b.part
  waits : b.waits.length = 4 ∧ ∀ w ∈ b.waits, w < 2 ^ 64

/-- The block as a launch record keeps it: a partition word of 0 selects the default (R314). -/
def LaunchBlock.kept (b : LaunchBlock) : LaunchBlock := { b with part := if b.part = 0 then 0x04008040 else b.part }

/-- `s` with the job of slot `i` replaced. -/
def State.withJob (s : State) (i : Nat) (j : Job) : State := s.updSlot i (fun sl => { sl with job := some j })

/-- `j'` is `j` after launches of the blocks `bs` were accepted (R30, R58, R315, R316): their records follow in order with their counters, the parent
phase counts `children` more, and a launch stands in its queue exactly when its waits are over and its graph is open; every other record keeps its
counter and state. -/
structure Accepted (t : State) (i cl : Nat) (j j' : Job) (bs : List LaunchBlock) (graph : Option Nat) (children : Nat) : Prop where
  old    : (j'.launches.take j.launches.length).map (fun l => { l with queued := false, ready := 0 }) =
             j.launches.map (fun l => { l with queued := false, ready := 0 })
  number : j'.launches.length = j.launches.length + bs.length
  made   : ∀ k b, bs[k]? = some b → ∃ l, j'.launches[j.launches.length + k]? = some l ∧
             l = ⟨j.launches.length + k, b, graph, j.cur, cl, b.harts, .running, 0, l.queued, l.ready, [], [], 0, []⟩ ∧
             (l.queued = true ↔ (∀ w ∈ b.waits, t.waitDone i w) ∧ ∀ g, graph = some g → ∃ x ∈ j'.graphs, x.id = g ∧ x.open_ = true)
  phases : j'.phases.map (fun p => { p with counter := 0 }) = j.phases.map (fun p => { p with counter := 0 })
  parent : ∀ k, j'.record 2 k = (match j.record 2 k with
             | some (c, .running) => if k = j.cur then some (c + children, .running) else some (c, .running)
             | r => r)
  rest   : j' = { j with launches := j'.launches, graphs := j'.graphs, phases := j'.phases }

/-- `t` is `s` after a work instruction that reads the block at xa, drains and writes xd: what was noted and drained, the job's records, xd and the
pc. -/
structure Worked (s t : State) (d : Nat) (v : Word) (j' : Job) : Prop where
  drained : ∃ s1 u, Noted s s1 ∧ Drained s1 u ∧ u = s1.memoryOf u ∧
              t = { u.withJob s.hart.slot j' with hart := { u.hart with x := t.hart.x, pc := s.hart.pc + 4, resumeMid := false } }
  x       : ∀ r, t.hart.getX r = if r = d ∧ d ≠ 0 then v else s.hart.getX r

/-- A handle that the hart may name: a level, an index, no reserved bit, an assigned record (R312, R313). -/
def State.names (s : State) (h lvl idx : Nat) (c : Nat) (st : RecState) : Prop :=
  h = lvl * 2 ^ 61 + idx ∧ lvl ≤ 3 ∧ idx < 2 ^ 32 ∧ s.record s.hart.slot lvl idx = some (c, st)

/-- The record (lvl, idx) of slot `i` takes counter `c` and state `st`, and every other record of the slot stands. -/
def State.onlyRecord (s t : State) (i lvl idx c : Nat) (st : RecState) : Prop :=
  ∀ l k, t.record i l k = if l = lvl ∧ k = idx then some (c, st) else s.record i l k

/-- Hart `hid` is gone from the place where it stood. -/
def State.leftBy (s t : State) (hid : Nat) : Prop := t.hart.hid ≠ hid ∧ (s.hart.hid ≠ hid → ∀ y ∈ t.others, y.hid ≠ hid)

/-- A cancellation has reached the record (lvl, idx) of slot `i` with counter `c` (R53): it and the running launches below it are being cancelled, and
every hart below it is to stop. -/
def State.cancelling (s t : State) (i lvl idx c : Nat) : Prop :=
  t.record i lvl idx = some (c, .cancelling) ∧ Instr.cancellationComplete i (lvl * 2 ^ 61 + idx) ∈ t.agenda ∧ (∀ k ∈ s.agenda, k ∈ t.agenda) ∧
    (∀ n l, s.launchAt i n = some l → inRecord lvl idx l = true → l.state = .running → t.record i 0 n = some (l.counter, .cancelling)) ∧
    ∀ j, s.jobOf i = some j → ∀ l ∈ j.launches, inRecord lvl idx l = true → ∀ x ∈ s.harts, x.slot = i → x.launchid = l.id →
      Instr.hartCancel x.hid ∈ t.agenda

/-! ### Timetables -/

/-- A cluster whose timetable is at a boundary: a clock stretch that waited takes effect, and its counts are cleared (R71, R74). -/
def ClusterInfo.anew (c : ClusterInfo) : ClusterInfo :=
  { c with stretch := if c.next = 0 then c.stretch else c.next, next := 0, armed := [], arrived := [] }

/-- A timetable image's header as a number (R69). -/
def timetableWord (ncores lanes nseg ctab stab : Nat) : Nat := ncores + 2 ^ 16 * lanes + 2 ^ 32 * nseg + 2 ^ 64 * ctab + 2 ^ 128 * stab

/-- `t` differs from `s` in cluster `cl` alone, which is as `c` says. -/
def State.onlyCluster (s t : State) (cl : Nat) (c : ClusterInfo) : Prop := ∀ k, t.clusterOf k = if k = cl then c else s.clusterOf k

/-- The hart belongs to the timetable of the hart at the issue slot (R69): it runs its image in its cluster. -/
def State.sharesTable (s : State) (k : Hart) : Prop :=
  ∃ t u, s.hart.time = some t ∧ k.time = some u ∧ u.image = t.image ∧ k.slot = s.hart.slot ∧ k.cl = s.hart.cl

/-- `u` is `s` with its timetable abandoned by a deviation of the hart at the issue slot (R73): that hart is untimed, every other hart of the timetable
is to trap with its number, and the cluster's counts are cleared. -/
structure Abandoned (s u : State) : Prop where
  mine    : u.hart = { s.hart with time := none }
  number  : u.others.length = s.others.length
  others  : ∀ (k : Nat) (x y : Hart), s.others[k]? = some x → u.others[k]? = some y →
              (s.sharesTable x → y = { x with
                time := x.time.map (fun v => { v with dev := some s.hart.lcore }), status := if x.status = .ttSync then .running else x.status }) ∧
              (¬ s.sharesTable x → y = x)
  cluster : s.onlyCluster u s.hart.cl { s.clusterOf s.hart.cl with armed := [], arrived := [] }
  rest    : u = { s with hart := u.hart, others := u.others, clusters := u.clusters }

/-- A hart that waits for the daybreak pulse of its cluster starts cycle 0 of its next segment (R70, R71). -/
def Hart.wakes (cl : Nat) (h : Hart) : Hart :=
  if h.cl = cl ∧ (h.status = .ttStart ∨ h.status = .ttSync) ∧ h.time.isSome then
    { h with time := h.time.map (fun t => { t with live := true }), status := .running }
  else h

/-- A launch of phase `k` of the job passed to the next phase (R57): an open one, one of an open graph of the phase, and one that count-downs have
completed before its harts were done. -/
def Job.passLaunch (j : Job) (k : Nat) (l : Launch) : Launch :=
  if l.phase = k ∧ (l.state = .running ∨ l.state = .cancelling ∨ (l.state = .complete ∧ l.halted < l.block.harts) ∨
    ∃ g ∈ j.graphs, l.graph = some g.id ∧ g.phase = k ∧ (g.state = .running ∨ g.state = .cancelling)) then { l with phase := k + 1 } else l
/-- An open graph of phase `k` passed to the next phase (R57). -/
def Graph.pass (k : Nat) (g : Graph) : Graph := if g.phase = k ∧ (g.state = .running ∨ g.state = .cancelling) then { g with phase := k + 1 } else g
/-- The graphs and stand-alone launches of phase `k` that have not ended (R30, R57). -/
def Job.children (j : Job) (k : Nat) : Nat :=
  j.graphs.countP (fun g => g.phase = k && (g.state = .running || g.state = .cancelling)) +
    j.launches.countP (fun l => l.phase = k && (l.state = .running || l.state = .cancelling) && l.graph.isNone)

/-! ### Messages -/

/-- Bytes [o, o + n) of a list as a number. -/
def fieldOf (bs : List Byte) (o n : Nat) : Nat := leNat ((bs.drop o).take n)

/-- A route block that R167 allows: `hc` 0 and nothing else, or two hops with `vc` 0 and then 0, 1 or 2. -/
def legalRoute (v : Nat) : Prop := v = 0 ∨ ∃ p c q, p < 1024 ∧ c < 3 ∧ q < 1024 ∧ v = 2 + 2 ^ 16 * p + 2 ^ 32 * (1024 * c + q)

/-- Hop `i` of a route block (R155). -/
def hopOf (v i : Nat) : Nat := v / 2 ^ (16 + 16 * i) % 65536

/-- MCHK's code for a route block, its codes 1 to 3 from the block and 4 to 7 from the view of the hart's job (R167, R172, R325). -/
def State.routeVerdict (s : State) (v : Nat) : Nat :=
  let hc := v % 16
  let i := s.hart.slot
  let p := hopOf v 0 % 1024
  if v / 256 % 256 ≠ 0 ∨ (List.range 15).any (fun k => if k < hc then decide (hopOf v k / 4096 ≠ 0) else decide (hopOf v k ≠ 0)) then 1
  else if (hc ≠ 0 ∧ hc ≠ 2) ∨ v / 16 % 16 ≠ 0 then 2
  else if hc = 2 ∧ (hopOf v 0 / 1024 % 4 ≠ 0 ∨ hopOf v 1 / 1024 % 4 = 3) then 3
  else if hc = 0 then 0
  else if s.viewField i 8 2 ≤ p then 4
  else if s.portState i p ≠ 1 then 5
  else match s.reached i p (hopOf v 1 % 1024) with
    | none => 6
    | some k => if (s.reach i k p).testBit 31 then 0 else 7

/-- What the route cache of the hart's core holds under key `k` (R158). -/
def State.routeHeld (s : State) (k : Option Nat) : Option RouteEntry := s.routes.find? (fun r => r.core = s.coreKey && some r.addr = k)

/-- The route block at `a` is `v`: as the route cache of the core holds it, or else as it stands in memory (R155, R158). -/
def State.routeHolds (s : State) (a v : Nat) : Prop :=
  a % 32 = 0 ∧
    ((∃ r, s.routeHeld (s.routeKey a) = some r ∧ v = leNat r.bytes) ∨ (s.routeHeld (s.routeKey a) = none ∧ s.blockHolds 32 a 32 v))

/-- `u` is `s` after the route block at `a` was read as `v`: what the access notes and the route cache alone have changed, and the cache holds the
block. -/
structure Routed (s u : State) (a v : Nat) : Prop where
  rest  : u = { s with xlat := u.xlat, homes := u.homes, agenda := u.agenda, freeN := u.freeN, routes := u.routes }
  wakes : Wakes s u
  held  : ∀ k, s.routeKey a = some k → ∃ r, u.routeHeld (some k) = some r ∧ leNat r.bytes = v
  bytes : SameBytes s u

/-- A message instruction: kind, route, first and second operand (R322, R324). -/
def messageOf : Instr → Option (Nat × Nat × Nat × Nat)
  | .mput d a b => some (1, d, a, b)
  | .mget d a b => some (2, d, a, b)
  | .msig d a b => some (4, d, a, b)
  | _ => none

/-- The hart can send a message along the route block `v` at x register `d` (R146, R167, R385, R386). -/
structure State.sendable (s : State) (d v : Nat) : Prop where
  untimed : s.hart.inSegment = false
  queue   : s.hart.queueFree = true
  room    : s.hart.held.length < 16
  engine  : s.hart.engine = []
  claims  : mapWf 0 s.claims = true
  fresh   : s.fresh
  route   : s.routeHolds (s.hart.getX d).toNat v
  legal   : legalRoute v

/-- A message block as a number (R321). -/
def messageWord (rva len rcc lcc : Nat) : Nat := rva + 2 ^ 64 * len + 2 ^ 128 * rcc + 2 ^ 192 * lcc

/-- A handle that names some record of another job, as its sender can tell (R312, R313). -/
def formedHandle (h : Nat) : Prop := ∃ l k, l ≤ 3 ∧ k < 2 ^ 32 ∧ h = l * 2 ^ 61 + k

/-- The message block at x register `b` is legal and holds these fields (R321). -/
def State.messageBlock (s : State) (b rva len rcc lcc : Nat) : Prop :=
  rva < 2 ^ 64 ∧ rva % 4 = 0 ∧ len % 4 = 0 ∧ len ≤ 16777216 ∧ rcc < 2 ^ 64 ∧ lcc < 2 ^ 64 ∧ (lcc = noHandle ∨ s.handleOk s.hart.slot lcc = true) ∧
    s.blockHolds 8 (s.hart.getX b).toNat 32 (messageWord rva len rcc lcc)

/-- The state after what a message instruction does first: its route and block read, the store buffer drained. -/
def Prepared (s u : State) (a v : Nat) : Prop := ∃ s1 s2, Routed s s1 a v ∧ Noted s1 s2 ∧ Drained s2 u ∧ u = s2.memoryOf u

/-- The packet of a message of one packet as its endpoint injects it into `u` (R165, R169, R170, R324): inside the module the package route leads from
the cluster of its hart to the one where its bytes lie. -/
def State.outgoing (u : State) (m : Message) (q : Packet) (k0 k1 cnt : Nat) : Prop :=
  q = { hc := m.route % 16, hp := 0, hops := routeHops m.route, part := (u.slotOf m.slot).part, src := u.module_, dst := u.destination m.slot m.route
        kind := m.kind, seq := mapGet 0 u.seqs (u.destination m.slot m.route), k0 := k0, k1 := k1, payload := [], inPort := none, sender := m.hid
        pc := m.pc, arg := m.arg, cnt := cnt
        legs := u.legsOut (u.slotOf m.slot).part m.cl (if m.kind = 4 then m.cl else u.homeOf (u.slotOf m.slot).part k0 m.cl) (m.route % 16)
          (hopOf m.route 0 % 1024)
        inj := routeHops m.route, msg := m.mid, total := 1 }

/-- `t` is `u` after message `m` was recorded and its one packet `q` injected, held until its acknowledgment, its next hop due (R170); in sink mode
nothing is injected (R392). The hart has a fault queue from now on (R385). -/
def State.sent (u t : State) (m : Message) (q : Packet) : Prop :=
  let v : State := { u with
    messages := u.messages ++ [m], nextMid := (m.mid + 1) % 2 ^ 32, hart := { u.hart with sends := true, pc := u.hart.pc + 4, resumeMid := false } }
  ((u.slotOf m.slot).sink = true → t = v) ∧
  ((u.slotOf m.slot).sink = false → (∀ k, mapGet 0 t.seqs k = if k = q.dst then (q.seq + 1) % 2 ^ 32 else mapGet 0 u.seqs k) ∧
    t = { v with
      seqs := t.seqs, unacked := u.unacked ++ [⟨q.dst, q.seq, 0, m.mid, m.slot, q⟩], agenda := u.agenda ++ [.packetHop q] })

/-- The offset at which the page piece of offset `o` of a range at `a` begins (R322). -/
def pieceOf (a o : Nat) : Nat := o - (a + o) % 65536

/-! ### Packets -/

/-- The output port `o` passes a packet of partition `part` on channel `vc` (R160): its link is up, it is of the partition, and, for a packet that came
in by a port on a channel (`inp`), the channel rises, or stays while the ranks rise. -/
def State.passes (s : State) (part vc : Nat) (inp : Option (Nat × Nat)) (o : Port) : Prop :=
  o.up = true ∧ o.prt = part ∧ part ≠ 0xffff ∧ ∀ i c, inp = some (i, c) → c < vc ∨ (c = vc ∧ (s.portAt i).rki < o.rko)

/-- What a node refuses a packet with at the output port `o`: the type of the report and its `why` (R160, R388). -/
def State.stopsAt (s : State) (part vc : Nat) (inp : Option (Nat × Nat)) (o : Port) (rtype why : Nat) : Prop :=
  (o.up = false ∧ rtype = 2 ∧ why = 0) ∨ (o.up = true ∧ (o.prt ≠ part ∨ part = 0xffff) ∧ rtype = 1 ∧ why = 3) ∨
  (o.up = true ∧ o.prt = part ∧ part ≠ 0xffff ∧ ¬ s.passes part vc inp o ∧ rtype = 1 ∧ why = 4)

/-- Every node of a package route, a list of channels and ports, passes a packet of partition `part` that came in by `inp` (R160, R165). -/
def State.goes (s : State) (part : Nat) : Option (Nat × Nat) → List (Nat × Nat) → Prop
  | _, [] => True
  | inp, (vc, k) :: r => s.passes part vc inp (s.portAt k) ∧ s.goes part (some (farPort k, vc)) r

/-- The first node of a package route that does not pass the packet refuses it with this type of report and `why` (R160, R165, R388). -/
def State.stopsOn (s : State) (part rtype why : Nat) : Option (Nat × Nat) → List (Nat × Nat) → Prop
  | _, [] => False
  | inp, (vc, k) :: r => s.stopsAt part vc inp (s.portAt k) rtype why ∨
      (s.passes part vc inp (s.portAt k) ∧ s.stopsOn part rtype why (some (farPort k, vc)) r)

/-- The hub hops on channel 3 from the fabric port `k` at which a packet arrived to the cluster where it is served (R165). -/
def State.legsIn (s : State) (p : Packet) (k : Nat) : List (Nat × Nat) :=
  let d := s.endCluster p (k / 16)
  (if k / 16 = d then [] else [(3, 96 + 6 * (k / 16) + d)]) ++ [(3, 210 + d)]

/-- The packet has taken its last hop to this module, and, after a fabric port, may take its last legs to the endpoint that serves it (R165, R170). -/
structure State.comes (s : State) (p : Packet) : Prop where
  last : p.hp = p.hc
  mine : p.dst = s.module_
  leg  : ∀ v c k, 0 < p.hc → p.inPort = some (v, c) → s.viewPort p.part v = some k → s.goes p.part (some (k, c)) (s.legsIn p k)

/-- No packet of the stream of `p` waits before it (R323). -/
def State.streamFree (s : State) (p : Packet) : Prop := ∀ w ∈ s.hostWait, w.streamOf p = false

/-- The packet, of kind `kind`, reaches job slot `i` of this module: none of its stream waits, the slot of its partition runs a job, is not in sink
mode, and has not accepted the packet before (R170, R323, R391, R392). -/
structure State.reachedBy (s : State) (p : Packet) (kind i : Nat) : Prop where
  kind   : p.kind = kind
  comes  : s.comes p
  stream : s.streamFree p
  slot   : s.slotOfPart p.part = some i
  live   : (s.slotOf i).sink = false ∧ (s.slotOf i).st = 2
  fresh  : p.seq ∉ mapGet [] s.accepted p.src

/-- The hops of the way back: the view port of arrival, then the recorded switch port (R157, R170). -/
def hopsBack (p : Packet) : List (Nat × Nat × Nat) := [(0, 0, (p.inPort.getD (0, 0)).1), (0, 0, (p.hops.getD 1 (0, 0, 0)).2.2)]

/-- The acknowledgment that tells of an excess `x` (R157, R170, R364): over the reversed route, or inside the module from the endpoint back. -/
def State.ackPacket (s : State) (p : Packet) (x : Nat) : Packet :=
  let hops := if p.hc = 0 then [] else hopsBack p
  { p with
    kind := 5, hops := hops, inj := hops, hp := 0, src := p.dst, dst := p.src, payload := [], k0 := 0, k1 := 0, inPort := none, legs := s.ackLegs p
    cnt := x }

/-- The packet acknowledged end to end, with the excess `x` of its count-down (R170, R364). -/
def State.acks (s : State) (p : Packet) (x : Nat) : State := { s with agenda := s.agenda ++ [.packetHop (s.ackPacket p x)] }

/-- The packet acknowledged for the first time; an excess is kept, for the acknowledgment of a duplicate (R364, R391). -/
def State.answered (s : State) (p : Packet) (x : Nat) : State :=
  (if x = 0 then s else { s with excesses := s.excesses ++ [(p.src, p.seq, x)] } : State).acks p x

/-- A packet that takes its next hop: it stays before the packets of its flow that were injected after it (R170). -/
def State.onward (s : State) (p : Packet) : State :=
  { s with agenda := s.agenda.takeWhile (fun i => !inFlow p i) ++ .packetHop p :: s.agenda.dropWhile (fun i => !inFlow p i) }

/-- A report on the packet goes back to its sender (R387, R388, R391); to another module over the fabric port of its arrival, whose node checks it
(R160). -/
def State.reports (s : State) (p : Packet) (rtype hop why : Nat) : State :=
  let r : Report := ⟨rtype, hop, why, p.kind, p.seq, p.pc, p.arg, p.cnt, routeBytesOf p⟩
  if p.src = s.module_ then { s with agenda := s.agenda ++ [.reportArrival p.sender r] }
  else if (s.hopCheck { s.ackPacket p 0 with legs := [] }).isNone then { s with toHost := s.toHost ++ [.report p r] }
  else s

/-- A packet on its way out comes back as a report (R388). -/
def State.returned (s : State) (p : Packet) (rtype why : Nat) : State :=
  { s with agenda := s.agenda ++ [.reportArrival p.sender ⟨rtype, p.hp, why, p.kind, p.seq, p.pc, p.arg, p.cnt, routeBytesOf p⟩] }

/-- The excesses told of are kept for the packets of the module `p.src` whose numbers are, but not for a number used again (R364, R391). -/
def State.toldKept (s u : State) (p : Packet) : Prop :=
  ∀ e, e ∈ u.excesses ↔ e ∈ s.excesses ∧ (e.1 = p.src → e.2.1 ∈ mapGet [] u.accepted p.src ∧ e.2.1 ≠ p.seq)

/-- `u` is `s` after packet `p` was accepted for its job (R22, R122, R130, R391): its number is kept, and what its accesses leave is noted. -/
structure Received (s u : State) (p : Packet) : Prop where
  kept  : p.seq ∈ mapGet [] u.accepted p.src
  told  : s.toldKept u p
  wakes : Wakes s u
  rest  : u = { s with accepted := u.accepted, excesses := u.excesses, homes := u.homes, xlat := u.xlat, freeN := u.freeN, agenda := u.agenda }

/-- `u` is `s` after the bytes of `p` were written at `pas`, word by word, and the packet accepted (R322, R391). -/
structure Delivered (s u : State) (p : Packet) (pas : List Nat) : Prop where
  bytes : ∀ b, u.readByte b = (lastByte ((pas.zip p.payload).map (fun q => (q.1, [q.2]))) b).getD (s.readByte b)
  kept  : p.seq ∈ mapGet [] u.accepted p.src
  told  : s.toldKept u p
  wakes : Wakes s u
  rest  : u = { s with
            mem := u.mem, links := u.links, poisoned := u.poisoned, window := u.window, dead := u.dead, accepted := u.accepted, excesses := u.excesses
            homes := u.homes, xlat := u.xlat, freeN := u.freeN, agenda := u.agenda }

/-- What is known here of the MPUT of a packet (R322, R389): the offsets of its packets written before, and the handle that one of them carried. -/
def State.putKnown (s : State) (p : Packet) : List Nat × Option Nat :=
  match s.puts.find? (fun r => r.src = p.src && r.msg = p.msg) with
  | none => ([], none)
  | some r => (r.got, r.rcc)

/-- The offsets of an MPUT's packets that are written with packet `p`. -/
def State.putGot (s : State) (p : Packet) : List Nat := if (s.putKnown p).1.contains p.cnt then (s.putKnown p).1 else (s.putKnown p).1 ++ [p.cnt]

/-- The handle that an MPUT counts down at its destination, once its last packet has brought it. -/
def State.putHandle (s : State) (p : Packet) : Option Nat := if p.k1 = noHandle then (s.putKnown p).2 else some p.k1

/-- `v` is `u` with the MPUT of packet `p` known as `s` leaves it: forgotten once its packets are all written (R322, R389). -/
def State.putNoted (s u v : State) (p : Packet) : Prop :=
  v = { u with puts := s.puts.filter (fun r => !(r.src = p.src && r.msg = p.msg)) ++
    (if (s.putGot p).length = p.total then [] else [⟨p.src, p.msg, s.putGot p, s.putHandle p⟩]) }

/-- A count-down by `n` from a message arrives at handle `h` of slot `i` in state `u`: `w` is the state after it, `x` what exceeds the counter (R31,
R32, R364). -/
def State.counted (u : State) (i h n : Nat) (w : State) (x : Nat) : Prop :=
  match u.record i (handleLvl h) (handleIdx h) with
  | some (c, .running) => x = n - c ∧ exec (.countDown i h (min n c) none) u = .next w
  | some (_, .complete) => x = n ∧ w = u
  | _ => x = 0 ∧ w = u

/-- What happens when `n` of the rest of message `m` has been answered (R322, R323): less is left; at its end the record goes, a hart that waited for
it may go on, and `lcc` is counted down unless a packet failed. -/
def State.endsBy (s : State) (m : Message) (n : Nat) (o : Host.Outcome State Fault Refusal) : Prop :=
  let v : State := ({ s with messages := s.messages.filter (fun x => x.mid ≠ m.mid) } : State).updHart m.hid (fun h =>
    { h with status := if h.status = Status.stalled then Status.running else h.status })
  (n < m.left ∨ m.sent = false → o = .next { s with messages := s.messages.map (fun x => if x.mid = m.mid then { x with left := x.left - n } else x) }) ∧
  (m.left ≤ n → m.sent = true → (m.failed = true ∨ m.lcc = noHandle) → o = .next v) ∧
  (m.left ≤ n → m.sent = true → m.failed = false → m.lcc ≠ noHandle → o = exec (.countDown m.slot m.lcc 1 (some m.hid)) v)

/-- The fields of a report fit their bytes (R387). -/
def reportFits (r : Report) : Prop :=
  0 < r.rtype ∧ r.rtype < 256 ∧ r.hop < 256 ∧ r.why < 256 ∧ r.kind < 256 ∧ r.seq < 2 ^ 32 ∧ r.pc < 2 ^ 64 ∧ r.arg < 2 ^ 64 ∧ r.cnt < 2 ^ 64

/-- The first 32 bytes of a report as a number (R387). -/
def reportWord (r : Report) : Nat :=
  r.rtype + 2 ^ 8 * r.hop + 2 ^ 16 * r.why + 2 ^ 24 * r.kind + 2 ^ 32 * r.seq + 2 ^ 64 * r.pc + 2 ^ 128 * r.arg + 2 ^ 192 * r.cnt

/-- Hart `y` is hart `x` after report `r` reached it with nothing held before (R385, R386): in the next slot of its fault queue, or held while that slot
is full. -/
def Hart.reportedTo (x y : Hart) (r : Report) : Prop :=
  (x.fqFull x.fqNext = false → y.held = [] ∧ y.fqNext = (x.fqNext + 1) % 8 ∧ y.readScratch (256 * x.sprows - 512 + 64 * x.fqNext) 32 = reportWord r ∧
    (∀ o, o < 256 * x.sprows - 512 + 64 * x.fqNext ∨ 256 * x.sprows - 512 + 64 * x.fqNext + 64 ≤ o → mapGet 0 y.scratch o = mapGet 0 x.scratch o) ∧
    (x.status = .waiting → y.status = .running)) ∧
  (x.fqFull x.fqNext = true → y.held = [r] ∧ y.scratch = x.scratch) ∧ y.x = x.x ∧ y.pc = x.pc

/-! ### Bytes that an engine, a channel or the host finds -/

/-- The hart's engine reads the bytes `bs` from `a` on: each in the hart's own rows or mapped, unclaimed by others and unpoisoned (R282). -/
def State.engineHolds (s : State) (a : Nat) (bs : List Byte) : Prop := ∀ k b, bs[k]? = some b → s.loads false ((a + k) % 2 ^ 64) 1 b.toNat

/-- The hart is outside a segment, with nothing in its engine or its store buffer and no translation out of date. -/
structure State.quiet (s : State) : Prop where
  untimed : s.hart.inSegment = false
  engine  : s.hart.engine = []
  buffer  : s.hart.wcb = [] ∧ s.hart.wcbAge = []
  fresh   : s.fresh

/-- The physical bytes of `t` are those of `s` with the list written in order. -/
def State.wrote (s t : State) (ws : List (Nat × Byte)) : Prop :=
  ∀ b, t.readByte b = (lastByte (ws.map (fun q => (q.1, [q.2]))) b).getD (s.readByte b)

/-- One event was written to the dusk record, with these fields (R397, R398). -/
def State.logged (s t : State) (etype blk inst a b : Nat) : Prop :=
  t.dcnt = s.dcnt + 1 ∧ ∃ e, t.dusk.getLast? = some e ∧ e.n = s.dcnt ∧ e.etype = etype ∧ e.blk = blk ∧ e.inst = inst ∧ e.a = BitVec.ofNat 32 a ∧
    e.b = BitVec.ofNat 64 b

/-- Events were written to the dusk record one after the other: type, block, instance, a and b of each (R397). -/
def State.loggedAll (s t : State) : List (Nat × Nat × Nat × Nat × Nat) → Prop
  | [] => t.dusk = s.dusk ∧ t.dcnt = s.dcnt
  | e :: r => ∃ u : State, s.logged u e.1 e.2.1 e.2.2.1 e.2.2.2.1 e.2.2.2.2 ∧ u.loggedAll t r

/-- Job slot `i` alone is changed, into `x`. -/
def State.onlySlot (s t : State) (i : Nat) (x : JobSlot) : Prop := ∀ k, t.slotOf k = if k = i then x else s.slotOf k

/-! ### Token output -/

/-- A channel descriptor (R326). -/
structure Descriptor where
  ring   : Nat
  size   : Nat
  tailp  : Nat
  tail   : Nat
  head   : Nat
  chan   : Nat
  mcount : Nat
  mtimer : Nat
  msix   : Nat
  deriving DecidableEq, Repr

/-- The 64 bytes of a descriptor as a number (R326). -/
def Descriptor.word (c : Descriptor) : Nat :=
  c.ring + 2 ^ 64 * c.size + 2 ^ 128 * c.tailp + 2 ^ 192 * c.tail + 2 ^ 256 * c.head + 2 ^ 320 * c.chan + 2 ^ 336 * c.mcount + 2 ^ 352 * c.mtimer +
    2 ^ 384 * c.msix

/-- The fields of a descriptor are in range, and its counts are not about to wrap (R326, R327). -/
structure Descriptor.legal (c : Descriptor) : Prop where
  ring  : c.ring % 4096 = 0 ∧ c.ring < 2 ^ 64
  size  : ∃ k, 12 ≤ k ∧ k ≤ 30 ∧ c.size = 2 ^ k
  tailp : c.tailp % 8 = 0 ∧ c.tailp < 2 ^ 64
  tail  : c.tail % 64 = 0 ∧ c.tail + 2 * c.size < 2 ^ 64
  head  : c.head < 2 ^ 64
  rest  : c.chan < 2 ^ 16 ∧ c.mcount < 2 ^ 16 ∧ c.mtimer < 2 ^ 32 ∧ c.msix < 2 ^ 32

/-- The legal descriptor `c` stands at physical address `p` of device memory (R326). -/
def State.channelAt (s : State) (p : Nat) (c : Descriptor) : Prop := c.legal ∧ p < Config.mainBytes ∧ s.readPhys p 64 = c.word

/-- The descriptor `c` at physical address `p` is the one that x register `a` names, in a non-secure page (R326). -/
def State.opens (s : State) (a p : Nat) (c : Descriptor) : Prop :=
  s.channelAt p c ∧ s.blockHolds 1 (s.hart.getX a).toNat 64 c.word ∧ place (s.hart.getX a).toNat = .ok (.virt (s.hart.getX a).toNat) ∧
    ∃ leaf, s.translate s.hart.slot (s.hart.getX a).toNat 1 = .ok (p, leaf) ∧ leaf / 16 % 2 = 0

/-- The bytes of the ring or tail word at `a` are these physical bytes: writable, unclaimed, in the host window and non-secure (R326). -/
def State.ringAt (s : State) (a : Nat) (pas : List Nat) : Prop :=
  ∀ (k : Nat) (q : Nat), pas[k]? = some q → place ((a + k) % 2 ^ 64) = .ok (.virt ((a + k) % 2 ^ 64)) ∧ s.raceAt s.hart.hid [q] = none ∧
    ∃ leaf, s.translate s.hart.slot ((a + k) % 2 ^ 64) 2 = .ok (q, leaf) ∧ Config.hostBase ≤ leaf / 2 ^ 8 % 2 ^ 44 * 256 ∧ leaf / 16 % 2 = 0

/-- The length of a record whose header and body take `b` bytes, and its seal: whole multiples of 64 bytes (R327). -/
def recordSize (b : Nat) : Nat := (b + 71) / 64 * 64

/-- A record of `n` bytes: its length, the 28 bytes of its header, its body, zeros, its seal (R327, R329). -/
def sealedRecord (header body : List Byte) (n step : Nat) : List Byte :=
  leBytes n 4 ++ header ++ body ++ List.replicate (n - 40 - body.length) 0 ++ leBytes (n + 2 ^ 32 * (step % 2 ^ 32)) 8

/-- A pad record of `r` bytes (R328). -/
def padRecord (r step : Nat) : List Byte :=
  leBytes r 4 ++ [0xff, 0xff, 0xff, 0xff] ++ leBytes step 8 ++ List.replicate (r - 24) 0 ++ leBytes (r + 2 ^ 32 * (step % 2 ^ 32)) 8

/-- The bytes written for `bs` at the physical bytes `pas` of the ring, and the new tail in its word and in the descriptor at `p` (R328). -/
def ringWrites (p : Nat) (c : Descriptor) (bs : List Byte) (pas tp : List Nat) : List (Nat × Byte) :=
  pas.zip bs ++ tp.zip (leBytes (c.tail + bs.length) 8) ++ (upFrom (p + 24) 8).zip (leBytes (c.tail + bs.length) 8)

/-- `t` is `s` after record `q` was written whole: its bytes, the tail, the channel's count of completion records, the interrupt when they reach
`mcount`, and its hart past its instruction (R328, R329). -/
structure State.recorded (s t : State) (p : Nat) (c : Descriptor) (q : LogReq) (pas tp : List Nat) : Prop where
  bytes  : s.wrote t (ringWrites p c q.bytes pas tp)
  queue  : (t.chanAt p).queue = []
  log    : q.cprec = false → (t.chanAt p).count = (s.chanAt p).count ∧ t.toHost = s.toHost
  count  : q.cprec = true → (c.mcount = 0 ∨ (s.chanAt p).count + 1 < c.mcount) →
             (t.chanAt p).count = (s.chanAt p).count + 1 ∧ t.toHost = s.toHost
  signal : q.cprec = true → c.mcount ≠ 0 → c.mcount ≤ (s.chanAt p).count + 1 → (t.chanAt p).count = 0 ∧ t.toHost = s.toHost ++ [.msix c.msix]
  others : ∀ e, e ≠ p → t.chanAt e = s.chanAt e
  wakes  : Wakes s t
  rest   : t = { s with
             mem := t.mem, links := t.links, poisoned := t.poisoned, window := t.window, homes := t.homes, dead := t.dead, xlat := t.xlat
             freeN := t.freeN, agenda := t.agenda, chans := t.chans, toHost := t.toHost
             hart := { s.hart with pc := s.hart.pc + 4, resumeMid := false, status := .running } }

/-- What happens to record `q` of the hart at the issue slot when it is alone in its channel (R328): written where the ring has room, after a pad where
it would cross the ring's end; made to wait where there is no room, and after the pad for the bytes and the tail word that it was accepted for. -/
def State.publishes (s : State) (p : Nat) (c : Descriptor) (q : LogReq) (o : Host.Outcome State Fault Refusal) : Prop :=
  let n := q.bytes.length
  let r := c.size - c.tail % c.size
  ∀ pas tp more, s.ringAt c.tailp tp → tp.length = 8 → s.ringAt (c.ring + c.tail % c.size) pas → s.ringAt c.ring more →
    (n ≤ r → pas.length = n → c.head ≤ c.tail + n → c.tail + n ≤ c.head + c.size → ∃ t, o = .next t ∧ s.recorded t p c q pas tp) ∧
    (n ≤ r → pas.length = n → c.head + c.size < c.tail + n → ∃ t, o = .next t ∧ SameBytes s t ∧ Wakes s t ∧ (t.chanAt p).queue = [q] ∧
      t = { s with
        xlat := t.xlat, homes := t.homes, agenda := t.agenda, freeN := t.freeN, chans := t.chans, hart := { s.hart with status := .logPub false } }) ∧
    (r < n → pas.length = r → more.length = n → c.head ≤ c.tail + r → c.tail + r ≤ c.head + c.size →
      c.head + c.size < c.tail + r + n → ∃ t, o = .next t ∧ s.wrote t (ringWrites p c (padRecord r q.step) pas tp) ∧ Wakes s t ∧
      (t.chanAt p).queue = [{ q with pas := more, tp := tp }] ∧
      t = { s with
        mem := t.mem, links := t.links, poisoned := t.poisoned, window := t.window, homes := t.homes, dead := t.dead, xlat := t.xlat
        freeN := t.freeN, agenda := t.agenda, chans := t.chans
        hart := { s.hart with status := .logPub true } })

/-- The bytes that `k` entries of a completion record take: each 8 bytes and its tokens, padded to 8 bytes (R329). -/
def entriesSize : Nat → List Byte → Nat
  | 0, _ => 0
  | k + 1, bs => let n := 8 + (4 * leNat ((bs.drop 4).take 4) + 7) / 8 * 8
    n + entriesSize k (bs.drop n)

/-! ### Context areas -/

/-- The `n` bytes at `a` are off-core at physical address `pa`, with permission `perm`, in the world of the job, unclaimed by others (R332). -/
def State.areaAt (s : State) (a n perm pa : Nat) : Prop :=
  place a = .ok (.virt a) ∧ (∃ leaf, s.translate s.hart.slot a perm = .ok (pa, leaf) ∧ ∀ j, s.jobOf s.hart.slot = some j → leaf / 16 % 2 = j.sec.toNat) ∧
    s.raceAt s.hart.hid (upFrom pa n) = none

/-! ### Jobs and the host -/

/-- A job descriptor (R353). -/
structure JobDesc where
  sec    : Bool
  strict : Bool
  pgroot : Nat
  view   : Nat
  plist  : Nat
  nphase : Nat
  chmask : Nat
  lb     : Nat
  tvec   : Nat
  rpt    : Nat
  deriving DecidableEq, Repr

/-- The 64 bytes of a job descriptor as a number (R353). -/
def JobDesc.word (d : JobDesc) : Nat :=
  1 + 2 ^ 32 * (d.sec.toNat + 2 * d.strict.toNat) + 2 ^ 64 * d.pgroot + 2 ^ 128 * d.view + 2 ^ 192 * d.plist + 2 ^ 256 * d.nphase + 2 ^ 288 * d.chmask +
    2 ^ 320 * d.lb + 2 ^ 384 * d.tvec + 2 ^ 448 * d.rpt

/-- The fields of a job descriptor are in range (R353, R394). -/
structure JobDesc.legal (d : JobDesc) : Prop where
  pgroot : d.pgroot % 4096 = 0 ∧ d.pgroot < Config.mainBytes
  view   : d.view < 2 ^ 64
  plist  : d.plist + 16 * d.nphase ≤ Config.mainBytes ∨ (Config.hostBase ≤ d.plist ∧ d.plist + 16 * d.nphase ≤ Config.physEnd)
  nphase : 1 ≤ d.nphase ∧ d.nphase ≤ 256
  chmask : d.chmask < 2 ^ 16
  lb     : d.lb % 8 = 0 ∧ d.lb < 2 ^ 64
  tvec   : d.tvec < 2 ^ 64
  rpt    : d.rpt % 64 = 0 ∧ d.rpt < 2 ^ 64

/-- A phase-list entry as a number (R353). -/
def phaseWord (p : Phase) : Nat := p.timed.toNat + 2 ^ 8 * p.lp + 2 ^ 16 * p.clus + 2 ^ 32 * p.plim + 2 ^ 64 * p.tt

/-- A phase of a partition of clusters `clus` as its entry makes it, followed by `next` (R56, R57, R353). -/
structure legalPhase (clus : Nat) (p : Phase) (next : Option Phase) : Prop where
  lp    : 12 ≤ p.lp ∧ p.lp ≤ 24
  clus  : 0 < p.clus ∧ Nat.land p.clus clus = p.clus
  plim  : p.plim < 2 ^ 32 ∧ (0 < p.plim → ∀ q, next = some q → p.timed = false ∧ q.timed = false ∧ q.clus = p.clus)
  tt    : p.tt < 2 ^ 64
  start : p.counter = 0 ∧ p.state = .running ∧ p.begun = false

/-- The start of the descriptor at `desc` that slot `i` has begun finds everything ready for the job of `d` and `ps` (R352 to R354, R358, R394,
R395). -/
structure State.startable (s : State) (i desc : Nat) (d : JobDesc) (ps : List Phase) : Prop where
  begun  : i < 6 ∧ (s.slotOf i).st = 1 ∧ (s.slotOf i).desc = desc
  bound  : 0 < (s.slotOf i).clus ∧ (s.slotOf i).clus < 64
  ready  : ∀ b, (b < 6 ∧ (s.slotOf i).clus.testBit b = true) ∨ b = 6 ∨ b = 8 ∨ b = 9 → s.readyReg.getLsbD b = true
  place  : desc % 64 = 0 ∧ ∀ k, k < 64 → desc + k < Config.mainBytes ∧ s.secureAt i (desc + k) = false
  holds  : s.readPhys desc 64 = d.word
  legal  : d.legal
  number : ps.length = d.nphase
  phases : ∀ k p, ps[k]? = some p → s.readPhys (d.plist + 16 * k) 16 = phaseWord p ∧ legalPhase (s.slotOf i).clus p ps[k + 1]?
  secure : d.sec = true → (s.slotOf i).tdisp = true ∧ Config.keyCreationFails s.freeN = false

/-- The job record of a descriptor and its phases, before its first phase begins (R30, R353). -/
def JobDesc.job (d : JobDesc) (ps : List Phase) (image : List Byte) : Job :=
  ⟨d.sec, d.strict, d.pgroot, d.view, d.chmask, d.tvec, d.rpt, ps, 0, ps.length, .running, [], [], image⟩

/-- The job with its first phase begun (R30, R354). -/
def Job.begun (j : Job) : Job := { j with phases := modAt (fun p => { p with begun := true }) j.phases 0 }

/-- A refused start of slot `i` (R354, R394, R398 type 11); the read of its descriptor wakes banks (R22). -/
def State.startRefusedWith (s t : State) (i code off : Nat) : Prop :=
  s.onlySlot t i { s.slotOf i with
    st := 0, jerr := BitVec.ofNat 64 (code + 256 * off), pendCancel := false, pendHold := false, job := none } ∧ s.logged t 11 7 0 i (code + 256 * off) ∧
    Wakes s t ∧ t = { s with slots := t.slots, dusk := t.dusk, dcnt := t.dcnt, agenda := t.agenda }

/-- The registers of BAR 0 that read as 8 bytes, with what they hold (R350, R352, R355, R358, R394, R396, R397). -/
def State.bar0 (s : State) (o v : Nat) : Prop :=
  (o = 0 ∧ v = s.readyReg.toNat) ∨ (o = 8 ∧ v = s.health) ∨ (o = 0x800 ∧ v = s.dsel.toNat) ∨ (o = 0x808 ∧ v = s.dcnt) ∨
    ∃ p, p < 6 ∧
      ((o = 0x1008 + 256 * p ∧ v = (s.slotOf p).st) ∨ (o = 0x1018 + 256 * p ∧ v = (s.slotOf p).jerr.toNat) ∨
       (o = 0x1020 + 256 * p ∧ v = (s.slotOf p).part % 65536 + 65536 * ((s.slotOf p).clus % 64)) ∨
       ∃ i r, i < 16 ∧ (s.slotOf p).regions[i]? = some r ∧
        ((o = 0x2000 + 256 * p + 16 * i ∧ v = r.base % 2 ^ 36) ∨
         (o = 0x2008 + 256 * p + 16 * i ∧ v = r.lim % 2 ^ 36 + 2 ^ 62 * r.secure.toNat + 2 ^ 63 * r.valid.toNat)))

/-- The bytes [a, a + n) are unclaimed. -/
def State.unclaimed (s : State) (a n : Nat) : Prop := ∀ b, a ≤ b → b < a + n → s.owner b = 0

/-- Some byte of [a, a + n) is claimed, `b` the lowest. -/
def State.firstClaimed (s : State) (a n b : Nat) : Prop := a ≤ b ∧ b < a + n ∧ s.owner b ≠ 0 ∧ ∀ c, a ≤ c → c < b → s.owner c = 0

/-- `t` is `s` but for what a host write changes in memory, and the banks that it wakes. -/
def State.hostWrote (s t : State) : Prop :=
  t = { s with mem := t.mem, links := t.links, poisoned := t.poisoned, window := t.window, dead := t.dead, agenda := t.agenda }

/-- No host write stands in the list. -/
def noWrite (ws : List HostWait) : Prop := ∀ w ∈ ws, w.isWrite = false

/-! ### Measured and signed answers -/

/-- `t` is `s` after the responder answered request `req` with `code` and `body` (R357): the answer leaves, and both enter the transcript. -/
def State.spdmAnswer (s t : State) (req : List Byte) (code : Nat) (body : List Byte) (x : Spdm) : Prop :=
  t = { s with
    spdm := { x with transcript := x.transcript ++ req ++ [BitVec.ofNat 8 code] ++ body }, toHost := s.toHost ++ [.spdm code body] }

/-- The answer of `spdmAnswer` with an RSASSA-PSS and an SLH-DSA signature at its end, both over the hash of one transcript (R357). -/
def State.spdmSigned (s t : State) (req : List Byte) (code : Nat) (body : List Byte) (x : Spdm) : Prop :=
  ∃ a b : List Byte, a.length = 384 ∧ b.length = 16224 ∧
    (let h := sha384 (x.transcript ++ req ++ [BitVec.ofNat 8 code] ++ body)
     a = exactly 384 (Config.rsaSignature h) ∧ b = exactly 16224 (Config.slhSignature h)) ∧ s.spdmAnswer t req code (body ++ a ++ b) x

/-- The measurement block of index `index` for the partition of slot `i`; for index 0 the number of blocks (R357). -/
def State.measures (s : State) (i index : Nat) (bs : List Byte) : Prop :=
  (1 ≤ index ∧ index ≤ 4 ∧ bs = [BitVec.ofNat 8 index, 48, 0] ++ sha384 (Config.bootMeasurement index)) ∨
  (index = 5 ∧ bs = [5, 48, 0] ++ sha384 (s.slotOf i).view) ∨ (index = 0 ∧ bs = [7]) ∨
  (∃ j, index = 6 ∧ s.jobOf i = some j ∧ bs = [6, 48, 0] ++ sha384 j.image) ∨
  (index = 7 ∧ (s.slotOf i).report.length < 65536 ∧ bs = [7] ++ leBytes (s.slotOf i).report.length 2 ++ (s.slotOf i).report)

/-! ### The view -/

/-- `t` is `s` after the controller wrote the bytes `bs` into the view of slot `i` at an offset, all of them or those that change (R173). -/
def State.viewWrote (s t : State) (i view off : Nat) (bs : List Byte) (all : Bool) : Prop :=
  (∀ pas, s.viewRange i (view + off) bs.length = some pas → s.wrote t ((pas.zip bs).filter (fun q => all || s.readByte q.1 != q.2))) ∧
    (s.viewRange i (view + off) bs.length = none → t = s) ∧ Wakes s t ∧
    t = { s with mem := t.mem, links := t.links, poisoned := t.poisoned, window := t.window, dead := t.dead, agenda := t.agenda }

/-- The fabric ports of a partition whose slot is `i`: 16 for each of its clusters, ascending (R172, R174). -/
def State.partitionPorts (s : State) (i : Nat) : List Nat := (List.range 96).filter (fun k => (s.slotOf i).clus.testBit (k / 16))

/-- A partition number and clusters that the controller may bind to slot `i` (R174, R352). -/
def State.mayBind (s : State) (i part clus : Nat) : Prop :=
  part < 65536 ∧ clus < 64 ∧ (clus = 0 ∨ (part ≠ 0xffff ∧ ∀ k, k < 6 → k ≠ i → (s.slotOf k).clus ≠ 0 →
    Nat.land (s.slotOf k).clus clus = 0 ∧ (s.slotOf k).part ≠ part ∧ (k < i ↔ lowestCluster (s.slotOf k).clus < lowestCluster clus)))

/-- The hart as the drain of its partition's reset leaves it: no report is held for it, and it no longer waits on a message (R392). -/
def Hart.unheld (h : Hart) : Hart :=
  { h with
    held := []
    status := if h.status = .stalled ∨ h.status = .msgRoom ∨ (h.status = .waiting ∧ (List.range 8).any h.fqFull = true) then .running else h.status }

/-- `t` is `s` with core (cl, core) alone changed, into `x`. -/
def State.onlyCore (s t : State) (cl core : Nat) (x : CoreInfo) : Prop :=
  ∀ c k, t.coreOf c k = if Config.cores * c + k = Config.cores * cl + core then x else s.coreOf c k

/-! ### Harts -/

/-- The hart past the instruction at which it waited. -/
def Hart.resumed (h : Hart) : Hart := { h with pc := h.pc + 4, resumeMid := false, status := .running }

/-- Every hart of the module stands once: none is vacant, all numbers differ. -/
def State.distinct (s : State) : Prop := (∀ h ∈ s.hart :: s.others, h.status ≠ .vacant) ∧ ((s.hart :: s.others).map (·.hid)).Nodup

end Sys2Proof.Machine

section

open Sys2Proof Sys2Proof.Machine

/-- R201, R202: every integer instruction and every division completes on every operand, with its value in xd and nothing else changed; x0 keeps
reading 0. -/
def Obligations.IntegerResults : Prop :=
  (∀ (s : State) (i : Instr) (d : Nat) (v : Word), intResult s.hart i = some (d, v) →
    ∃ t, exec i s = .next t ∧ WroteX s t d v (s.hart.pc + 4)) ∧
  (∀ (s : State) (i : Instr) (d a b w : Nat) (sg rem : Bool), divisionOf i = some (d, a, b, sg, w, rem) →
    ∃ t, exec i s = .next t ∧ WroteX s t d (divisionValue sg w rem (s.hart.getX a) (s.hart.getX b)) (s.hart.pc + 4))

/-- R201, R203: a transfer of control that is taken to a multiple of 4 links and jumps; a branch that is not taken goes on; a transfer that is taken
to any other target takes the trap of code 0x01 with the target, and neither xd nor the pc of the transfer is changed. -/
def Obligations.Transfers : Prop :=
  (∀ (s : State) (i : Instr) (d : Nat) (pc : Word), transferOf s.hart i = some (d, pc) → pc.toNat % 4 = 0 →
    ∃ t, exec i s = .next t ∧ WroteX s t d (s.hart.pc + 4) pc) ∧
  (∀ (s : State) (i : Instr) (o : Int), branchOf s.hart i = some (false, o) →
    ∃ t, exec i s = .next t ∧ WroteX s t 0 0 (s.hart.pc + 4)) ∧
  (∀ (s : State) (i : Instr) (d : Nat) (pc : Word), transferOf s.hart i = some (d, pc) → pc.toNat % 4 ≠ 0 → s.hart.plain →
    ∃ t, exec i s = .next t ∧ TookTrap s t 0x01 0 pc.toNat)

/-- R140, R201, R204, R205, R307, R363: a load that goes through writes its bytes, sign- or zero-extended, to xd and changes nothing else but the
translations noted; a misaligned one traps with code 0x08 and its address, and nothing is accessed. -/
def Obligations.LoadResults : Prop :=
  (∀ (s : State) (i : Instr) (d : Nat) (a : Word) (n v : Nat) (sg : Bool), loadOf s.hart i = some (d, a, n, sg) → s.hart.engine = [] →
    s.loads true a.toNat n v →
    ∃ u t, exec i s = .next t ∧ Noted s u ∧ WroteX u t d (if sg then (BitVec.ofNat (8 * n) v).signExtend 64 else BitVec.ofNat 64 v) (s.hart.pc + 4)) ∧
  (∀ (s : State) (i : Instr) (d : Nat) (a : Word) (n : Nat) (sg : Bool), loadOf s.hart i = some (d, a, n, sg) → n ≤ 8 → a.toNat % n ≠ 0 →
    s.hart.engine = [] → s.hart.plain → ∃ t, exec i s = .next t ∧ TookTrap s t 0x08 1 a.toNat)

/-- R116, R141, R201, R204, R205, R363: a base store that goes through writes the low bytes of xb to the hart's scratchpad, into the store buffer,
or to the scratchpad of a peer, and no other byte and no register is changed; a misaligned one traps with code 0x08 and its address. The capacity of
the store buffer in lines is log 23. -/
def Obligations.StoreResults : Prop :=
  (∀ (s : State) (i : Instr) (a v : Word) (n : Nat), storeOf s.hart i = some (a, n, v) → s.storable [(a.toNat, leBytes v.toNat n)] →
    ∃ u t, exec i s = .next t ∧
      Stored s u (s.ownStores [(a.toNat, leBytes v.toNat n)]) (s.physStores [(a.toNat, leBytes v.toNat n)]) ∧ WroteX u t 0 0 (s.hart.pc + 4)) ∧
  (∀ (s : State) (i : Instr) (a v : Word) (n lc off : Nat) (k : Hart), storeOf s.hart i = some (a, n, v) → s.hart.engine = [] →
    a.toNat % n = 0 → place a.toNat = .ok (.peer lc off) → s.peerTarget lc a.toNat n = some k → k.hid ≠ s.hart.hid → s.hartOf k.hid = some k →
    k.scratchOk off n = true →
    ∃ t k', exec i s = .next t ∧ t.hartOf k.hid = some k' ∧
      (∀ o, mapGet 0 k'.scratch o = if off ≤ o ∧ o < off + n then (leBytes v.toNat n).getD (o - off) 0 else mapGet 0 k.scratch o) ∧
      k' = { k with scratch := k'.scratch, links := k'.links, poison := k'.poison } ∧
      (∀ h, h ≠ k.hid → h ≠ s.hart.hid → t.hartOf h = s.hartOf h) ∧ SameBytes s t ∧
      (∀ r ∈ t.routes, r ∈ s.routes) ∧
      t = { s with others := t.others, routes := t.routes, hart := { s.hart with pc := s.hart.pc + 4, resumeMid := false } }) ∧
  (∀ (s : State) (i : Instr) (a v : Word) (n : Nat), storeOf s.hart i = some (a, n, v) → a.toNat % n ≠ 0 →
    s.hart.engine = [] → s.hart.plain → ∃ t, exec i s = .next t ∧ TookTrap s t 0x08 2 a.toNat)

/-- R178, R197, R207: a CSR instruction returns the old value in xd; the CSR takes the new value in its writable bits; a read-only CSR, and a form that
does not write, leaves it; every other CSR stands. -/
def Obligations.CsrResults : Prop :=
  ∀ (s : State) (i : Instr) (d c : Nat) (w : Bool) (v : Word), csrOf s i = some (d, c, w, v) → csrListed c →
    ∃ t, exec i s = .next t ∧ OnlyCsrs s t ∧ (∀ r, t.hart.getX r = if r = d ∧ d ≠ 0 then s.readCsr c else s.hart.getX r) ∧
      t.readCsr c = (if w = true ∧ csrMask c ≠ 0 then v &&& csrMask c else s.readCsr c) ∧ ∀ k, k ≠ c → t.readCsr k = s.readCsr k

/-- R206, R331, R363, R371: ECALL, EBREAK, an instruction that is no encoding and a fetch that faults take the trap of their code: `tepc`, `tcause`,
`tval`, `tstatus` and the pc as R331 says, and nothing else changed; in a handler such a trap writes no trap CSR, records two events in the dusk record and
cancels the hart's launch: its record, when it runs, reads as one that is being cancelled, and the cancellation of each of its harts is due. -/
def Obligations.TrapEntries : Prop :=
  (∀ (s : State) (i : Instr) (code acc v : Nat), trapOf i = some (code, acc, v) → s.hart.plain → trapPos i = 0 →
    ∃ t, exec i s = .next t ∧ TookTrap s t code acc v) ∧
  (∀ (s : State) (i : Instr) (code acc v c : Nat), trapOf i = some (code, acc, v) → s.hart.intrap = true →
    s.record s.hart.slot 0 s.hart.launchid = some (c, .running) →
    ∃ t, exec i s = .next t ∧ t.dcnt = s.dcnt + 2 ∧ t.record s.hart.slot 0 s.hart.launchid = some (c, .cancelling) ∧
      (∀ h ∈ s.harts, h.slot = s.hart.slot → h.launchid = s.hart.launchid → Instr.hartCancel h.hid ∈ t.agenda) ∧
      t.hart.tepc = s.hart.tepc ∧ t.hart.tcause = s.hart.tcause ∧ t.hart.tval = s.hart.tval ∧ t.hart.tstatus = s.hart.tstatus ∧
      t.hart.x = s.hart.x ∧ SameBytes s t)

/-- R331: TRET outside a timetabled segment takes the pc from `tepc` and `ie` from `pie` and clears `intrap` and `mid`; a target inside a convoy stays
legal while `mid` was 1. -/
def Obligations.TrapReturn : Prop :=
  ∀ s : State, s.hart.time = none → s.hart.engine = [] →
    ∃ t, exec .tret s = .next t ∧ t.hart.pc = s.hart.tepc ∧ t.hart.ie = s.hart.tstatus.getLsbD 5 ∧ t.hart.intrap = false ∧ t.hart.mid = false ∧
      t.hart.resumeMid = s.hart.mid ∧ SameBytes s t ∧
      t = { s with hart := { s.hart with pc := t.hart.pc, tstatus := t.hart.tstatus, resumeMid := t.hart.resumeMid, cur := Cursor.alone } }

/-- R95, R208, R211 to R217, R220: every scalar floating-point instruction that needs no memory completes, writes its one result with bits above the
width 0, ORs its flags into `vflags`, and changes nothing else. -/
def Obligations.ScalarFloat : Prop :=
  (∀ (s : State) (i : Instr) (d : Nat) (r : Image) (fl : BitVec 5), floatResult s.hart i = some (d, r, fl) →
    ∃ t, exec i s = .next t ∧ WroteF s t d (BitVec.ofNat 66 (r.enc % 2 ^ 64 + 2 ^ 64 * (r.tail % 4))) fl) ∧
  (∀ (s : State) (i : Instr) (d : Nat) (v : Word) (fl : BitVec 5), floatToX s.hart i = some (d, v, fl) →
    ∃ t, exec i s = .next t ∧ WroteXFlags s t d v fl)

/-- R218, R219: FLD loads an encoding with tail 0b00, FFILL an image slot of 16 bytes; FST rounds once under `vtype.mode` and stores the encoding with
its flags, FSPILL stores the image slot. -/
def Obligations.FloatMemory : Prop :=
  (∀ (s : State) (g d a : Nat) (off : Int) (v : Nat), s.hart.engine = [] →
    s.loads true (s.hart.getX a + BitVec.ofInt 64 (off * fmtBytes g)).toNat (fmtBytes g) v →
    ∃ u t, exec (.fld g d a off) s = .next t ∧ Noted s u ∧ WroteF u t d (BitVec.ofNat 66 (v % 2 ^ 64)) 0) ∧
  (∀ (s : State) (d a : Nat) (off : Int) (v : Nat), s.hart.engine = [] → s.loads true (s.hart.getX a + BitVec.ofInt 64 (off * 16)).toNat 16 v →
    ∃ u t, exec (.ffill d a off) s = .next t ∧ Noted s u ∧ WroteF u t d (BitVec.ofNat 66 v) 0) ∧
  (∀ (s : State) (g d a : Nat) (off : Int) (ws : List (Nat × List Byte)), s.hart.mode < 6 →
    ws = [((s.hart.getX a + BitVec.ofInt 64 (off * fmtBytes g)).toNat,
      leBytes (finFloat (s.hart.valF d g) g s.hart.mode s.hart.sat).1 (fmtBytes g))] → s.storable ws →
    ∃ u t, exec (.fst g d a off) s = .next t ∧ Stored s u (s.ownStores ws) (s.physStores ws) ∧
      WroteXFlags u t 0 0 (finFloat (s.hart.valF d g) g s.hart.mode s.hart.sat).2) ∧
  (∀ (s : State) (d a : Nat) (off : Int) (ws : List (Nat × List Byte)),
    ws = [((s.hart.getX a + BitVec.ofInt 64 (off * 16)).toNat, leBytes (s.hart.getF d).toNat 16)] → s.storable ws →
    ∃ u t, exec (.fspill d a off) s = .next t ∧ Stored s u (s.ownStores ws) (s.physStores ws) ∧ WroteX u t 0 0 (s.hart.pc + 4))

/-- R94, R95: rounding to odd gives back every encoding that is no NaN, with tail 0b00 and no flag, in each of the six formats. -/
def Obligations.RoundingKeepsEncodings : Prop :=
  ∀ (f e : Nat), f ≤ 5 → e < 2 ^ fmtWidth f → (decodeVal f e 0).isNan = false → roundOdd (decodeVal f e 0) f = (⟨e, 0⟩, 0)

/-- R187, R221 to R224: VSETT, VSETC, PSET and PGET complete on any operands; STRIP with a valid `vtype` takes the elements that the grant and `cap`
allow, advances the pointers of its mask by the old `vl` and leaves the rest in xd. -/
def Obligations.VectorConfiguration : Prop :=
  (∀ (s : State) (t g p k n l o f : Nat), Instr.wf (.vsett t g p k n l o f) = true →
    ∃ u, exec (.vsett t g p k n l o f) s = .next u ∧ u.hart.vl = 0 ∧ u.hart.fmt = f ∧ u.hart.pack = (if p = 1 then naturalPack f else 1) ∧
      u.hart.blen = g ∧ u.hart.sr = k ∧ u.hart.mode = o ∧ u.hart.sat = decide (t = 1) ∧ u.hart.dim2 = decide (n = 1) ∧ u.hart.cap = l ∧ SameBytes s u ∧
      u = { s with hart := { s.hart with vtype := u.hart.vtype, vl := 0, pc := s.hart.pc + 4, resumeMid := false } }) ∧
  (∀ (s : State) (a : Nat), exec (.vsetc a) s =
    .next { s with hart := { s.hart with vlc := min (s.hart.getX a).toNat 4096, pc := s.hart.pc + 4, resumeMid := false } }) ∧
  (∀ (s : State) (d a k : Nat), ∃ t, exec (.pset d a k) s = .next t ∧
    (∀ i, t.hart.getP i = if i = d then ⟨s.hart.getX a, 2 ^ k⟩ else s.hart.getP i) ∧ SameBytes s t ∧
    t = { s with hart := { s.hart with p := t.hart.p, pc := s.hart.pc + 4, resumeMid := false } }) ∧
  (∀ (s : State) (d a : Nat), ∃ t, exec (.pget d a) s = .next t ∧ WroteX s t d (s.hart.getP a).addr (s.hart.pc + 4)) ∧
  (∀ (s : State) (d p : Nat), s.hart.vtypeOk = true → ∃ t, exec (.strip d p) s = .next t ∧
    t.hart.vl = stripTake s (s.hart.getX d).toNat ∧
    (∀ r, t.hart.getX r = if r = d ∧ d ≠ 0 then BitVec.ofNat 64 ((s.hart.getX d).toNat - stripTake s (s.hart.getX d).toNat) else s.hart.getX r) ∧
    (∀ i, t.hart.getP i = stripPointer s.hart p i) ∧ SameBytes s t ∧
    t = { s with hart := { s.hart with x := t.hart.x, p := t.hart.p, vl := t.hart.vl, pc := s.hart.pc + 4, resumeMid := false } })

/-- R14, R44, R225, R226: VLOOP counts xa down, turns the rotating registers, sets m4 for the next iteration and branches while one of its masks has
an element; VBANY and VBNONE branch on the elements below `vl` of their mask and change nothing else. -/
def Obligations.LoopControl : Prop :=
  (∀ (s : State) (e a : Nat) (off : Int), e ≤ 3 → ∃ t, exec (.vloop e a off) s = .next t ∧
    (∀ r, t.hart.getX r = if r = a then BitVec.ofNat 64 ((s.hart.getX a).toNat - 1) else s.hart.getX r) ∧
    t.hart.vrot = s.hart.vrot - 1 ∧
    (∀ k, k < 4096 → t.hart.maskBit 4 k = decide (1 < (s.hart.getX a).toNat ∧ k < s.hart.vlmax)) ∧
    (∀ n, 1 ≤ n → n < 4 → t.hart.getMask n = s.hart.getMask n) ∧
    (∀ n, 5 ≤ n → n < 8 → t.hart.getMask n = s.hart.getMask (n - 1)) ∧
    t.hart.pc = (if (List.range (e + 1)).any (fun n => t.hart.anyBelow (4 + n) s.hart.vlmax) then s.hart.pc + BitVec.ofInt 64 (4 * off)
      else s.hart.pc + 4) ∧ SameBytes s t ∧
    t = { s with hart := { s.hart with
      x := t.hart.x, m := t.hart.m, vrot := t.hart.vrot, vdirty := t.hart.vdirty, poison := t.hart.poison, pc := t.hart.pc, resumeMid := false } }) ∧
  (∀ (s : State) (k : Nat) (off : Int),
    exec (.vbany k off) s = .next { s with hart := { s.hart with
      resumeMid := false,
      pc := if s.hart.anyBelow k s.hart.vl then s.hart.pc + BitVec.ofInt 64 (4 * off) else s.hart.pc + 4 } } ∧
    exec (.vbnone k off) s = .next { s with hart := { s.hart with
      resumeMid := false,
      pc := if s.hart.anyBelow k s.hart.vl then s.hart.pc + 4 else s.hart.pc + BitVec.ofInt 64 (4 * off) } })

/-- R90, R190, R244 to R248: every integer and bitwise vector instruction, in its vector, scalar, immediate and P form, completes with its operation on
every subword of every element that acts, DZ and OF raised, and nothing else changed. -/
def Obligations.VectorInteger : Prop :=
  ∀ (s : State) (i : Instr) (o : VectorOp) (mk d : Nat) (x y : Source), vectorOpOf s.hart i = some (o, mk, d, x, y) → s.hart.vtypeOk = true →
    (fmtInt s.hart.fmt = true ∨ (o.intOnly = false ∧ fmtFloat s.hart.fmt = true)) → s.hart.selects y →
    ∃ t, exec i s = .next t ∧ Elementwise s t mk d (fun e => pairwise (o.images s.hart.fmt) (s.hart.source x e) (s.hart.source y e))

/-- R90, R95, R190, R244, R249, R252, R253: every floating-point vector instruction completes with its exact result rounded to odd on every subword of
every element that acts, its flags raised, and nothing else changed. -/
def Obligations.VectorFloat : Prop :=
  (∀ (s : State) (i : Instr) (op : Image → Image → Image × BitVec 5) (mk d : Nat) (x y : Source),
    floatOpOf s.hart i = some (op, mk, d, x, y) → s.hart.vtypeOk = true → fmtFloat s.hart.fmt = true → s.hart.selects y →
    ∃ t, exec i s = .next t ∧ Elementwise s t mk d (fun e => pairwise op (s.hart.source x e) (s.hart.source y e))) ∧
  (∀ (s : State) (i : Instr) (mk d : Nat) (x y : Source),
    fusedOf s.hart i = some (mk, d, x, y) → s.hart.vtypeOk = true → fmtFloat s.hart.fmt = true → s.hart.selects y →
    ∃ t, exec i s = .next t ∧
      Elementwise s t mk d (fun e => fusedUnit s.hart.fmt (s.hart.source x e) (s.hart.source y e) (s.hart.unit d e))) ∧
  (∀ (s : State) (i : Instr) (op : Image → Image × BitVec 5) (mk d a : Nat),
    floatFnOf s.hart i = some (op, mk, d, a) → s.hart.vtypeOk = true → fmtFloat s.hart.fmt = true →
    ∃ t, exec i s = .next t ∧ Elementwise s t mk d (fun e => eachSubword op (s.hart.unit a e)))

/-- R251: VFCVT completes on every format that it accepts, with every subword of its source converted into `vtype.fmt` at every element that acts, the
flags raised, and nothing else changed; where the destination is the source itself, its elements are converted one after the other, from the lowest
up. That order is the model's (log 25). -/
def Obligations.VectorConversion : Prop :=
  ∀ (s : State) (c : Bool) (mk d a f : Nat), s.hart.vtypeOk = true → s.hart.converts f = true →
    ∃ t, exec (.vfcvt c mk d a f) s = .next t ∧
      Elementwise s t mk d (fun e => eachSubword (s.hart.convert f) (s.hart.convertedUnit f mk d a e))

/-- R45, R79, R237 to R240, R252, R262, R263, R267: every move, permutation and generator of a vector register completes, writes the slots it names from
the registers as they stood before, and changes nothing else. -/
def Obligations.VectorMoves : Prop :=
  ∀ (s : State) (i : Instr) (d : Nat) (w : Nat → Option Slot), moveOf s.hart i = some (d, w) → s.hart.vtypeOk = true →
    ∃ t, exec i s = .next t ∧ WroteV s t d w noFlag

/-- R47, R242, R243: every mask instruction completes with its bits, m0 discarding them; VPOPM, VFFS and VMVS complete with their x result. -/
def Obligations.MaskResults : Prop :=
  (∀ (s : State) (i : Instr) (d : Nat) (b : Nat → Option Bool), maskOf s.hart i = some (d, b) →
    ∃ t, exec i s = .next t ∧ WroteM s t d b noFlag) ∧
  (∀ (s : State) (i : Instr) (d : Nat) (v : Word), maskToX s.hart i = some (d, v) → ∃ t, exec i s = .next t ∧ WroteXV s t d v)

/-- R101, R189, R248, R250: every vector compare completes at pack 1 with its condition in the mask bit of every element that acts, NV for a signalling
NaN, and nothing else changed. -/
def Obligations.VectorCompares : Prop :=
  ∀ (s : State) (i : Instr) (mk d c : Nat) (x y : Source) (flt fin : Bool), compareOf s.hart i = some (mk, d, c, x, y, flt, fin) →
    s.hart.vtypeOk = true → s.hart.pack = 1 → (if flt then fmtFloat s.hart.fmt else fmtInt s.hart.fmt) = true →
    ∃ t, exec i s = .next t ∧
      WroteM s t d (fun e => if s.hart.acts mk e then some (condMet c (s.hart.orderOf flt fin (s.hart.one x e) (s.hart.one y e))) else none)
        (fun b => b = 4 ∧ flt = true ∧ ∃ e, s.hart.acts mk e = true ∧
          (((s.hart.one x e).val s.hart.fmt).sig = true ∨ ((s.hart.one y e).val s.hart.fmt).sig = true))

/-- R48, R107, R108, R255 to R257: VREDSUM, VREDTREE and VRED complete with the result of row r in element r of vd and the flags of all rows. The
model's choices: at `vl` = 0 no row is written (log 25), and with `vstart` at or beyond a nonzero `vl` VREDSUM and VREDTREE still write the initial
operand (log 56). -/
def Obligations.Reductions : Prop :=
  ∀ (s : State) (i : Instr) (d : Nat) (g : Nat → Option (Image × BitVec 5)), reduceOf s.hart i = some (d, g) → s.hart.vtypeOk = true →
    s.hart.pack = 1 → (fmtInt s.hart.fmt || fmtFloat s.hart.fmt) = true → s.hart.vl ≤ 4096 →
    ∃ t, exec i s = .next t ∧
      WroteV s t d
        (s.hart.slotsOver (fun r => decide (r < s.hart.rowCount) && (g r).isSome) (fun r => pairOf s.hart.fmt 1 (((g r).map (·.1)).toList)))
        (fun b => ∃ r v, r < s.hart.rowCount ∧ g r = some v ∧ v.2.getLsbD b = true)

/-- R48, R258: VSCAN completes with, in each element that takes part, the combination of the elements of its row that take part up to it. -/
def Obligations.Scans : Prop :=
  ∀ (s : State) (c : Bool) (mk d a o : Nat), s.hart.vtypeOk = true → s.hart.pack = 1 →
    (fmtInt s.hart.fmt = true ∨ (o < 2 ∧ fmtFloat s.hart.fmt = true)) →
    ∃ t, exec (.vscan c mk d a o) s = .next t ∧
      let upTo (e : Nat) : Option (Image × BitVec 5) :=
        inTurnOf (if o = 0 then sumOp s.hart.fmt else reduceOp s.hart.fmt o) (s.hart.parts mk a (s.hart.rowStart e) (e + 1))
      WroteV s t d
        (s.hart.slotsOver (fun e => decide (e < s.hart.vl) && s.hart.part mk e) (fun e => pairOf s.hart.fmt 1 (((upTo e).map (·.1)).toList)))
        (fun b => ∃ e v, e < s.hart.vl ∧ s.hart.part mk e = true ∧ upTo e = some v ∧ v.2.getLsbD b = true)

/-- R109, R260: VREDX adds every subword of every element that acts to the long accumulator, in order and exactly, a scaled format with the scale of its
block; LAGET writes its value rounded to odd to fd; LACLR clears it with its indicators. -/
def Obligations.LongAccumulator : Prop :=
  (∀ (s : State) (c : Bool) (mk a q : Nat), s.hart.vtypeOk = true → redxFmt s.hart.fmt = true → s.hart.engine = [] →
    (q = 0 ∨ fmtScaled s.hart.fmt = true) →
    ∃ t, exec (.vredx c mk a q) s = .next t ∧
      let es := (List.range s.hart.vl).filter (s.hart.acts mk)
      let vs := es.flatMap (fun e => (List.range s.hart.pack).map (fun k =>
        let v := ((s.hart.unit a e).getD k ⟨0, 0⟩).val s.hart.fmt
        if fmtScaled s.hart.fmt then s.hart.scaled q (e * s.hart.pack + k) v else v))
      (t.hart.long = vs.foldl (fun l v => (l.add v).1) s.hart.long) ∧
      (∀ b, t.hart.vflags.getLsbD b = true ↔ s.hart.vflags.getLsbD b = true ∨
        ∃ k, k < vs.length ∧ (((vs.take k).foldl (fun l v => (l.add v).1) s.hart.long).add (vs.getD k Val.canon)).2.getLsbD b = true) ∧
      SameBytes s t ∧
      t = { s with hart := { s.hart with long := t.hart.long, vflags := t.hart.vflags, pc := s.hart.pc + 4, vstart := 0, resumeMid := false } }) ∧
  (∀ (s : State) (c : Bool) (d f : Nat), ∃ t, exec (.laget c d f) s = .next t ∧
    (∀ r, t.hart.getF r = if r = d then (roundOdd s.hart.long.val f).1.toF else s.hart.getF r) ∧
    t.hart.vflags = s.hart.vflags ||| (roundOdd s.hart.long.val f).2 ∧ SameBytes s t ∧
    t = { s with hart := { s.hart with f := t.hart.f, vflags := t.hart.vflags, pc := s.hart.pc + 4, vstart := 0, resumeMid := false } }) ∧
  (∀ (s : State) (c : Bool), exec (.laclr c) s = .next { s with hart := { s.hart with
    long := ⟨0, false, false, false, false⟩, pc := s.hart.pc + 4, vstart := 0, resumeMid := false } })

/-- R109: while the number stays inside the 384 bits, adding finite values whose lowest bit is at or above 2^(−151) is exact: the accumulator holds the sum,
whatever the order. -/
def Obligations.LongSumIsExact : Prop :=
  ∀ (l : LongAcc) (n : Bool) (m : Nat) (e : Int), -151 ≤ e →
    let v : Int := ((if n then -(m : Int) else m) * 2 ^ (e + 151).toNat)
    0 < l.int + v + (2 : Int) ^ 383 → l.int + v < (2 : Int) ^ 383 →
    l.add (.num n m e) = ({ l with bits := BitVec.ofInt 384 (l.int + v) }, 0) ∧ (l.add (.num n m e)).1.int = l.int + v

/-- R261: SMX completes with the exponentials of the elements that act less the new maximum in vd, the new maximum, the new sum and the correction factor
in its three f registers, and nothing else changed. -/
def Obligations.Softmax : Prop :=
  ∀ (s : State) (c : Bool) (mk d a b : Nat), b + 2 < 32 → s.hart.vtypeOk = true → s.hart.fmt ≤ 3 → s.hart.pack = 1 →
    let f := s.hart.fmt
    let es := (List.range s.hart.vl).filter (s.hart.acts mk)
    let m := maxOver f (s.hart.imgF b f) (es.map (s.hart.elem a))
    let k := smxExp f (s.hart.imgF b f) m.1
    let x (e : Nat) : Image × BitVec 5 := smxExp f (s.hart.elem a e) m.1
    let p := oddResult f (mulVal ((s.hart.imgF (b + 1) f).val f) (k.1.val f))
    let q := inTurn (sumOp f) p.1 (es.map (fun e => (x e).1))
    ∃ t, exec (.smx c mk d a b) s = .next t ∧
      (∀ i, t.hart.getSlot d i = (s.hart.slotsOver (s.hart.acts mk) (fun e => pairOf f 1 [(x e).1]) i).getD (s.hart.getSlot d i)) ∧
      (∀ n i, s.hart.physV n ≠ s.hart.physV d → t.hart.getSlot n i = s.hart.getSlot n i) ∧
      (∀ r, t.hart.getF r = if r = b then m.1.toF else if r = b + 1 then q.1.toF else if r = b + 2 then k.1.toF else s.hart.getF r) ∧
      t.hart.vflags = s.hart.vflags ||| m.2 ||| k.2 ||| p.2 ||| q.2 ||| allFlags (es.map x) ∧
      t.hart.vdirty = s.hart.vdirty ||| BitVec.ofNat 64 (2 ^ s.hart.physV d) ∧ SameBytes s t ∧
      t = { s with hart := { s.hart with
        v := t.hart.v, f := t.hart.f, vdirty := t.hart.vdirty, vflags := t.hart.vflags, poison := t.hart.poison, pc := s.hart.pc + 4, vstart := 0,
        resumeMid := false } }

/-- R46, R227 to R230: every load of units whose active units go through completes, writes the bytes of each to its element with tail 0b00, and changes
nothing else. -/
def Obligations.VectorLoads : Prop :=
  ∀ (s : State) (i : Instr) (mk d : Nat) (addr v : Nat → Nat) (first : Bool), unitLoadOf s.hart i = some (mk, d, addr, first) →
    s.hart.vtypeOk = true → s.hart.engine = [] → s.fresh → (∀ e, s.hart.acts mk e = true → s.loads false (addr e) s.hart.unitBytes (v e)) →
    ∃ u t, exec i s = .next t ∧ Noted s u ∧ WroteV u t d (s.hart.slotsOver (s.hart.acts mk) (fun e => s.hart.bitsPair (v e))) noFlag

/-- R141, R227 to R230: every store of units that goes through completes, stores the final form of each active unit in ascending order, raises its flags,
and no other byte and no register is changed. -/
def Obligations.VectorStores : Prop :=
  ∀ (s : State) (i : Instr) (mk n : Nat) (addr : Nat → Nat) (ws : List (Nat × List Byte)), unitStoreOf s.hart i = some (mk, n, addr) →
    s.hart.vtypeOk = true → ws = (s.hart.actors mk).map (fun e => (addr e, leBytes (s.hart.stBits n e).1 s.hart.unitBytes)) → s.storable ws →
    ∃ u t, exec i s = .next t ∧ Stored s u (s.ownStores ws) (s.physStores ws) ∧ Finished u t (s.hart.raisedBy mk (fun e => (s.hart.stBits n e).2))

/-- R46, R231, R331: where the first active unit of a load that fails its checks is at element e, a plain load has loaded the units below it and traps
with `vstart` = e; a fault-only-first load traps only at its first active element, with nothing loaded, and else ends with `vl` = e. -/
def Obligations.VectorLoadFaults : Prop :=
  ∀ (s : State) (i : Instr) (mk d e c : Nat) (addr v : Nat → Nat) (first : Bool), unitLoadOf s.hart i = some (mk, d, addr, first) →
    s.hart.vtypeOk = true → s.hart.engine = [] → s.fresh → s.hart.plain → s.hart.acts mk e = true → s.hart.cur.lo = 0 → s.hart.vl ≤ 4096 →
    s.hart.cur.hi = 4096 →
    (∀ k, k < e → s.hart.acts mk k = true → s.loads false (addr k) s.hart.unitBytes (v k)) →
    s.check (addr e) s.hart.unitBytes s.hart.unitBytes 1 1 true = .error (.trap (.mem c 1 (addr e))) → c ≤ 0x0d →
    ∃ t, exec i s = .next t ∧
      (∀ k, t.hart.getSlot d k =
        (s.hart.slotsOver (fun x => decide (x < e) && s.hart.acts mk x) (fun x => s.hart.bitsPair (v x)) k).getD (s.hart.getSlot d k)) ∧
      SameBytes s t ∧ t.hart.x = s.hart.x ∧ t.hart.f = s.hart.f ∧ t.hart.m = s.hart.m ∧ t.mem = s.mem ∧
      (if first = true ∧ (∃ k, k < e ∧ s.hart.acts mk k = true) then t.hart.vl = e ∧ t.hart.pc = s.hart.pc + 4 ∧ t.hart.vstart = 0
        else t.hart.vl = s.hart.vl ∧ TrapRegs s t c 1 (addr e) ∧ t.hart.vstart = (if first then s.hart.vstart else BitVec.ofNat 32 e))

/-- R115, R232: VLDP loads whole words from the scratchpad of the hart or of a peer; VSTP stores the final form of its slots there. -/
def Obligations.PeerTransfers : Prop :=
  (∀ (s : State) (c : Bool) (mk d a : Nat) (w : Nat → Hart × Nat), s.hart.vtypeOk = true → s.hart.engine = [] →
    (s.hart.getP a).addr.toNat % 256 = 0 →
    (∀ i, s.hart.acts mk (s.hart.elemOf i) = true → s.peerWord (s.hart.getP a).addr.toNat i = some (w i) ∧ s.hartOf (w i).1.hid = some (w i).1 ∧
      (w i).2 + 4 ≤ 2 ^ 21 ∧ (w i).1.scratchReady (w i).2 4) →
    ∃ t, exec (.vldp c mk d a) s = .next t ∧
      WroteV s t d (fun i => if s.hart.acts mk (s.hart.elemOf i) then some ⟨BitVec.ofNat 32 ((w i).1.readScratch (w i).2 4), 0⟩ else none) noFlag) ∧
  (∀ (s : State) (c : Bool) (mk d a off : Nat), s.hart.vtypeOk = true → s.hart.engine = [] → (s.hart.getP a).addr.toNat % 256 = 0 →
    place (s.hart.getP a).addr.toNat = .ok (.own off) →
    (∀ i, s.hart.acts mk (s.hart.elemOf i) = true → off + 4 * i + 4 ≤ 2 ^ 21 ∧ s.hart.scratchOk (off + 4 * i) 4 = true) →
    ∃ u t, exec (.vstp c mk d a) s = .next t ∧
      Stored s u ((s.hart.actingSlots mk).map (fun i => (off + 4 * i, leBytes (s.hart.storedWord d i) 4))) [] ∧
      Finished u t (s.hart.raisedBy mk (fun e => (s.hart.stBits d e).2))) ∧
  (∀ (s : State) (c : Bool) (mk d a lc off : Nat) (k : Hart), s.hart.vtypeOk = true → s.hart.engine = [] → (s.hart.getP a).addr.toNat % 256 = 0 →
    place (s.hart.getP a).addr.toNat = .ok (.peer lc off) → s.hartOf k.hid = some k → k.hid ≠ s.hart.hid →
    (∀ i, s.hart.acts mk (s.hart.elemOf i) = true → s.peerTarget lc (((s.hart.getP a).addr.toNat + 4 * i) % 2 ^ 64) 4 = some k ∧
      off + 4 * i + 4 ≤ 2 ^ 21 ∧ k.scratchOk (off + 4 * i) 4 = true) →
    ∃ t k', exec (.vstp c mk d a) s = .next t ∧ t.hartOf k.hid = some k' ∧
      (∀ o, mapGet 0 k'.scratch o =
        (lastByte ((s.hart.actingSlots mk).map (fun i => (off + 4 * i, leBytes (s.hart.storedWord d i) 4))) o).getD (mapGet 0 k.scratch o)) ∧
      (∀ b, t.hart.vflags.getLsbD b = true ↔ s.hart.vflags.getLsbD b = true ∨ s.hart.raisedBy mk (fun e => (s.hart.stBits d e).2) b) ∧
      (∀ h, h ≠ k.hid → h ≠ s.hart.hid → t.hartOf h = s.hartOf h) ∧ SameBytes s t ∧
      (∀ r ∈ t.routes, r ∈ s.routes) ∧
      t = { s with
        others := t.others, routes := t.routes
        hart := { s.hart with vflags := t.hart.vflags, pc := s.hart.pc + 4, vstart := 0, resumeMid := false } })

/-- R102, R233: VSPILL stores the data word and the tail byte of every slot of its active elements; VRELOAD loads them back. -/
def Obligations.ImageBlocks : Prop :=
  (∀ (s : State) (c : Bool) (mk n a : Nat), s.hart.vtypeOk = true → s.storable (s.hart.spillStores mk n (s.hart.getP a).addr.toNat) →
    ∃ u t, exec (.vspill c mk n a) s = .next t ∧
      Stored s u (s.ownStores (s.hart.spillStores mk n (s.hart.getP a).addr.toNat)) (s.physStores (s.hart.spillStores mk n (s.hart.getP a).addr.toNat)) ∧
      Finished u t noFlag) ∧
  (∀ (s : State) (c : Bool) (mk d a : Nat) (v w : Nat → Nat), s.hart.vtypeOk = true → s.hart.engine = [] → s.fresh →
    (∀ i, s.hart.acts mk (s.hart.elemOf i) = true →
      s.loads false (((s.hart.getP a).addr.toNat + 4 * i) % 2 ^ 64) 4 (v i) ∧
      s.loads false (((s.hart.getP a).addr.toNat + 4 * (s.hart.vl * (if fmtWide s.hart.fmt then 2 else 1)) + i) % 2 ^ 64) 1 (w i)) →
    ∃ u t, exec (.vreload c mk d a) s = .next t ∧ Noted s u ∧
      WroteV u t d (fun i => if s.hart.acts mk (s.hart.elemOf i) then some ⟨BitVec.ofNat 32 (v i), BitVec.ofNat 8 (w i)⟩ else none) noFlag)

/-- R86, R234, R264: VLDT loads the codes of a densely packed format into the subwords of its active elements; VTBL replaces every subword by the entry
of a table in the hart's scratchpad that it names. -/
def Obligations.PackedAndTableLoads : Prop :=
  (∀ (s : State) (c : Bool) (mk d a f : Nat) (bv : Nat → Nat), s.hart.vtypeOk = true → s.hart.fmt = f → (f = 6 ∨ f = 7 ∨ f = 8 ∨ f = 12) →
    s.hart.engine = [] → s.fresh →
    (∀ e k, s.hart.acts mk e = true → k < s.hart.pack → ∀ b ∈ denseBytes f (s.hart.getP a).addr.toNat (e * s.hart.pack + k),
      bv b < 256 ∧ s.loads false (b % 2 ^ 64) 1 (bv b)) →
    ∃ u t, exec (.vldt c mk d a f) s = .next t ∧ Noted s u ∧
      Elementwise u t mk d (fun e => ((List.range s.hart.pack).map (fun k =>
        (⟨denseCode bv f (s.hart.getP a).addr.toNat (e * s.hart.pack + k), 0⟩ : Image)), 0))) ∧
  (∀ (s : State) (c : Bool) (mk d a b off n : Nat), s.hart.vtypeOk = true → fmtInt s.hart.fmt = true → fmtWide s.hart.fmt = false →
    n = fmtWidth s.hart.fmt / 8 → s.hart.engine = [] → place (s.hart.getX b).toNat = .ok (.own off) → off % n = 0 →
    (∀ e, s.hart.acts mk e = true → ∀ i ∈ s.hart.unit a e, off + (i.enc + 1) * n ≤ 2 ^ 21 ∧ s.hart.scratchReady (off + i.enc * n) n) →
    ∃ t, exec (.vtbl c mk d a b) s = .next t ∧
      Elementwise s t mk d (fun e => ((s.hart.unit a e).map (fun i => ⟨s.hart.readScratch (off + i.enc * n) n, 0⟩), 0)))

/-- R265 to R267, R270 to R273, R374: GFROMV takes the topology bits of its slots; TUP and TDOWN combine the values of their forest step by step,
write their active elements, and raise NV for every element that never comes to a root, the flags of its combinations for every other. The flags of
a forest with a cycle are read as log 25 says. -/
def Obligations.TreeSweeps : Prop :=
  (∀ (s : State) (c : Bool) (mk d a : Nat), d < 8 → s.hart.vtypeOk = true → s.hart.pack = 1 → fmtWide s.hart.fmt = false →
    ∃ t, exec (.gfromv c mk d a) s = .next t ∧
      WroteG s t d (fun e => if s.hart.acts mk e then some ((s.hart.getSlot a e).data.setWidth 16 &&& 0xcfff) else none) noFlag) ∧
  (∀ (s : State) (i : Instr) (o mk d a g : Nat) (down : Bool), sweepOf i = some (o, mk, d, a, g, down) → s.doubles →
    (fmtInt s.hart.fmt || fmtFloat s.hart.fmt) = true →
    let l := stepsFor s.hart.vl
    let r (e : Nat) : Option Image × BitVec 5 := if down then s.hart.downAt o mk a g l e else s.hart.upAt o mk a g l e
    ∃ t, exec i s = .next t ∧
      WroteV s.noTree t d (fun e => if e < s.hart.vl ∧ s.hart.maskBit mk e = true then some (pairOf s.hart.fmt 1 (r e).1.toList).1 else none)
        (fun b => ∃ e, e < s.hart.vl ∧ if (s.hart.jumps g l e).isSome then b = 4 else (r e).2.getLsbD b = true))

/-- R266, R270 to R272, R274, R276: the doubling instructions mean what the forest says: TCHECK marks exactly the elements that never come to a root; for every
element that comes to one, TDEPTH counts its links to it, TANC and TISANC find its ancestor so many links up, TBCAST takes the value of the nearest active
one of it and its ancestors, and TCONTRACT keeps the elements of its mask, each linked to its nearest kept proper ancestor. Each of the eight stops
before any of its steps with its working state held, `tws` set and `vstart` naming the step, and resumed from there ends as if it had not stopped. -/
def Obligations.TreeMeanings : Prop :=
  (∀ (s : State) (c : Bool) (d g : Nat), s.doubles → s.hart.vl ≤ 4096 → ∃ t, exec (.tcheck c d g) s = .next t ∧
    ∃ b, WroteM s.noTree t d b noFlag ∧ ∀ e, (b e = some true ↔ e < s.hart.vl ∧ s.hart.loops g e) ∧ ((b e).isSome = true ↔ e < s.hart.vl)) ∧
  (∀ (s : State) (c : Bool) (mk d g : Nat), s.doubles → ∃ t w raised, exec (.tdepth c mk d g) s = .next t ∧ WroteV s.noTree t d w raised ∧
    (∀ e, (w e).isSome = true ↔ e < s.hart.vl ∧ s.hart.maskBit mk e = true) ∧
    (∀ b, raised b ↔ b = 4 ∧ ∃ e, e < s.hart.vl ∧ s.hart.loops g e) ∧
    ∀ e n, (w e).isSome = true → s.hart.climbs g n e ≠ none → s.hart.climbs g (n + 1) e = none → w e = some ⟨BitVec.ofNat 32 n, 0⟩) ∧
  (∀ (s : State) (c : Bool) (mk d a g : Nat), s.doubles → ∃ t w raised, exec (.tanc c mk d a g) s = .next t ∧ WroteV s.noTree t d w raised ∧
    (∀ e, (w e).isSome = true ↔ e < s.hart.vl ∧ s.hart.maskBit mk e = true) ∧
    ∀ e, (w e).isSome = true → ¬ s.hart.loops g e →
      w e = some ⟨match s.hart.climbs g (s.hart.getSlot a e).data.toNat e with
        | some p => BitVec.ofNat 32 p
        | none => BitVec.allOnes 32, 0⟩) ∧
  (∀ (s : State) (c : Bool) (mk d a g : Nat), s.doubles → s.hart.vl ≤ 4096 → ∃ t b raised, exec (.tisanc c mk d a g) s = .next t ∧
    WroteM s.noTree t d b raised ∧ (∀ e, (b e).isSome = true ↔ e < s.hart.vl ∧ s.hart.maskBit mk e = true) ∧
    ∀ e, (b e).isSome = true → ¬ s.hart.loops g e →
      (b e = some true ↔ s.hart.climbs g ((s.hart.getSlot a e).data.toNat / 65536) e = some ((s.hart.getSlot a e).data.toNat % 4096))) ∧
  (∀ (s : State) (c : Bool) (mk d a g : Nat), s.doubles → ∃ t w raised, exec (.tbcast c mk d a g) s = .next t ∧ WroteV s.noTree t d w raised ∧
    (∀ e, s.hart.vl ≤ e → w e = none) ∧ ∀ e, e < s.hart.vl → ¬ s.hart.loops g e →
      (∀ n p, s.hart.climbs g n e = some p → s.hart.maskBit mk p = true →
        (∀ m q, m < n → s.hart.climbs g m e = some q → s.hart.maskBit mk q = false) → w e = some (pairOf s.hart.fmt 1 [s.hart.elem a p]).1) ∧
      ((∀ n p, s.hart.climbs g n e = some p → s.hart.maskBit mk p = false) → w e = none)) ∧
  (∀ (s : State) (c : Bool) (d g mk : Nat), d < 8 → s.doubles → s.hart.vl ≤ 4096 → ∃ t w raised, exec (.tcontract c d g mk) s = .next t ∧
    WroteG s.noTree t d w raised ∧ (∀ e, (w e).isSome = true ↔ e < s.hart.vl) ∧
    (∀ e, e < s.hart.vl → (s.hart.maskBit mk e = false ∨ s.hart.loops g e) → w e = some 0x8000) ∧
    (∀ e n p, e < s.hart.vl → s.hart.maskBit mk e = true → ¬ s.hart.loops g e → 1 ≤ n → s.hart.climbs g n e = some p → s.hart.maskBit mk p = true →
      (∀ m q, 1 ≤ m → m < n → s.hart.climbs g m e = some q → s.hart.maskBit mk q = false) → w e = some (BitVec.ofNat 16 p)) ∧
    (∀ e n p, e < s.hart.vl → s.hart.maskBit mk e = true → s.hart.climbs g n e = some p → s.hart.link g p = none →
      (∀ m q, 1 ≤ m → s.hart.climbs g m e = some q → s.hart.maskBit mk q = false) →
      w e = some (if (s.hart.getG g p).getLsbD 15 = false ∧ (s.hart.getG g p).getLsbD 14 = true then 0x4000 ||| (s.hart.getG g p &&& 0x0fff) else 0x8000))) ∧
  (∀ (s : State) (i : Instr) (k : Nat), isDoubling i = true → s.doubles → s.hart.vl ≤ 4096 →
    (combines i = true → (fmtInt s.hart.fmt || fmtFloat s.hart.fmt) = true) → 0 < k → k < stepsFor s.hart.vl →
    ∃ u, exec i (s.stopping k) = .next u ∧
      u = { s.stopping k with hart := { (s.stopping k).hart with
        tree := u.hart.tree, vdirty := s.hart.vdirty ||| BitVec.ofNat 64 (2 ^ 56), vstart := BitVec.ofNat 32 (4096 * k) } } ∧
      exec i (u.stopping 0) = exec i s)

/-- R124, R278, R280, R281: TIDSET takes an entry that R124 accepts, and traps on one that it refuses; TIDGET stores an entry; QSET writes eight scales;
WSET declares a window, or none. The model's choices in what is refused: `sbase` is looked at for scaled formats only (log 58), and a scale block
length above 10 is refused (log 27). -/
def Obligations.TileRegisters : Prop :=
  (∀ (s : State) (c : Bool) (t a : Nat) (w : Nat → Nat) (e : BitVec 512), s.hart.engine = [] → (s.hart.getX a).toNat % 8 = 0 →
    (∀ k, k < 8 → w k < 2 ^ 64 ∧ s.loads true (((s.hart.getX a).toNat + 8 * k) % 2 ^ 64) 8 (w k)) →
    e = BitVec.ofNat 512 (((List.range 8).map (fun k => w k * 2 ^ (64 * k))).sum) →
    (entryRefused e = false → ∃ u v, exec (.tidset c t a) s = .next v ∧ Noted s u ∧ v.hart.getTid t = e ∧
      (∀ k, k ≠ t → v.hart.getTid k = s.hart.getTid k) ∧ SameBytes s v ∧
      v = { u with hart := { u.hart with
        tid := v.hart.tid, poison := v.hart.poison, pc := s.hart.pc + 4, vstart := 0, resumeMid := false } }) ∧
    (entryRefused e = true → s.hart.plain → ∃ v, exec (.tidset c t a) s = .next v ∧ TookTrap s v 0x0e 0 (s.hart.getX a).toNat)) ∧
  (∀ (s : State) (c : Bool) (t a : Nat) (ws : List (Nat × List Byte)), (s.hart.getX a).toNat % 8 = 0 →
    ws = (List.range 8).map (fun k => (((s.hart.getX a).toNat + 8 * k) % 2 ^ 64, leBytes ((s.hart.getTid t).toNat / 2 ^ (64 * k)) 8)) → s.storable ws →
    ∃ u v, exec (.tidget c t a) s = .next v ∧ Stored s u (s.ownStores ws) (s.physStores ws) ∧ Finished u v noFlag) ∧
  (∀ (s : State) (c : Bool) (d a b : Nat), s.hart.engine = [] → ∃ t, exec (.qset c d a b) s = .next t ∧
    (∀ i, i < 8 → t.hart.getQ d (((s.hart.getX a).toNat + i) % 512) = ((s.hart.getX b) >>> (8 * i)).setWidth 8) ∧
    (∀ n j, j < 512 → (n = d → ∀ i, i < 8 → ((s.hart.getX a).toNat + i) % 512 ≠ j) → t.hart.getQ n j = s.hart.getQ n j) ∧ SameBytes s t ∧
    t = { s with hart := { s.hart with q := t.hart.q, poison := t.hart.poison, pc := s.hart.pc + 4, vstart := 0, resumeMid := false } }) ∧
  (∀ (s : State) (c : Bool) (d a b : Nat), (d < 4 ∨ (16 ≤ d ∧ d < 24)) → s.hart.engine = [] → chkWset d a b s = none →
    ∃ t, exec (.wset c d a b) s = .next t ∧
      t.hart.window d = (if s.hart.getX b = 0 then ⟨0, 0, 0, 0⟩ else ⟨(s.hart.getX a).toNat, (s.hart.getX b).toNat, 0, 0⟩) ∧
      (∀ k, (k < 4 ∨ (16 ≤ k ∧ k < 24)) → k ≠ d → t.hart.window k = s.hart.window k) ∧ SameBytes s t ∧
      t = { s with hart := { s.hart with fq := t.hart.fq, sw := t.hart.sw, pc := s.hart.pc + 4, vstart := 0, resumeMid := false } })

/-- R118, R235, R279, R282 to R286: TLD, TST, BCOPY, QLD and TDIGEST complete at issue: the operation, with its operands, its entry and its `vtype` fields as
captured, joins the hart's outstanding operations, its turn is due, and no byte and no register is changed. -/
def Obligations.EngineIssues : Prop :=
  ∀ (s : State) (i : Instr) (o : EngineOp), engineOf s i = some o → exec i s = .next (s.issued o)

/-- R104, R297, R298: ACLR zeroes an accumulator; AWRV writes the cells that its subwords name, ARDV reads them rounded to odd; ASAVE stores the image of
all cells, ARESTORE loads it. -/
def Obligations.TileCells : Prop :=
  (∀ (s : State) (c : Bool) (d : Nat), d < s.hart.tiles → d < 8 → s.hart.engine = [] → mapWf AccCell.zero s.hart.acc = true →
    ∃ t, exec (.aclr c d) s = .next t ∧ WroteAcc s t d (fun _ => some ⟨Slot.zero, Slot.zero⟩) noFlag) ∧
  (∀ (s : State) (c : Bool) (mk d a b : Nat), s.hart.tileVec d → s.hart.engine = [] → s.hart.vl * s.hart.pack ≤ 4096 →
    ∃ t w raised, exec (.awrv c mk d a b) s = .next t ∧ WroteAcc s t d w raised ∧
      (∀ e k, s.hart.acts mk e = true → k < s.hart.pack →
        w (((s.hart.getX b).toNat + e * s.hart.pack + k) % 4096) = some (s.hart.cellFrom ((s.hart.unit a e).getD k ⟨0, 0⟩)).1) ∧
      (∀ n, (∀ e k, s.hart.acts mk e = true → k < s.hart.pack → ((s.hart.getX b).toNat + e * s.hart.pack + k) % 4096 ≠ n) → w n = none) ∧
      ∀ i, raised i ↔ ∃ e k, s.hart.acts mk e = true ∧ k < s.hart.pack ∧ (s.hart.cellFrom ((s.hart.unit a e).getD k ⟨0, 0⟩)).2.getLsbD i = true) ∧
  (∀ (s : State) (c : Bool) (mk d a b : Nat), s.hart.tileVec a →
    ∃ t, exec (.ardv c mk d a b) s = .next t ∧
      Elementwise s t mk d (fun e => eachSubword (fun k => s.hart.cellTo (s.hart.getAcc a (((s.hart.getX b).toNat + e * s.hart.pack + k.enc) % 4096)))
        ((List.range s.hart.pack).map (fun k => ⟨k, 0⟩)))) ∧
  (∀ (s : State) (c : Bool) (d a : Nat), d < s.hart.tiles → (s.hart.getP a).addr.toNat % tileAlign (s.hart.getP a).addr.toNat = 0 →
    s.storable (s.hart.tileStores d (s.hart.getP a).addr.toNat) →
    ∃ u t, exec (.asave c d a) s = .next t ∧
      Stored s u (s.ownStores (s.hart.tileStores d (s.hart.getP a).addr.toNat)) (s.physStores (s.hart.tileStores d (s.hart.getP a).addr.toNat)) ∧
      Finished u t noFlag) ∧
  (∀ (s : State) (c : Bool) (d a : Nat) (v w : Nat → Nat), d < s.hart.tiles → d < 8 → s.hart.engine = [] →
    (s.hart.getP a).addr.toNat % tileAlign (s.hart.getP a).addr.toNat = 0 →
    (∀ i, i < 8192 → s.loads false (((s.hart.getP a).addr.toNat + 4 * i) % 2 ^ 64) 4 (v i) ∧
      s.loads false (((s.hart.getP a).addr.toNat + 32768 + i) % 2 ^ 64) 1 (w i)) →
    ∃ u t, exec (.arestore c d a) s = .next t ∧ Noted s u ∧
      WroteAcc u t d (fun k => if k < 4096 then some ⟨⟨BitVec.ofNat 32 (v (2 * k)), BitVec.ofNat 8 (w (2 * k))⟩,
        ⟨BitVec.ofNat 32 (v (2 * k + 1)), BitVec.ofNat 8 (w (2 * k + 1))⟩⟩ else none) noFlag)

/-- R104 to R106, R119, R290 to R292: OPA on registers or queues updates every cell by its K-groups in ascending order, advances the queues, and changes
nothing else. -/
def Obligations.OuterProducts : Prop :=
  ∀ (s : State) (c : Bool) (mk d a b y x : Nat), y ≤ 1 → x ≤ 1 → s.multiplies d (opaQueues a b x y) →
    (∀ q ∈ opaQueues a b x y, s.hart.queued q (slotsTaken s.hart.vl q a b x y)) →
    let pa := (s.hart.getFq a).used
    let pb := (s.hart.getFq b).used + (if x = 1 ∧ y = 1 ∧ a = b then s.hart.vl else 0)
    let r (i j : Nat) : AccCell × BitVec 5 := s.hart.groupsTo d mk a b (decide (x = 1)) (decide (y = 1)) pa pb i j (s.hart.vl / 64)
    s.hart.opaPoison d mk (decide (x = 1)) (decide (y = 1)) pa pb = none →
    ∃ u t, exec (.opa c mk d a b y x) s = .next t ∧
      (∀ q, u.hart.getFq q = { s.hart.getFq q with used := (s.hart.getFq q).used + slotsTaken s.hart.vl q a b x y }) ∧
      u = { s with hart := { s.hart with fq := u.hart.fq } } ∧
      WroteAcc u t d (fun n => if n < 4096 then some (r (n / 64) (n % 64)).1 else none)
        (fun k => ∃ i j, i < 64 ∧ j < 64 ∧ (r i j).2.getLsbD k = true)

/-- R294 to R296: TMM with no `seqstate` is xa OPA steps on its two queues, one after the other, with `seqstate` 0 at the end; stopped between two steps
it leaves `seqstate` as R295 lays it out, and resumed from there it ends as if it had not stopped. -/
def Obligations.MatrixMultiplies : Prop :=
  ∀ (s : State) (c : Bool) (d a q p : Nat), s.multiplies d [p, q] → p < 4 → q < 4 → s.hart.seqstate.getLsbD 63 = false →
    s.hart.cur.stop = 0 → (s.hart.getX a).toNat < 2 ^ 24 → (∀ k ∈ s.hart.poison, k.kind ≠ 2 ∧ k.kind ≠ 3 ∧ k.kind ≠ 5) →
    (∀ k, (k = p ∨ k = q) → (s.hart.getFq k).used + (s.hart.getX a).toNat * slotsTaken s.hart.vl k p q 1 1 ≤ (s.hart.getFq k).fill) →
    ∃ (l : Nat → State) (t : State), l 0 = s ∧
      (∀ k, k < (s.hart.getX a).toNat → ∃ u, exec (.opa c 0 d p q 1 1) (l k) = .next u ∧
        l (k + 1) = { u with hart := { u.hart with pc := s.hart.pc, resumeMid := s.hart.resumeMid } }) ∧
      exec (.tmm c d a q p) s = .next t ∧
      t = { l (s.hart.getX a).toNat with hart := { (l (s.hart.getX a).toNat).hart with
        seqstate := 0, pc := s.hart.pc + 4, vstart := 0, resumeMid := false } } ∧
      ∀ n, 0 < n → n < (s.hart.getX a).toNat → ∃ u, exec (.tmm c d a q p) (s.stopping n) = .next u ∧
        u = State.stopping { l n with hart := { (l n).hart with
          seqstate := seqWord p q d n ((l n).hart.getFq p).used ((l n).hart.getFq q).used } } n ∧
        exec (.tmm c d a q p) (u.stopping 0) = .next t

/-- R147, R300, R306, R307: an AMOX, on integers or floating point (AMOX.FADD), that goes through writes the old value to xd, sign-extended, performs its
operation at the target and, with a release, drains the store buffer first; STRL performs its store after the drain. The model's choice: of the integer
forms only min and max read `vtype` (log 24). LDAQ stands in `Obligations.LoadResults`. -/
def Obligations.ScalarAtomics : Prop :=
  (∀ (s : State) (i : Instr) (o d a w y n f : Nat) (tg : Bool × Nat), amoxOf i = some (o, d, a, w, y) → n = (if w = 1 then 4 else 8) →
    f = s.hart.amoxFmt o w → chkAmox o s = none → s.hart.engine = [] → mapWf 0 s.claims = true →
    s.atomicAt' (s.hart.getX a).toNat n 2 tg →
    let old := readView s.view tg.1 tg.2 n
    let r := atomicVal o f s.hart.mode s.hart.sat old ⟨(s.hart.getX d).toNat % 2 ^ (8 * n), 0⟩
    ∃ u t, exec i s = .next t ∧
      Viewed s u (writeView s.view tg.1 tg.2 n r.1) (fun b => tg.1 = false ∧ tg.2 ≤ b ∧ b < tg.2 + n) ∧ OnlyWaits s u ∧ u = s.memoryOf u ∧
      (isRelease y = true → u.hart.wcb = [] ∧ u.hart.wcbAge = []) ∧
      WroteXFlags u t d ((BitVec.ofNat (8 * n) old).signExtend 64) r.2 ∧
      (fmtFloat f = false → r = (atomicInt o (fmtSigned f) n old ((s.hart.getX d).toNat % 2 ^ (8 * n)), 0))) ∧
  (∀ (s : State) (d a w y : Nat) (tg : Bool × Nat), w ≤ 3 → s.hart.engine = [] → mapWf 0 s.claims = true →
    s.storeTarget (s.hart.getX a).toNat = some tg → (s.hart.getX a).toNat % 2 ^ w = 0 →
    (if tg.1 then s.hart.scratchOk tg.2 (2 ^ w) = true else s.raceAt s.hart.hid (upFrom tg.2 (2 ^ w)) = none) →
    ∃ u t, exec (.strl d a w y) s = .next t ∧
      Viewed s u (writeView s.view tg.1 tg.2 (2 ^ w) (s.hart.getX d).toNat)
        (fun b => s.holdsLine b ∨ (tg.1 = false ∧ tg.2 ≤ b ∧ b < tg.2 + 2 ^ w)) ∧ OnlyWaits s u ∧ u = s.memoryOf u ∧
      u.hart.wcb = [] ∧ u.hart.wcbAge = [] ∧ WroteX u t 0 0 (s.hart.pc + 4))

/-- R147, R184, R299 to R301, R304: VAMO performs its units one after the other and returns their old values; FAS adds the sum of its active increments once
and gives each element the old value plus the increments below it; with vd = vb, whose elements are written before they are read, every increment is
the value just written. -/
def Obligations.VectorAtomics : Prop :=
  (∀ (s : State) (i : Instr) (o mk d b y p : Nat) (c : Bool) (tg : Nat → Bool × Nat), vamoOf i = some (o, c, mk, d, b, y, p) →
    s.hart.vtypeOk = true → s.hart.pack = 1 → atomicFmt o s.hart.fmt = true → (o = 1 → s.strict = false) → s.hart.engine = [] → s.fresh →
    mapWf 0 s.claims = true → s.sided c ((s.hart.actors mk).map (s.hart.indexedAddr p b)) →
    (∀ e, s.hart.acts mk e = true → s.atomicAt' (s.hart.indexedAddr p b e) s.hart.unitBytes 2 (tg e)) →
    s.tablesApart (fun a => s.peek a ≠ s.readByte a ∨ ∃ e, s.hart.acts mk e = true ∧ (tg e).1 = false ∧ (tg e).2 ≤ a ∧ a < (tg e).2 + s.hart.unitBytes) →
    let val (e old : Nat) : Nat × BitVec 5 := atomicVal o s.hart.fmt s.hart.mode s.hart.sat old (s.hart.elem d e)
    let r := rmwRun s.hart.unitBytes tg (fun e old => (val e old).1) (s.hart.actors mk) s.view
    ∃ u t, exec i s = .next t ∧
      Viewed s u r.1 (fun a => ∃ e, s.hart.acts mk e = true ∧ (tg e).1 = false ∧ (tg e).2 ≤ a ∧ a < (tg e).2 + s.hart.unitBytes) ∧
      OnlyWaits s u ∧ u = s.memoryOf u ∧
      WroteV u t d (s.hart.slotsOver (s.hart.acts mk) (fun e => s.hart.bitsPair (oldOf r.2 e)))
        (s.hart.raisedBy mk (fun e => (val e (oldOf r.2 e)).2))) ∧
  (∀ (s : State) (mk d b y p : Nat) (c : Bool) (tg : Bool × Nat), s.hart.vtypeOk = true → s.hart.pack = 1 →
    (s.hart.fmt = 18 ∨ s.hart.fmt = 19 ∨ s.hart.fmt = 22 ∨ s.hart.fmt = 23) → s.hart.engine = [] → mapWf 0 s.claims = true →
    ((s.hart.getP p).addr.toNat < 0xffffffffe0000000 → c = true ∧ s.hart.cur.size ≤ 1) →
    s.atomicAt' (s.hart.getP p).addr.toNat s.hart.unitBytes 2 tg →
    let es := (List.range s.hart.vl).filter (s.hart.maskBit mk)
    let w := fmtWidth s.hart.fmt
    let old := readView s.view tg.1 tg.2 s.hart.unitBytes
    let lower (e : Nat) : List Nat := es.filter (fun k => decide (k < e))
    let after (ks : List Nat) : Nat :=
      (if s.hart.physV d = s.hart.physV b then old * 2 ^ ks.length else old + (ks.map (s.hart.unitBits b)).sum) % 2 ^ w
    es ≠ [] →
    ∃ u t, exec (.fas c mk d b y p) s = .next t ∧
      Viewed s u (writeView s.view tg.1 tg.2 s.hart.unitBytes (after es))
        (fun a => tg.1 = false ∧ tg.2 ≤ a ∧ a < tg.2 + s.hart.unitBytes) ∧ OnlyWaits s u ∧ u = s.memoryOf u ∧
      WroteV u t d (s.hart.slotsOver (fun e => decide (e < s.hart.vl) && s.hart.maskBit mk e) (fun e => s.hart.bitsPair (after (lower e)))) noFlag)

/-- R300, R302, R303, R305: VGL loads its units, drops the links the hart held and links the words and lines of its units; VSC stores the active
units whose links are intact, the highest of those that name one word, gives every other active element mask bit 1, and drops the links; an ordered
atomic of a gang launch records its active units, in order, with their operands, and accesses no memory. Permissions and claims are read as logs 24
and 47 say. -/
def Obligations.LinkedAndOrderedAtomics : Prop :=
  (∀ (s : State) (c : Bool) (mk d b y p : Nat) (tg : Nat → Bool × Nat), s.hart.vtypeOk = true → s.hart.engine = [] → s.fresh → mapWf 0 s.claims = true →
    s.hart.cur.lo = 0 → s.sided c ((s.hart.actors mk).map (s.hart.indexedAddr p b)) →
    (∀ e, s.hart.acts mk e = true → s.atomicAt' (s.hart.indexedAddr p b e) s.hart.unitBytes 1 (tg e)) →
    s.tablesApart (fun a => s.peek a ≠ s.readByte a) → s.links.length + s.hart.vl < Config.sliceEntries →
    ∃ u t, exec (.vgl c mk d b y p) s = .next t ∧
      Viewed s u s.view (fun a => ∃ e, s.hart.acts mk e = true ∧ (tg e).1 = false ∧ (tg e).2 ≤ a ∧ a < (tg e).2 + s.hart.unitBytes) ∧
      OnlyWaits s u ∧ u = s.memoryOf u ∧
      (∀ e, s.hart.acts mk e = true → if (tg e).1 then ∀ k, k < s.hart.unitBytes → ((tg e).2 + k) / 4 ∈ u.hart.links
        else (s.hart.hid, lineOf (tg e).2) ∈ u.links) ∧
      (∀ w ∈ u.hart.links, ∃ e, s.hart.acts mk e = true ∧ (tg e).1 = true ∧ (tg e).2 / 4 ≤ w ∧ w ≤ ((tg e).2 + s.hart.unitBytes - 1) / 4) ∧
      WroteV u t d (s.hart.slotsOver (s.hart.acts mk) (fun e => s.hart.bitsPair (readView s.view (tg e).1 (tg e).2 s.hart.unitBytes))) noFlag) ∧
  (∀ (s : State) (c : Bool) (mk n b y p : Nat) (tg : Nat → Bool × Nat), s.hart.vtypeOk = true → s.hart.engine = [] → s.fresh → s.hart.wcbAge = [] →
    s.hart.wcb = [] → s.hart.cur.lo = 0 → s.hart.vl ≤ s.hart.cur.hi → s.sided c ((s.hart.actors mk).map (s.hart.indexedAddr p b)) →
    (∀ e, s.hart.acts mk e = true → s.atomicAt' (s.hart.indexedAddr p b e) s.hart.unitBytes 2 (tg e)) →
    s.tablesApart (fun a => ∃ e, s.hart.acts mk e = true ∧ (tg e).1 = false ∧ (tg e).2 ≤ a ∧ a < (tg e).2 + s.hart.unitBytes) →
    let tried (e : Nat) : Bool := (s.hart.actors mk).all (fun k => decide (k ≤ e) || decide (((tg k).1, (tg k).2 / 4) ≠ ((tg e).1, (tg e).2 / 4)))
    let held (e : Nat) : Bool := if (tg e).1 then (List.range s.hart.unitBytes).all (fun k => s.hart.links.contains (((tg e).2 + k) / 4))
      else s.links.contains (s.hart.hid, lineOf (tg e).2)
    let won := (s.hart.actors mk).filter (fun e => tried e && held e)
    ∃ u t, exec (.vsc c mk n b y p) s = .next t ∧
      Viewed s u (won.foldl (fun v e => writeView v (tg e).1 (tg e).2 s.hart.unitBytes (s.hart.stBits n e).1) s.view) (fun _ => True) ∧
      OnlyWaits s u ∧ u = s.memoryOf u ∧ u.hart.links = [] ∧ (∀ l ∈ u.links, l.1 ≠ s.hart.hid) ∧
      WroteM u t mk (fun e => if s.hart.acts mk e then some (!(tried e && held e)) else none)
        (fun k => ∃ e ∈ won, (s.hart.stBits n e).2.getLsbD k = true)) ∧
  (∀ (s : State) (i : Instr) (o mk n b p : Nat) (pa : Nat → Nat), vamooOf i = some (o, mk, n, b, p) → s.hart.vtypeOk = true → s.hart.pack = 1 →
    atomicFmt o s.hart.fmt = true → s.inGang s.hart = true → s.hart.pending.length + (s.hart.actors mk).length ≤ 4096 → s.fresh →
    (∀ e, s.hart.acts mk e = true → s.hart.indexedAddr p b e % s.hart.unitBytes = 0 ∧
      place (s.hart.indexedAddr p b e) = .ok (.virt (s.hart.indexedAddr p b e)) ∧
      ∃ leaf, s.translate s.hart.slot (s.hart.indexedAddr p b e) 2 = .ok (pa e, leaf)) →
    ∃ u t, exec i s = .next t ∧ Noted s u ∧
      t = { u with hart := { u.hart with
        pending := s.hart.pending ++ (s.hart.actors mk).map (fun e => (⟨pa e, s.hart.indexedAddr p b e, o, (s.hart.elem n e).enc, (s.hart.elem n e).tail,
          s.hart.fmt, s.hart.mode, s.hart.sat⟩ : PendingAtomic))
        pc := s.hart.pc + 4, vstart := 0, resumeMid := false } })

/-- R135, R142, R146, R148, R158, R206, R308 to R310: FENCE only goes on; FENCEV and FENCEL drain the store buffer, FENCEV drops the cached route blocks;
the collective FENCEV and BAR of a gang launch also wait, the arrival of their hart recorded. -/
def Obligations.Fences : Prop :=
  (∀ (s : State) (d a f p w : Nat), exec (.fence d a f p w) s = .next { s with hart := { s.hart with pc := s.hart.pc + 4, resumeMid := false } }) ∧
  (∀ (s : State) (w : Nat), s.hart.engine = [] → mapWf 0 s.claims = true → ∃ u t, exec (.fencev w) s = .next t ∧ Drained s u ∧ u = s.memoryOf u ∧
    t = { u with
      routes := u.routes.filter (fun r => decide (r.core ≠ s.coreKey)), hart := { u.hart with pc := s.hart.pc + 4, resumeMid := false } }) ∧
  (∀ (s : State), (s.hart.engine = [] ∨ s.hart.intrap = true ∧ ∃ o r, s.hart.engine = o :: r ∧ o.fault.isSome = true) → mapWf 0 s.claims = true → ∃ u t, exec .fencel s = .next t ∧ Drained s u ∧ u = s.memoryOf u ∧
    t = { u with hart := { u.hart with pc := s.hart.pc + 4, resumeMid := false } }) ∧
  (∀ (s : State) (w : Nat) (k : Launch), s.hart.engine = [] → mapWf 0 s.claims = true → s.inGang s.hart = true → 2 ≤ w →
    s.launchAt s.hart.slot s.hart.launchid = some k → s.hart.slot < s.slots.length →
    ∃ u t k', exec (.fencevColl w) s = .next t ∧ Drained s u ∧ u = s.memoryOf u ∧ t.launchAt s.hart.slot s.hart.launchid = some k' ∧
      k' = { k with coll := k'.coll } ∧ (∀ n, n ∈ k'.coll ↔ n ∈ k.coll ∨ n = s.hart.lcore) ∧
      t.hart = { u.hart with status := .atColl } ∧ t.routes = u.routes.filter (fun r => decide (r.core ≠ s.coreKey)) ∧
      t.agenda = u.agenda ++ (if k'.coll.length = k'.live ∧ 0 < k'.live then [.collectiveDrain s.hart.slot s.hart.launchid] else []) ∧
      t = { u with hart := t.hart, routes := t.routes, slots := t.slots, agenda := t.agenda }) ∧
  (∀ (s : State) (a : Nat) (k : Launch), s.inGang s.hart = true → s.hart.inSegment = false → (s.hart.getX a).toNat ≤ 15 →
    (∀ o ∈ s.hart.engine, s.hart.atScratch o = false) → s.launchAt s.hart.slot s.hart.launchid = some k → s.hart.slot < s.slots.length →
    ∃ t k', exec (.bar a) s = .next t ∧ t.launchAt s.hart.slot s.hart.launchid = some k' ∧ k' = { k with bars := k'.bars } ∧
      (∀ n, n ∈ k'.waiters (s.hart.getX a).toNat ↔ n ∈ k.waiters (s.hart.getX a).toNat ∨ n = s.hart.lcore) ∧
      (∀ j, j ≠ (s.hart.getX a).toNat → k'.waiters j = k.waiters j) ∧ t.hart = { s.hart with status := .atBar (s.hart.getX a).toNat } ∧
      (k'.allAt (s.hart.getX a).toNat = true → Instr.barrierRelease s.hart.slot s.hart.launchid (s.hart.getX a).toNat ∈ t.agenda) ∧
      SameBytes s t ∧ t = { s with hart := t.hart, slots := t.slots, agenda := t.agenda })

/-- R175 to R179, R195: sixteen words that the spec writes out, some from each custom opcode, decode to the instructions that they stand for, and four
words that it calls illegal are refused. -/
def Obligations.DecodeWords : Prop :=
  decodeWord 0x1070058b = .ok (.strip 11 7) ∧ decodeWord 0xd030000b = .ok (.vsett 0 0 0 0 0 3 0 0) ∧ decodeWord 0xf070018b = .ok (.vsett 0 0 1 0 0 7 0 3) ∧
  decodeWord 0x7b90fddb = .ok (.vffmaVf true 5 27 1 25) ∧ decodeWord 0xc004d0db = .ok (.ffill 1 9 0) ∧ decodeWord 0x9030507b = .ok (.fencev 3) ∧
  decodeWord 0x00000073 = .ok (.ecall) ∧ decodeWord 0x00100073 = .ok (.ebreak) ∧ decodeWord 0x13f64d8b = .ok (.vloop 1 12 (-5)) ∧
  decodeWord 0x28000c0b = .ok (.vld false 4 24 0) ∧ decodeWord 0x5020c1ab = .ok (.vfadd true 0 3 1 2) ∧ decodeWord 0xf01081db = .ok (.tup true 0 3 1 1 0) ∧
  decodeWord 0x0080647b = .ok (.opa false 0 0 0 8 0 1) ∧ decodeWord 0x902522fb = .ok (.amoxAdd 5 10 0 2) ∧ decodeWord 0xb00582fb = .ok (.launch 5 11) ∧
  decodeWord 0xd09423fb = .ok (.mput 7 8 9) ∧
  ∀ w ∈ illegalWords, ∀ i, decodeWord w ≠ .ok i

/-- R175 to R197: every well-formed instruction that has an encoding decodes from it, with every operand at every value that its field admits. -/
def Obligations.DecodeOfEncode : Prop :=
  ∀ (i : Instr) (w : Nat), i.wf = true → encode i = some w → w < 2 ^ 32 ∧ decodeWord w = .ok i

/-- R175 to R197: a word that decodes is the encoding of the well-formed instruction that it decodes to, so no two words stand for one instruction and no
bit of a word is ignored. -/
def Obligations.EncodeOfDecode : Prop :=
  ∀ (i : Instr) (w : Nat), w < 2 ^ 32 → decodeWord w = .ok i → i.wf = true ∧ encode i = some w

/-- R49, R62, R175, R182, R183: a step performs the step of another agent that is due first; with none due, it performs the instruction that the bytes at
the pc decode to: a scalar word, or a convoy of one vector word that starts a convoy, is not poisoned and is followed by no continuing word, as far as
one of its interruption points where it has such; a word that is no encoding takes the illegal-instruction step, a fetch that faults the fetch-fault
step. The turn counts what was performed. Which agent moves first is the model's (log 21). -/
def Obligations.StepRuns : Prop :=
  (∀ (s : State) (i : Instr) (r : List Instr), s.agenda = i :: r → step s = exec i { s with agenda := r }) ∧
  (∀ (s : State) (w : Nat) (i : Instr), s.issues → s.fetchWord s.hart.pc.toNat = .ok w → decodeWord w = .ok i → isVector w = false →
    step s = countTurn false (exec i (s.singly 1 w i))) ∧
  (∀ (s : State) (w next : Nat) (i : Instr), s.issues → s.fetchWord s.hart.pc.toNat = .ok w → decodeWord w = .ok i → isVector w = true →
    (continuing w = false ∨ s.hart.resumeMid = true) → s.fetchWord ((s.hart.pc.toNat + 4) % 2 ^ 64) = .ok next → continuing next = false →
    s.hart.poison = [] → ∃ o, (s.singly 2 w i).performedAs i o ∧ step s = countTurn true o) ∧
  (∀ (s : State) (w : Nat), s.issues → s.fetchWord s.hart.pc.toNat = .ok w → (∀ i, decodeWord w ≠ .ok i) → isVector w = false →
    step s = countTurn false (exec (.illegalInstruction w 0) (s.reads 1))) ∧
  (∀ (s : State) (t : Trap), s.issues → s.fetchWord s.hart.pc.toNat = .error (.trap t) → t.code = 0x02 →
    step s = exec (.fetchFault s.hart.pc.toNat 0) (s.reads 1))

/-- R5, R34, R352, R355, R358, R394, R396, R397: after reset no hart exists, the readiness, health, `dsel` and job-slot registers read 0, no region is
valid; and a hart that a launch places starts with x10 at its argument block, the pc at the program address, `tvec` of its job, its numbers of the
launch, and every other register at its starting value. -/
def Obligations.StartingValues : Prop :=
  (State.reset.harts = [] ∧ State.reset.readyReg = 0 ∧ State.reset.health = 0 ∧ State.reset.dsel = 0 ∧
    (∀ p o, p < 6 → (State.reset.slotOf p).reg o = 0) ∧ (∀ p, p < 6 → (State.reset.slotOf p).regions.all (fun r => !r.valid) = true)) ∧
  (∀ (l : Launch) (i tvec lc cl core grant hid order : Nat), l.block.args < 2 ^ 64 →
    let h := l.newHart i tvec lc cl core grant hid order
    (∀ r, (h.getX r).toNat = if r = 10 then l.block.args else 0) ∧ (∀ r, h.getF r = 0) ∧ (∀ n e, h.getSlot n e = ⟨0, 0⟩) ∧
    (∀ e, h.maskBit 0 e = true) ∧ (∀ n e, 1 ≤ n → h.maskBit n e = false) ∧ (∀ n e, h.getG n e = 0x8000) ∧ (∀ n, h.getP n = ⟨0, 1⟩) ∧
    (∀ n c, h.getAcc n c = ⟨⟨0, 0⟩, ⟨0, 0⟩⟩) ∧ (∀ n, (h.getFq n).rows = 0 ∧ (h.getSw n).rows = 0) ∧ (∀ n k, h.getQ n k = 0) ∧
    (∀ n, h.getTid n = 0) ∧ (∀ o, mapGet 0 h.scratch o = 0) ∧ h.pc = BitVec.ofNat 64 l.block.entry ∧ h.lcore = lc ∧ h.launchid = l.id ∧
    h.tvec.toNat = tvec / 4 * 4 % 2 ^ 64 ∧ h.tstatus = 0 ∧ h.poolpart = BitVec.ofNat 64 l.block.part ∧ h.vl = 0 ∧ h.vlc = 0 ∧ h.vstart = 0 ∧
    h.vrot = 0 ∧ h.vdirty = 0 ∧ h.vflags = 0 ∧ h.vtype = 0 ∧ h.vfv = 0 ∧ h.rngkey = 0 ∧ h.rngkeyh = 0 ∧ h.seqstate = 0 ∧ h.raceaddr = 0 ∧
    h.tcause = 0 ∧ h.tval = 0 ∧ h.tepc = 0 ∧ h.tscratch = 0 ∧ h.long.bits = 0 ∧ h.wcb = [] ∧ h.engine = [])

/-- The state right after reset has the invariant: canonical memory and claims, six job slots, a dusk record within its bound. -/
def Obligations.ResetInvariant : Prop := State.reset.Inv

/-- Every step, of a hart or of another agent, keeps the invariant: memory and the claims stay canonical, the module keeps its six job slots, and the
dusk record holds at most 8,192 events (R144, R352, R397). -/
def Obligations.StepKeepsInvariant : Prop := ∀ s t : State, s.Inv → step s = .next t → t.Inv

/-- R30, R33, R60, R312 to R316: LAUNCH of a legal block makes one stand-alone launch record with the next `launchid` and writes its handle; GRAPHRUN makes
a graph record and the records of its launches in block order, its level-4 waits turned into their handles; a graph with a counter of 0 is complete at
once; a gang of more than 768 harts traps. -/
def Obligations.WorkCreation : Prop :=
  (∀ (s : State) (d a : Nat) (b : LaunchBlock) (j : Job), s.hart.inSegment = false → s.hart.engine = [] → mapWf 0 s.claims = true →
    s.blockHolds 8 (s.hart.getX a).toNat 64 b.word → b.legal → (b.gang = true → b.harts ≤ 768) →
    (∀ w ∈ b.waits, w = noHandle ∨ s.handleOk s.hart.slot w = true) → s.jobOf s.hart.slot = some j → j.launches.length < 2 ^ 24 →
    ∃ t j', exec (.launch d a) s = .next t ∧ Worked s t d (BitVec.ofNat 64 j.launches.length) j' ∧
      Accepted t s.hart.slot s.hart.cl j j' [b.kept] none 1 ∧
      j'.graphs.map (fun g => { g with open_ := false }) = j.graphs.map (fun g => { g with open_ := false })) ∧
  (∀ (s : State) (d a : Nat) (b : LaunchBlock), s.hart.inSegment = false → s.hart.engine = [] → s.hart.plain →
    s.blockHolds 8 (s.hart.getX a).toNat 64 b.word → b.legal → b.gang = true → 768 < b.harts →
    ∃ t, exec (.launch d a) s = .next t ∧ TookTrap s t 0x0f 0 b.harts) ∧
  (∀ (s : State) (d a extra base : Nat) (ws : List Nat) (bs : List LaunchBlock) (j : Job), s.hart.inSegment = false → s.hart.engine = [] →
    mapWf 0 s.claims = true → s.fresh → ws.length = 4 → (∀ w ∈ ws, w < 2 ^ 64 ∧ (w = noHandle ∨ s.handleOk s.hart.slot w = true)) → base < 2 ^ 64 →
    bs.length ≤ 1024 → bs.length + extra ≤ 2 ^ 32 - 1 →
    s.blockHolds 1 (s.hart.getX a).toNat 64 (bs.length + 2 ^ 32 * extra + 2 ^ 64 * ws.getD 0 0 + 2 ^ 128 * ws.getD 1 0 + 2 ^ 192 * ws.getD 2 0 +
      2 ^ 256 * ws.getD 3 0 + 2 ^ 320 * base) →
    (∀ k b, bs[k]? = some b → s.blockHolds 8 ((base + 64 * k) % 2 ^ 64) 64 b.word ∧ b.legal ∧ (b.gang = true → b.harts ≤ 768) ∧
      ∀ w ∈ b.waits, w = noHandle ∨ s.handleOk s.hart.slot w = true ∨ ∃ p, p < k ∧ w = 4 * 2 ^ 61 + p) →
    s.jobOf s.hart.slot = some j → j.launches.length + bs.length ≤ 2 ^ 24 → j.graphs.length < 2 ^ 20 →
    let n := j.launches.length
    let named (w : Nat) : Nat := if w ≠ noHandle ∧ handleLvl w = 4 then n + handleIdx w else w
    ∃ t j', exec (.graphrun d a) s = .next t ∧ (∀ r, t.hart.getX r = if r = d ∧ d ≠ 0 then BitVec.ofNat 64 (2 ^ 61 + j.graphs.length) else s.hart.getX r) ∧
      (bs.length + extra = 0 → t.record s.hart.slot 1 j.graphs.length = some (0, .complete)) ∧
      (0 < bs.length + extra → Worked s t d (BitVec.ofNat 64 (2 ^ 61 + j.graphs.length)) j' ∧
        Accepted t s.hart.slot s.hart.cl j j' (bs.map (fun b => { b.kept with waits := b.waits.map named })) (some j.graphs.length) 1 ∧
        (j'.graphs.take j.graphs.length).map (fun g => { g with open_ := false }) = j.graphs.map (fun g => { g with open_ := false }) ∧
        j'.graphs.length = j.graphs.length + 1 ∧
        ∃ g, j'.graphs[j.graphs.length]? = some g ∧ g = ⟨j.graphs.length, j.cur, ws, g.open_, bs.length + extra, .running⟩ ∧
          (g.open_ = true ↔ ∀ w ∈ ws, t.waitDone s.hart.slot w)))

/-- R31, R32, R53, R62, R313, R317, R318: CCADD, CCWAIT, CCREAD, CANCEL, YIELD and HALT complete with the effect of their entry on the record that their
handle names, and with no other. The model's choice: `tval` of the trap of a CCADD beyond 32 bits is the value added (log 27). -/
def Obligations.WorkCounters : Prop :=
  (∀ (s : State) (a b h lvl idx c : Nat) (st : RecState), s.hart.inSegment = false → (s.hart.getX a).toNat = h → s.names h lvl idx c st →
    let n := (s.hart.getX b).toNat % 2 ^ 32
    (st = .running → c + n < 2 ^ 32 → ∃ t, exec (.ccadd a b) s = .next t ∧ s.onlyRecord t s.hart.slot lvl idx (c + n) .running ∧
      t = { s with slots := t.slots, hart := { s.hart with pc := s.hart.pc + 4, resumeMid := false } }) ∧
    (st = .running → 2 ^ 32 ≤ c + n → s.hart.plain → s.hart.cur.checked = false →
      ∃ t, exec (.ccadd a b) s = .next t ∧ TookTrap s t 0x0e 0 n) ∧
    (st = .complete → s.hart.status = .running → exec (.ccadd a b) s =
      .next { s with hart := { s.hart with underflows := s.hart.underflows ++ [h], pc := s.hart.pc + 4, resumeMid := false } }) ∧
    (st = .cancelled ∨ st = .cancelling → exec (.ccadd a b) s =
      .next { s with hart := { s.hart with pc := s.hart.pc + 4, resumeMid := false } })) ∧
  (∀ (s : State) (a h lvl idx c : Nat) (st : RecState), s.hart.inSegment = false → (s.hart.getX a).toNat = h → s.names h lvl idx c st →
    (s.contains h = false → exec (.ccwait a) s = .next (if c = 0 then { s with hart := { s.hart with pc := s.hart.pc + 4, resumeMid := false } }
      else { s with hart := { s.hart with status := .ccwait h } })) ∧
    (s.contains h = true → s.hart.plain → s.hart.cur.checked = false →
      ∃ t, exec (.ccwait a) s = .next t ∧ TookTrap s t 0x05 0 s.hart.cur.word)) ∧
  (∀ (s : State) (d a h lvl idx c : Nat) (st : RecState), s.hart.inSegment = false → (s.hart.getX a).toNat = h → s.names h lvl idx c st → c < 2 ^ 32 →
    ∃ t, exec (.ccread d a) s = .next t ∧ WroteX s t d (BitVec.ofNat 64 (c + 2 ^ 32 * (match st with
      | .complete => 1
      | .cancelled => 2
      | _ => 0))) (s.hart.pc + 4)) ∧
  (∀ (s : State) (a h lvl idx c : Nat) (st : RecState), s.hart.inSegment = false → (s.hart.getX a).toNat = h → s.names h lvl idx c st →
    (st ≠ .running → exec (.cancel a lvl) s = .next { s with hart := { s.hart with pc := s.hart.pc + 4, resumeMid := false } }) ∧
    (st = .running → ∃ t, exec (.cancel a lvl) s = .next t ∧ s.cancelling t s.hart.slot lvl idx c ∧
      t = { s with slots := t.slots, agenda := t.agenda, hart := { s.hart with pc := s.hart.pc + 4, resumeMid := false } }) ∧
    (∀ m, m ≠ lvl → s.hart.plain → s.hart.cur.checked = false → ∃ t, exec (.cancel a m) s = .next t ∧ TookTrap s t 0x0e 0 h)) ∧
  (∀ s : State, s.hart.inSegment = false →
    exec .yield s = .next { s with hart := { s.hart with turnOver := true, pc := s.hart.pc + 4, resumeMid := false } }) ∧
  (∀ s : State, s.hart.inSegment = false → s.hart.engine = [] → mapWf 0 s.claims = true →
    ∃ u t, exec .halt s = .next t ∧ Drained s u ∧ u = s.memoryOf u ∧
      t = { u with
        links := u.links.filter (fun l => l.1 ≠ s.hart.hid), agenda := u.agenda ++ [.haltComplete s.hart.hid],
        hart := { u.hart with links := [], status := .halting } })

/-- R31, R32, R54, R318: a count-down takes its count from a running record, completes it at zero, counts its parent down by one, is reported beyond
zero and at a complete record, and is discarded at a cancelled one; the end of a halt counts the launch down and the hart is gone; a cancelled hart
is gone with its undrained plain stores, the bytes that its engine stored standing in memory; both wait while a peer access that has passed its check
is still to reach the hart's rows (R116); a cancelled record reads so once nothing below it is left. The end of a cancelled hart's engine operations
is log 45. -/
def Obligations.WorkEvents : Prop :=
  (∀ (s : State) (i h lvl idx c n : Nat) (st : RecState) (issuer : Option Nat), h = lvl * 2 ^ 61 + idx → lvl ≤ 3 → idx < 2 ^ 32 →
    s.record i lvl idx = some (c, st) →
    (st = .running → n < c → ∃ t, exec (.countDown i h n issuer) s = .next t ∧ s.onlyRecord t i lvl idx (c - n) .running ∧ t = { s with slots := t.slots }) ∧
    (st = .running → 0 < c → c ≤ n → ∃ t, exec (.countDown i h n issuer) s = .next t ∧ t.record i lvl idx = some (0, .complete) ∧
      (∀ x ∈ t.harts, x.slot = i → x.status ≠ .ccwait h) ∧
      (∀ j p q k, s.jobOf i = some j → lvl ≤ 1 → j.parent lvl idx = some (p, q) → s.record i p q = some (k, .running) → 1 < k →
        t.record i p q = some (k - 1, .running))) ∧
    (∀ hid x, issuer = some hid → s.hartOf hid = some x → x.status ≠ .vacant → 0 < n → (st = .complete ∨ (st = .running ∧ c < n)) →
      ∃ t y, exec (.countDown i h n issuer) s = .next t ∧ t.hartOf hid = some y ∧ y.underflows = x.underflows ++ [h]) ∧
    (st = .cancelling ∨ st = .cancelled → exec (.countDown i h n issuer) s = .next s)) ∧
  (∀ (s : State) (hid : Nat) (x : Hart), s.hartOf hid = some x → x.status = .halting → s.awaited hid = true →
    exec (.haltComplete hid) s = .next s) ∧
  (∀ (s : State) (hid : Nat) (x : Hart), s.hartOf hid = some x → x.status = .halting → hid ≠ 0 → s.awaited hid = false →
    ∃ t, exec (.haltComplete hid) s = .next t ∧ s.leftBy t hid ∧
      ∀ l c, x.launchid < 2 ^ 32 → s.launchAt x.slot x.launchid = some l → l.coll = [] → l.pend = [] → x.pending = [] → l.state = .running →
        l.counter = c → 0 < c → t.record x.slot 0 x.launchid = some (if c = 1 then (0, .complete) else (c - 1, .running))) ∧
  (∀ (s : State) (hid : Nat) (x : Hart), s.hartOf hid = some x → x.status ≠ .vacant → hid ≠ 0 → mapWf 0 s.claims = true →
    (((x.cannotStop = true ∨ s.awaited hid = true) ∧ x.preempted = false) → ∃ t y, exec (.hartCancel hid) s = .next t ∧ t.hartOf hid = some y ∧
      y = { x with cancelled := true } ∧ ∀ k, k ≠ hid → t.hartOf k = s.hartOf k) ∧
    (((x.cannotStop = false ∧ s.awaited hid = false) ∨ x.preempted = true) → x.engine = [] → (s.slotOf x.slot).st ≠ 3 → ∃ t, exec (.hartCancel hid) s = .next t ∧ s.leftBy t hid ∧
      (∀ b, t.owner b = if s.owner b = hid then 0 else s.owner b) ∧
      (∀ b, (∀ w ∈ x.wcb, w.1 = b → w.2.2 = false) → t.readByte b = s.readByte b) ∧
      (∀ w ∈ x.wcb, w.2.2 = true → (∀ v ∈ x.wcb, v.1 = w.1 → v = w) → t.readByte w.1 = w.2.1) ∧
      (∀ l k, t.record x.slot l k = s.record x.slot l k))) ∧
  (∀ (s : State) (i h lvl idx c : Nat) (j : Job), h = lvl * 2 ^ 61 + idx → lvl ≤ 3 → idx < 2 ^ 32 → s.jobOf i = some j →
    s.record i lvl idx = some (c, .cancelling) →
    (s.ended i lvl idx j = true → ∃ t, exec (.cancellationComplete i h) s = .next t ∧ t.record i lvl idx = some (0, .cancelled)) ∧
    (s.ended i lvl idx j = false → exec (.cancellationComplete i h) s = .next s))

/-- R57, R69 to R75, R319, R320: TTSTART arms the core, or traps with code 0x12; TTSYNC at its cycle moves to the next segment, and after the last
arrival the next daybreak is due or the timetable ends; a TTSYNC at another cycle deviates; the daybreak pulse starts the harts that wait; the clock
stretch, the period count and the period limit act as their rules say. TTSYNC reads two places: the hart's next entry in the list of its row of the
core table, and its segment's word of the segment table (R319, R320). The model's choices: the order of TTSTART's reasons 1, 2 and 3 (log 27); the
rest of the image header is not checked (log 19); an
interrupt that is pending at a TTSYNC is taken before the arrival counts (log 31); the first cluster to reach the limit ends the phase (log 53); the
period boundary clears the counts of corrected errors (log 52). -/
def Obligations.Timetables : Prop :=
  (∀ (s : State) (a n lanes nseg ctab stab : Nat), s.hart.inSegment = false → s.hart.engine = [] → s.phaseImage = some (s.hart.getX a).toNat →
    n < 2 ^ 16 → lanes < 2 ^ 16 → nseg < 2 ^ 32 → ctab < 2 ^ 64 → stab < 2 ^ 64 →
    s.blockHolds 1 (s.hart.getX a).toNat 32 (timetableWord n lanes nseg ctab stab) →
    (lanes ≠ 64 → s.hart.plain → ∃ t, exec (.ttstart a) s = .next t ∧ TookTrap s t 0x12 0 1) ∧
    (lanes = 64 → (s.coreOf s.hart.cl s.hart.core).retired ≠ [] → s.hart.plain → ∃ t, exec (.ttstart a) s = .next t ∧ TookTrap s t 0x12 0 2) ∧
    (lanes = 64 → (s.coreOf s.hart.cl s.hart.core).retired = [] → n ≤ s.hart.lcore → s.hart.plain →
      ∃ t, exec (.ttstart a) s = .next t ∧ TookTrap s t 0x12 0 3) ∧
    (lanes = 64 → (s.coreOf s.hart.cl s.hart.core).retired = [] → s.hart.lcore < n → ∃ u t armed, exec (.ttstart a) s = .next t ∧ Noted s u ∧
      u.onlyCluster t s.hart.cl { s.clusterOf s.hart.cl with armed := armed } ∧
      armed = (s.clusterOf s.hart.cl).armed ++ (if s.hart.lcore ∈ (s.clusterOf s.hart.cl).armed then [] else [s.hart.lcore]) ∧
      t = { u with
        clusters := t.clusters, agenda := u.agenda ++ (if n ≤ armed.length then [.daybreakPulse s.hart.cl] else [])
        hart := { u.hart with
          time := some ⟨(s.hart.getX a).toNat, n, nseg, ctab, stab, 0, 0, false, false, none⟩, status := .ttStart, pc := s.hart.pc + 4,
          resumeMid := false } })) ∧
  (∀ (s : State) (a : Nat), s.hart.inSegment = false → s.hart.plain → s.hart.cur.checked = false → s.phaseImage ≠ some (s.hart.getX a).toNat →
    ∃ t, exec (.ttstart a) s = .next t ∧ TookTrap s t 0x0e 0 (s.hart.getX a).toNat) ∧
  (∀ (s : State) (p : TimePos) (e : Nat), s.hart.time = some p → p.live = true → s.entryAt p p.entry = some e →
    (s.tableRead (p.stab + 8 * p.seg) 8 ≠ some (e % 2 ^ 32) → s.hart.plain →
      ∃ u t, exec .ttsync s = .next t ∧ Abandoned s u ∧ TookTrap u t 0x13 0 (5 + 2 ^ 32 * (e % 2 ^ 32))) ∧
    (s.tableRead (p.stab + 8 * p.seg) 8 = some (e % 2 ^ 32) → s.hart.engine = [] → s.hart.cancelled = false → s.hart.preemptDue = false →
      (s.coreOf s.hart.cl s.hart.core).due = [] → (s.hart.ie = false ∨ s.hart.asyncSource = none) →
      ∃ t here, exec .ttsync s = .next t ∧ t.hart.pc = s.hart.pc + 4 ∧
        here = (s.clusterOf s.hart.cl).arrived ++ (if s.hart.lcore ∈ (s.clusterOf s.hart.cl).arrived then [] else [s.hart.lcore]) ∧
        SameBytes s t ∧ t.hart.x = s.hart.x ∧
        (here.length < p.ncores ∨ p.seg + 1 < p.nseg →
          s.onlyCluster t s.hart.cl { s.clusterOf s.hart.cl with arrived := here } ∧ t.others = s.others ∧ t.hart.status = .ttSync ∧
          t.hart.time = some { p with seg := p.seg + 1, entry := p.entry + 1, live := false, late := false } ∧
          t.agenda = s.agenda ++ (if p.ncores ≤ here.length then [.daybreakPulse s.hart.cl] else [])) ∧
        (p.ncores ≤ here.length → p.nseg ≤ p.seg + 1 →
          s.onlyCluster t s.hart.cl (s.clusterOf s.hart.cl).anew ∧ t.hart.time = none ∧ t.hart.status = .running ∧
          t.agenda = s.agenda))) ∧
  (∀ (s : State) (cl n : Nat), (∃ h ∈ s.harts, h.cl = cl ∧ (h.status = .ttStart ∨ h.status = .ttSync)) →
    (∀ h ∈ s.harts, h.cl = cl → (h.status = .ttStart ∨ h.status = .ttSync) → ∃ t, h.time = some t ∧ t.ncores = n) →
    (n ≤ (s.clusterOf cl).armed.length ∨ n ≤ (s.clusterOf cl).arrived.length) →
    ∃ t, exec (.daybreakPulse cl) s = .next t ∧ s.onlyCluster t cl (s.clusterOf cl).anew ∧
      t = { s with hart := s.hart.wakes cl, others := s.others.map (Hart.wakes cl), clusters := t.clusters }) ∧
  (∀ (s : State) (cl n : Nat), 8 ≤ n → n ≤ 32 →
    (∀ i p, s.phaseAt cl = some (i, p) → p.timed = true → s.health = 0 → ∃ t, exec (.clockStretch cl n) s = .next t ∧ t = { s with clusters := t.clusters } ∧
      s.onlyCluster t cl { s.clusterOf cl with next := n }) ∧
    ((∀ i p, s.phaseAt cl = some (i, p) → p.timed = false) → exec (.clockStretch cl n) s = .next s) ∧
    (0 < s.health → exec (.clockStretch cl n) s = .next s)) ∧
  (∀ (s : State) (cl n : Nat), mapWf 0 s.fixes = true → n = ((s.clusterOf cl).tick + 1) % 2 ^ 64 → ∃ t, exec (.periodBoundary cl) s = .next t ∧
    s.onlyCluster t cl { s.clusterOf cl with tick := n, stretch := (s.clusterOf cl).anew.stretch, next := 0 } ∧
    (∀ c k, t.coreOf c k = if (Config.cores * c + k) / Config.cores = cl then { s.coreOf c k with errs := [] } else s.coreOf c k) ∧
    (∀ k, mapGet 0 t.fixes k = if k / 64 = cl then 0 else mapGet 0 s.fixes k) ∧
    (s.phaseAt cl = none → t.agenda = s.agenda) ∧
    (∀ i p, s.phaseAt cl = some (i, p) → t.agenda = s.agenda ++ (if 0 < p.plim ∧ p.plim ≤ n then [.periodLimit i] else [])) ∧
    t = { s with clusters := t.clusters, cores := t.cores, fixes := t.fixes, agenda := t.agenda }) ∧
  (∀ (s : State) (i : Nat) (j : Job) (p : Phase), s.jobOf i = some j → j.phases[j.cur]? = some p → p.begun = true → p.state = .running → 0 < p.plim →
    (s.slotOf i).st = 2 → (∃ c, c < 6 ∧ p.clus / 2 ^ c % 2 = 1 ∧ p.plim ≤ (s.clusterOf c).tick) →
    (∀ x ∈ s.harts, x.slot = i → x.preempted = false → ∃ t, exec (.periodLimit i) s = .next t ∧ Instr.preemption x.hid ∈ t.agenda) ∧
    (j.cur + 1 < j.phases.length → 0 < j.children j.cur → j.state = .running → 1 < j.counter → ∃ t j', exec (.periodLimit i) s = .next t ∧
      t.jobOf i = some j' ∧ j'.cur = j.cur + 1 ∧ j'.record 2 j.cur = some (0, .complete) ∧
      j'.record 2 (j.cur + 1) = some (j.children j.cur, .running) ∧ j'.record 3 0 = some (j.counter - 1, .running) ∧
      j'.launches.map (fun l => { l with queued := false, ready := 0 }) =
        j.launches.map (fun l => { j.passLaunch j.cur l with queued := false, ready := 0 }) ∧
      j'.graphs.map (fun g => { g with open_ := false }) = j.graphs.map (fun g => { g.pass j.cur with open_ := false })) ∧
    (j.cur + 1 < j.phases.length → j.state = .running → j.counter = 1 → ∃ t, exec (.periodLimit i) s = .next t ∧
      t.record i 2 j.cur = some (0, .complete) ∧ t.record i 3 0 = some (0, .complete)) ∧
    (j.phases.length ≤ j.cur + 1 → ∃ t, exec (.periodLimit i) s = .next t ∧ t.record i 2 j.cur = some (p.counter, .cancelling)))

/-- R155 to R158, R167, R321 to R325, R385, R386: MCHK gives the code of its route block; MPUT records its message and hands its local read to the
engine, MGET translates its local range and sends its request, MSIG sends its count after the hart's earlier messages have ended; each drains first;
each is illegal without a free fault queue, waits while the interface is full, and refuses an illegal route. The model's choices: MSIG waits by
stalling its hart, before its drain (log 29); MCHK's code is 3 for a first hop whose `vc` is not 0 (log 27); the packet's destination is found by the
lookup of the view (log 60). -/
def Obligations.Messages : Prop :=
  (∀ (s : State) (d a v : Nat), s.hart.inSegment = false → s.hart.engine = [] → s.routeHolds (s.hart.getX a).toNat v →
    ∃ u t, exec (.mchk d a) s = .next t ∧ Routed s u (s.hart.getX a).toNat v ∧ WroteX u t d (BitVec.ofNat 64 (s.routeVerdict v)) (s.hart.pc + 4)) ∧
  (∀ (s : State) (d a b v rva len rcc lcc : Nat), s.sendable d v → s.messageBlock b rva len rcc lcc → (rcc = noHandle ∨ formedHandle rcc) →
    ∃ u t, exec (.mput d a b) s = .next t ∧ Prepared s u (s.hart.getX d).toNat v ∧
      t = { u with
        messages := s.messages ++ [⟨s.nextMid, s.hart.hid, s.hart.slot, 1, s.hart.pc.toNat, (s.hart.getX b).toNat, 0, lcc, rva, rcc, v, len, 0, false,
          false, [], s.hart.cl, s.hart.launchid, s.hart.lcore⟩]
        nextMid := (s.nextMid + 1) % 2 ^ 32, agenda := u.agenda ++ [.copyEngineOperation s.hart.hid]
        hart := { u.hart with
          engine := [⟨.mput, s.hart.pc.toNat, 32, (s.hart.getX a).toNat, len, s.nextMid, 0, 0, 0, false, false, 0, 0, none, []⟩]
          sends := true, pc := s.hart.pc + 4, resumeMid := false } }) ∧
  (∀ (s : State) (d a b v rva len rcc lcc : Nat) (pa : Nat → Nat), s.sendable d v → s.messageBlock b rva len rcc lcc →
    inAperture (s.hart.getX a).toNat = false →
    (∀ o, o < len → (o = 0 ∨ ((s.hart.getX a).toNat + o) % 65536 = 0) →
      place (((s.hart.getX a).toNat + o) % 2 ^ 64) = .ok (.virt (((s.hart.getX a).toNat + o) % 2 ^ 64)) ∧
      ∃ leaf, s.translate s.hart.slot (((s.hart.getX a).toNat + o) % 2 ^ 64) 2 = .ok (pa o, leaf)) →
    ∃ u t m q, exec (.mget d a b) s = .next t ∧ Prepared s u (s.hart.getX d).toNat v ∧
      m = ⟨s.nextMid, s.hart.hid, s.hart.slot, 2, s.hart.pc.toNat, (s.hart.getX b).toNat, 0, lcc, rva, noHandle, v, len, max 1 len, true, false, m.pas,
        s.hart.cl, s.hart.launchid, s.hart.lcore⟩ ∧
      (∀ o, o < len → m.target o = pa (pieceOf (s.hart.getX a).toNat o) + (o - pieceOf (s.hart.getX a).toNat o)) ∧
      u.outgoing m q rva (len + 2 ^ 32 * s.nextMid) 0 ∧ u.sent t m q) ∧
  (∀ (s : State) (d a b v : Nat), s.sendable d v → formedHandle (s.hart.getX a).toNat →
    ((∃ m ∈ s.messages, m.hid = s.hart.hid ∧ (m.kind = 1 ∨ m.kind = 2)) →
      exec (.msig d a b) s = .next { s with hart := { s.hart with status := .stalled } }) ∧
    ((∀ m ∈ s.messages, m.hid = s.hart.hid → m.kind ≠ 1 ∧ m.kind ≠ 2) → ∃ u t, exec (.msig d a b) s = .next t ∧ Prepared s u (s.hart.getX d).toNat v ∧
      ((s.hart.getX b).toNat % 2 ^ 32 = 0 → t = { u with hart := { u.hart with sends := true, pc := s.hart.pc + 4, resumeMid := false } }) ∧
      (0 < (s.hart.getX b).toNat % 2 ^ 32 → ∃ m q,
        m = ⟨s.nextMid, s.hart.hid, s.hart.slot, 4, s.hart.pc.toNat, (s.hart.getX a).toNat, (s.hart.getX b).toNat % 2 ^ 32, noHandle, 0, noHandle, v, 0,
          1, true, false, [], s.hart.cl, s.hart.launchid, s.hart.lcore⟩ ∧
        u.outgoing m q (s.hart.getX a).toNat ((s.hart.getX b).toNat % 2 ^ 32) ((s.hart.getX b).toNat % 2 ^ 32) ∧ u.sent t m q))) ∧
  (∀ (s : State) (i : Instr) (k d a b v : Nat), messageOf i = some (k, d, a, b) → s.hart.inSegment = false →
    (s.hart.queueFree = false → s.hart.plain → s.hart.cur.checked = false → ∃ t, exec i s = .next t ∧ TookTrap s t 0x05 0 s.hart.cur.word) ∧
    (s.hart.queueFree = true → 16 ≤ s.hart.held.length → exec i s = .next { s with hart := { s.hart with status := .msgRoom } }) ∧
    (s.hart.queueFree = true → s.hart.held.length < 16 → s.hart.engine = [] → s.routeHolds (s.hart.getX d).toNat v → v < 2 ^ 256 → ¬ legalRoute v →
      s.hart.plain → ∃ t, exec i s = .next t ∧ TookTrap s t 0x0e 0 (s.hart.getX d).toNat))

/-- R157, R160, R165, R169, R170, R322 to R324, R364, R378, R385 to R392: a put packet writes its bytes, and the last of its message to be written counts
its record down; a get request returns the bytes it reads, a reply writes them at the asking module, a signal counts its record down; each is
acknowledged, once more when it comes twice, waits at claimed bytes and behind its stream, and is refused with a report that says why; hops, links,
acknowledgments, reports and timeouts act as their rules say. The model's choices: view ports and the way back (log 37); how an acknowledgment tells
of an excess (log 36); the ports and cables of the package network (log 51); the hop that a dead link reports is the one taken, a refused
acknowledgment is lost, `rcc` is counted when all packets are written (log 29); `why` is 2 for a port beyond the view (log 60). -/
def Obligations.Packets : Prop :=
  (∀ (s : State) (p : Packet) (i : Nat) (pas : List Nat), s.reachedBy p 1 i → s.jobRange i p.k0 p.payload.length 2 = some pas →
    (p.k1 = noHandle ∨ s.handleOk i p.k1 = true) →
    ((∃ b ∈ pas, s.owner b ≠ 0) → exec (.putPacket p) s = .next { s with hostWait := s.hostWait ++ [.packet p] }) ∧
    ((∀ b ∈ pas, s.owner b = 0) → ∃ u v, Delivered s u p pas ∧ s.putNoted u v p ∧
      ((s.putGot p).length ≠ p.total ∨ s.putHandle p = none → exec (.putPacket p) s = .next (v.answered p 0)) ∧
      (∀ h, (s.putGot p).length = p.total → s.putHandle p = some h → ∃ w x, v.counted i h 1 w x ∧
        exec (.putPacket p) s = .next (w.answered p x)))) ∧
  (∀ (s : State) (p : Packet) (i : Nat) (pas : List Nat), s.reachedBy p 2 i → s.jobRange i p.k0 (p.k1 % 2 ^ 32) 1 = some pas →
    ((∃ b ∈ pas, s.owner b ≠ 0) → exec (.getRequest p) s = .next { s with hostWait := s.hostWait ++ [.packet p] }) ∧
    ((∀ b ∈ pas, s.owner b = 0) → (∃ b ∈ pas, ∃ l ∈ s.poisoned, l.1 = lineOf b) → exec (.getRequest p) s = .next (s.reports p 4 0 3)) ∧
    ((∀ b ∈ pas, s.owner b = 0) → (∀ b ∈ pas, ∀ l ∈ s.poisoned, l.1 ≠ lineOf b) → ∃ (u t : State) (rs : List Packet), exec (.getRequest p) s = .next t ∧
      Received s u p ∧ rs.flatMap (·.payload) = pas.map s.readByte ∧ rs ≠ [] ∧
      (∀ (k : Nat) (r : Packet), rs[k]? = some r → r.kind = 3 ∧ r.src = p.dst ∧ r.dst = p.src ∧ r.hc = p.hc ∧ (p.hc ≠ 0 → r.hops = hopsBack p) ∧
        r.k0 = p.k1 / 2 ^ 32 + 2 ^ 32 * (4096 * k) ∧ r.payload.length ≤ 4096) ∧
      t = { u with agenda := (u.answered p 0).agenda ++ rs.map Instr.packetHop, seqs := t.seqs, unacked := t.unacked })) ∧
  (∀ (s : State) (p : Packet) (i : Nat) (m : Message), p.kind = 3 → s.comes p → s.streamFree p → s.slotOfPart p.part = some i →
    (s.slotOf i).sink = false → p.seq ∉ mapGet [] s.accepted p.src →
    s.messages.find? (fun x => decide (x.mid = p.k0 % 2 ^ 32) && decide (x.kind = 2)) = some m →
    let pas := (upFrom (p.k0 / 2 ^ 32) p.payload.length).map m.target
    ((∃ b ∈ pas, s.owner b ≠ 0) → exec (.getReply p) s = .next { s with hostWait := s.hostWait ++ [.packet p] }) ∧
    ((∀ b ∈ pas, s.owner b = 0) → ∃ u, Delivered s u p pas ∧ (u.answered p 0).endsBy m (max 1 p.payload.length) (exec (.getReply p) s))) ∧
  (∀ (s : State) (p : Packet) (i : Nat), s.reachedBy p 4 i → s.handleOk i p.k0 = true → p.k0 ≠ noHandle → ∃ (u w : State) (x : Nat),
    p.seq ∈ mapGet [] u.accepted p.src ∧ s.toldKept u p ∧ u = { s with accepted := u.accepted, excesses := u.excesses } ∧ u.counted i p.k0 p.k1 w x ∧
    exec (.signalPacket p) s = .next (w.answered p x)) ∧
  (∀ (s : State) (p : Packet) (f : Packet → Instr), (f, p.kind) ∈ [(Instr.putPacket, 1), (Instr.getRequest, 2), (Instr.signalPacket, 4)] →
    (p.hp ≠ p.hc ∨ p.dst ≠ s.module_ → exec (f p) s = .next s) ∧
    (∀ v c k rtype why, p.hp = p.hc → p.dst = s.module_ → 0 < p.hc → p.inPort = some (v, c) → s.viewPort p.part v = some k →
      s.stopsOn p.part rtype why (some (k, c)) (s.legsIn p k) → exec (f p) s = .next (s.reports p rtype 0 why)) ∧
    (s.comes p → (∃ w ∈ s.hostWait, w.streamOf p = true) → exec (f p) s = .next { s with hostWait := s.hostWait ++ [.packet p] }) ∧
    (s.comes p → s.streamFree p →
      (s.slotOfPart p.part = none → exec (f p) s = .next (s.reports p 4 0 1)) ∧
      (∀ i, s.slotOfPart p.part = some i → (s.slotOf i).sink = true → exec (f p) s = .next s) ∧
      (∀ i, s.slotOfPart p.part = some i → (s.slotOf i).sink = false → p.seq ∈ mapGet [] s.accepted p.src →
        exec (f p) s = .next (s.acks p (s.excessOf p))) ∧
      (∀ i, s.slotOfPart p.part = some i → (s.slotOf i).sink = false → p.seq ∉ mapGet [] s.accepted p.src → (s.slotOf i).st ≠ 2 →
        exec (f p) s = .next (s.reports p 4 0 1)))) ∧
  (∀ (s : State) (p : Packet) (i : Nat),
    (s.reachedBy p 1 i → s.jobRange i p.k0 p.payload.length 2 = none → exec (.putPacket p) s = .next (s.reports p 4 0 2)) ∧
    (s.reachedBy p 2 i → s.jobRange i p.k0 (p.k1 % 2 ^ 32) 1 = none → exec (.getRequest p) s = .next (s.reports p 4 0 2)) ∧
    (∀ pas, s.reachedBy p 1 i → s.jobRange i p.k0 p.payload.length 2 = some pas → p.k1 ≠ noHandle → s.handleOk i p.k1 = false →
      exec (.putPacket p) s = .next (s.reports p 4 0 5)) ∧
    (s.reachedBy p 4 i → p.k0 ≠ noHandle → s.handleOk i p.k0 = false → exec (.signalPacket p) s = .next (s.reports p 4 0 5))) ∧
  (∀ (s : State) (dst seq x : Nat) (u : Unacked), s.unacked.find? (fun y => y.dst = dst && y.seq = seq) = some u →
    ((s.slotOf u.slot).sink = true → exec (.acknowledgment dst ⟨seq, x⟩) s = .next s ∧ exec (.retransmitTimeout dst seq) s = .next s) ∧
    ((s.slotOf u.slot).sink = false →
      (∃ v : State, (x = 0 → v = { s with unacked := s.unacked.erase u }) ∧
        (∀ y, 0 < x → s.hartOf u.pkt.sender = some y → y.status ≠ .vacant → ∃ z, v.hartOf u.pkt.sender = some z ∧
          z.underflows = y.underflows ++ [s.carried u] ∧
          v = { s with unacked := s.unacked.erase u, hart := v.hart, others := v.others }) ∧
        (u.pkt.kind ≠ 1 → u.pkt.kind ≠ 4 → exec (.acknowledgment dst ⟨seq, x⟩) s = .next v) ∧
        (∀ m, (u.pkt.kind = 1 ∨ u.pkt.kind = 4) → s.messages.find? (fun y => y.mid = u.mid) = some m →
          v.endsBy m 1 (exec (.acknowledgment dst ⟨seq, x⟩) s))) ∧
      (u.tries < 4 → ∃ t, exec (.retransmitTimeout dst seq) s = .next t ∧ t.agenda = s.agenda ++ [.packetHop u.pkt] ∧
        t.unacked = s.unacked.map (fun y => if y = u then { u with tries := u.tries + 1 } else y) ∧
        t = { s with agenda := t.agenda, unacked := t.unacked }) ∧
      (4 ≤ u.tries → u.pkt.kind ≠ 3 → s.reported u.pkt.sender (reportOn u.pkt 3 0 0) = some u →
        exec (.retransmitTimeout dst seq) s = exec (.reportArrival u.pkt.sender (reportOn u.pkt 3 0 0)) s) ∧
      (4 ≤ u.tries → u.pkt.kind = 3 → u.pkt.hc ≠ 0 → exec (.retransmitTimeout dst seq) s =
        .next { s with
          unacked := s.unacked.erase u
          toHost := s.toHost ++ (if u.pkt.hp = 0 ∧ (s.hopCheck { u.pkt with hops := u.pkt.inj, legs := [], inPort := none }).isSome = true then []
            else [.report u.pkt (reportOn u.pkt 3 0 0)]) }))) ∧
  (∀ (s : State) (hid : Nat) (r : Report) (x : Hart), s.hartOf hid = some x → x.status ≠ .vacant → x.cancelled = false → x.preempted = false →
    (s.slotOf x.slot).sink = false → x.sends = true → x.held = [] → 0 < x.sprows → x.fqNext < 8 → reportFits r →
    (s.reported hid r = none → ∃ t y, exec (.reportArrival hid r) s = .next t ∧ t.hartOf hid = some y ∧ x.reportedTo y r ∧
      t = { s with hart := t.hart, others := t.others }) ∧
    (∀ u m, s.reported hid r = some u → (s.slotOf u.slot).sink = false → s.messages.find? (fun n => n.mid = u.mid) = some m → m.kind ≠ 2 → 1 < m.left →
      ∃ t y, exec (.reportArrival hid r) s = .next t ∧ t.hartOf hid = some y ∧ x.reportedTo y r ∧ t.unacked = s.unacked.erase u ∧
        t.messages = s.messages.map (fun n => if n.mid = u.mid then { n with failed := true, left := if n.kind = 2 then 0 else n.left - 1 } else n) ∧
        t = { s with hart := t.hart, others := t.others, unacked := t.unacked, messages := t.messages })) ∧
  (∀ (s : State) (k : Nat) (p : Packet), s.hostWait[k]? = some (.packet p) → s.waitClaimed (.packet p) = true → p.kind ≠ 3 → ∃ u v : State,
    u.hostWait = s.hostWait.eraseIdx k ∧ u.dcnt = s.dcnt + 1 ∧ u = { s with hostWait := u.hostWait, dusk := u.dusk, dcnt := u.dcnt } ∧
    v = u.reports p 4 0 4 ∧ exec (.messageClaimTimeout k) s =
      .next { v with agenda := v.agenda ++ List.replicate u.hostWait.length (.hostAccessAfterClaim 0) }) ∧
  (∀ (s : State) (port tries : Nat),
    (∀ i ∈ s.agenda, ∀ p, onLink port i = some p → p.kind ≠ 3 ∧ p.kind ≠ 5) → ∃ t, exec (.linkDown port) s = .next t ∧
      (∀ k, t.portAt k = if k ∈ linkEnds port then { s.portAt k with up := false } else s.portAt k) ∧
      t.agenda = s.agenda.filter (fun i => (onLink port i).isNone) ++
        ((s.agenda.filterMap (onLink port)).map (fun p =>
          let hop := p.hp - (if p.legs = [] then 1 else 0)
          Instr.reportArrival p.sender ⟨2, hop, 0, p.kind, p.seq, p.pc, p.arg, p.cnt, routeBytesOf p⟩)) ++
        (match if port < 96 then s.slotOfCluster (port / 16) else none with
          | none => []
          | some i => [.viewUpdate i []]) ∧
      t = { s with ports := t.ports, agenda := t.agenda } ∧
      (tries < 16 → port ≠ 400 → exec (.flitCrcError port tries) s = .next s) ∧
      (tries < 16 → port = 400 → exec (.flitCrcError port tries) s = .next { s with toHost := s.toHost ++ [.aer 0] }) ∧
      (∀ b i, 16 ≤ tries → (port < 96 ∧ b = 5 ∧ i = port ∨ (∃ c d, c < d ∧ d < 6 ∧ (port = 96 + 6 * c + d ∨ port = 96 + 6 * d + c) ∧ b = 4 ∧ i = 6 * c + d) ∨
        port = 400 ∧ b = 7 ∧ i = 0) → ∃ v, exec (.flitCrcError port tries) s = .next v ∧ t.logged v 7 b i tries 0 ∧
        v = { t with dusk := v.dusk, dcnt := v.dcnt, agenda := t.agenda ++ (if port = 400 then [.hostLinkFailure 2] else []) })) ∧
  (∀ (s : State) (p : Packet),
    (p.legs = [] → p.hc ≤ p.hp → ∀ f k, (f, k) ∈ [(Instr.putPacket, 1), (Instr.getRequest, 2), (Instr.getReply, 3), (Instr.signalPacket, 4)] → p.kind = k →
      exec (.packetHop p) s = .next { s with agenda := s.agenda ++ [f p] }) ∧
    (p.legs = [] → p.hc ≤ p.hp → p.kind = 5 →
      exec (.packetHop p) s = .next { s with agenda := s.agenda ++ [.acknowledgment p.src ⟨p.seq, p.cnt⟩] }) ∧
    (∀ vc k r, p.legs = (vc, k) :: r →
      (s.passes p.part vc p.inPort (s.portAt k) → exec (.packetHop p) s =
        .next (s.onward { p with legs := r, inPort := some (farPort k, vc) })) ∧
      (∀ rtype why, s.stopsAt p.part vc p.inPort (s.portAt k) rtype why → p.kind ≠ 3 → p.kind ≠ 5 →
        exec (.packetHop p) s = .next (s.returned p rtype why)) ∧
      (∀ rtype why, s.stopsAt p.part vc p.inPort (s.portAt k) rtype why → p.kind = 5 → exec (.packetHop p) s = .next s)) ∧
    (∀ rsv vc o, p.legs = [] → p.hp = 0 → 0 < p.hc → p.hops[0]? = some (rsv, vc, o) → p.kind ≠ 3 → p.kind ≠ 5 →
      (rsv ≠ 0 → exec (.packetHop p) s = .next (s.returned p 1 1)) ∧
      (rsv = 0 → s.viewPort p.part o = none → exec (.packetHop p) s = .next (s.returned p 1 2)) ∧
      (∀ k, rsv = 0 → s.viewPort p.part o = some k →
        (s.passes p.part vc p.inPort (s.portAt k) → exec (.packetHop p) s = .next (s.onward { p with
          hp := 1, inPort := some (k, vc), hops := match p.inPort with
            | none => p.hops
            | some (i, _) => (rsv, vc, i % 1024) :: p.hops.drop 1 })) ∧
        (∀ rtype why, s.stopsAt p.part vc p.inPort (s.portAt k) rtype why → exec (.packetHop p) s = .next (s.returned p rtype why)))) ∧
    (∀ k c, p.legs = [] → 0 < p.hp → p.hp < p.hc → p.inPort = some (k, c) → (∀ e ∈ s.topo, ¬ (e.mod = s.module_ ∧ e.port = k)) → ∃ flit,
      flit = firstFlit { p with inPort := none } ∧ exec (.packetHop p) s = .next { s with toHost := s.toHost ++ [.remote { p with inPort := none } flit] })) ∧
  (∀ p : Packet, p.part < 2 ^ 16 → p.src < 1024 → p.dst < 1024 → p.kind < 2 ^ 8 → p.payload.length ≤ 4096 → p.seq < 2 ^ 32 →
    let f := firstFlit p
    f.length = 64 ∧ fieldOf f 32 2 = p.part ∧ fieldOf f 34 2 = p.src ∧ fieldOf f 36 2 = p.dst ∧ fieldOf f 38 1 = p.kind ∧
    fieldOf f 39 1 = (p.payload.length + 63) / 64 ∧ fieldOf f 40 4 = p.seq ∧
    (p.kind = 1 ∨ p.kind = 2 → p.k0 < 2 ^ 64 → p.k1 < 2 ^ 64 → fieldOf f 48 8 = p.k0 ∧ fieldOf f 56 8 = p.k1) ∧
    (p.kind = 3 → p.k0 < 2 ^ 64 → fieldOf f 48 8 = p.k0) ∧ (p.kind = 4 → p.k0 < 2 ^ 64 → p.k1 < 2 ^ 32 → fieldOf f 48 8 = p.k0 ∧ fieldOf f 56 4 = p.k1) ∧
    ∀ k rsv vc o, k < 15 → p.hops[k]? = some (rsv, vc, o) → rsv < 16 → vc < 4 → o < 1024 → fieldOf f (2 + 2 * k) 2 = 4096 * rsv + 1024 * vc + o)

/-- R326 to R329: LOGPUB and CPREC prepare a record and publish it in their channel: it is written where the ring has room, padded at the ring's end, made to
wait where there is none; the write of a waiting record goes on in the same way, and an accepted one goes where it was accepted for; CPREC's records
count toward the interrupt, as does the timer. -/
def Obligations.TokenOutput : Prop :=
  (∀ (s : State) (a b p : Nat) (c : Descriptor) (hdr body : List Byte), s.quiet → s.opens a p c → c.chan = 0xffff → (s.chanAt p).queue = [] →
    hdr.length = 32 → s.engineHolds (s.hart.getX b).toNat (hdr ++ body) →
    fieldOf hdr 16 2 ≤ 64 → fieldOf hdr 18 1 ≤ 16 → fieldOf hdr 19 1 ≤ 3 → fieldOf hdr 20 4 ≤ 4096 →
    body.length = 4 * fieldOf hdr 16 2 + 8 * fieldOf hdr 16 2 * fieldOf hdr 18 1 + fieldOf hdr 20 4 →
    let n := recordSize (32 + body.length)
    (n ≤ c.size → s.publishes p c
      ⟨s.hart.hid, sealedRecord ((hdr.drop 4).take 20 ++ List.replicate 8 0) body n (fieldOf hdr 8 8), fieldOf hdr 8 8, false, [], []⟩
      (exec (.logpub a b) s)) ∧
    (c.size < n → s.hart.plain → ∃ t, exec (.logpub a b) s = .next t ∧ TookTrap s t 0x0e 0 n)) ∧
  (∀ (s : State) (a b p : Nat) (c : Descriptor) (hdr body : List Byte) (j : Job), s.quiet → s.opens a p c → s.jobOf s.hart.slot = some j →
    c.chan < 16 → j.chmask.testBit c.chan = true → (s.chanAt p).queue = [] → hdr.length = 32 →
    s.engineHolds (s.hart.getX b).toNat (hdr ++ body) → body.length = entriesSize (fieldOf hdr 4 4) body →
    let n := recordSize (32 + body.length)
    (n ≤ c.size → s.publishes p c
      ⟨s.hart.hid, sealedRecord ((hdr.drop 4).take 12 ++ List.replicate 16 0) body n (fieldOf hdr 8 8), fieldOf hdr 8 8, true, [], []⟩
      (exec (.cprec a b) s)) ∧
    (c.size < n → s.hart.plain → ∃ t, exec (.cprec a b) s = .next t ∧ TookTrap s t 0x0e 0 n)) ∧
  (∀ (s : State) (p : Nat) (c : Descriptor) (q : LogReq) (acc : Bool), s.channelAt p c → s.chanAt p = ⟨p, (s.chanAt p).count, [q]⟩ →
    s.chans.find? (fun x => x.queue.any (fun r => r.hid = q.hid)) = some (s.chanAt p) → q.hid = s.hart.hid → s.hart.status = .logPub acc →
    q.bytes.length ≤ c.size →
    (acc = false → s.publishes p c q (exec (.logRecordWrite q.hid) s)) ∧
    (acc = true → (∀ b ∈ q.pas ++ q.tp, Config.hostBase ≤ b) → c.head ≤ c.tail + q.bytes.length → c.tail + q.bytes.length ≤ c.head + c.size →
      ∃ t, exec (.logRecordWrite q.hid) s = .next t ∧ s.recorded t p c q q.pas q.tp)) ∧
  (∀ (s : State) (p : Nat) (c : Descriptor), s.channelAt p c →
    ((s.chanAt p).count = 0 ∨ c.mtimer = 0 → exec (.mtimerExpiry p) s = .next s) ∧
    ((s.chanAt p).count ≠ 0 → c.mtimer ≠ 0 → ∃ t, exec (.mtimerExpiry p) s = .next t ∧
      (∀ e, t.chanAt e = if e = p then { s.chanAt p with count := 0 } else s.chanAt e) ∧
      t = { s with chans := t.chans, toHost := s.toHost ++ [.msix c.msix] }))

/-- R130, R331 to R334: WAIT returns at once when a source is pending and else waits; TINV drops the job's translations of the range; CTXSAVE writes
the whole context, and CTXLOAD reads it back into the hart, which keeps its numbers and its partition. The model's choices: what CTXSAVE looks at and
what CTXLOAD clamps (log 30), and the layouts inside sections (log 35). -/
def Obligations.ContextInstructions : Prop :=
  (∀ s : State, s.hart.inSegment = false →
    exec .wait s = .next { s with hart := { s.hart with
      status := if s.hart.underflows ≠ [] ∨ (List.range 8).any s.hart.fqFull = true then .running else .waiting, pc := s.hart.pc + 4,
      resumeMid := false } }) ∧
  (∀ (s : State) (a b : Nat), s.hart.inSegment = false → s.hart.engine = [] → mapWf 0 s.claims = true → ∃ u t, exec (.tinv a b) s = .next t ∧
    Drained s u ∧ u = s.memoryOf u ∧ t = { u with xlat := t.xlat, hart := { u.hart with pc := s.hart.pc + 4, resumeMid := false } } ∧
    ∀ c, c ∈ t.xlat ↔ c ∈ s.xlat ∧ ¬ (c.slot = s.hart.slot ∧ ((s.hart.getX b).toNat = 0 ∨
      (c.va < (s.hart.getX a).toNat + (s.hart.getX b).toNat ∧ (s.hart.getX a).toNat < c.va + 2 ^ c.bits)))) ∧
  (∀ (s : State) (a : Nat) (pa : Nat → Nat), s.quiet → s.hart.held = [] → (s.hart.getX a).toNat % 4096 = 0 → inAperture (s.hart.getX a).toNat = false →
    let bs := s.areaBytes (s.hart.pc.toNat + 4) false
    (∀ k, 8 * k < bs.length → s.areaAt (((s.hart.getX a).toNat + 8 * k) % 2 ^ 64) (min 8 (bs.length - 8 * k)) 2 (pa k)) →
    ∃ t, exec (.ctxsave a) s = .next t ∧
      s.wrote t ((List.range ((bs.length + 7) / 8)).flatMap (fun k => (upFrom (pa k) (min 8 (bs.length - 8 * k))).zip ((bs.drop (8 * k)).take 8))) ∧
      (∀ l ∈ t.links, l ∈ s.links ∧ l.1 ≠ s.hart.hid) ∧ Wakes s t ∧
      t = { s with
        mem := t.mem, links := t.links, poisoned := t.poisoned, window := t.window, homes := t.homes, dead := t.dead, xlat := t.xlat
        freeN := t.freeN, agenda := t.agenda, ctxPoison := t.ctxPoison
        hart := { s.hart with links := [], pc := s.hart.pc + 4, resumeMid := false } }) ∧
  (∀ (s : State) (pc : Nat) (whole : Bool), let bs := s.areaBytes pc whole
    fieldOf bs 0 4 = 1 ∧ fieldOf bs 8 8 = bs.length % 2 ^ 64 ∧ fieldOf bs 16 8 = s.hart.poolpart.toNat ∧
    (∀ r, 1 ≤ r → r < 32 → fieldOf bs (72 + 8 * r) 8 = (s.hart.getX r).toNat) ∧ fieldOf bs 328 8 = pc % 2 ^ 64 ∧
    ∀ r, r < 32 → fieldOf bs (336 + 16 * r) 16 = (s.hart.getF r).toNat) ∧
  (∀ (s : State) (a : Nat) (pa : Nat → Nat) (bs : List Byte), s.quiet → (s.hart.getX a).toNat % 4096 = 0 →
    inAperture (s.hart.getX a).toNat = false → 64 ≤ bs.length → bs.length ≤ 4194304 → fieldOf bs 8 8 = bs.length → s.hart.acceptArea bs ≠ none →
    (∀ k, 8 * k < bs.length → s.areaAt (((s.hart.getX a).toNat + 8 * k) % 2 ^ 64) (min 8 (bs.length - 8 * k)) 1 (pa k) ∧
      s.poisonAt (pa k) (min 8 (bs.length - 8 * k)) = none ∧
      (upFrom (pa k) (min 8 (bs.length - 8 * k))).map s.readByte = (bs.drop (8 * k)).take 8) →
    ∃ t, exec (.ctxload a) s = .next t ∧ (∀ r, 1 ≤ r → r < 32 → (t.hart.getX r).toNat = fieldOf bs (72 + 8 * r) 8) ∧
      t.hart.pc.toNat = fieldOf bs 328 8 ∧
      (∀ r, r < 32 → (t.hart.getF r).toNat = fieldOf bs (336 + 16 * r) 8 + 2 ^ 64 * (fieldOf bs (344 + 16 * r) 1 % 4)) ∧
      t.hart.lcore = s.hart.lcore ∧ t.hart.launchid = s.hart.launchid ∧ t.hart.poolpart = s.hart.poolpart ∧ t.hart.gbase = s.hart.gbase ∧
      t.hart.links = [] ∧ t.links = s.links.filter (fun l => l.1 ≠ s.hart.hid) ∧ Wakes s t ∧
      t = { s with links := t.links, homes := t.homes, xlat := t.xlat, freeN := t.freeN, agenda := t.agenda, hart := t.hart }) ∧
  (∀ (s : State) (i : Instr) (a acc : Nat), (i = .ctxsave a ∧ acc = 2 ∧ s.hart.held = []) ∨ (i = .ctxload a ∧ acc = 1) → s.hart.inSegment = false →
    s.hart.engine = [] → s.hart.plain →
    ((s.hart.getX a).toNat % 4096 ≠ 0 → ∃ t, exec i s = .next t ∧ TookTrap s t 0x08 acc (s.hart.getX a).toNat) ∧
    ((s.hart.getX a).toNat % 4096 = 0 → inAperture (s.hart.getX a).toNat = true →
      ∃ t, exec i s = .next t ∧ TookTrap s t 0x0d acc (s.hart.getX a).toNat))

/-- R174, R351 to R355, R392 to R394, R398: the start write sets `st` to 1, and the start then starts the job of a legal descriptor or is refused with its
code; the write is ignored in another state; `cancel`, `hold` and `resume`, TDISP, the link, the binding and the reset of a partition act as their
rules say. The model's choices: the order in which a start write's refusals are decided (log 11); entering RUN without a partition leaves the slot
outside RUN (log 6); a binding that may not be made is ignored (log 41); the assignment of blocks to worlds acts on nothing (log 52); the values of a
port (log 7); a reset that comes during a drain ends with it (log 60). -/
def Obligations.JobControl : Prop :=
  (∀ (s : State) (i desc : Nat) (d : JobDesc) (ps : List Phase) (b : LaunchBlock) (pas : List Nat) (cl : Nat), s.startable i desc d ps →
    let j := d.job ps ((upFrom desc 64).map s.readByte ++ ps.flatMap (fun p => leBytes (phaseWord p) 16))
    let u := s.updSlot i (fun sl => { sl with job := some j })
    u.jobRange i d.lb 64 1 = some pas → (∀ q ∈ pas, ∀ l ∈ s.poisoned, l.1 ≠ lineOf q) →
    leNat (pas.map s.readByte) = b.word → b.legal → (b.gang = true → b.harts ≤ 768) → b.waits = [noHandle, noHandle, noHandle, noHandle] →
    (ps.headD ⟨false, 0, 0, 0, 0, 0, .running, false⟩).clus.testBit cl = true →
    (∀ k, k < cl → (ps.headD ⟨false, 0, 0, 0, 0, 0, .running, false⟩).clus.testBit k = false) →
    ∃ t j' ws, exec (.jstart i none) s = .next t ∧ Accepted t i cl j.begun j' [b.kept] none 1 ∧
      s.onlySlot t i { s.slotOf i with st := 2, jerr := 0, held := false, view := u.viewBytes i, job := some j' } ∧
      t.agenda = s.agenda ++ ws ++ (if (s.slotOf i).pendCancel then [.jctlCancel i] else if (s.slotOf i).pendHold then [.jctlHold i] else []) ++
        (if s.topo = [] then [] else [.viewUpdate i []]) ∧ (∀ k ∈ ws, ∃ c l q, k = .bankWake c l q) ∧
      (∀ k, k ∈ t.keys ↔ k ∈ s.keys ∨ (k = i ∧ d.sec = true)) ∧
      ((ps.headD ⟨false, 0, 0, 0, 0, 0, .running, false⟩).timed = false → t.cores = s.cores) ∧
      t = { s with slots := t.slots, cores := t.cores, clusters := t.clusters, keys := t.keys, freeN := t.freeN, agenda := t.agenda }) ∧
  (∀ (s : State) (i desc : Nat), s.slots.length = 6 →
    (i < 6 → (s.slotOf i).st = 0 ∨ (s.slotOf i).st = 4 → ∃ t, exec (.jstart i (some desc)) s = .next t ∧
      s.onlySlot t i { s.slotOf i with st := 1, desc := desc } ∧ t = { s with slots := t.slots, agenda := s.agenda ++ [.jstart i none] }) ∧
    ((s.slotOf i).st ≠ 0 → (s.slotOf i).st ≠ 4 → exec (.jstart i (some desc)) s = .next s) ∧
    ((s.slotOf i).st ≠ 1 → exec (.jstart i none) s = .next s) ∧
    (i < 6 → (s.slotOf i).st = 1 →
      ((s.slotOf i).clus = 0 → ∃ t, exec (.jstart i none) s = .next t ∧ s.startRefusedWith t i 9 0) ∧
      (0 < (s.slotOf i).clus → (∃ b, ((b < 6 ∧ (s.slotOf i).clus.testBit b = true) ∨ b = 6 ∨ b = 8 ∨ b = 9) ∧ s.readyReg.getLsbD b = false) →
        ∃ t, exec (.jstart i none) s = .next t ∧ s.startRefusedWith t i 6 0))) ∧
  (∀ (s : State) (i c : Nat),
    ((s.slotOf i).st = 2 → s.record i 3 0 = some (c, .running) → ∃ t, exec (.jctlCancel i) s = .next t ∧ s.cancelling t i 3 0 c ∧
      Instr.partitionReset i 1 ∈ t.agenda ∧ t = { s with slots := t.slots, agenda := t.agenda }) ∧
    ((s.slotOf i).st = 1 → ∃ t, exec (.jctlCancel i) s = .next t ∧ s.onlySlot t i { s.slotOf i with pendCancel := true } ∧
      t = { s with slots := t.slots }) ∧
    ((s.slotOf i).st ≠ 1 → (s.slotOf i).st ≠ 2 → exec (.jctlCancel i) s = .next s) ∧
    ((s.slotOf i).st = 2 → ∃ t, exec (.jctlHold i) s = .next t ∧ s.onlySlot t i { s.slotOf i with held := true, pendHold := false } ∧
      (∀ x ∈ s.harts, x.slot = i → x.preempted = false → Instr.preemption x.hid ∈ t.agenda) ∧ t = { s with slots := t.slots, agenda := t.agenda }) ∧
    ((s.slotOf i).st = 1 → ∃ t, exec (.jctlHold i) s = .next t ∧ s.onlySlot t i { s.slotOf i with pendHold := true } ∧ t = { s with slots := t.slots }) ∧
    ((s.slotOf i).st ≠ 1 → (s.slotOf i).st ≠ 2 → exec (.jctlHold i) s = .next s) ∧
    (∃ t, exec (.jctlResume i) s = .next t ∧ s.onlySlot t i { s.slotOf i with held := false, pendHold := false } ∧ t = { s with slots := t.slots }) ∧
    (∃ t, exec (.tdispEnterRun i) s = .next t ∧ s.onlySlot t i { s.slotOf i with tdisp := decide ((s.slotOf i).clus ≠ 0) } ∧
      t = { s with slots := t.slots }) ∧
    ((s.slotOf i).tdisp = false → exec (.tdispExitRun i) s = .next s) ∧
    ((s.slotOf i).tdisp = true → s.record i 3 0 = some (c, .running) → ∃ t, exec (.tdispExitRun i) s = .next t ∧ s.cancelling t i 3 0 c ∧
      (t.slotOf i).tdisp = false ∧ Instr.partitionReset i 2 ∈ t.agenda ∧ t = { s with slots := t.slots, agenda := t.agenda })) ∧
  (∀ (s : State) (why : Nat), ∃ t, exec (.hostLinkFailure why) s = .next t ∧ s.logged t 10 7 0 why 0 ∧
    (∀ k ∈ s.agenda, k ∈ t.agenda) ∧ (∀ k, k < 6 → Instr.tdispExitRun k ∈ t.agenda) ∧
    (∀ i j c, i < 6 → s.jobOf i = some j → j.sec = true → (s.slotOf i).tdisp = false → s.record i 3 0 = some (c, .running) →
      s.cancelling t i 3 0 c ∧ Instr.partitionReset i 2 ∈ t.agenda) ∧
    ((∀ i j, i < 6 → s.jobOf i = some j → j.sec = true → (s.slotOf i).tdisp = true) →
      t.slots = s.slots ∧ t.agenda = s.agenda ++ (List.range 6).map Instr.tdispExitRun) ∧
    t = { s with slots := t.slots, dusk := t.dusk, dcnt := t.dcnt, agenda := t.agenda }) ∧
  (∀ (s : State) (i part clus : Nat) (bs : List Block) (rs : List Region), s.slots.length = 6 → i < 6 →
    ((s.slotOf i).st = 0 ∨ (s.slotOf i).st = 4 → s.mayBind i part clus → ∃ t, exec (.partitionBinding i part ⟨clus, bs⟩ rs) s = .next t ∧
      s.onlySlot t i { (if (s.slotOf i).part = part then s.slotOf i else { s.slotOf i with view := [], job := none, report := [] } : JobSlot) with
        part := part, clus := clus, regions := (rs.take 16).map (fun r => { r with base := r.base % 2 ^ 36, lim := r.lim % 2 ^ 36 }) } ∧
      (∀ q, t.portAt q = if ∃ c ∈ portClusters q, ((s.slotOf i).clus ||| clus).testBit c = true then { s.portAt q with prt := t.portPart q }
        else s.portAt q) ∧
      (∀ q, portClusters q ≠ [] → (∀ c ∈ portClusters q, clus.testBit c = true) → t.portPart q = part) ∧
      t.topo = s.topo.map (fun e =>
        if e.mod = s.module_ ∧ e.port < 96 ∧ ((s.slotOf i).clus ||| clus).testBit (e.port / 16) = true then { e with prt := t.portPart e.port } else e) ∧
      t = { s with
        topo := t.topo, slots := t.slots, ports := t.ports, secureBlocks := bs, agenda := s.agenda ++ (if s.topo = [] then [] else [.viewUpdate i []]) }) ∧
    ((s.slotOf i).st ≠ 0 → (s.slotOf i).st ≠ 4 → exec (.partitionBinding i part ⟨clus, bs⟩ rs) s = .next s) ∧
    (part < 65536 → clus < 64 → ¬ s.mayBind i part clus → exec (.partitionBinding i part ⟨clus, bs⟩ rs) s = .next s) ∧
    (∀ why, (s.slotOf i).sink = false → ∃ t us, exec (.partitionReset i why) s = .next t ∧ us ≤ 25 ∧
      s.onlySlot t i { s.slotOf i with sink := true, why := why } ∧
      t = { s with slots := t.slots, freeN := s.freeN + 1, agenda := s.agenda ++ [.partitionDrainEnd i us] }) ∧
    (∀ why, (s.slotOf i).sink = true → ∃ t, exec (.partitionReset i why) s = .next t ∧
      s.onlySlot t i { s.slotOf i with resets := (s.slotOf i).resets ++ [why] } ∧ t = { s with slots := t.slots }) ∧
    (∀ us, ((s.slotOf i).sink = false → exec (.partitionDrainEnd i us) s = .next s) ∧
      ((s.slotOf i).sink = true → ∃ t, exec (.partitionDrainEnd i us) s = .next t ∧
        s.onlySlot t i (if 4 ∈ (s.slotOf i).why :: (s.slotOf i).resets ∧ (s.slotOf i).st = 3 then
            { s.slotOf i with sink := false, why := 0, resets := [], st := 4, held := false, pendCancel := false, pendHold := false }
          else { s.slotOf i with sink := false, why := 0, resets := [] }) ∧
        s.loggedAll t (((s.slotOf i).why :: (s.slotOf i).resets).map (fun w => (9, 9, 0, (s.slotOf i).part % 65536 + 65536 * w, us))) ∧
        (∀ q, t.portAt q = if q ∈ portsOf (s.slotOf i).clus then { s.portAt q with prt := 0xffff } else s.portAt q) ∧
        (∀ x, x ∈ t.agenda ↔ x ∈ s.agenda ∧ travels (s.slotOf i).part x = false ∧ s.reportsTo i x = false) ∧
        (∀ u, u ∈ t.unacked ↔ u ∈ s.unacked ∧ u.slot ≠ i) ∧ (∀ m, m ∈ t.messages ↔ m ∈ s.messages ∧ m.slot ≠ i) ∧
        (∀ w, w ∈ t.hostWait ↔ w ∈ s.hostWait ∧ ∀ p, w = .packet p → p.part ≠ (s.slotOf i).part) ∧
        t.hart = (if s.hart.slot = i then s.hart.unheld else s.hart) ∧
        t.others = s.others.map (fun h => if h.slot = i then h.unheld else h) ∧
        t = { s with
          slots := t.slots, ports := t.ports, unacked := t.unacked, messages := t.messages, hostWait := t.hostWait, hart := t.hart, others := t.others,
          agenda := t.agenda, dusk := t.dusk, dcnt := t.dcnt }))) ∧
  (∀ clus k, k < 96 → (k ∈ portsOf clus ↔ clus.testBit (k / 16) = true))

/-- R22, R122, R143, R154, R350, R352, R355, R378, R384, R393, R397, R398: the host reads the registers of BAR 0 and the bytes of BAR 2; its reads and
writes wait at claimed bytes, are served in order, time out, and move nothing outside non-secure regions; the host window completes or fails, and an
address beyond 52 bits is a fault. The model's choices: a posted write outside every region leaves nothing (log 41); a completion is that of the
oldest outstanding write of each byte (log 60). -/
def Obligations.HostAccess : Prop :=
  (∀ (s : State) (o v tag : Nat), noWrite s.hostWait → s.bar0 o v →
    exec (.hostRead 0 o 8 tag) s = .next { s with toHost := s.toHost ++ [.completion tag 0 (leBytes v 8)] }) ∧
  (∀ (s : State) (o n tag : Nat), ¬ noWrite s.hostWait →
    exec (.hostRead 0 o n tag) s = .next { s with hostWait := s.hostWait ++ [.register o n tag] }) ∧
  (∀ (s : State) (tag : Nat), noWrite s.hostWait →
    (s.dcnt ≤ s.dsel.toNat ∨ s.dsel.toNat + 8192 < s.dcnt →
      exec (.hostRead 0 0x820 32 tag) s = .next { s with toHost := s.toHost ++ [.completion tag 0 (List.replicate 32 0)] }) ∧
    (∀ e, s.dsel.toNat < s.dcnt → s.dcnt ≤ s.dsel.toNat + 8192 → s.dusk.find? (fun x => x.n = s.dsel.toNat) = some e →
      exec (.hostRead 0 0x820 32 tag) s = .next { s with toHost := s.toHost ++ [.completion tag 0 (leBytes e.n 8 ++ leBytes e.time.toNat 8 ++
        leBytes e.etype 2 ++ leBytes e.blk 1 ++ leBytes e.inst 1 ++ leBytes e.a.toNat 4 ++ leBytes e.b.toNat 8)] })) ∧
  (∀ (s : State) (space a n tag : Nat), space ≠ 0 →
    ((∃ b, a ≤ b ∧ b < a + n ∧ s.reachable b = false) →
      exec (.hostRead space a n tag) s = .next { s with toHost := s.toHost ++ [.completion tag 1 []] }) ∧
    ((∀ b, a ≤ b → b < a + n → s.reachable b = true) →
      ((∃ b, s.firstClaimed a n b) ∨ ¬ noWrite s.hostWait →
        exec (.hostRead space a n tag) s = .next { s with hostWait := s.hostWait ++ [.read a n tag] }) ∧
      (s.unclaimed a n → noWrite s.hostWait → s.poisonAt a n = none → ∃ t, exec (.hostRead space a n tag) s = .next t ∧ Wakes s t ∧
        t = { s with toHost := s.toHost ++ [.completion tag 0 ((upFrom a n).map s.readByte)], agenda := t.agenda }) ∧
      (s.unclaimed a n → noWrite s.hostWait → s.poisonAt a n ≠ none →
        exec (.hostRead space a n tag) s = .next { s with toHost := s.toHost ++ [.completion tag 3 []] }))) ∧
  (∀ (s : State) (a : Nat) (bs : List Byte) (relaxed : Bool),
    ((∃ b, a ≤ b ∧ b < a + bs.length ∧ s.reachable b = false) → exec (.hostPostedWrite a bs relaxed) s = .next s) ∧
    ((∀ b, a ≤ b → b < a + bs.length → s.reachable b = true) →
      ((∃ b, s.firstClaimed a bs.length b) ∨ (relaxed = false ∧ ¬ noWrite s.hostWait) →
        exec (.hostPostedWrite a bs relaxed) s = .next { s with hostWait := s.hostWait ++ [.write a bs relaxed] }) ∧
      (s.unclaimed a bs.length → (relaxed = true ∨ noWrite s.hostWait) → s.chans = [] → ∃ t, exec (.hostPostedWrite a bs relaxed) s = .next t ∧
        s.wrote t ((upFrom a bs.length).zip bs) ∧ Wakes s t ∧ s.hostWrote t))) ∧
  (∀ (s : State) (k : Nat),
    (∀ a n tag, s.hostWait[k]? = some (.read a n tag) → s.unclaimed a n → noWrite (s.hostWait.take k) → s.poisonAt a n = none →
      ∃ t, exec (.hostAccessAfterClaim k) s = .next t ∧ Wakes s t ∧ t = { s with
        hostWait := s.hostWait.eraseIdx k, toHost := s.toHost ++ [.completion tag 0 ((upFrom a n).map s.readByte)], agenda := t.agenda }) ∧
    (∀ o v tag, s.hostWait[k]? = some (.register o 8 tag) → noWrite (s.hostWait.take k) → s.bar0 o v → exec (.hostAccessAfterClaim k) s =
      .next { s with hostWait := s.hostWait.eraseIdx k, toHost := s.toHost ++ [.completion tag 0 (leBytes v 8)] }) ∧
    (∀ a bs relaxed, s.hostWait[k]? = some (.write a bs relaxed) → s.unclaimed a bs.length → (relaxed = true ∨ noWrite (s.hostWait.take k)) →
      s.chans = [] → ∃ t, exec (.hostAccessAfterClaim k) s = .next t ∧ s.wrote t ((upFrom a bs.length).zip bs) ∧ Wakes s t ∧
        ({ s with hostWait := s.hostWait.eraseIdx k } : State).hostWrote t) ∧
    (∀ p : Packet, s.hostWait[k]? = some (.packet p) → p.kind = 1 → s.waitClaimed (.packet p) = false → s.comes p →
      (∀ w ∈ s.hostWait.eraseIdx k, w.streamOf p = false) →
      exec (.hostAccessAfterClaim k) s = exec (.putPacket p) { s with hostWait := s.hostWait.eraseIdx k }) ∧
    (s.hostWait.length ≤ k → exec (.hostAccessAfterClaim k) s = .next s)) ∧
  (∀ (s : State) (k a b : Nat),
    (∀ n tag, s.hostWait[k]? = some (.read a n tag) → s.firstClaimed a n b → ∃ t, exec (.hostClaimTimeout k) s = .next t ∧
      s.logged t 4 2 (s.homeCluster b) (2 ^ 24 * homeSlice b) b ∧ t.hostWait = s.hostWait.eraseIdx k ∧ t.toHost = s.toHost ++ [.completion tag 2 []] ∧
      OnlyWaits s t ∧ t = { s with dusk := t.dusk, dcnt := t.dcnt, hostWait := t.hostWait, toHost := t.toHost, agenda := t.agenda }) ∧
    (∀ bs relaxed, s.hostWait[k]? = some (.write a bs relaxed) → s.firstClaimed a bs.length b → ∃ u t, exec (.hostClaimTimeout k) s = .next t ∧
      s.logged u 4 2 (s.homeCluster b) (1 + 2 ^ 24 * homeSlice b) b ∧ u.logged t 10 7 0 4 0 ∧ t.hostWait = s.hostWait.eraseIdx k ∧
      t.toHost = s.toHost ++ [.aer a] ∧ OnlyWaits s t ∧
      t = { s with dusk := t.dusk, dcnt := t.dcnt, hostWait := t.hostWait, toHost := t.toHost, agenda := t.agenda }) ∧
    (∀ n tag, s.hostWait[k]? = some (.read a n tag) → s.unclaimed a n → exec (.hostClaimTimeout k) s = .next s)) ∧
  (∀ (s : State) (pa n err : Nat) (w : Bool),
    (pa < Config.hostBase ∨ Config.physEnd < pa + n → exec (.hostWindowCompletion pa n err w) s = .fault .noSuchAddress) ∧
    (Config.hostBase ≤ pa → pa + n ≤ Config.physEnd →
      (w = true → ∃ t, exec (.hostWindowCompletion pa n err w) s = .next t ∧
        (∀ q, q ∈ t.window ↔ if pa ≤ q.1 ∧ q.1 < pa + n then 1 < q.2.length ∧ ∃ vs, (q.1, vs) ∈ s.window ∧
          q.2 = (if err ≠ 0 then vs.take 1 ++ vs.drop 2 else vs.drop 1) else q ∈ s.window) ∧
        (err = 0 → t = { s with window := t.window }) ∧
        (err ≠ 0 → s.logged t 10 7 0 3 (pa - Config.hostBase) ∧ t = { s with window := t.window, mem := t.mem, dusk := t.dusk, dcnt := t.dcnt } ∧
          ∀ b, (∀ v, pa ≤ b → b < pa + n → (b, v) ∈ s.window → (∀ v', (b, v') ∈ s.window → v' = v) →
              mapGet 0 t.mem b = (v.take 1 ++ v.drop 2).getLastD 0) ∧
            ((b < pa ∨ pa + n ≤ b ∨ ∀ v, (b, v) ∉ s.window) → mapGet 0 t.mem b = mapGet 0 s.mem b))) ∧
      (w = false → ∃ t, exec (.hostWindowCompletion pa n err w) s = .next t ∧
        (∀ l, l ∈ t.poisoned ↔ (l ∈ s.poisoned ∧ ∀ b, pa ≤ b → b < pa + n → lineOf b ≠ l.1) ∨
          (err ≠ 0 ∧ l.2 = 6 ∧ ∃ b, pa ≤ b ∧ b < pa + n ∧ lineOf b = l.1)) ∧
        (err = 0 → t = { s with poisoned := t.poisoned }) ∧
        (err ≠ 0 → 0 < n → lineOf (pa + n - 1) = lineOf pa →
          s.logged t 6 2 (s.homeCluster (lineOf pa)) (6 + 256 * homeSlice (lineOf pa)) (lineOf pa)) ∧
        t = { s with poisoned := t.poisoned, dusk := t.dusk, dcnt := t.dcnt })))

/-- R356 to R358, R395: the security processor answers the nine SPDM requests in their order, signs what R357 signs over one transcript hash, measures what
its table names, hands a session's secret to the job's report area, and answers what it cannot serve with ERROR; the codes are the model's (log 9). -/
def Obligations.SpdmResponder : Prop :=
  (∀ s : State, s.readyReg.getLsbD 8 = true →
    (∃ t, exec .getVersion s = .next t ∧ s.spdmAnswer t [0x84] 0x04 [0x13] { s.spdm with stage := 1, transcript := [], session := none }) ∧
    (1 ≤ s.spdm.stage → ∃ t, exec .getCapabilities s = .next t ∧ s.spdmAnswer t [0xe1] 0x61 [] { s.spdm with stage := 2 }) ∧
    (∀ hash, 2 ≤ s.spdm.stage → hash.testBit 1 = true → ∃ t, exec (.negotiateAlgorithms hash) s = .next t ∧
      s.spdmAnswer t ([0xe3] ++ leBytes hash 4) 0x63 [2, 0, 0, 0] { s.spdm with stage := 3 }) ∧
    (3 ≤ s.spdm.stage →
      (∃ t, exec .getDigests s = .next t ∧
        s.spdmAnswer t [0x81] 0x01 (sha384 (Config.certificate 0) ++ sha384 (Config.certificate 1)) s.spdm) ∧
      (∀ chain off len, chain ≤ 1 → ∃ t, exec (.getCertificate chain off len) s = .next t ∧
        s.spdmAnswer t ([0x82] ++ leBytes chain 1 ++ leBytes off 2 ++ leBytes len 2) 0x02 (((Config.certificate chain).drop off).take len) s.spdm) ∧
      (∀ slot nonce, slot ≤ 1 → ∃ t r, exec (.challenge slot nonce) s = .next t ∧ r = exactly 32 (Config.randomBytes s.spdm.draws) ∧
        s.spdmSigned t ([0x83] ++ leBytes slot 1 ++ leBytes nonce 32) 0x03 (sha384 (Config.certificate slot) ++ r)
          { s.spdm with draws := s.spdm.draws + 1 }) ∧
      (∀ slot index nonce bs, s.measures slot index bs → ∃ t, exec (.getMeasurements slot index nonce) s = .next t ∧
        s.spdmSigned t ([0xe0] ++ leBytes slot 1 ++ leBytes index 1 ++ leBytes nonce 32) 0x60 bs s.spdm) ∧
      (∀ slot share, slot ≤ 1 → ∃ t r secret, exec (.keyExchange slot share) s = .next t ∧ r = exactly 32 (Config.randomBytes s.spdm.draws) ∧
        secret = exactly 64 (Config.sessionSecret s.spdm.draws share) ∧
        s.spdmSigned t ([0xe4] ++ leBytes slot 1 ++ leBytes share 48) 0x64 r
          { s.spdm with draws := s.spdm.draws + 1, session := some (s.spdm.draws, secret) }) ∧
      (∀ slot d secret, s.spdm.session = some (d, secret) → ∃ u t, exec (.finish slot) s = .next t ∧
        u.spdmAnswer t [0xe5] 0x65 [] { s.spdm with session := none } ∧
        Wakes s u ∧
        u = { s with mem := u.mem, links := u.links, poisoned := u.poisoned, window := u.window, dead := u.dead, agenda := u.agenda } ∧
        (∀ j pas, s.jobOf slot = some j → j.rpt ≠ 0 → (s.slotOf slot).st = 2 → s.viewRange slot j.rpt 64 = some pas → s.wrote u (pas.zip secret)) ∧
        ((s.slotOf slot).st ≠ 2 → u = s)))) ∧
  (∀ (s : State) (i : Instr) (n : Nat),
    (i, n) ∈ [(Instr.getVersion, 0), (.getCapabilities, 1), (.getDigests, 3)] ∨ (∃ h, (i, n) = (.negotiateAlgorithms h, 2)) ∨
      (∃ a b c, (i, n) = (.getCertificate a b c, 3)) ∨ (∃ a b, (i, n) = (.challenge a b, 3)) ∨ (∃ a b c, (i, n) = (.getMeasurements a b c, 3)) ∨
      (∃ a b, (i, n) = (.keyExchange a b, 3)) ∨ (∃ a, (i, n) = (.finish a, 3)) →
    (s.readyReg.getLsbD 8 = false ∨ s.spdm.stage < n) → exec i s = .next { s with toHost := s.toHost ++ [.spdm 0x7f [4]] }) ∧
  (∀ (s : State) (code : Nat),
    exec (.unsupportedSpdmRequest code) s = .next { s with toHost := s.toHost ++ [.spdm 0x7f [7, BitVec.ofNat 8 code]] })

/-- R5, R22, R65, R68, R171 to R173, R350, R356, R358, R381, R384, R395 to R398: module reset keeps the dusk record and counts a boot; readiness bits, the
dusk clear, the host's register write, the levels, the scrub, the view, the banks, lane retirement and the lane count act as their rules say. The
model's choices: the banks' state and the scrub count (logs 3, 4); what reset keeps (log 41); the place of the view's tables (log 51); a core with
fewer than 16 healthy lanes keeps `lmax` 16 (log 40); cores with a legacy launch in common change together (log 53); the numbers and counts in the
events of errors (log 52). -/
def Obligations.ModuleEvents : Prop :=
  (∀ s : State, ∃ t, exec .moduleReset s = .next t ∧ (s.keys = [] → t.mem = s.mem ∧ t.dead = s.dead ∧ t.freeN = s.freeN) ∧
    (∀ i pa, i ∈ s.keys → (∃ r ∈ s.secureMemory i, r.1 ≤ pa ∧ pa < r.2) → ∃ r ∈ t.dead, covered pa r = true) ∧
    t = { State.reset with
      dusk := s.dusk, dcnt := s.dcnt, boots := s.boots + 1, mem := t.mem, dead := t.dead, poisoned := s.poisoned, toHost := s.toHost, freeN := t.freeN,
      nextHid := s.nextHid } ∧
    ∀ why reading, ∃ u v, s.logged u 13 9 0 (3 + 4 * (why % 64)) reading ∧ u = { s with dusk := u.dusk, dcnt := u.dcnt } ∧
      exec .moduleReset u = .next v ∧ exec (.thermalTrip why reading) s = .next v) ∧
  (∀ (s : State) (bit failed : Nat),
    (bit < 16 → (bit ≠ 8 ∨ failed = 0) → ∃ t, exec (.blockReady bit failed) s = .next t ∧ t = { s with readyReg := t.readyReg } ∧
      ∀ k, k < 16 → t.readyReg.getLsbD k = (decide (k = bit) || s.readyReg.getLsbD k)) ∧
    (failed ≠ 0 → ∃ t, exec (.blockReady 8 failed) s = .next t ∧ s.logged t 12 8 0 (1 + 256 * failed) 0 ∧ t = { s with dusk := t.dusk, dcnt := t.dcnt })) ∧
  (∀ s : State, exec .dclr s = .next { s with dusk := [], dcnt := 0 }) ∧
  (∀ (s : State) (off val : Nat), exec (.hostRegisterWrite off val) s =
    .next (if off = 0x800 then { s with dsel := BitVec.ofNat 64 val } else s)) ∧
  (∀ (s : State) (lvl why reading : Nat),
    (s.health < lvl → lvl ≤ 2 → ∃ t, exec (.thermalLevelChange lvl why reading) s = .next t ∧ s.logged t 13 9 0 (lvl + 4 * (why % 64)) reading ∧
      t.health = lvl ∧
      (∀ c, t.clusterOf c = if c < 6 ∧ (∃ i, s.slotOfCluster c = some i ∧ s.timedIn i = true) then { s.clusterOf c with next := 32 }
        else s.clusterOf c) ∧
      (lvl = 2 → ∀ x ∈ s.harts, x.slot < 6 → x.preempted = false → Instr.preemption x.hid ∈ t.agenda) ∧ (lvl ≠ 2 → t.agenda = s.agenda) ∧
      t = { s with health := lvl, dusk := t.dusk, dcnt := t.dcnt, clusters := t.clusters, agenda := t.agenda }) ∧
    (lvl < s.health → ∃ t, exec (.levelFall lvl why reading) s = .next t ∧ s.logged t 13 9 0 (lvl + 4 * (why % 64)) reading ∧
      t = { s with health := lvl, dusk := t.dusk, dcnt := t.dcnt })) ∧
  (∀ (s : State) (cl slice bank : Nat),
    (∃ t, exec (.scrub cl ⟨slice, []⟩) s = .next t ∧ (∀ k, mapGet 0 t.scrubs k = mapGet 0 s.scrubs k + (if k = 64 * cl + slice then 1 else 0)) ∧
      t = { s with scrubs := t.scrubs }) ∧
    (∀ a hard, physExists (lineOf a) = true → s.homeCluster (lineOf a) = cl → homeSlice (lineOf a) = slice →
      let kind := if lineOf a < Config.mainBytes then 7 else 6
      let blk := if lineOf a < Config.mainBytes then 3 else 2
      let n := mapGet 0 s.fixes (64 * cl + slice) + 1
      ∃ t, exec (.scrub cl ⟨slice, [(a, hard)]⟩) s = .next t ∧
        t = { s with scrubs := t.scrubs, fixes := t.fixes, poisoned := t.poisoned, dusk := t.dusk, dcnt := t.dcnt } ∧
        (hard = true → t.fixes = s.fixes ∧ (∀ l, l ∈ t.poisoned ↔ (l ∈ s.poisoned ∧ l.1 ≠ lineOf a) ∨ l = (lineOf a, kind)) ∧
          s.logged t 6 blk cl (kind + 256 * slice) (lineOf a)) ∧
        (hard = false → t.poisoned = s.poisoned ∧ (∀ k, mapGet 0 t.fixes k = if k = 64 * cl + slice then n else mapGet 0 s.fixes k) ∧
          s.logged t 5 blk cl (kind + 256 * slice + 65536 * (n % 65536)) (lineOf a))) ∧
    (∃ t, exec (.bankTwilight cl slice bank) s = .next t ∧ (∀ k, k ∈ t.twilight ↔ k ∈ s.twilight ∨ k = 512 * cl + 8 * slice + bank) ∧
      t = { s with twilight := t.twilight }) ∧
    (∃ t, exec (.bankWake cl slice bank) s = .next t ∧ (∀ k, k ∈ t.twilight ↔ k ∈ s.twilight ∧ k ≠ 512 * cl + 8 * slice + bank) ∧
      t = { s with twilight := t.twilight })) ∧
  (∀ (s w : State) (i : Nat) (changes : List SwitchPort),
    w = { s with topo := changes.foldl mapPort s.topo, agenda := s.agenda ++ (if changes = [] then [] else
      ((List.range 6).filter (fun k => decide (k ≠ i) && (s.jobOf k).isSome)).map (fun k => Instr.viewUpdate k [])) } →
    (∀ j, s.jobOf i = some j → w.topo ≠ [] → ∃ u v x t, exec (.viewUpdate i changes) s = .next t ∧
      w.viewWrote u i j.view 0 (leBytes (w.viewField i 0 4 + 1) 4) true ∧ u.viewWrote v i j.view 4 (w.viewImage i) false ∧
      v.viewWrote x i j.view 0 (leBytes (w.viewField i 0 4 + 2) 4) true ∧
      x.onlySlot t i { x.slotOf i with view := leBytes (w.viewField i 0 4 + 2) 4 ++ w.viewImage i } ∧ t = { x with slots := t.slots }) ∧
    (s.jobOf i = none ∨ w.topo = [] → exec (.viewUpdate i changes) s = .next w)) ∧
  (∀ (m : List SwitchPort) (e f : SwitchPort), f ∈ mapPort m e ↔ f = e ∨ (f ∈ m ∧ ¬ (f.plane = e.plane ∧ f.sw = e.sw))) ∧
  (∀ (s : State) (i : Nat), s.module_ < 65536 → (s.slotOf i).part < 65536 →
    let bs := s.viewImage i
    let ks := s.partitionPorts i
    fieldOf bs 0 2 = s.module_ ∧ fieldOf bs 2 2 = (s.slotOf i).part ∧ fieldOf bs 4 2 = ks.length ∧ fieldOf bs 12 8 = 64 ∧
    fieldOf bs 20 8 = 64 + 8 * ks.length ∧
    ∀ p k e, ks[p]? = some k → s.cableOf k = some e → e.plane < 256 → e.sw < 65536 → (s.portAt k).rko < 256 → (s.portAt k).rki < 256 →
      fieldOf bs (60 + 8 * p) 1 = e.plane ∧ fieldOf bs (61 + 8 * p) 1 = ((s.portAt k).up && e.up).toNat ∧ fieldOf bs (62 + 8 * p) 2 = e.sw ∧
      fieldOf bs (64 + 8 * p) 1 = (s.portAt k).rko ∧ fieldOf bs (65 + 8 * p) 1 = (s.portAt k).rki) ∧
  (∀ (s : State) (cl core lane : Nat) (corrections : Option Nat) (c : CoreInfo), s.coreOf cl core = c →
    (lane ∈ c.retired ∨ 64 ≤ lane ∨ (∃ n, corrections = some n ∧ n ≤ 16) → exec (.laneRetirement cl core lane corrections) s = .next s) ∧
    (lane < 64 → lane ∉ c.retired → (∀ n, corrections = some n → 16 < n) →
      ((∃ h ∈ s.harts, h.resident cl core = true ∧ h.inSegment = true) → ∃ t, exec (.laneRetirement cl core lane corrections) s = .next t ∧
        s.onlyCore t cl core { c with due := c.due ++ [(lane, corrections.getD 0)] } ∧ t = { s with cores := t.cores }) ∧
      ((∀ h ∈ s.harts, h.resident cl core = true → h.inSegment = false) → ∃ t, exec (.laneRetirement cl core lane corrections) s = .next t ∧
        (∀ m, m = (if c.retired.length + 1 ≤ 32 then 32 else 16) →
          t.coreOf cl core = { c with retired := c.retired ++ [lane], lmax := m, lanes := min c.lanes m } ∧
          (∀ k l, Config.cores * k + l ≠ Config.cores * cl + core → t.coreOf k l = s.coreOf k l ∨
            t.coreOf k l = { s.coreOf k l with lanes := min c.lanes m }) ∧
          ((∀ h ∈ s.harts, h.resident cl core = true → s.legacyOf h = false) →
            s.onlyCore t cl core { c with retired := c.retired ++ [lane], lmax := m, lanes := min c.lanes m }) ∧
          s.logged t 14 1 cl (core % 256 + 256 * lane + 65536 * m) (corrections.getD 0)) ∧
        (48 < c.retired.length + 1 → ∀ h ∈ s.harts, h.resident cl core = true → ∀ k ∈ h :: s.unitOf h, Instr.preemption k.hid ∈ t.agenda) ∧
        t = { s with cores := t.cores, dusk := t.dusk, dcnt := t.dcnt, agenda := t.agenda }))) ∧
  (∀ (s : State) (cl core n : Nat),
    (∃ t, exec (.laneCountChange cl core n) s = .next t ∧ t = { s with cores := t.cores } ∧
      (t = s ∨ (t.coreOf cl core).lanes = n ∧ ∀ x ∈ s.harts, ∀ y ∈ s.harts, x.resident cl core = true → s.legacyOf x = true → y.preempted = false →
        y.slot = x.slot → y.launchid = x.launchid → (t.coreOf y.cl y.core).lanes = n)) ∧
    ((∀ h ∈ s.harts, h.resident cl core = true → s.legacyOf h = false) →
      (s.timedCluster cl = false → (∀ h ∈ s.harts, h.resident cl core = true → s.timedIn h.slot = false ∧ h.midConvoy = false) →
        n ≤ (s.coreOf cl core).lmax → (n = 16 ∨ n = 32 ∨ n = 64) →
        ∃ t, exec (.laneCountChange cl core n) s = .next t ∧ s.onlyCore t cl core { s.coreOf cl core with lanes := n } ∧ t = { s with cores := t.cores }) ∧
      (s.timedCluster cl = true ∨ (∃ h ∈ s.harts, h.resident cl core = true ∧ (s.timedIn h.slot = true ∨ h.midConvoy = true)) ∨
          (s.coreOf cl core).lmax < n →
        exec (.laneCountChange cl core n) s = .next s)))

/-- R50, R52, R58 to R63, R119, R141, R147, R148, R282, R285, R310, R331, R364, R379: the placer places the first launch of its queue or resumes a
pre-empted hart, a pre-empted hart leaves its core with its context saved, unless a peer access is still to reach its rows, the selector gives the
turn to the hart that stands before all others with the errors its core finds, a pending source is taken, claims and atomics arrive, the engine copies
line by line, and a collective drain and a barrier let their harts go on. The model's choices: the order of agents and the placer's choices (logs 20, 21 and 53), which of two harts of equal saturated
age comes first (log 40), how many lines a copy moves at once (log 49), the pool row of an item and the count of corrections in a period (log 52). -/
def Obligations.HartEvents : Prop :=
  (∀ (s : State) (cl core grant : Nat),
    (s.candidate cl = none → exec (.launchPlacement cl core grant) s = .next s) ∧
    (∀ i l k, s.candidate cl = some (i, l, none) → l.block.gang = false → l.unplaced < l.block.harts →
      s.findCore i cl l.block.part core l.unplaced l.id = some k →
      ∃ t, exec (.launchPlacement cl core grant) s = .next t ∧ l.newHart i (s.jobTvec i) l.unplaced cl k grant s.nextHid s.placed ∈ t.others ∧
        (∀ h ∈ s.others, h ∈ t.others) ∧ t.hart = s.hart ∧
        ((∀ m j, s.jobOf i = some j → j.launches.find? (fun x => x.id = l.id) = some m → m.block.legacy = false) → t.cores = s.cores) ∧
        t = { s with others := t.others, nextHid := t.nextHid, placed := t.placed, slots := t.slots, cores := t.cores }) ∧
    (∀ i l h k, s.candidate cl = some (i, l, some h) → l.block.gang = false → s.findCore h.slot cl h.poolpart.toNat core h.lcore h.launchid = some k →
      ∃ t y, exec (.launchPlacement cl core grant) s = .next t ∧ t.hartOf h.hid = some y ∧ y.preempted = false ∧ y.cl = cl ∧ y.core = k ∧
        y.gbase = max 64 (min (grant / 64 * 64) y.vlmax) ∧ y.age = 0 ∧ y.order = s.placed ∧ (∀ n, n ≠ h.hid → t.hartOf n = s.hartOf n) ∧
        t = { s with
          hart := t.hart, others := t.others, placed := s.placed + 1, cores := t.cores, agenda := s.agenda ++ [.copyEngineOperation h.hid] })) ∧
  (∀ (s : State) (cl part core k i lc l : Nat), s.findCore i cl part core lc l = some k → s.coreFits (s.timedIn i) cl part k = true ∧
    s.lanesFit i l cl k = true ∧ ∀ c, s.timedCore i lc = some c → k = c) ∧
  (∀ (s : State) (hid : Nat) (x : Hart), (∀ h ∈ s.others, h.status ≠ .vacant) → ((s.hart :: s.others).map (·.hid)).Nodup →
    s.hartOf hid = some x → x.status ≠ .vacant → x.preempted = false →
    ((x.midConvoy = true ∨ x.inSegment = true ∨ x.status = .logPub true ∨ s.awaited hid = true) → ∃ t, exec (.preemption hid) s = .next t ∧
      t.hartOf hid = some { x with preemptDue := true } ∧ (∀ k, k ≠ hid → t.hartOf k = s.hartOf k) ∧ t = { s with hart := t.hart, others := t.others }) ∧
    (x.midConvoy = false → x.inSegment = false → x.status ≠ .logPub true → s.awaited hid = false → ∃ t y, exec (.preemption hid) s = .next t ∧ t.hartOf hid = some y ∧
      y.preempted = true ∧
      (x.engine = [] → x.poison = [] →
        y = { x with
          preempted := true, preemptDue := false, status := y.status, links := [], cur := Cursor.alone, turnOver := true, area := y.area } ∧
        (y.status = x.status ∨ (y.status = .running ∧ (x.status = .stalled ∨ x.status = .logPub false ∨ x.status = .msgRoom ∨ x.status = .halting))) ∧
        fieldOf y.area 0 4 = 1 ∧ fieldOf y.area 8 8 = y.area.length % 2 ^ 64 ∧
        (∀ r, 1 ≤ r → r < 32 → fieldOf y.area (72 + 8 * r) 8 = (x.getX r).toNat) ∧ fieldOf y.area 328 8 = x.pc.toNat ∧
        (∀ k, k ≠ hid → t.hartOf k = s.hartOf k) ∧ t.links = s.links.filter (fun l => l.1 ≠ hid) ∧
        (∀ c ∈ t.chans, ∀ q ∈ c.queue, q.hid = hid → x.status ≠ .logPub false) ∧ (x.status ≠ .logPub false → t.chans = s.chans) ∧
        t = { s with hart := t.hart, others := t.others, links := t.links, chans := t.chans }))) ∧
  (∀ (s : State) (cl core : Nat), s.inTurn = false →
    ((∀ h ∈ s.harts, ¬ (h.ready = true ∧ h.resident cl core = true)) → ∀ es, exec (.issueTurn cl ⟨core, es⟩) s = .next s) ∧
    (s.distinct → (∃ h ∈ s.harts, h.ready = true ∧ h.resident cl core = true) → ∃ t h, exec (.issueTurn cl ⟨core, []⟩) s = .next t ∧ h ∈ s.harts ∧
      h.ready = true ∧ h.resident cl core = true ∧ (∀ k ∈ s.harts, k.ready = true → k.resident cl core = true → turnBefore k h = false) ∧
      t.hart = { h with age := 0, turn := 0, turnOver := false } ∧ t = { s with hart := t.hart, others := t.others } ∧
      ∀ e : SoftError, ((1 ≤ e.kind ∧ e.kind ≤ 5) ∨ e.kind = 8) → e.lane < 64 →
        let bare : Prop := e.kind = 5 ∨ e.kind = 8
        let at_ : Nat := if e.kind = 5 ∨ e.kind = 8 then t.hart.core % 256 else e.lane
        let lane : Nat := if e.kind = 5 ∨ e.kind = 8 then 64 else e.lane
        ∃ u, exec (.issueTurn cl ⟨core, [e]⟩) s = .next u ∧
        (e.hard = true → (⟨e.kind, e.num, e.elem⟩ : Poison) ∈ u.hart.poison ∧
          t.logged u 6 1 t.hart.cl ((if e.kind = 8 then 5 else e.kind) + 256 * at_) (h.poolRow e.kind e.num e.elem) ∧
          u = { t with hart := { t.hart with poison := u.hart.poison, carried := u.hart.carried }, dusk := u.dusk, dcnt := u.dcnt }) ∧
        (e.hard = false → ∀ n, n = mapGet 0 (t.coreOf t.hart.cl t.hart.core).errs lane + 1 →
          mapGet 0 (u.coreOf t.hart.cl t.hart.core).errs lane = n ∧
          t.logged u 5 1 t.hart.cl ((if e.kind = 8 then 5 else e.kind) + 256 * at_ + 65536 * (n % 65536)) (h.poolRow e.kind e.num e.elem) ∧
          (¬ bare → n = 17 → u.agenda = t.agenda ++ [.laneRetirement t.hart.cl t.hart.core e.lane (some n)]) ∧
          ((bare ∨ n ≠ 17) → u.agenda = t.agenda) ∧
          u = { t with cores := u.cores, dusk := u.dusk, dcnt := u.dcnt, agenda := u.agenda }))) ∧
  (∀ (s : State) (code v : Nat), s.hart.midConvoy = false → s.hart.inSegment = false → s.hart.status ≠ .logPub true →
    s.hart.asyncSource = some (code, v) →
    (s.hart.ie = false → exec .asyncInterrupt s = .next s) ∧
    (s.hart.ie = true → ∃ t, exec .asyncInterrupt s = .next t ∧ t.hart.tepc = s.hart.pc &&& ~~~ 3 ∧ t.hart.tcause = BitVec.ofNat 64 (2 ^ 63 + code) ∧
      t.hart.tval = BitVec.ofNat 64 v ∧ t.hart.ie = false ∧ t.hart.tstatus.getLsbD 5 = true ∧ t.hart.intrap = true ∧
      t.hart.pc = s.hart.tvec &&& ~~~ 3 ∧ t.hart.underflows = (if code = 2 then s.hart.underflows.drop 1 else s.hart.underflows) ∧ t.hart.x = s.hart.x ∧
      SameBytes s t ∧ t = { s with links := s.links.filter (fun l => l.1 ≠ s.hart.hid), hart := t.hart })) ∧
  (∀ (s : State) (va n pa : Nat), s.hart.preempted = false → s.mapped va n 2 pa → 0 < n → lineOf (pa + n - 1) = lineOf pa →
    (lineOf pa ∈ s.hart.wcbAge ∨ s.claims.length < Config.sliceEntries) →
    ∃ t, exec (.claimArrival s.hart.hid va n) s = .next t ∧ (∀ b, t.owner b = if pa ≤ b ∧ b < pa + n then s.hart.hid else s.owner b) ∧
      lineOf pa ∈ t.hart.wcbAge ∧ t = { s with claims := t.claims, hart := { s.hart with wcbAge := t.hart.wcbAge } }) ∧
  (∀ (s : State) (va o w x : Nat) (tg : Bool × Nat), s.hart.preempted = false → s.hart.engine = [] → mapWf 0 s.claims = true →
    let n := if w = 1 then 4 else 8
    s.atomicAt' va n 2 tg →
    let r := atomicVal o (s.hart.amoxFmt o w) s.hart.mode s.hart.sat (readView s.view tg.1 tg.2 n) ⟨x % 2 ^ (8 * n), 0⟩
    ∃ t, exec (.atomicArrival s.hart.hid va o w x) s = .next t ∧
      Viewed s t (writeView s.view tg.1 tg.2 n r.1) (fun b => tg.1 = false ∧ tg.2 ≤ b ∧ b < tg.2 + n) ∧ OnlyWaits s t ∧ t = s.memoryOf t) ∧
  (∀ (s : State) (o : EngineOp) (p q : Nat), s.hart.preempted = false → s.hart.engine = [o] → o.kind = .bcopy → o.fault = none → o.done = 0 →
    o.a = ownAddr p → o.d = ownAddr q → s.hart.scratchReady p o.b → s.hart.scratchOk q o.b = true →
    (o.desc = decide (p < q) ∨ p + o.b ≤ q ∨ q + o.b ≤ p) →
    let ls := s.hart.linesLeft o
    ∃ t n, exec (.copyEngineOperation s.hart.hid) s = .next t ∧ n ≤ ls.length ∧ (ls ≠ [] → 0 < n) ∧
      (∀ k, mapGet 0 t.hart.scratch k = if k < 2 ^ 21 ∧ (∃ l ∈ ls.take n, l.1 ≤ ownAddr k ∧ ownAddr k < l.1 + l.2) then
        mapGet 0 s.hart.scratch (p + (k - q)) else mapGet 0 s.hart.scratch k) ∧
      t.hart.engine = (if n = ls.length then [] else [{ o with done := n }]) ∧
      t.agenda = s.agenda ++ (if n = ls.length then [] else [.copyEngineOperation s.hart.hid]) ∧ (s.hart.status = .stalled → t.hart.status = .running) ∧
      t = { s with routes := t.routes, freeN := t.freeN, agenda := t.agenda, hart := { s.hart with
        engine := t.hart.engine, scratch := t.hart.scratch, links := t.hart.links, poison := t.hart.poison, status := t.hart.status } }) ∧
  (∀ (s : State) (o : EngineOp) (p q k : Nat), o.kind = .bcopy → o.done = 0 → o.a = ownAddr p → o.d = ownAddr q →
    p + o.b ≤ 2 ^ 21 → q + o.b ≤ 2 ^ 21 → k < 2 ^ 21 →
    ((∃ l ∈ s.hart.linesLeft o, l.1 ≤ ownAddr k ∧ ownAddr k < l.1 + l.2) ↔ q ≤ k ∧ k < q + o.b)) ∧
  (∀ (s : State) (fq : Nat),
    ((∃ o ∈ s.hart.engine, s.hart.fills o fq = true) → ∃ t, exec (.feedQueueFillResume s.hart.hid fq) s = .next t ∧
      exec (.copyEngineOperation s.hart.hid) s = .next t) ∧
    ((∀ o ∈ s.hart.engine, s.hart.fills o fq = false) → exec (.feedQueueFillResume s.hart.hid fq) s = .next s)) ∧
  (∀ (s : State) (i l : Nat) (k : Launch), s.distinct → s.launchAt i l = some k → k.coll.length = k.live → k.pend = [] →
    (∀ x ∈ s.harts, x.slot = i → x.launchid = l → x.lcore < 768 ∧ ∀ y ∈ s.harts, y.slot = i → y.launchid = l → y.lcore = x.lcore → y = x) →
    ((∀ x ∈ s.harts, x.slot = i → x.launchid = l → x.pending = []) → ∃ t, exec (.collectiveDrain i l) s = .next t ∧ SameBytes s t ∧
      ∀ x ∈ s.harts, t.hartOf x.hid = some (if x.slot = i ∧ x.launchid = l then x.resumed else x)) ∧
    (∀ x q, x ∈ s.harts → x.slot = i → x.launchid = l → x.pending = [q] →
      (∀ y ∈ s.harts, y.slot = i → y.launchid = l → y ≠ x → y.pending = []) → s.unclaimed q.pa (fmtWidth q.fmt / 8) →
      s.poisonAt q.pa (fmtWidth q.fmt / 8) = none →
      let n := fmtWidth q.fmt / 8
      let r := atomicVal q.op q.fmt q.mode q.sat (s.readPhys q.pa n) ⟨q.data, q.tail⟩
      ∃ t, exec (.collectiveDrain i l) s = .next t ∧ s.wrote t ((upFrom q.pa n).zip (leBytes r.1 n)) ∧
        t.hartOf x.hid = some { x.resumed with pending := [], vflags := x.vflags ||| r.2 })) ∧
  (∀ (s : State) (i l b : Nat) (k : Launch), s.launchAt i l = some k →
    ((mapGet [] k.bars b).length = k.live → 0 < k.live → ∃ t, exec (.barrierRelease i l b) s = .next t ∧
      t.hart = (if s.hart.slot = i ∧ s.hart.launchid = l ∧ s.hart.status = .atBar b then s.hart.resumed else s.hart) ∧
      t.others = s.others.map (fun h => if h.slot = i ∧ h.launchid = l ∧ h.status = .atBar b then h.resumed else h) ∧
      (∀ m, t.launchAt i l = some m → mapGet [] m.bars b = []) ∧ t = { s with hart := t.hart, others := t.others, slots := t.slots }) ∧
    ((mapGet [] k.bars b).length ≠ k.live → exec (.barrierRelease i l b) s = .next s))

end
end

