-- ==== Sys2Proof/Laws/Maps.lean ====
section
/-! SUPPORT. Sparse maps: what a write leaves at each key of any list, that every write keeps the canonical form, and that the
canonical form is unique. -/

namespace Sys2Proof.Machine

variable {α : Type} {d : α}

/-- Entries at or below a key are passed over on the way to a higher one. -/
theorem mapGet_dropWhile_gt (m : List (Nat × α)) {k j : Nat} (h : k < j) :
    mapGet d (m.dropWhile (fun e => decide (e.1 ≤ k))) j = mapGet d m j := by
  induction m with
  | nil => rfl
  | cons p r ih =>
    by_cases hp : p.1 ≤ k
    · simp only [List.dropWhile, hp, decide_true, mapGet]
      rw [if_neg (by omega), if_neg (by omega)]; exact ih
    · simp [List.dropWhile, hp]

/-- Once the entries at or below a key are gone, no key up to it is listed. -/
theorem mapGet_dropWhile_le (m : List (Nat × α)) {k j : Nat} (h : j ≤ k) :
    mapGet d (m.dropWhile (fun e => decide (e.1 ≤ k))) j = d := by
  induction m with
  | nil => rfl
  | cons p r ih =>
    by_cases hp : p.1 ≤ k
    · simpa [List.dropWhile, hp] using ih
    · simp only [List.dropWhile, hp, decide_false, mapGet]
      rw [if_neg (by omega), if_pos (by omega)]

variable [DecidableEq α]

/-- A key written reads what was written, whatever the list. -/
@[simp] theorem mapGet_mapSet_self (m : List (Nat × α)) (k : Nat) (v : α) : mapGet d (mapSet d m k v) k = v := by
  induction m with
  | nil => by_cases hv : v = d <;> simp [mapSet, mapGet, hv]
  | cons p r ih =>
    obtain ⟨k', v'⟩ := p
    simp only [mapSet]
    split
    · split
      · next h hv => simp only [mapGet]; rw [if_neg (by omega), if_pos h, hv]
      · simp [mapGet]
    · split
      · split
        · next hv => rw [mapGet_dropWhile_le _ (Nat.le_refl k), hv]
        · simp [mapGet]
      · simp only [mapGet]; rw [if_neg (by omega), if_neg (by omega)]; exact ih

/-- Every other key reads as before, whatever the list. -/
@[simp] theorem mapGet_mapSet_ne (m : List (Nat × α)) (k j : Nat) (v : α) (hj : j ≠ k) :
    mapGet d (mapSet d m k v) j = mapGet d m j := by
  induction m with
  | nil =>
    simp only [mapSet]
    split
    · rfl
    · simp only [mapGet]; rw [if_neg (by omega)]; split <;> rfl
  | cons p r ih =>
    obtain ⟨k', v'⟩ := p
    simp only [mapSet]
    split
    · split
      · rfl
      · simp only [mapGet]; rw [if_neg (by omega)]
        split
        · rw [if_neg (by omega), if_pos (by omega)]
        · rfl
    · split
      · next h =>
        subst h
        split
        · simp only [mapGet]; rw [if_neg (by omega)]
          split
          · rw [mapGet_dropWhile_le _ (by omega)]
          · rw [mapGet_dropWhile_gt _ (by omega)]
        · have e : ¬ k = j := by omega
          simp only [mapGet, e, if_false]
      · simp only [mapGet]
        split
        · rfl
        · split
          · rfl
          · exact ih

/-- What a write leaves at each key. -/
theorem mapGet_mapSet (m : List (Nat × α)) (k j : Nat) (v : α) :
    mapGet d (mapSet d m k v) j = if j = k then v else mapGet d m j := by
  split
  · next h => subst h; exact mapGet_mapSet_self ..
  · next h => exact mapGet_mapSet_ne _ _ _ _ h

/-- A key below every listed one reads the default. -/
theorem mapGet_of_mapWfFrom {m : List (Nat × α)} {lo k : Nat} (hm : mapWfFrom d lo m = true) (hk : k < lo) :
    mapGet d m k = d := by
  cases m with
  | nil => rfl
  | cons p r =>
    simp only [mapWfFrom, Bool.and_eq_true, decide_eq_true_eq] at hm
    simp only [mapGet]
    rw [if_neg (by omega), if_pos (by omega)]

/-- Raising the bound weakens nothing: a list that is canonical from `hi` on is canonical from any lower bound. -/
theorem mapWfFrom_mono {m : List (Nat × α)} {lo hi : Nat} (hm : mapWfFrom d hi m = true) (h : lo ≤ hi) :
    mapWfFrom d lo m = true := by
  cases m with
  | nil => rfl
  | cons p r =>
    simp only [mapWfFrom, Bool.and_eq_true, decide_eq_true_eq] at hm ⊢
    exact ⟨⟨by omega, hm.1.2⟩, hm.2⟩

/-- What remains of a canonical list after its first entries is canonical. -/
theorem mapWfFrom_dropWhile (m : List (Nat × α)) (lo : Nat) (p : Nat × α → Bool) (hm : mapWfFrom d lo m = true) :
    mapWfFrom d lo (m.dropWhile p) = true := by
  induction m generalizing lo with
  | nil => rfl
  | cons q r ih =>
    simp only [List.dropWhile]
    split
    · simp only [mapWfFrom, Bool.and_eq_true, decide_eq_true_eq] at hm
      exact mapWfFrom_mono (ih _ hm.2) (by omega)
    · exact hm

/-- A write keeps the canonical form, from a bound at or below the key. -/
theorem mapWfFrom_mapSet (m : List (Nat × α)) (lo k : Nat) (v : α) (hm : mapWfFrom d lo m = true) (hk : lo ≤ k) :
    mapWfFrom d lo (mapSet d m k v) = true := by
  induction m generalizing lo with
  | nil =>
    simp only [mapSet]
    split
    · rfl
    · simp [mapWfFrom, *]
  | cons p r ih =>
    obtain ⟨k', v'⟩ := p
    have h0 := hm
    simp only [mapWfFrom, Bool.and_eq_true, decide_eq_true_eq] at hm
    simp only [mapSet]
    split
    · split
      · exact h0
      · simp only [mapWfFrom, Bool.and_eq_true, decide_eq_true_eq]
        exact ⟨⟨hk, ‹_›⟩, ⟨by omega, hm.1.2⟩, hm.2⟩
    · split
      · next h =>
        subst h
        split
        · exact mapWfFrom_mono (mapWfFrom_dropWhile _ _ _ hm.2) (by omega)
        · simp [mapWfFrom, *]
      · simp only [mapWfFrom, Bool.and_eq_true, decide_eq_true_eq]
        exact ⟨hm.1, ih _ hm.2 (by omega)⟩

/-- A write keeps the canonical form. -/
@[simp] theorem mapWf_mapSet (m : List (Nat × α)) (k : Nat) (v : α) (hm : mapWf d m = true) :
    mapWf d (mapSet d m k v) = true := mapWfFrom_mapSet m 0 k v hm (Nat.zero_le k)

/-- A selection of entries keeps the canonical form. -/
theorem mapWfFrom_filter (m : List (Nat × α)) (lo : Nat) (p : Nat × α → Bool) (hm : mapWfFrom d lo m = true) :
    mapWfFrom d lo (m.filter p) = true := by
  induction m generalizing lo with
  | nil => rfl
  | cons q r ih =>
    simp only [mapWfFrom, Bool.and_eq_true, decide_eq_true_eq] at hm
    simp only [List.filter]
    split
    · simp only [mapWfFrom, Bool.and_eq_true, decide_eq_true_eq]
      exact ⟨hm.1, ih _ hm.2⟩
    · exact mapWfFrom_mono (ih _ hm.2) (by omega)

/-- A selection of entries keeps the canonical form. -/
@[simp] theorem mapWf_filter (m : List (Nat × α)) (p : Nat × α → Bool) (hm : mapWf d m = true) :
    mapWf d (m.filter p) = true := mapWfFrom_filter m 0 p hm

/-- A loop of writes keeps the canonical form. -/
@[simp] theorem mapWf_foldl_mapSet {β : Type} (bs : List β) (m : List (Nat × α)) (k : β → Nat) (v : β → α)
    (hm : mapWf d m = true) : mapWf d (bs.foldl (fun m b => mapSet d m (k b) (v b)) m) = true := by
  induction bs generalizing m with
  | nil => exact hm
  | cons b r ih => exact ih _ (mapWf_mapSet _ _ _ hm)

/-- Canonical maps with the same readings are equal. -/
theorem mapWfFrom_ext (m n : List (Nat × α)) (lo : Nat) (hm : mapWfFrom d lo m = true) (hn : mapWfFrom d lo n = true)
    (h : ∀ k, mapGet d m k = mapGet d n k) : m = n := by
  induction m generalizing lo n with
  | nil =>
    cases n with
    | nil => rfl
    | cons q t =>
      obtain ⟨k, v⟩ := q
      simp only [mapWfFrom, Bool.and_eq_true, decide_eq_true_eq] at hn
      exact absurd (by simpa [mapGet] using (h k).symm) hn.1.2
  | cons p r ih =>
    obtain ⟨k, v⟩ := p
    simp only [mapWfFrom, Bool.and_eq_true, decide_eq_true_eq] at hm
    cases n with
    | nil => exact absurd (by simpa [mapGet] using h k) hm.1.2
    | cons q t =>
      obtain ⟨j, w⟩ := q
      simp only [mapWfFrom, Bool.and_eq_true, decide_eq_true_eq] at hn
      have hk := h k
      have hj := h j
      simp only [mapGet, if_true] at hk hj
      by_cases e : k = j
      · subst e
        simp only [if_true] at hk
        subst hk
        congr 1
        refine ih t (k + 1) hm.2 hn.2 (fun i => ?_)
        have hi := h i
        simp only [mapGet] at hi
        by_cases a : k = i
        · subst a; rw [mapGet_of_mapWfFrom hm.2 (by omega), mapGet_of_mapWfFrom hn.2 (by omega)]
        · rw [if_neg a, if_neg a] at hi
          by_cases b : i < k
          · rw [mapGet_of_mapWfFrom hm.2 (by omega), mapGet_of_mapWfFrom hn.2 (by omega)]
          · rwa [if_neg b, if_neg b] at hi
      · rw [if_neg (Ne.symm e)] at hk
        rw [if_neg e] at hj
        by_cases b : k < j
        · rw [if_pos b] at hk; exact absurd hk hm.1.2
        · rw [if_pos (by omega)] at hj; exact absurd hj.symm hn.1.2

/-- Equal readings are equal data: the canonical form is unique. -/
theorem mapWf_ext {m n : List (Nat × α)} (hm : mapWf d m = true) (hn : mapWf d n = true)
    (h : ∀ k, mapGet d m k = mapGet d n k) : m = n := mapWfFrom_ext m n 0 hm hn h

end Sys2Proof.Machine
end

