-- ==== Sys2Proof/Laws/InvMachine.lean ====
section
/-! SUPPORT. The invariant kept by the shared operations, the scalar instructions and the operand forms: one lemma for each function that answers a state. -/

namespace Sys2Proof.Machine

set_option Elab.async false

theorem State.Inv.of_eq {s t : State} (h : s.Inv) (h1 : t.mem = s.mem) (h2 : t.claims = s.claims) (h3 : t.slots = s.slots)
    (h4 : t.dusk = s.dusk) : t.Inv := ⟨h1 ▸ h.mem, h2 ▸ h.claims, h3 ▸ h.slots, h4 ▸ h.dusk⟩

theorem inv_mk {s : State} (h1 : Memory.wf s.mem = true) (h2 : mapWf 0 s.claims = true) (h3 : s.slots.length = 6)
    (h4 : s.dusk.length ≤ Config.duskEvents) : s.Inv := ⟨h1, h2, h3, h4⟩

theorem foldl_inv {β : Type} {f : State → β → State} (hf : ∀ s b, s.Inv → (f s b).Inv) (l : List β) {s : State} (h : s.Inv) :
    (l.foldl f s).Inv := by
  induction l generalizing s with
  | nil => exact h
  | cons b r ih => exact ih (hf _ _ h)

theorem foldlM_inv {ε β : Type} {f : State → β → Except ε State} (hf : ∀ s b t, s.Inv → f s b = .ok t → t.Inv) (l : List β)
    {s t : State} (h : s.Inv) (e : l.foldlM f s = .ok t) : t.Inv := by
  induction l generalizing s with
  | nil => cases e; exact h
  | cons b r ih =>
    simp only [List.foldlM_cons] at e
    cases hb : f s b with
    | error x => rw [hb] at e; cases e
    | ok u => rw [hb] at e; exact ih (hf _ _ _ h hb) e

theorem foldlM_fst_inv {ε β γ : Type} {f : State × γ → β → Except ε (State × γ)} (hf : ∀ s b t, s.1.Inv → f s b = .ok t → t.1.Inv)
    (l : List β) {s t : State × γ} (h : s.1.Inv) (e : l.foldlM f s = .ok t) : t.1.Inv := by
  induction l generalizing s with
  | nil => cases e; exact h
  | cons b r ih =>
    simp only [List.foldlM_cons] at e
    cases hb : f s b with
    | error x => rw [hb] at e; cases e
    | ok u => rw [hb] at e; exact ih (hf _ _ _ h hb) e

theorem State.upd_inv {s : State} {f : Hart → Hart} (s_i : s.Inv) : (State.upd s f).Inv := by
  unfold State.upd
  grind -ring -linarith -lia -ac -order [inv_mk, → State.Inv.mem, → State.Inv.claims, → State.Inv.slots, → State.Inv.dusk]

theorem State.updHart_inv {s : State} {hid : Nat} {f : Hart → Hart} (s_i : s.Inv) : (State.updHart s hid f).Inv := by
  unfold State.updHart
  grind -ring -linarith -lia -ac -order [inv_mk, → State.Inv.mem, → State.Inv.claims, → State.Inv.slots, → State.Inv.dusk]

theorem State.mapHarts_inv {s : State} {f : Hart → Hart} (s_i : s.Inv) : (State.mapHarts s f).Inv := by
  unfold State.mapHarts
  grind -ring -linarith -lia -ac -order [inv_mk, → State.Inv.mem, → State.Inv.claims, → State.Inv.slots, → State.Inv.dusk]

theorem State.swapIn_inv {s : State} {h : Hart} (s_i : s.Inv) : (State.swapIn s h).Inv := by
  unfold State.swapIn
  grind -ring -linarith -lia -ac -order [inv_mk, → State.Inv.mem, → State.Inv.claims, → State.Inv.slots, → State.Inv.dusk]

theorem State.swapOut_inv {s : State} {k : Hart} (s_i : s.Inv) : (State.swapOut s k).Inv := by
  unfold State.swapOut
  grind -ring -linarith -lia -ac -order [inv_mk, → State.Inv.mem, → State.Inv.claims, → State.Inv.slots, → State.Inv.dusk]

theorem State.on_inv {s : State} {hid : Nat} {f : State → State} (s_i : s.Inv) (f_h : ∀ s : State, s.Inv → (f s).Inv) : (State.on s hid f).Inv := by
  unfold State.on
  grind -ring -linarith -lia -ac -order [inv_mk, → State.Inv.mem, → State.Inv.claims, → State.Inv.slots, → State.Inv.dusk, State.swapIn_inv,
      State.swapOut_inv]

theorem State.tryOn_inv {s : State} {hid : Nat} {f : State → Option State} {t_ : State} (s_i : s.Inv) (f_h : ∀ s t : State, s.Inv → f s = some t →
    t.Inv) (e_ : State.tryOn s hid f = some t_) : t_.Inv := by
  unfold State.tryOn at e_
  split at e_
  · exact f_h _ _ s_i e_
  · split at e_
    · cases e_
    · obtain ⟨r, hr, rfl⟩ := Option.map_eq_some_iff.mp e_
      exact State.swapOut_inv (f_h _ _ (State.swapIn_inv s_i) hr)

theorem State.setCore_inv {s : State} {cl : Nat} {core : Nat} {c : CoreInfo} (s_i : s.Inv) : (State.setCore s cl core c).Inv := by
  unfold State.setCore
  grind -ring -linarith -lia -ac -order [inv_mk, → State.Inv.mem, → State.Inv.claims, → State.Inv.slots, → State.Inv.dusk]

theorem State.setCluster_inv {s : State} {cl : Nat} {c : ClusterInfo} (s_i : s.Inv) : (State.setCluster s cl c).Inv := by
  unfold State.setCluster
  grind -ring -linarith -lia -ac -order [inv_mk, → State.Inv.mem, → State.Inv.claims, → State.Inv.slots, → State.Inv.dusk]

theorem State.post_inv {s : State} {i : Instr} (s_i : s.Inv) : (State.post s i).Inv := by
  unfold State.post
  grind -ring -linarith -lia -ac -order [inv_mk, → State.Inv.mem, → State.Inv.claims, → State.Inv.slots, → State.Inv.dusk]

theorem State.postAll_inv {s : State} {is : List Instr} (s_i : s.Inv) : (State.postAll s is).Inv := by
  unfold State.postAll
  grind -ring -linarith -lia -ac -order [inv_mk, → State.Inv.mem, → State.Inv.claims, → State.Inv.slots, → State.Inv.dusk]

theorem State.setPort_inv {s : State} {k : Nat} {p : Port} (s_i : s.Inv) : (State.setPort s k p).Inv := by
  unfold State.setPort
  grind -ring -linarith -lia -ac -order [inv_mk, → State.Inv.mem, → State.Inv.claims, → State.Inv.slots, → State.Inv.dusk]

theorem modAt_length {α : Type} (f : α → α) (l : List α) (i : Nat) : (modAt f l i).length = l.length := by
  induction l generalizing i with
  | nil => rfl
  | cons a r ih => cases i <;> simp [modAt, ih]

theorem State.updSlot_inv {s : State} {i : Nat} {f : JobSlot → JobSlot} (s_i : s.Inv) : (State.updSlot s i f).Inv :=
  ⟨s_i.mem, s_i.claims, by simpa [State.updSlot, modAt_length] using s_i.slots, s_i.dusk⟩

theorem State.updJob_inv {s : State} {i : Nat} {f : Job → Job} (s_i : s.Inv) : (State.updJob s i f).Inv := by
  unfold State.updJob
  grind -ring -linarith -lia -ac -order [inv_mk, → State.Inv.mem, → State.Inv.claims, → State.Inv.slots, → State.Inv.dusk, State.updSlot_inv]

theorem State.breakLinks_inv {s : State} {keep : Nat} {pas : List Nat} (s_i : s.Inv) : (State.breakLinks s keep pas).Inv := by
  unfold State.breakLinks
  grind -ring -linarith -lia -ac -order [inv_mk, → State.Inv.mem, → State.Inv.claims, → State.Inv.slots, → State.Inv.dusk]

theorem State.writeMem_inv {s : State} {keep : Nat} {bs : List (Nat × Byte)} (s_i : s.Inv) : (State.writeMem s keep bs).Inv := by
  have h := State.breakLinks_inv (keep := keep) (pas := bs.map (·.1)) s_i
  exact ⟨mapWf_foldl_mapSet bs _ _ _ h.mem, h.claims, h.slots, h.dusk⟩

theorem State.writePhys_inv {s : State} {keep : Nat} {pa : Nat} {bs : List Byte} (s_i : s.Inv) : (State.writePhys s keep pa bs).Inv := by
  unfold State.writePhys
  grind -ring -linarith -lia -ac -order [inv_mk, → State.Inv.mem, → State.Inv.claims, → State.Inv.slots, → State.Inv.dusk, State.writeMem_inv]

theorem State.touch_inv {s : State} {pas : List Nat} (s_i : s.Inv) : (State.touch s pas).Inv := by
  unfold State.touch
  split
  · exact s_i
  · refine foldl_inv (fun s k h => ?_) _ s_i
    dsimp only
    split
    · exact h
    · exact State.post_inv h

theorem State.holdEntry_inv {s : State} {c : Cached} (s_i : s.Inv) : (State.holdEntry s c).Inv := by
  unfold State.holdEntry
  grind -ring -linarith -lia -ac -order [inv_mk, → State.Inv.mem, → State.Inv.claims, → State.Inv.slots, → State.Inv.dusk]

theorem State.fillIn_inv {s : State} {cs : List Nat} {i : Nat} {vas : List Nat} (s_i : s.Inv) : (State.fillIn s cs i vas).Inv := by
  refine foldl_inv (fun s va h => ?_) vas s_i
  have h1 : State.Inv (if (s.staleIn cs i va).isEmpty then s else { s with freeN := s.freeN + 1 }) := by
    split
    · exact h
    · exact h.of_eq rfl rfl rfl rfl
  dsimp only
  generalize (if (s.staleIn cs i va).isEmpty then s else { s with freeN := s.freeN + 1 }) = u at h1 ⊢
  split
  · exact h1
  · split
    · exact foldl_inv (fun s e h => foldl_inv (fun s c h => State.holdEntry_inv h) _ h) _ (State.touch_inv h1)
    · exact State.touch_inv h1

theorem State.fill_inv {s : State} {i : Nat} {vas : List Nat} (s_i : s.Inv) : (State.fill s i vas).Inv := by
  unfold State.fill
  grind -ring -linarith -lia -ac -order [inv_mk, → State.Inv.mem, → State.Inv.claims, → State.Inv.slots, → State.Inv.dusk, State.fillIn_inv]

theorem State.log_inv {s : State} {etype : Nat} {blk : Nat} {inst : Nat} {a : Nat} {b : Nat} (s_i : s.Inv) : (State.log s etype blk inst a b).Inv :=
    by
  unfold State.log
  grind -ring -linarith -ac -order [inv_mk, → State.Inv.mem, → State.Inv.claims, → State.Inv.slots, → State.Inv.dusk]

theorem State.logRace_inv {s : State} {h : Hart} {pa : Nat} {owner : Nat} {store : Bool} (s_i : s.Inv) : (State.logRace s h pa owner store).Inv := by
  unfold State.logRace
  grind -ring -linarith -lia -ac -order [inv_mk, → State.Inv.mem, → State.Inv.claims, → State.Inv.slots, → State.Inv.dusk, State.log_inv]

theorem State.checkReady_inv {s : State} {i : Nat} (s_i : s.Inv) : (State.checkReady s i).Inv := by
  unfold State.checkReady
  grind -ring -linarith -lia -ac -order [inv_mk, → State.Inv.mem, → State.Inv.claims, → State.Inv.slots, → State.Inv.dusk, State.updJob_inv]

theorem State.wakeOn_inv {s : State} {i : Nat} {handle : Nat} (s_i : s.Inv) : (State.wakeOn s i handle).Inv := by
  unfold State.wakeOn
  grind -ring -linarith -lia -ac -order [inv_mk, → State.Inv.mem, → State.Inv.claims, → State.Inv.slots, → State.Inv.dusk, State.mapHarts_inv]

theorem State.underflow_inv {s : State} {issuer : Option Nat} {handle : Nat} {n : Nat} (s_i : s.Inv) : (State.underflow s issuer handle n).Inv := by
  unfold State.underflow
  grind -ring -linarith -lia -ac -order [inv_mk, → State.Inv.mem, → State.Inv.claims, → State.Inv.slots, → State.Inv.dusk, State.updHart_inv,
      State.log_inv]

theorem State.sealMemory_inv {s : State} {i : Nat} (s_i : s.Inv) : (State.sealMemory s i).Inv :=
  ⟨mapWf_filter _ _ s_i.mem, s_i.claims, s_i.slots, s_i.dusk⟩

theorem State.resetSlices_inv {s : State} {i : Nat} (s_i : s.Inv) : (State.resetSlices s i).Inv :=
  ⟨s_i.mem, mapWf_filter _ _ s_i.claims, s_i.slots, s_i.dusk⟩

theorem State.jobDone_inv {s : State} {i : Nat} (s_i : s.Inv) : (State.jobDone s i).Inv := by
  unfold State.jobDone
  grind -ring -linarith -lia -ac -order [inv_mk, → State.Inv.mem, → State.Inv.claims, → State.Inv.slots, → State.Inv.dusk, State.updSlot_inv]

theorem State.eraseKey_inv {s : State} {i : Nat} (s_i : s.Inv) : (State.eraseKey s i).Inv := by
  unfold State.eraseKey
  grind -ring -linarith -lia -ac -order [inv_mk, → State.Inv.mem, → State.Inv.claims, → State.Inv.slots, → State.Inv.dusk, State.post_inv,
      State.log_inv, State.resetSlices_inv, State.jobDone_inv]

theorem State.closeJob_inv {s : State} {i : Nat} (s_i : s.Inv) : (State.closeJob s i).Inv := by
  unfold State.closeJob
  grind -ring -linarith -lia -ac -order [inv_mk, → State.Inv.mem, → State.Inv.claims, → State.Inv.slots, → State.Inv.dusk, State.updSlot_inv,
      State.sealMemory_inv, State.jobDone_inv, State.eraseKey_inv]

theorem State.stopBelow_inv {s : State} {i : Nat} {lvl : Nat} {idx : Nat} (s_i : s.Inv) : (State.stopBelow s i lvl idx).Inv := by
  unfold State.stopBelow
  grind -ring -linarith -lia -ac -order [inv_mk, → State.Inv.mem, → State.Inv.claims, → State.Inv.slots, → State.Inv.dusk, State.postAll_inv,
      State.updJob_inv]

theorem State.endJob_inv {s : State} {i : Nat} (s_i : s.Inv) : (State.endJob s i).Inv := by
  unfold State.endJob
  grind -ring -linarith -lia -ac -order [inv_mk, → State.Inv.mem, → State.Inv.claims, → State.Inv.slots, → State.Inv.dusk, State.updSlot_inv,
      State.closeJob_inv, State.stopBelow_inv]

theorem State.fullLanes_inv {s : State} {c : Nat} (s_i : s.Inv) : (State.fullLanes s c).Inv := by
  refine foldl_inv (fun s k h => ?_) _ s_i
  dsimp only
  split
  · exact h
  · exact State.setCore_inv h

theorem ite_inv {c : Prop} [Decidable c] {a b : State} (ha : a.Inv) (hb : b.Inv) : State.Inv (if c then a else b) := by
  split
  · exact ha
  · exact hb

theorem State.beginPhase_inv {s : State} {i : Nat} {k : Nat} {c : Nat} (s_i : s.Inv) : (State.beginPhase s i k c).Inv :=
  foldl_inv (fun _ _ h => ite_inv (State.setCluster_inv (ite_inv (State.fullLanes_inv h) h)) h) _ (State.updJob_inv s_i)

theorem State.finish_inv {s : State} {i : Nat} {st : RecState} {z0 : Nat} {z1 : Nat} {z2 : Nat} (s_i : s.Inv) : (State.finish s i st z0 z1 z2).Inv :=
    by
  induction z0 generalizing s st z1 z2 with
  | zero => exact s_i
  | succ n ih =>
    unfold State.finish
    have h1 := State.checkReady_inv (i := i) (State.wakeOn_inv (i := i) (handle := mkHandle z1 z2) (State.updJob_inv (i := i)
      (f := fun j => j.setRec z1 z2 0 st) s_i))
    dsimp only
    generalize ((s.updJob i (fun j => j.setRec z1 z2 0 st)).wakeOn i (mkHandle z1 z2)).checkReady i = u at h1
    split
    · exact h1
    · rename_i j _
      have hup : ∀ s : State, s.Inv → State.Inv (match j.parent z1 z2 with
        | none => s
        | some (pl, px) =>
          match s.record i pl px with
          | some (c, .running) =>
            if c = 0 then s.underflow none (mkHandle pl px) 1
            else if c = 1 then s.finish i .complete n pl px
            else (s.updJob i (fun j => j.setRec pl px (c - 1) .running))
          | some (_, .complete) => s.underflow none (mkHandle pl px) 1
          | _ => s) := by
        intro s h
        split
        · exact h
        · split
          · split
            · exact State.underflow_inv h
            · split
              · exact ih h
              · exact State.updJob_inv h
          · exact State.underflow_inv h
          · exact h
      exact ite_inv (State.endJob_inv h1) (ite_inv (ih (State.beginPhase_inv (hup u h1))) (hup u h1))

theorem State.countExcess_inv {s : State} {i : Nat} {handle : Nat} {n : Nat} (s_i : s.Inv) : (State.countExcess s i handle n).1.Inv := by
  unfold State.countExcess
  grind -ring -linarith -lia -ac -order [inv_mk, → State.Inv.mem, → State.Inv.claims, → State.Inv.slots, → State.Inv.dusk, State.updJob_inv,
      State.finish_inv]

theorem State.countDown_inv {s : State} {i : Nat} {handle : Nat} {n : Nat} {issuer : Option Nat} (s_i : s.Inv) : (State.countDown s i handle n
    issuer).Inv := by
  unfold State.countDown
  grind -ring -linarith -lia -ac -order [inv_mk, → State.Inv.mem, → State.Inv.claims, → State.Inv.slots, → State.Inv.dusk, State.log_inv,
      State.underflow_inv, State.countExcess_inv]

theorem State.cancel_inv {s : State} {i : Nat} {lvl : Nat} {idx : Nat} (s_i : s.Inv) : (State.cancel s i lvl idx).Inv := by
  unfold State.cancel
  grind -ring -linarith -lia -ac -order [inv_mk, → State.Inv.mem, → State.Inv.claims, → State.Inv.slots, → State.Inv.dusk, State.stopBelow_inv]

theorem State.drainLine_inv {s : State} {line : Nat} (s_i : s.Inv) : (State.drainLine s line).Inv := by
  have h := State.writeMem_inv (keep := 0) (bs := (s.hart.wcb.filter (fun b => lineOf b.1 = line)).reverse.map (fun b => (b.1, b.2.1)))
    (State.touch_inv (pas := [line]) s_i)
  exact ⟨h.mem, mapWf_filter _ _ h.claims, h.slots, h.dusk⟩

theorem State.serveWaits_inv {s : State} (s_i : s.Inv) : (State.serveWaits s).Inv := by
  unfold State.serveWaits
  grind -ring -linarith -lia -ac -order [inv_mk, → State.Inv.mem, → State.Inv.claims, → State.Inv.slots, → State.Inv.dusk, State.postAll_inv]

theorem State.drain_inv {s : State} (s_i : s.Inv) : (State.drain s).Inv := by
  unfold State.drain
  split
  · exact s_i
  · exact State.serveWaits_inv (foldl_inv (fun _ _ h => State.drainLine_inv h) _ (foldl_inv (fun _ _ h => State.drainLine_inv h) _ s_i))

theorem State.drainOwn_inv {s : State} {pas : List Nat} (s_i : s.Inv) : (State.drainOwn s pas).Inv := by
  unfold State.drainOwn
  dsimp only
  split
  · exact s_i
  · exact State.serveWaits_inv (foldl_inv (fun _ _ h => State.drainLine_inv h) _ s_i)

theorem State.dropRoutes_inv {s : State} {pas : List Nat} (s_i : s.Inv) : (State.dropRoutes s pas).Inv := by
  unfold State.dropRoutes
  grind -ring -linarith -lia -ac -order [inv_mk, → State.Inv.mem, → State.Inv.claims, → State.Inv.slots, → State.Inv.dusk]

theorem State.putScratch_inv {s : State} {hid : Nat} {off : Nat} {bs : List Byte} (s_i : s.Inv) : (State.putScratch s hid off bs).Inv := by
  unfold State.putScratch
  grind -ring -linarith -lia -ac -order [inv_mk, → State.Inv.mem, → State.Inv.claims, → State.Inv.slots, → State.Inv.dusk, State.updHart_inv,
      State.dropRoutes_inv]

theorem claim_inv {u : State} {k : Hart} {hid : Nat} {bs : List (Nat × Byte)} (h : u.Inv) :
    State.Inv { u with claims := bs.foldl (fun c b => mapSet 0 c b.1 hid) u.claims, hart := k } :=
  ⟨h.mem, mapWf_foldl_mapSet _ _ _ _ h.claims, h.slots, h.dusk⟩

theorem State.bufferStore_inv {s : State} {va : Nat} {bs : List (Nat × Byte)} {eng : Bool} {t_ : State} (s_i : s.Inv) (e_ : State.bufferStore s va bs
    eng = .ok t_) : t_.Inv := by
  unfold State.bufferStore at e_
  have h0 := State.dropRoutes_inv (pas := bs.map (·.1)) s_i
  split at e_
  · cases e_; exact s_i
  · dsimp only at e_
    split at e_
    · cases e_; exact claim_inv h0
    · split at e_
      · split at e_
        · cases e_; exact State.writeMem_inv h0
        · cases e_
      · cases e_
        refine claim_inv ?_
        split
        · exact h0
        · split
          · exact h0
          · exact State.serveWaits_inv (State.drainLine_inv h0)

theorem State.dropLinks_inv {s : State} (s_i : s.Inv) : (State.dropLinks s).Inv := by
  unfold State.dropLinks
  grind -ring -linarith -lia -ac -order [inv_mk, → State.Inv.mem, → State.Inv.claims, → State.Inv.slots, → State.Inv.dusk]

theorem State.putTarget_inv {s : State} {a : Nat} {bs : List Byte} {eng : Bool} {t : Target} {t_ : State} (s_i : s.Inv) (e_ : State.putTarget s a bs
    eng t = .ok t_) : t_.Inv := by
  unfold State.putTarget at e_
  grind -ring -linarith -lia -ac -order [inv_mk, → State.Inv.mem, → State.Inv.claims, → State.Inv.slots, → State.Inv.dusk, State.putScratch_inv,
      State.bufferStore_inv]

theorem State.setHome_inv {s : State} {pa : Nat} {leaf : Nat} (s_i : s.Inv) : (State.setHome s pa leaf).Inv := by
  unfold State.setHome
  grind -ring -linarith -lia -ac -order [inv_mk, → State.Inv.mem, → State.Inv.claims, → State.Inv.slots, → State.Inv.dusk]

theorem State.note_inv {s : State} {a : Nat} {t : Target} (s_i : s.Inv) : (State.note s a t).Inv := by
  unfold State.note
  grind -ring -linarith -lia -ac -order [inv_mk, → State.Inv.mem, → State.Inv.claims, → State.Inv.slots, → State.Inv.dusk, State.touch_inv,
      State.fill_inv, State.setHome_inv]

theorem State.load_inv {s : State} {a : Nat} {n : Nat} {al : Nat} {acc : Nat} {vec : Bool} {t_ : State} {v_ : Nat} (s_i : s.Inv) (e_ : State.load s a
    n al acc vec = .ok (t_, v_)) : t_.Inv := by
  unfold State.load at e_
  grind -ring -linarith -lia -ac -order [inv_mk, → State.Inv.mem, → State.Inv.claims, → State.Inv.slots, → State.Inv.dusk, State.note_inv]

theorem State.store_inv {s : State} {a : Nat} {al : Nat} {bs : List Byte} {vec : Bool} {t_ : State} (s_i : s.Inv) (e_ : State.store s a al bs vec =
    .ok t_) : t_.Inv := by
  unfold State.store at e_
  grind -ring -linarith -lia -ac -order [inv_mk, → State.Inv.mem, → State.Inv.claims, → State.Inv.slots, → State.Inv.dusk, State.putTarget_inv,
      State.note_inv]

theorem State.rmw_inv {s : State} {a : Nat} {n : Nat} {vec : Bool} {rel : Bool} {acc : Nat} {perm : Nat} {f : Nat → Option Nat} {t_ : State} {v_ :
    Nat} (s_i : s.Inv) (e_ : State.rmw s a n vec rel acc perm f = .ok (t_, v_)) : t_.Inv := by
  unfold State.rmw at e_
  split at e_
  · cases e_
  split at e_
  · cases e_
  next t _ =>
  have h0 : (if rel then (s.note a t).drain else s.note a t).Inv := by
    split
    · exact State.drain_inv (State.note_inv s_i)
    · exact State.note_inv s_i
  dsimp only at e_
  generalize (if rel = true then (s.note a t).drain else s.note a t) = u at e_ h0
  cases t with
  | scratch hid off =>
    dsimp only at e_
    split at e_
    · cases e_
    · split at e_
      · cases e_; exact h0
      · cases e_; exact State.putScratch_inv h0
  | phys pa leaf =>
    have h1 := State.drainOwn_inv (pas := upFrom pa n) h0
    dsimp only at e_
    split at e_
    · cases e_
    · split at e_
      · cases e_; exact h1
      · cases e_; exact State.dropRoutes_inv (State.writePhys_inv h1)

theorem State.loadBlock_inv {s : State} {a : Nat} {n : Nat} {al : Nat} {acc : Nat} {t_ : State} {v_ : Nat} (s_i : s.Inv) (e_ : State.loadBlock s a n
    al acc = .ok (t_, v_)) : t_.Inv := by
  unfold State.loadBlock at e_
  dsimp only at e_
  split at e_
  · nomatch e_
  split at e_
  · nomatch e_
  split at e_
  · nomatch e_
  split at e_
  · nomatch e_
  injection e_ with e_
  injection e_ with e_ _
  subst e_
  exact foldl_inv (fun _ _ h => State.note_inv h) _ s_i

theorem State.storeBlock_inv {s : State} {a : Nat} {al : Nat} {bs : List Byte} {t_ : State} (s_i : s.Inv) (e_ : State.storeBlock s a al bs = .ok t_) :
    t_.Inv := by
  unfold State.storeBlock at e_
  dsimp only at e_
  split at e_
  · nomatch e_
  split at e_
  · nomatch e_
  split at e_
  · nomatch e_
  exact foldlM_inv (fun _ _ _ h e => State.putTarget_inv (State.note_inv h) e) _ s_i e_

theorem State.advance4_inv {s : State} (s_i : s.Inv) : (State.advance4 s).Inv := by
  unfold State.advance4
  grind -ring -linarith -lia -ac -order [inv_mk, → State.Inv.mem, → State.Inv.claims, → State.Inv.slots, → State.Inv.dusk, State.upd_inv]

theorem State.advance_inv {s : State} (s_i : s.Inv) : (State.advance s).Inv := by
  unfold State.advance
  grind -ring -linarith -lia -ac -order [inv_mk, → State.Inv.mem, → State.Inv.claims, → State.Inv.slots, → State.Inv.dusk, State.upd_inv]

theorem State.wx_inv {s : State} {d : Nat} {v : Word} {t_ : State} (s_i : s.Inv) (e_ : State.wx s d v = .next t_) : t_.Inv := by
  unfold State.wx at e_
  grind -ring -linarith -lia -ac -order [inv_mk, → State.Inv.mem, → State.Inv.claims, → State.Inv.slots, → State.Inv.dusk, State.upd_inv]

theorem State.wf_inv {s : State} {d : Nat} {v : BitVec 66} {fl : BitVec 5} {t_ : State} (s_i : s.Inv) (e_ : State.wf s d v fl = .next t_) : t_.Inv :=
    by
  unfold State.wf at e_
  grind -ring -linarith -lia -ac -order [inv_mk, → State.Inv.mem, → State.Inv.claims, → State.Inv.slots, → State.Inv.dusk, State.upd_inv]

theorem State.abandon_inv {s : State} (s_i : s.Inv) : (State.abandon s).Inv := by
  unfold State.abandon
  grind -ring -linarith -lia -ac -order [inv_mk, → State.Inv.mem, → State.Inv.claims, → State.Inv.slots, → State.Inv.dusk, State.upd_inv,
      State.setCluster_inv]

theorem State.noteFault_inv {s : State} {t : Trap} (s_i : s.Inv) : (State.noteFault s t).Inv := by
  unfold State.noteFault
  grind -ring -linarith -lia -ac -order [inv_mk, → State.Inv.mem, → State.Inv.claims, → State.Inv.slots, → State.Inv.dusk, State.fill_inv]

theorem State.takeTrap_inv {s : State} {t : Trap} (s_i : s.Inv) : (State.takeTrap s t).Inv := by
  unfold State.takeTrap
  grind -ring -linarith -lia -ac -order [inv_mk, → State.Inv.mem, → State.Inv.claims, → State.Inv.slots, → State.Inv.dusk, State.upd_inv,
      State.log_inv, State.logRace_inv, State.cancel_inv, State.dropLinks_inv, State.abandon_inv, State.noteFault_inv]

theorem State.trap_inv {s : State} {t : Trap} {t_ : State} (s_i : s.Inv) (e_ : State.trap s t = .next t_) : t_.Inv := by
  unfold State.trap at e_
  grind -ring -linarith -lia -ac -order [inv_mk, → State.Inv.mem, → State.Inv.claims, → State.Inv.slots, → State.Inv.dusk, State.takeTrap_inv]

theorem State.trapWith_inv {s : State} {code : Nat} {tval : Nat} {t_ : State} (s_i : s.Inv) (e_ : State.trapWith s code tval = .next t_) : t_.Inv :=
    by
  unfold State.trapWith at e_
  grind -ring -linarith -lia -ac -order [inv_mk, → State.Inv.mem, → State.Inv.claims, → State.Inv.slots, → State.Inv.dusk, State.trap_inv]

theorem State.takeAsync_inv {s : State} {code : Nat} {tval : Nat} (s_i : s.Inv) : (State.takeAsync s code tval).Inv := by
  unfold State.takeAsync
  grind -ring -linarith -lia -ac -order [inv_mk, → State.Inv.mem, → State.Inv.claims, → State.Inv.slots, → State.Inv.dusk, State.upd_inv,
      State.dropLinks_inv]

theorem State.stalled_inv {s : State} (s_i : s.Inv) : (State.stalled s).Inv := by
  unfold State.stalled
  grind -ring -linarith -lia -ac -order [inv_mk, → State.Inv.mem, → State.Inv.claims, → State.Inv.slots, → State.Inv.dusk, State.upd_inv]

theorem State.halt_inv {s : State} {e : Stop} {t_ : State} (s_i : s.Inv) (e_ : State.halt s e = .next t_) : t_.Inv := by
  unfold State.halt at e_
  grind -ring -linarith -lia -ac -order [inv_mk, → State.Inv.mem, → State.Inv.claims, → State.Inv.slots, → State.Inv.dusk, State.trap_inv,
      State.stalled_inv]

theorem State.answer_inv {s : State} {r : Except Stop State} {t_ : State} (s_i : s.Inv) (r_i : ∀ t, r = .ok t → t.Inv) (e_ : State.answer s r = .next
    t_) : t_.Inv := by
  unfold State.answer at e_
  grind -ring -linarith -lia -ac -order [inv_mk, → State.Inv.mem, → State.Inv.claims, → State.Inv.slots, → State.Inv.dusk, State.halt_inv]

theorem State.gate_inv {s : State} {c : Option Trap} {k : State → Host.Outcome State Fault Refusal} {t_ : State} (s_i : s.Inv) (k_h : ∀ s t : State,
    s.Inv → k s = .next t → t.Inv) (e_ : State.gate s c k = .next t_) : t_.Inv := by
  unfold State.gate at e_
  grind -ring -linarith -lia -ac -order [inv_mk, → State.Inv.mem, → State.Inv.claims, → State.Inv.slots, → State.Inv.dusk, State.trap_inv]

theorem execLui_inv {d : Nat} {imm : Nat} {s : State} {t_ : State} (s_i : s.Inv) (e_ : execLui d imm s = .next t_) : t_.Inv := by
  unfold execLui at e_
  grind -ring -linarith -lia -ac -order [inv_mk, → State.Inv.mem, → State.Inv.claims, → State.Inv.slots, → State.Inv.dusk, State.wx_inv]

theorem execAuipc_inv {d : Nat} {imm : Nat} {s : State} {t_ : State} (s_i : s.Inv) (e_ : execAuipc d imm s = .next t_) : t_.Inv := by
  unfold execAuipc at e_
  grind -ring -linarith -lia -ac -order [inv_mk, → State.Inv.mem, → State.Inv.claims, → State.Inv.slots, → State.Inv.dusk, State.wx_inv]

theorem State.jump_inv {s : State} {d : Nat} {t : Word} {t_ : State} (s_i : s.Inv) (e_ : State.jump s d t = .next t_) : t_.Inv := by
  unfold State.jump at e_
  grind -ring -linarith -lia -ac -order [inv_mk, → State.Inv.mem, → State.Inv.claims, → State.Inv.slots, → State.Inv.dusk, State.upd_inv,
      State.trapWith_inv]

theorem State.branch_inv {s : State} {c : Bool} {off : Int} {t_ : State} (s_i : s.Inv) (e_ : State.branch s c off = .next t_) : t_.Inv := by
  unfold State.branch at e_
  grind -ring -linarith -lia -ac -order [inv_mk, → State.Inv.mem, → State.Inv.claims, → State.Inv.slots, → State.Inv.dusk, State.advance4_inv,
      State.jump_inv]

theorem execJal_inv {d : Nat} {off : Int} {s : State} {t_ : State} (s_i : s.Inv) (e_ : execJal d off s = .next t_) : t_.Inv := by
  unfold execJal at e_
  grind -ring -linarith -lia -ac -order [inv_mk, → State.Inv.mem, → State.Inv.claims, → State.Inv.slots, → State.Inv.dusk, State.jump_inv]

theorem execJalr_inv {d : Nat} {a : Nat} {imm : Int} {s : State} {t_ : State} (s_i : s.Inv) (e_ : execJalr d a imm s = .next t_) : t_.Inv := by
  unfold execJalr at e_
  grind -ring -linarith -lia -ac -order [inv_mk, → State.Inv.mem, → State.Inv.claims, → State.Inv.slots, → State.Inv.dusk, State.jump_inv]

theorem execBeq_inv {a : Nat} {b : Nat} {off : Int} {s : State} {t_ : State} (s_i : s.Inv) (e_ : execBeq a b off s = .next t_) : t_.Inv := by
  unfold execBeq at e_
  grind -ring -linarith -lia -ac -order [inv_mk, → State.Inv.mem, → State.Inv.claims, → State.Inv.slots, → State.Inv.dusk, State.branch_inv]

theorem execBne_inv {a : Nat} {b : Nat} {off : Int} {s : State} {t_ : State} (s_i : s.Inv) (e_ : execBne a b off s = .next t_) : t_.Inv := by
  unfold execBne at e_
  grind -ring -linarith -lia -ac -order [inv_mk, → State.Inv.mem, → State.Inv.claims, → State.Inv.slots, → State.Inv.dusk, State.branch_inv]

theorem execBlt_inv {a : Nat} {b : Nat} {off : Int} {s : State} {t_ : State} (s_i : s.Inv) (e_ : execBlt a b off s = .next t_) : t_.Inv := by
  unfold execBlt at e_
  grind -ring -linarith -lia -ac -order [inv_mk, → State.Inv.mem, → State.Inv.claims, → State.Inv.slots, → State.Inv.dusk, State.branch_inv]

theorem execBge_inv {a : Nat} {b : Nat} {off : Int} {s : State} {t_ : State} (s_i : s.Inv) (e_ : execBge a b off s = .next t_) : t_.Inv := by
  unfold execBge at e_
  grind -ring -linarith -lia -ac -order [inv_mk, → State.Inv.mem, → State.Inv.claims, → State.Inv.slots, → State.Inv.dusk, State.branch_inv]

theorem execBltu_inv {a : Nat} {b : Nat} {off : Int} {s : State} {t_ : State} (s_i : s.Inv) (e_ : execBltu a b off s = .next t_) : t_.Inv := by
  unfold execBltu at e_
  grind -ring -linarith -lia -ac -order [inv_mk, → State.Inv.mem, → State.Inv.claims, → State.Inv.slots, → State.Inv.dusk, State.branch_inv]

theorem execBgeu_inv {a : Nat} {b : Nat} {off : Int} {s : State} {t_ : State} (s_i : s.Inv) (e_ : execBgeu a b off s = .next t_) : t_.Inv := by
  unfold execBgeu at e_
  grind -ring -linarith -lia -ac -order [inv_mk, → State.Inv.mem, → State.Inv.claims, → State.Inv.slots, → State.Inv.dusk, State.branch_inv]

theorem State.baseLoad_inv {s : State} {d : Nat} {a : Nat} {imm : Int} {n : Nat} {signed : Bool} {t_ : State} (s_i : s.Inv) (e_ : State.baseLoad s d a
    imm n signed = .next t_) : t_.Inv := by
  unfold State.baseLoad at e_
  split at e_
  · exact State.halt_inv s_i e_
  · next h => exact State.wx_inv (State.load_inv s_i h) e_

theorem State.baseStore_inv {s : State} {a : Nat} {b : Nat} {off : Int} {n : Nat} {t_ : State} (s_i : s.Inv) (e_ : State.baseStore s a b off n = .next
    t_) : t_.Inv := by
  unfold State.baseStore at e_
  grind -ring -linarith -lia -ac -order [inv_mk, → State.Inv.mem, → State.Inv.claims, → State.Inv.slots, → State.Inv.dusk, State.store_inv,
      State.advance4_inv, State.halt_inv]

theorem execLb_inv {d : Nat} {a : Nat} {imm : Int} {s : State} {t_ : State} (s_i : s.Inv) (e_ : execLb d a imm s = .next t_) : t_.Inv := by
  unfold execLb at e_
  grind -ring -linarith -lia -ac -order [inv_mk, → State.Inv.mem, → State.Inv.claims, → State.Inv.slots, → State.Inv.dusk, State.baseLoad_inv]

theorem execLh_inv {d : Nat} {a : Nat} {imm : Int} {s : State} {t_ : State} (s_i : s.Inv) (e_ : execLh d a imm s = .next t_) : t_.Inv := by
  unfold execLh at e_
  grind -ring -linarith -lia -ac -order [inv_mk, → State.Inv.mem, → State.Inv.claims, → State.Inv.slots, → State.Inv.dusk, State.baseLoad_inv]

theorem execLw_inv {d : Nat} {a : Nat} {imm : Int} {s : State} {t_ : State} (s_i : s.Inv) (e_ : execLw d a imm s = .next t_) : t_.Inv := by
  unfold execLw at e_
  grind -ring -linarith -lia -ac -order [inv_mk, → State.Inv.mem, → State.Inv.claims, → State.Inv.slots, → State.Inv.dusk, State.baseLoad_inv]

theorem execLd_inv {d : Nat} {a : Nat} {imm : Int} {s : State} {t_ : State} (s_i : s.Inv) (e_ : execLd d a imm s = .next t_) : t_.Inv := by
  unfold execLd at e_
  grind -ring -linarith -lia -ac -order [inv_mk, → State.Inv.mem, → State.Inv.claims, → State.Inv.slots, → State.Inv.dusk, State.baseLoad_inv]

theorem execLbu_inv {d : Nat} {a : Nat} {imm : Int} {s : State} {t_ : State} (s_i : s.Inv) (e_ : execLbu d a imm s = .next t_) : t_.Inv := by
  unfold execLbu at e_
  grind -ring -linarith -lia -ac -order [inv_mk, → State.Inv.mem, → State.Inv.claims, → State.Inv.slots, → State.Inv.dusk, State.baseLoad_inv]

theorem execLhu_inv {d : Nat} {a : Nat} {imm : Int} {s : State} {t_ : State} (s_i : s.Inv) (e_ : execLhu d a imm s = .next t_) : t_.Inv := by
  unfold execLhu at e_
  grind -ring -linarith -lia -ac -order [inv_mk, → State.Inv.mem, → State.Inv.claims, → State.Inv.slots, → State.Inv.dusk, State.baseLoad_inv]

theorem execLwu_inv {d : Nat} {a : Nat} {imm : Int} {s : State} {t_ : State} (s_i : s.Inv) (e_ : execLwu d a imm s = .next t_) : t_.Inv := by
  unfold execLwu at e_
  grind -ring -linarith -lia -ac -order [inv_mk, → State.Inv.mem, → State.Inv.claims, → State.Inv.slots, → State.Inv.dusk, State.baseLoad_inv]

theorem execSb_inv {a : Nat} {b : Nat} {off : Int} {s : State} {t_ : State} (s_i : s.Inv) (e_ : execSb a b off s = .next t_) : t_.Inv := by
  unfold execSb at e_
  grind -ring -linarith -lia -ac -order [inv_mk, → State.Inv.mem, → State.Inv.claims, → State.Inv.slots, → State.Inv.dusk, State.baseStore_inv]

theorem execSh_inv {a : Nat} {b : Nat} {off : Int} {s : State} {t_ : State} (s_i : s.Inv) (e_ : execSh a b off s = .next t_) : t_.Inv := by
  unfold execSh at e_
  grind -ring -linarith -lia -ac -order [inv_mk, → State.Inv.mem, → State.Inv.claims, → State.Inv.slots, → State.Inv.dusk, State.baseStore_inv]

theorem execSw_inv {a : Nat} {b : Nat} {off : Int} {s : State} {t_ : State} (s_i : s.Inv) (e_ : execSw a b off s = .next t_) : t_.Inv := by
  unfold execSw at e_
  grind -ring -linarith -lia -ac -order [inv_mk, → State.Inv.mem, → State.Inv.claims, → State.Inv.slots, → State.Inv.dusk, State.baseStore_inv]

theorem execSd_inv {a : Nat} {b : Nat} {off : Int} {s : State} {t_ : State} (s_i : s.Inv) (e_ : execSd a b off s = .next t_) : t_.Inv := by
  unfold execSd at e_
  grind -ring -linarith -lia -ac -order [inv_mk, → State.Inv.mem, → State.Inv.claims, → State.Inv.slots, → State.Inv.dusk, State.baseStore_inv]

theorem execAddi_inv {d : Nat} {a : Nat} {imm : Int} {s : State} {t_ : State} (s_i : s.Inv) (e_ : execAddi d a imm s = .next t_) : t_.Inv := by
  unfold execAddi at e_
  grind -ring -linarith -lia -ac -order [inv_mk, → State.Inv.mem, → State.Inv.claims, → State.Inv.slots, → State.Inv.dusk, State.wx_inv]

theorem execSlti_inv {d : Nat} {a : Nat} {imm : Int} {s : State} {t_ : State} (s_i : s.Inv) (e_ : execSlti d a imm s = .next t_) : t_.Inv := by
  unfold execSlti at e_
  grind -ring -linarith -lia -ac -order [inv_mk, → State.Inv.mem, → State.Inv.claims, → State.Inv.slots, → State.Inv.dusk, State.wx_inv]

theorem execSltiu_inv {d : Nat} {a : Nat} {imm : Int} {s : State} {t_ : State} (s_i : s.Inv) (e_ : execSltiu d a imm s = .next t_) : t_.Inv := by
  unfold execSltiu at e_
  grind -ring -linarith -lia -ac -order [inv_mk, → State.Inv.mem, → State.Inv.claims, → State.Inv.slots, → State.Inv.dusk, State.wx_inv]

theorem execXori_inv {d : Nat} {a : Nat} {imm : Int} {s : State} {t_ : State} (s_i : s.Inv) (e_ : execXori d a imm s = .next t_) : t_.Inv := by
  unfold execXori at e_
  grind -ring -linarith -lia -ac -order [inv_mk, → State.Inv.mem, → State.Inv.claims, → State.Inv.slots, → State.Inv.dusk, State.wx_inv]

theorem execOri_inv {d : Nat} {a : Nat} {imm : Int} {s : State} {t_ : State} (s_i : s.Inv) (e_ : execOri d a imm s = .next t_) : t_.Inv := by
  unfold execOri at e_
  grind -ring -linarith -lia -ac -order [inv_mk, → State.Inv.mem, → State.Inv.claims, → State.Inv.slots, → State.Inv.dusk, State.wx_inv]

theorem execAndi_inv {d : Nat} {a : Nat} {imm : Int} {s : State} {t_ : State} (s_i : s.Inv) (e_ : execAndi d a imm s = .next t_) : t_.Inv := by
  unfold execAndi at e_
  grind -ring -linarith -lia -ac -order [inv_mk, → State.Inv.mem, → State.Inv.claims, → State.Inv.slots, → State.Inv.dusk, State.wx_inv]

theorem execAddiw_inv {d : Nat} {a : Nat} {imm : Int} {s : State} {t_ : State} (s_i : s.Inv) (e_ : execAddiw d a imm s = .next t_) : t_.Inv := by
  unfold execAddiw at e_
  grind -ring -linarith -lia -ac -order [inv_mk, → State.Inv.mem, → State.Inv.claims, → State.Inv.slots, → State.Inv.dusk, State.wx_inv]

theorem execSlli_inv {d : Nat} {a : Nat} {s_ : Nat} {s : State} {t_ : State} (s_i : s.Inv) (e_ : execSlli d a s_ s = .next t_) : t_.Inv := by
  unfold execSlli at e_
  grind -ring -linarith -lia -ac -order [inv_mk, → State.Inv.mem, → State.Inv.claims, → State.Inv.slots, → State.Inv.dusk, State.wx_inv]

theorem execSrli_inv {d : Nat} {a : Nat} {s_ : Nat} {s : State} {t_ : State} (s_i : s.Inv) (e_ : execSrli d a s_ s = .next t_) : t_.Inv := by
  unfold execSrli at e_
  grind -ring -linarith -lia -ac -order [inv_mk, → State.Inv.mem, → State.Inv.claims, → State.Inv.slots, → State.Inv.dusk, State.wx_inv]

theorem execSrai_inv {d : Nat} {a : Nat} {s_ : Nat} {s : State} {t_ : State} (s_i : s.Inv) (e_ : execSrai d a s_ s = .next t_) : t_.Inv := by
  unfold execSrai at e_
  grind -ring -linarith -lia -ac -order [inv_mk, → State.Inv.mem, → State.Inv.claims, → State.Inv.slots, → State.Inv.dusk, State.wx_inv]

theorem execSlliw_inv {d : Nat} {a : Nat} {s_ : Nat} {s : State} {t_ : State} (s_i : s.Inv) (e_ : execSlliw d a s_ s = .next t_) : t_.Inv := by
  unfold execSlliw at e_
  grind -ring -linarith -lia -ac -order [inv_mk, → State.Inv.mem, → State.Inv.claims, → State.Inv.slots, → State.Inv.dusk, State.wx_inv]

theorem execSrliw_inv {d : Nat} {a : Nat} {s_ : Nat} {s : State} {t_ : State} (s_i : s.Inv) (e_ : execSrliw d a s_ s = .next t_) : t_.Inv := by
  unfold execSrliw at e_
  grind -ring -linarith -lia -ac -order [inv_mk, → State.Inv.mem, → State.Inv.claims, → State.Inv.slots, → State.Inv.dusk, State.wx_inv]

theorem execSraiw_inv {d : Nat} {a : Nat} {s_ : Nat} {s : State} {t_ : State} (s_i : s.Inv) (e_ : execSraiw d a s_ s = .next t_) : t_.Inv := by
  unfold execSraiw at e_
  grind -ring -linarith -lia -ac -order [inv_mk, → State.Inv.mem, → State.Inv.claims, → State.Inv.slots, → State.Inv.dusk, State.wx_inv]

theorem execAdd_inv {d : Nat} {a : Nat} {b : Nat} {s : State} {t_ : State} (s_i : s.Inv) (e_ : execAdd d a b s = .next t_) : t_.Inv := by
  unfold execAdd at e_
  grind -ring -linarith -lia -ac -order [inv_mk, → State.Inv.mem, → State.Inv.claims, → State.Inv.slots, → State.Inv.dusk, State.wx_inv]

theorem execSub_inv {d : Nat} {a : Nat} {b : Nat} {s : State} {t_ : State} (s_i : s.Inv) (e_ : execSub d a b s = .next t_) : t_.Inv := by
  unfold execSub at e_
  grind -ring -linarith -lia -ac -order [inv_mk, → State.Inv.mem, → State.Inv.claims, → State.Inv.slots, → State.Inv.dusk, State.wx_inv]

theorem execSll_inv {d : Nat} {a : Nat} {b : Nat} {s : State} {t_ : State} (s_i : s.Inv) (e_ : execSll d a b s = .next t_) : t_.Inv := by
  unfold execSll at e_
  grind -ring -linarith -lia -ac -order [inv_mk, → State.Inv.mem, → State.Inv.claims, → State.Inv.slots, → State.Inv.dusk, State.wx_inv]

theorem execSlt_inv {d : Nat} {a : Nat} {b : Nat} {s : State} {t_ : State} (s_i : s.Inv) (e_ : execSlt d a b s = .next t_) : t_.Inv := by
  unfold execSlt at e_
  grind -ring -linarith -lia -ac -order [inv_mk, → State.Inv.mem, → State.Inv.claims, → State.Inv.slots, → State.Inv.dusk, State.wx_inv]

theorem execSltu_inv {d : Nat} {a : Nat} {b : Nat} {s : State} {t_ : State} (s_i : s.Inv) (e_ : execSltu d a b s = .next t_) : t_.Inv := by
  unfold execSltu at e_
  grind -ring -linarith -lia -ac -order [inv_mk, → State.Inv.mem, → State.Inv.claims, → State.Inv.slots, → State.Inv.dusk, State.wx_inv]

theorem execXor_inv {d : Nat} {a : Nat} {b : Nat} {s : State} {t_ : State} (s_i : s.Inv) (e_ : execXor d a b s = .next t_) : t_.Inv := by
  unfold execXor at e_
  grind -ring -linarith -lia -ac -order [inv_mk, → State.Inv.mem, → State.Inv.claims, → State.Inv.slots, → State.Inv.dusk, State.wx_inv]

theorem execSrl_inv {d : Nat} {a : Nat} {b : Nat} {s : State} {t_ : State} (s_i : s.Inv) (e_ : execSrl d a b s = .next t_) : t_.Inv := by
  unfold execSrl at e_
  grind -ring -linarith -lia -ac -order [inv_mk, → State.Inv.mem, → State.Inv.claims, → State.Inv.slots, → State.Inv.dusk, State.wx_inv]

theorem execSra_inv {d : Nat} {a : Nat} {b : Nat} {s : State} {t_ : State} (s_i : s.Inv) (e_ : execSra d a b s = .next t_) : t_.Inv := by
  unfold execSra at e_
  grind -ring -linarith -lia -ac -order [inv_mk, → State.Inv.mem, → State.Inv.claims, → State.Inv.slots, → State.Inv.dusk, State.wx_inv]

theorem execOr_inv {d : Nat} {a : Nat} {b : Nat} {s : State} {t_ : State} (s_i : s.Inv) (e_ : execOr d a b s = .next t_) : t_.Inv := by
  unfold execOr at e_
  grind -ring -linarith -lia -ac -order [inv_mk, → State.Inv.mem, → State.Inv.claims, → State.Inv.slots, → State.Inv.dusk, State.wx_inv]

theorem execAnd_inv {d : Nat} {a : Nat} {b : Nat} {s : State} {t_ : State} (s_i : s.Inv) (e_ : execAnd d a b s = .next t_) : t_.Inv := by
  unfold execAnd at e_
  grind -ring -linarith -lia -ac -order [inv_mk, → State.Inv.mem, → State.Inv.claims, → State.Inv.slots, → State.Inv.dusk, State.wx_inv]

theorem execMul_inv {d : Nat} {a : Nat} {b : Nat} {s : State} {t_ : State} (s_i : s.Inv) (e_ : execMul d a b s = .next t_) : t_.Inv := by
  unfold execMul at e_
  grind -ring -linarith -lia -ac -order [inv_mk, → State.Inv.mem, → State.Inv.claims, → State.Inv.slots, → State.Inv.dusk, State.wx_inv]

theorem execMulh_inv {d : Nat} {a : Nat} {b : Nat} {s : State} {t_ : State} (s_i : s.Inv) (e_ : execMulh d a b s = .next t_) : t_.Inv := by
  unfold execMulh at e_
  grind -ring -linarith -lia -ac -order [inv_mk, → State.Inv.mem, → State.Inv.claims, → State.Inv.slots, → State.Inv.dusk, State.wx_inv]

theorem execMulhsu_inv {d : Nat} {a : Nat} {b : Nat} {s : State} {t_ : State} (s_i : s.Inv) (e_ : execMulhsu d a b s = .next t_) : t_.Inv := by
  unfold execMulhsu at e_
  grind -ring -linarith -lia -ac -order [inv_mk, → State.Inv.mem, → State.Inv.claims, → State.Inv.slots, → State.Inv.dusk, State.wx_inv]

theorem execMulhu_inv {d : Nat} {a : Nat} {b : Nat} {s : State} {t_ : State} (s_i : s.Inv) (e_ : execMulhu d a b s = .next t_) : t_.Inv := by
  unfold execMulhu at e_
  grind -ring -linarith -lia -ac -order [inv_mk, → State.Inv.mem, → State.Inv.claims, → State.Inv.slots, → State.Inv.dusk, State.wx_inv]

theorem execDiv_inv {d : Nat} {a : Nat} {b : Nat} {s : State} {t_ : State} (s_i : s.Inv) (e_ : execDiv d a b s = .next t_) : t_.Inv := by
  unfold execDiv at e_
  grind -ring -linarith -lia -ac -order [inv_mk, → State.Inv.mem, → State.Inv.claims, → State.Inv.slots, → State.Inv.dusk, State.wx_inv]

theorem execDivu_inv {d : Nat} {a : Nat} {b : Nat} {s : State} {t_ : State} (s_i : s.Inv) (e_ : execDivu d a b s = .next t_) : t_.Inv := by
  unfold execDivu at e_
  grind -ring -linarith -lia -ac -order [inv_mk, → State.Inv.mem, → State.Inv.claims, → State.Inv.slots, → State.Inv.dusk, State.wx_inv]

theorem execRem_inv {d : Nat} {a : Nat} {b : Nat} {s : State} {t_ : State} (s_i : s.Inv) (e_ : execRem d a b s = .next t_) : t_.Inv := by
  unfold execRem at e_
  grind -ring -linarith -lia -ac -order [inv_mk, → State.Inv.mem, → State.Inv.claims, → State.Inv.slots, → State.Inv.dusk, State.wx_inv]

theorem execRemu_inv {d : Nat} {a : Nat} {b : Nat} {s : State} {t_ : State} (s_i : s.Inv) (e_ : execRemu d a b s = .next t_) : t_.Inv := by
  unfold execRemu at e_
  grind -ring -linarith -lia -ac -order [inv_mk, → State.Inv.mem, → State.Inv.claims, → State.Inv.slots, → State.Inv.dusk, State.wx_inv]

theorem execAddw_inv {d : Nat} {a : Nat} {b : Nat} {s : State} {t_ : State} (s_i : s.Inv) (e_ : execAddw d a b s = .next t_) : t_.Inv := by
  unfold execAddw at e_
  grind -ring -linarith -lia -ac -order [inv_mk, → State.Inv.mem, → State.Inv.claims, → State.Inv.slots, → State.Inv.dusk, State.wx_inv]

theorem execSubw_inv {d : Nat} {a : Nat} {b : Nat} {s : State} {t_ : State} (s_i : s.Inv) (e_ : execSubw d a b s = .next t_) : t_.Inv := by
  unfold execSubw at e_
  grind -ring -linarith -lia -ac -order [inv_mk, → State.Inv.mem, → State.Inv.claims, → State.Inv.slots, → State.Inv.dusk, State.wx_inv]

theorem execSllw_inv {d : Nat} {a : Nat} {b : Nat} {s : State} {t_ : State} (s_i : s.Inv) (e_ : execSllw d a b s = .next t_) : t_.Inv := by
  unfold execSllw at e_
  grind -ring -linarith -lia -ac -order [inv_mk, → State.Inv.mem, → State.Inv.claims, → State.Inv.slots, → State.Inv.dusk, State.wx_inv]

theorem execSrlw_inv {d : Nat} {a : Nat} {b : Nat} {s : State} {t_ : State} (s_i : s.Inv) (e_ : execSrlw d a b s = .next t_) : t_.Inv := by
  unfold execSrlw at e_
  grind -ring -linarith -lia -ac -order [inv_mk, → State.Inv.mem, → State.Inv.claims, → State.Inv.slots, → State.Inv.dusk, State.wx_inv]

theorem execSraw_inv {d : Nat} {a : Nat} {b : Nat} {s : State} {t_ : State} (s_i : s.Inv) (e_ : execSraw d a b s = .next t_) : t_.Inv := by
  unfold execSraw at e_
  grind -ring -linarith -lia -ac -order [inv_mk, → State.Inv.mem, → State.Inv.claims, → State.Inv.slots, → State.Inv.dusk, State.wx_inv]

theorem execMulw_inv {d : Nat} {a : Nat} {b : Nat} {s : State} {t_ : State} (s_i : s.Inv) (e_ : execMulw d a b s = .next t_) : t_.Inv := by
  unfold execMulw at e_
  grind -ring -linarith -lia -ac -order [inv_mk, → State.Inv.mem, → State.Inv.claims, → State.Inv.slots, → State.Inv.dusk, State.wx_inv]

theorem execDivw_inv {d : Nat} {a : Nat} {b : Nat} {s : State} {t_ : State} (s_i : s.Inv) (e_ : execDivw d a b s = .next t_) : t_.Inv := by
  unfold execDivw at e_
  grind -ring -linarith -lia -ac -order [inv_mk, → State.Inv.mem, → State.Inv.claims, → State.Inv.slots, → State.Inv.dusk, State.wx_inv]

theorem execDivuw_inv {d : Nat} {a : Nat} {b : Nat} {s : State} {t_ : State} (s_i : s.Inv) (e_ : execDivuw d a b s = .next t_) : t_.Inv := by
  unfold execDivuw at e_
  grind -ring -linarith -lia -ac -order [inv_mk, → State.Inv.mem, → State.Inv.claims, → State.Inv.slots, → State.Inv.dusk, State.wx_inv]

theorem execRemw_inv {d : Nat} {a : Nat} {b : Nat} {s : State} {t_ : State} (s_i : s.Inv) (e_ : execRemw d a b s = .next t_) : t_.Inv := by
  unfold execRemw at e_
  grind -ring -linarith -lia -ac -order [inv_mk, → State.Inv.mem, → State.Inv.claims, → State.Inv.slots, → State.Inv.dusk, State.wx_inv]

theorem execRemuw_inv {d : Nat} {a : Nat} {b : Nat} {s : State} {t_ : State} (s_i : s.Inv) (e_ : execRemuw d a b s = .next t_) : t_.Inv := by
  unfold execRemuw at e_
  grind -ring -linarith -lia -ac -order [inv_mk, → State.Inv.mem, → State.Inv.claims, → State.Inv.slots, → State.Inv.dusk, State.wx_inv]

theorem execFence_inv {_d : Nat} {_a : Nat} {_f : Nat} {_p : Nat} {_s : Nat} {s : State} {t_ : State} (s_i : s.Inv) (e_ : execFence _d _a _f _p _s s =
    .next t_) : t_.Inv := by
  unfold execFence at e_
  grind -ring -linarith -lia -ac -order [inv_mk, → State.Inv.mem, → State.Inv.claims, → State.Inv.slots, → State.Inv.dusk, State.advance4_inv]

theorem execEcall_inv {s : State} {t_ : State} (s_i : s.Inv) (e_ : execEcall s = .next t_) : t_.Inv := by
  unfold execEcall at e_
  grind -ring -linarith -lia -ac -order [inv_mk, → State.Inv.mem, → State.Inv.claims, → State.Inv.slots, → State.Inv.dusk, State.trapWith_inv]

theorem execEbreak_inv {s : State} {t_ : State} (s_i : s.Inv) (e_ : execEbreak s = .next t_) : t_.Inv := by
  unfold execEbreak at e_
  grind -ring -linarith -lia -ac -order [inv_mk, → State.Inv.mem, → State.Inv.claims, → State.Inv.slots, → State.Inv.dusk, State.trapWith_inv]

theorem State.csr_inv {s : State} {d : Nat} {c : Nat} {write : Bool} {f : Word → Word} {t_ : State} (s_i : s.Inv) (e_ : State.csr s d c write f =
    .next t_) : t_.Inv := by
  unfold State.csr at e_
  grind -ring -linarith -lia -ac -order [inv_mk, → State.Inv.mem, → State.Inv.claims, → State.Inv.slots, → State.Inv.dusk, State.upd_inv]

theorem execCsrrw_inv {d : Nat} {csr : Nat} {a : Nat} {s : State} {t_ : State} (s_i : s.Inv) (e_ : execCsrrw d csr a s = .next t_) : t_.Inv := by
  unfold execCsrrw at e_
  grind -ring -linarith -lia -ac -order [inv_mk, → State.Inv.mem, → State.Inv.claims, → State.Inv.slots, → State.Inv.dusk, State.csr_inv]

theorem execCsrrs_inv {d : Nat} {csr : Nat} {a : Nat} {s : State} {t_ : State} (s_i : s.Inv) (e_ : execCsrrs d csr a s = .next t_) : t_.Inv := by
  unfold execCsrrs at e_
  grind -ring -linarith -lia -ac -order [inv_mk, → State.Inv.mem, → State.Inv.claims, → State.Inv.slots, → State.Inv.dusk, State.csr_inv]

theorem execCsrrc_inv {d : Nat} {csr : Nat} {a : Nat} {s : State} {t_ : State} (s_i : s.Inv) (e_ : execCsrrc d csr a s = .next t_) : t_.Inv := by
  unfold execCsrrc at e_
  grind -ring -linarith -lia -ac -order [inv_mk, → State.Inv.mem, → State.Inv.claims, → State.Inv.slots, → State.Inv.dusk, State.csr_inv]

theorem execCsrrwi_inv {d : Nat} {csr : Nat} {uimm : Nat} {s : State} {t_ : State} (s_i : s.Inv) (e_ : execCsrrwi d csr uimm s = .next t_) : t_.Inv :=
    by
  unfold execCsrrwi at e_
  grind -ring -linarith -lia -ac -order [inv_mk, → State.Inv.mem, → State.Inv.claims, → State.Inv.slots, → State.Inv.dusk, State.csr_inv]

theorem execCsrrsi_inv {d : Nat} {csr : Nat} {uimm : Nat} {s : State} {t_ : State} (s_i : s.Inv) (e_ : execCsrrsi d csr uimm s = .next t_) : t_.Inv :=
    by
  unfold execCsrrsi at e_
  grind -ring -linarith -lia -ac -order [inv_mk, → State.Inv.mem, → State.Inv.claims, → State.Inv.slots, → State.Inv.dusk, State.csr_inv]

theorem execCsrrci_inv {d : Nat} {csr : Nat} {uimm : Nat} {s : State} {t_ : State} (s_i : s.Inv) (e_ : execCsrrci d csr uimm s = .next t_) : t_.Inv :=
    by
  unfold execCsrrci at e_
  grind -ring -linarith -lia -ac -order [inv_mk, → State.Inv.mem, → State.Inv.claims, → State.Inv.slots, → State.Inv.dusk, State.csr_inv]

theorem State.moves_inv {s : State} {mk : Nat} {d : Nat} {g : Hart → Nat → List Image} {t_ : State} (s_i : s.Inv) (e_ : State.moves s mk d g = .next
    t_) : t_.Inv := by
  unfold State.moves at e_
  grind -ring -linarith -lia -ac -order [inv_mk, → State.Inv.mem, → State.Inv.claims, → State.Inv.slots, → State.Inv.dusk, State.upd_inv]

theorem State.elementwise_inv {s : State} {mk : Nat} {d : Nat} {g : Hart → Nat → List Image × BitVec 5} {t_ : State} (s_i : s.Inv) (e_ :
    State.elementwise s mk d g = .next t_) : t_.Inv := by
  unfold State.elementwise at e_
  grind -ring -linarith -lia -ac -order [inv_mk, → State.Inv.mem, → State.Inv.claims, → State.Inv.slots, → State.Inv.dusk, State.upd_inv]

theorem State.binary_inv {s : State} {mk : Nat} {d : Nat} {x : Source} {y : Source} {op : Hart → Image → Image → Image × BitVec 5} {t_ : State} (s_i :
    s.Inv) (e_ : State.binary s mk d x y op = .next t_) : t_.Inv := by
  unfold State.binary at e_
  grind -ring -linarith -lia -ac -order [inv_mk, → State.Inv.mem, → State.Inv.claims, → State.Inv.slots, → State.Inv.dusk, State.elementwise_inv]

theorem State.unary_inv {s : State} {mk : Nat} {d : Nat} {a : Nat} {op : Hart → Image → Image × BitVec 5} {t_ : State} (s_i : s.Inv) (e_ : State.unary
    s mk d a op = .next t_) : t_.Inv := by
  unfold State.unary at e_
  grind -ring -linarith -lia -ac -order [inv_mk, → State.Inv.mem, → State.Inv.claims, → State.Inv.slots, → State.Inv.dusk, State.elementwise_inv]

theorem State.eachUnit_inv {f : State → Nat → Except Stop State} {z0 : State} {z1 : List Nat} (f_h : ∀ (s t : State) e, s.Inv → f s e = .ok t → t.Inv)
    (z0_i : z0.Inv) : (State.eachUnit f z0 z1).1.Inv := by
  induction z1 generalizing z0 with
  | nil => exact z0_i
  | cons e r ih =>
    unfold State.eachUnit
    split
    · next h => exact ih (f_h _ _ _ z0_i h)
    · exact z0_i

theorem State.finishUnits_inv {s0 : State} {r : State × Option (Nat × Stop)} {t_ : State} (s0_i : s0.Inv) (r_i : r.1.Inv) (e_ : State.finishUnits s0 r
    = .next t_) : t_.Inv := by
  unfold State.finishUnits at e_
  grind -ring -linarith -lia -ac -order [inv_mk, → State.Inv.mem, → State.Inv.claims, → State.Inv.slots, → State.Inv.dusk, State.upd_inv,
      State.advance_inv, State.trap_inv, State.stalled_inv]

end Sys2Proof.Machine
end

