-- ==== Sys2Proof/Laws/InvVector.lean ====
section
/-! SUPPORT. The invariant kept by scalar floating point and the vector, tree and atomic instructions: one lemma for each function that answers a state. -/

namespace Sys2Proof.Machine

set_option Elab.async false

theorem State.wfVal_inv {s : State} {d : Nat} {g : Nat} {r : Val × BitVec 5} {t_ : State} (s_i : s.Inv) (e_ : State.wfVal s d g r = .next t_) : t_.Inv
    := by
  unfold State.wfVal at e_
  grind -ring -linarith -lia -ac -order [inv_mk, → State.Inv.mem, → State.Inv.claims, → State.Inv.slots, → State.Inv.dusk, State.wf_inv]

theorem execFadd_inv {g : Nat} {d : Nat} {a : Nat} {b : Nat} {s : State} {t_ : State} (s_i : s.Inv) (e_ : execFadd g d a b s = .next t_) : t_.Inv :=
    by
  unfold execFadd at e_
  grind -ring -linarith -lia -ac -order [inv_mk, → State.Inv.mem, → State.Inv.claims, → State.Inv.slots, → State.Inv.dusk, State.wfVal_inv]

theorem execFsub_inv {g : Nat} {d : Nat} {a : Nat} {b : Nat} {s : State} {t_ : State} (s_i : s.Inv) (e_ : execFsub g d a b s = .next t_) : t_.Inv :=
    by
  unfold execFsub at e_
  grind -ring -linarith -lia -ac -order [inv_mk, → State.Inv.mem, → State.Inv.claims, → State.Inv.slots, → State.Inv.dusk, State.wfVal_inv]

theorem execFmul_inv {g : Nat} {d : Nat} {a : Nat} {b : Nat} {s : State} {t_ : State} (s_i : s.Inv) (e_ : execFmul g d a b s = .next t_) : t_.Inv :=
    by
  unfold execFmul at e_
  grind -ring -linarith -lia -ac -order [inv_mk, → State.Inv.mem, → State.Inv.claims, → State.Inv.slots, → State.Inv.dusk, State.wfVal_inv]

theorem execFfma_inv {g : Nat} {d : Nat} {a : Nat} {b : Nat} {s : State} {t_ : State} (s_i : s.Inv) (e_ : execFfma g d a b s = .next t_) : t_.Inv :=
    by
  unfold execFfma at e_
  grind -ring -linarith -lia -ac -order [inv_mk, → State.Inv.mem, → State.Inv.claims, → State.Inv.slots, → State.Inv.dusk, State.wfVal_inv]

theorem execFmin_inv {g : Nat} {d : Nat} {a : Nat} {b : Nat} {s : State} {t_ : State} (s_i : s.Inv) (e_ : execFmin g d a b s = .next t_) : t_.Inv :=
    by
  unfold execFmin at e_
  grind -ring -linarith -lia -ac -order [inv_mk, → State.Inv.mem, → State.Inv.claims, → State.Inv.slots, → State.Inv.dusk, State.wf_inv]

theorem execFmax_inv {g : Nat} {d : Nat} {a : Nat} {b : Nat} {s : State} {t_ : State} (s_i : s.Inv) (e_ : execFmax g d a b s = .next t_) : t_.Inv :=
    by
  unfold execFmax at e_
  grind -ring -linarith -lia -ac -order [inv_mk, → State.Inv.mem, → State.Inv.claims, → State.Inv.slots, → State.Inv.dusk, State.wf_inv]

theorem State.wcmp_inv {s : State} {d : Nat} {o : Option Ordering} {fl : BitVec 5} {t_ : State} (s_i : s.Inv) (e_ : State.wcmp s d o fl = .next t_) :
    t_.Inv := by
  unfold State.wcmp at e_
  grind -ring -linarith -lia -ac -order [inv_mk, → State.Inv.mem, → State.Inv.claims, → State.Inv.slots, → State.Inv.dusk, State.upd_inv]

theorem execFcmp_inv {g : Nat} {d : Nat} {a : Nat} {b : Nat} {s : State} {t_ : State} (s_i : s.Inv) (e_ : execFcmp g d a b s = .next t_) : t_.Inv :=
    by
  unfold execFcmp at e_
  grind -ring -linarith -lia -ac -order [inv_mk, → State.Inv.mem, → State.Inv.claims, → State.Inv.slots, → State.Inv.dusk, State.wcmp_inv]

theorem execFcmpF_inv {g : Nat} {d : Nat} {a : Nat} {b : Nat} {s : State} {t_ : State} (s_i : s.Inv) (e_ : execFcmpF g d a b s = .next t_) : t_.Inv :=
    by
  unfold execFcmpF at e_
  refine State.gate_inv s_i (fun s t s_i e_ => ?_) e_
  try dsimp only at e_
  grind -ring -linarith -lia -ac -order [inv_mk, → State.Inv.mem, → State.Inv.claims, → State.Inv.slots, → State.Inv.dusk, State.gate_inv,
      State.wcmp_inv]

theorem execFcvt_inv {g : Nat} {d : Nat} {a : Nat} {s_ : Nat} {s : State} {t_ : State} (s_i : s.Inv) (e_ : execFcvt g d a s_ s = .next t_) : t_.Inv :=
    by
  unfold execFcvt at e_
  grind -ring -linarith -lia -ac -order [inv_mk, → State.Inv.mem, → State.Inv.claims, → State.Inv.slots, → State.Inv.dusk, State.wfVal_inv]

theorem execFrnd_inv {g : Nat} {d : Nat} {a : Nat} {o : Nat} {s : State} {t_ : State} (s_i : s.Inv) (e_ : execFrnd g d a o s = .next t_) : t_.Inv :=
    by
  unfold execFrnd at e_
  refine State.gate_inv s_i (fun s t s_i e_ => ?_) e_
  try dsimp only at e_
  grind -ring -linarith -lia -ac -order [inv_mk, → State.Inv.mem, → State.Inv.claims, → State.Inv.slots, → State.Inv.dusk, State.wf_inv,
      State.gate_inv]

theorem execFcls_inv {g : Nat} {d : Nat} {a : Nat} {s : State} {t_ : State} (s_i : s.Inv) (e_ : execFcls g d a s = .next t_) : t_.Inv := by
  unfold execFcls at e_
  grind -ring -linarith -lia -ac -order [inv_mk, → State.Inv.mem, → State.Inv.claims, → State.Inv.slots, → State.Inv.dusk, State.wx_inv]

theorem execFmvx_inv {g : Nat} {d : Nat} {a : Nat} {s : State} {t_ : State} (s_i : s.Inv) (e_ : execFmvx g d a s = .next t_) : t_.Inv := by
  unfold execFmvx at e_
  grind -ring -linarith -lia -ac -order [inv_mk, → State.Inv.mem, → State.Inv.claims, → State.Inv.slots, → State.Inv.dusk, State.wx_inv]

theorem execFmvf_inv {g : Nat} {d : Nat} {a : Nat} {s : State} {t_ : State} (s_i : s.Inv) (e_ : execFmvf g d a s = .next t_) : t_.Inv := by
  unfold execFmvf at e_
  grind -ring -linarith -lia -ac -order [inv_mk, → State.Inv.mem, → State.Inv.claims, → State.Inv.slots, → State.Inv.dusk, State.wf_inv]

theorem execFld_inv {g : Nat} {d : Nat} {a : Nat} {off : Int} {s : State} {t_ : State} (s_i : s.Inv) (e_ : execFld g d a off s = .next t_) : t_.Inv :=
    by
  unfold execFld at e_
  dsimp only at e_
  split at e_
  · exact State.halt_inv s_i e_
  · next h => exact State.wf_inv (State.load_inv s_i h) e_

theorem execFst_inv {g : Nat} {d : Nat} {a : Nat} {off : Int} {s : State} {t_ : State} (s_i : s.Inv) (e_ : execFst g d a off s = .next t_) : t_.Inv :=
    by
  unfold execFst at e_
  refine State.gate_inv s_i (fun s t s_i e_ => ?_) e_
  try dsimp only at e_
  grind -ring -linarith -lia -ac -order [inv_mk, → State.Inv.mem, → State.Inv.claims, → State.Inv.slots, → State.Inv.dusk, State.upd_inv,
      State.store_inv, State.halt_inv, State.gate_inv]

theorem execFspill_inv {d : Nat} {a : Nat} {off : Int} {s : State} {t_ : State} (s_i : s.Inv) (e_ : execFspill d a off s = .next t_) : t_.Inv := by
  unfold execFspill at e_
  grind -ring -linarith -lia -ac -order [inv_mk, → State.Inv.mem, → State.Inv.claims, → State.Inv.slots, → State.Inv.dusk, State.storeBlock_inv,
      State.advance4_inv, State.halt_inv]

theorem execFfill_inv {d : Nat} {a : Nat} {off : Int} {s : State} {t_ : State} (s_i : s.Inv) (e_ : execFfill d a off s = .next t_) : t_.Inv := by
  unfold execFfill at e_
  split at e_
  · exact State.halt_inv s_i e_
  · next h => exact State.wf_inv (State.loadBlock_inv s_i h) e_

theorem execVsett_inv {t : Nat} {g : Nat} {p : Nat} {k : Nat} {n : Nat} {l : Nat} {o : Nat} {f : Nat} {s : State} {t_ : State} (s_i : s.Inv) (e_ :
    execVsett t g p k n l o f s = .next t_) : t_.Inv := by
  unfold execVsett at e_
  grind -ring -linarith -lia -ac -order [inv_mk, → State.Inv.mem, → State.Inv.claims, → State.Inv.slots, → State.Inv.dusk, State.upd_inv]

theorem execStrip_inv {d : Nat} {p : Nat} {s : State} {t_ : State} (s_i : s.Inv) (e_ : execStrip d p s = .next t_) : t_.Inv := by
  unfold execStrip at e_
  refine State.gate_inv s_i (fun s t s_i e_ => ?_) e_
  try dsimp only at e_
  grind -ring -linarith -lia -ac -order [inv_mk, → State.Inv.mem, → State.Inv.claims, → State.Inv.slots, → State.Inv.dusk, State.upd_inv,
      State.gate_inv]

theorem execVsetc_inv {a : Nat} {s : State} {t_ : State} (s_i : s.Inv) (e_ : execVsetc a s = .next t_) : t_.Inv := by
  unfold execVsetc at e_
  grind -ring -linarith -lia -ac -order [inv_mk, → State.Inv.mem, → State.Inv.claims, → State.Inv.slots, → State.Inv.dusk, State.upd_inv]

theorem execPset_inv {d : Nat} {a : Nat} {k : Nat} {s : State} {t_ : State} (s_i : s.Inv) (e_ : execPset d a k s = .next t_) : t_.Inv := by
  unfold execPset at e_
  grind -ring -linarith -lia -ac -order [inv_mk, → State.Inv.mem, → State.Inv.claims, → State.Inv.slots, → State.Inv.dusk, State.upd_inv]

theorem execPget_inv {d : Nat} {a : Nat} {s : State} {t_ : State} (s_i : s.Inv) (e_ : execPget d a s = .next t_) : t_.Inv := by
  unfold execPget at e_
  grind -ring -linarith -lia -ac -order [inv_mk, → State.Inv.mem, → State.Inv.claims, → State.Inv.slots, → State.Inv.dusk, State.upd_inv]

theorem State.vbranch_inv {s : State} {c : Bool} {off : Int} {t_ : State} (s_i : s.Inv) (e_ : State.vbranch s c off = .next t_) : t_.Inv := by
  unfold State.vbranch at e_
  grind -ring -linarith -lia -ac -order [inv_mk, → State.Inv.mem, → State.Inv.claims, → State.Inv.slots, → State.Inv.dusk, State.upd_inv]

theorem execVloop_inv {e : Nat} {a : Nat} {off : Int} {s : State} {t_ : State} (s_i : s.Inv) (e_ : execVloop e a off s = .next t_) : t_.Inv := by
  unfold execVloop at e_
  dsimp only at e_
  refine State.vbranch_inv ?_ e_
  exact s_i.of_eq rfl rfl rfl rfl

theorem execVbany_inv {k : Nat} {off : Int} {s : State} {t_ : State} (s_i : s.Inv) (e_ : execVbany k off s = .next t_) : t_.Inv := by
  unfold execVbany at e_
  grind -ring -linarith -lia -ac -order [inv_mk, → State.Inv.mem, → State.Inv.claims, → State.Inv.slots, → State.Inv.dusk, State.vbranch_inv]

theorem execVbnone_inv {k : Nat} {off : Int} {s : State} {t_ : State} (s_i : s.Inv) (e_ : execVbnone k off s = .next t_) : t_.Inv := by
  unfold execVbnone at e_
  grind -ring -linarith -lia -ac -order [inv_mk, → State.Inv.mem, → State.Inv.claims, → State.Inv.slots, → State.Inv.dusk, State.vbranch_inv]

theorem State.fma_inv {s : State} {mk : Nat} {d : Nat} {x : Source} {y : Source} {t_ : State} (s_i : s.Inv) (e_ : State.fma s mk d x y = .next t_) :
    t_.Inv := by
  unfold State.fma at e_
  grind -ring -linarith -lia -ac -order [inv_mk, → State.Inv.mem, → State.Inv.claims, → State.Inv.slots, → State.Inv.dusk, State.elementwise_inv]

theorem State.compareTo_inv {s : State} {mk : Nat} {d : Nat} {c : Nat} {x : Source} {y : Source} {ord : Hart → Image → Image → Option Ordering} {fl :
    Hart → Image → BitVec 5} {t_ : State} (s_i : s.Inv) (e_ : State.compareTo s mk d c x y ord fl = .next t_) : t_.Inv := by
  unfold State.compareTo at e_
  grind -ring -linarith -lia -ac -order [inv_mk, → State.Inv.mem, → State.Inv.claims, → State.Inv.slots, → State.Inv.dusk, State.upd_inv]

theorem State.intCompare_inv {s : State} {mk : Nat} {d : Nat} {c : Nat} {x : Source} {y : Source} {t_ : State} (s_i : s.Inv) (e_ : State.intCompare s
    mk d c x y = .next t_) : t_.Inv := by
  unfold State.intCompare at e_
  grind -ring -linarith -lia -ac -order [inv_mk, → State.Inv.mem, → State.Inv.claims, → State.Inv.slots, → State.Inv.dusk, State.compareTo_inv]

theorem State.fltCompare_inv {s : State} {mk : Nat} {d : Nat} {c : Nat} {x : Source} {y : Source} {t_ : State} (s_i : s.Inv) (e_ : State.fltCompare s
    mk d c x y = .next t_) : t_.Inv := by
  unfold State.fltCompare at e_
  grind -ring -linarith -lia -ac -order [inv_mk, → State.Inv.mem, → State.Inv.claims, → State.Inv.slots, → State.Inv.dusk, State.compareTo_inv]

theorem State.finCompare_inv {s : State} {mk : Nat} {d : Nat} {c : Nat} {x : Source} {y : Source} {t_ : State} (s_i : s.Inv) (e_ : State.finCompare s
    mk d c x y = .next t_) : t_.Inv := by
  unfold State.finCompare at e_
  grind -ring -linarith -lia -ac -order [inv_mk, → State.Inv.mem, → State.Inv.claims, → State.Inv.slots, → State.Inv.dusk, State.compareTo_inv]

theorem execVadd_inv {_c : Bool} {mk : Nat} {d : Nat} {a : Nat} {b : Nat} {s : State} {t_ : State} (s_i : s.Inv) (e_ : execVadd _c mk d a b s = .next
    t_) : t_.Inv := by
  unfold execVadd at e_
  refine State.gate_inv s_i (fun s t s_i e_ => ?_) e_
  try dsimp only at e_
  grind -ring -linarith -lia -ac -order [inv_mk, → State.Inv.mem, → State.Inv.claims, → State.Inv.slots, → State.Inv.dusk, State.gate_inv,
      State.binary_inv]

theorem execVsub_inv {_c : Bool} {mk : Nat} {d : Nat} {a : Nat} {b : Nat} {s : State} {t_ : State} (s_i : s.Inv) (e_ : execVsub _c mk d a b s = .next
    t_) : t_.Inv := by
  unfold execVsub at e_
  refine State.gate_inv s_i (fun s t s_i e_ => ?_) e_
  try dsimp only at e_
  grind -ring -linarith -lia -ac -order [inv_mk, → State.Inv.mem, → State.Inv.claims, → State.Inv.slots, → State.Inv.dusk, State.gate_inv,
      State.binary_inv]

theorem execVmul_inv {_c : Bool} {mk : Nat} {d : Nat} {a : Nat} {b : Nat} {s : State} {t_ : State} (s_i : s.Inv) (e_ : execVmul _c mk d a b s = .next
    t_) : t_.Inv := by
  unfold execVmul at e_
  refine State.gate_inv s_i (fun s t s_i e_ => ?_) e_
  try dsimp only at e_
  grind -ring -linarith -lia -ac -order [inv_mk, → State.Inv.mem, → State.Inv.claims, → State.Inv.slots, → State.Inv.dusk, State.gate_inv,
      State.binary_inv]

theorem execVmulh_inv {_c : Bool} {mk : Nat} {d : Nat} {a : Nat} {b : Nat} {s : State} {t_ : State} (s_i : s.Inv) (e_ : execVmulh _c mk d a b s =
    .next t_) : t_.Inv := by
  unfold execVmulh at e_
  refine State.gate_inv s_i (fun s t s_i e_ => ?_) e_
  try dsimp only at e_
  grind -ring -linarith -lia -ac -order [inv_mk, → State.Inv.mem, → State.Inv.claims, → State.Inv.slots, → State.Inv.dusk, State.gate_inv,
      State.binary_inv]

theorem execVdiv_inv {_c : Bool} {mk : Nat} {d : Nat} {a : Nat} {b : Nat} {s : State} {t_ : State} (s_i : s.Inv) (e_ : execVdiv _c mk d a b s = .next
    t_) : t_.Inv := by
  unfold execVdiv at e_
  refine State.gate_inv s_i (fun s t s_i e_ => ?_) e_
  try dsimp only at e_
  grind -ring -linarith -lia -ac -order [inv_mk, → State.Inv.mem, → State.Inv.claims, → State.Inv.slots, → State.Inv.dusk, State.gate_inv,
      State.binary_inv]

theorem execVrem_inv {_c : Bool} {mk : Nat} {d : Nat} {a : Nat} {b : Nat} {s : State} {t_ : State} (s_i : s.Inv) (e_ : execVrem _c mk d a b s = .next
    t_) : t_.Inv := by
  unfold execVrem at e_
  refine State.gate_inv s_i (fun s t s_i e_ => ?_) e_
  try dsimp only at e_
  grind -ring -linarith -lia -ac -order [inv_mk, → State.Inv.mem, → State.Inv.claims, → State.Inv.slots, → State.Inv.dusk, State.gate_inv,
      State.binary_inv]

theorem execVmin_inv {_c : Bool} {mk : Nat} {d : Nat} {a : Nat} {b : Nat} {s : State} {t_ : State} (s_i : s.Inv) (e_ : execVmin _c mk d a b s = .next
    t_) : t_.Inv := by
  unfold execVmin at e_
  refine State.gate_inv s_i (fun s t s_i e_ => ?_) e_
  try dsimp only at e_
  grind -ring -linarith -lia -ac -order [inv_mk, → State.Inv.mem, → State.Inv.claims, → State.Inv.slots, → State.Inv.dusk, State.gate_inv,
      State.binary_inv]

theorem execVmax_inv {_c : Bool} {mk : Nat} {d : Nat} {a : Nat} {b : Nat} {s : State} {t_ : State} (s_i : s.Inv) (e_ : execVmax _c mk d a b s = .next
    t_) : t_.Inv := by
  unfold execVmax at e_
  refine State.gate_inv s_i (fun s t s_i e_ => ?_) e_
  try dsimp only at e_
  grind -ring -linarith -lia -ac -order [inv_mk, → State.Inv.mem, → State.Inv.claims, → State.Inv.slots, → State.Inv.dusk, State.gate_inv,
      State.binary_inv]

theorem execVand_inv {_c : Bool} {mk : Nat} {d : Nat} {a : Nat} {b : Nat} {s : State} {t_ : State} (s_i : s.Inv) (e_ : execVand _c mk d a b s = .next
    t_) : t_.Inv := by
  unfold execVand at e_
  refine State.gate_inv s_i (fun s t s_i e_ => ?_) e_
  try dsimp only at e_
  grind -ring -linarith -lia -ac -order [inv_mk, → State.Inv.mem, → State.Inv.claims, → State.Inv.slots, → State.Inv.dusk, State.gate_inv,
      State.binary_inv]

theorem execVor_inv {_c : Bool} {mk : Nat} {d : Nat} {a : Nat} {b : Nat} {s : State} {t_ : State} (s_i : s.Inv) (e_ : execVor _c mk d a b s = .next
    t_) : t_.Inv := by
  unfold execVor at e_
  refine State.gate_inv s_i (fun s t s_i e_ => ?_) e_
  try dsimp only at e_
  grind -ring -linarith -lia -ac -order [inv_mk, → State.Inv.mem, → State.Inv.claims, → State.Inv.slots, → State.Inv.dusk, State.gate_inv,
      State.binary_inv]

theorem execVxor_inv {_c : Bool} {mk : Nat} {d : Nat} {a : Nat} {b : Nat} {s : State} {t_ : State} (s_i : s.Inv) (e_ : execVxor _c mk d a b s = .next
    t_) : t_.Inv := by
  unfold execVxor at e_
  refine State.gate_inv s_i (fun s t s_i e_ => ?_) e_
  try dsimp only at e_
  grind -ring -linarith -lia -ac -order [inv_mk, → State.Inv.mem, → State.Inv.claims, → State.Inv.slots, → State.Inv.dusk, State.gate_inv,
      State.binary_inv]

theorem execVsll_inv {_c : Bool} {mk : Nat} {d : Nat} {a : Nat} {b : Nat} {s : State} {t_ : State} (s_i : s.Inv) (e_ : execVsll _c mk d a b s = .next
    t_) : t_.Inv := by
  unfold execVsll at e_
  refine State.gate_inv s_i (fun s t s_i e_ => ?_) e_
  try dsimp only at e_
  grind -ring -linarith -lia -ac -order [inv_mk, → State.Inv.mem, → State.Inv.claims, → State.Inv.slots, → State.Inv.dusk, State.gate_inv,
      State.binary_inv]

theorem execVsrl_inv {_c : Bool} {mk : Nat} {d : Nat} {a : Nat} {b : Nat} {s : State} {t_ : State} (s_i : s.Inv) (e_ : execVsrl _c mk d a b s = .next
    t_) : t_.Inv := by
  unfold execVsrl at e_
  refine State.gate_inv s_i (fun s t s_i e_ => ?_) e_
  try dsimp only at e_
  grind -ring -linarith -lia -ac -order [inv_mk, → State.Inv.mem, → State.Inv.claims, → State.Inv.slots, → State.Inv.dusk, State.gate_inv,
      State.binary_inv]

theorem execVsra_inv {_c : Bool} {mk : Nat} {d : Nat} {a : Nat} {b : Nat} {s : State} {t_ : State} (s_i : s.Inv) (e_ : execVsra _c mk d a b s = .next
    t_) : t_.Inv := by
  unfold execVsra at e_
  refine State.gate_inv s_i (fun s t s_i e_ => ?_) e_
  try dsimp only at e_
  grind -ring -linarith -lia -ac -order [inv_mk, → State.Inv.mem, → State.Inv.claims, → State.Inv.slots, → State.Inv.dusk, State.gate_inv,
      State.binary_inv]

theorem execVadds_inv {_c : Bool} {mk : Nat} {d : Nat} {a : Nat} {b : Nat} {s : State} {t_ : State} (s_i : s.Inv) (e_ : execVadds _c mk d a b s =
    .next t_) : t_.Inv := by
  unfold execVadds at e_
  refine State.gate_inv s_i (fun s t s_i e_ => ?_) e_
  try dsimp only at e_
  grind -ring -linarith -lia -ac -order [inv_mk, → State.Inv.mem, → State.Inv.claims, → State.Inv.slots, → State.Inv.dusk, State.gate_inv,
      State.binary_inv]

theorem execVaddsSub_inv {_c : Bool} {mk : Nat} {d : Nat} {a : Nat} {b : Nat} {s : State} {t_ : State} (s_i : s.Inv) (e_ : execVaddsSub _c mk d a b s
    = .next t_) : t_.Inv := by
  unfold execVaddsSub at e_
  refine State.gate_inv s_i (fun s t s_i e_ => ?_) e_
  try dsimp only at e_
  grind -ring -linarith -lia -ac -order [inv_mk, → State.Inv.mem, → State.Inv.claims, → State.Inv.slots, → State.Inv.dusk, State.gate_inv,
      State.binary_inv]

theorem execVfadd_inv {_c : Bool} {mk : Nat} {d : Nat} {a : Nat} {b : Nat} {s : State} {t_ : State} (s_i : s.Inv) (e_ : execVfadd _c mk d a b s =
    .next t_) : t_.Inv := by
  unfold execVfadd at e_
  refine State.gate_inv s_i (fun s t s_i e_ => ?_) e_
  try dsimp only at e_
  grind -ring -linarith -lia -ac -order [inv_mk, → State.Inv.mem, → State.Inv.claims, → State.Inv.slots, → State.Inv.dusk, State.gate_inv,
      State.binary_inv]

theorem execVfsub_inv {_c : Bool} {mk : Nat} {d : Nat} {a : Nat} {b : Nat} {s : State} {t_ : State} (s_i : s.Inv) (e_ : execVfsub _c mk d a b s =
    .next t_) : t_.Inv := by
  unfold execVfsub at e_
  refine State.gate_inv s_i (fun s t s_i e_ => ?_) e_
  try dsimp only at e_
  grind -ring -linarith -lia -ac -order [inv_mk, → State.Inv.mem, → State.Inv.claims, → State.Inv.slots, → State.Inv.dusk, State.gate_inv,
      State.binary_inv]

theorem execVfmul_inv {_c : Bool} {mk : Nat} {d : Nat} {a : Nat} {b : Nat} {s : State} {t_ : State} (s_i : s.Inv) (e_ : execVfmul _c mk d a b s =
    .next t_) : t_.Inv := by
  unfold execVfmul at e_
  refine State.gate_inv s_i (fun s t s_i e_ => ?_) e_
  try dsimp only at e_
  grind -ring -linarith -lia -ac -order [inv_mk, → State.Inv.mem, → State.Inv.claims, → State.Inv.slots, → State.Inv.dusk, State.gate_inv,
      State.binary_inv]

theorem execVfmin_inv {_c : Bool} {mk : Nat} {d : Nat} {a : Nat} {b : Nat} {s : State} {t_ : State} (s_i : s.Inv) (e_ : execVfmin _c mk d a b s =
    .next t_) : t_.Inv := by
  unfold execVfmin at e_
  refine State.gate_inv s_i (fun s t s_i e_ => ?_) e_
  try dsimp only at e_
  grind -ring -linarith -lia -ac -order [inv_mk, → State.Inv.mem, → State.Inv.claims, → State.Inv.slots, → State.Inv.dusk, State.gate_inv,
      State.binary_inv]

theorem execVfmax_inv {_c : Bool} {mk : Nat} {d : Nat} {a : Nat} {b : Nat} {s : State} {t_ : State} (s_i : s.Inv) (e_ : execVfmax _c mk d a b s =
    .next t_) : t_.Inv := by
  unfold execVfmax at e_
  refine State.gate_inv s_i (fun s t s_i e_ => ?_) e_
  try dsimp only at e_
  grind -ring -linarith -lia -ac -order [inv_mk, → State.Inv.mem, → State.Inv.claims, → State.Inv.slots, → State.Inv.dusk, State.gate_inv,
      State.binary_inv]

theorem execVfdiv_inv {_c : Bool} {mk : Nat} {d : Nat} {a : Nat} {b : Nat} {s : State} {t_ : State} (s_i : s.Inv) (e_ : execVfdiv _c mk d a b s =
    .next t_) : t_.Inv := by
  unfold execVfdiv at e_
  refine State.gate_inv s_i (fun s t s_i e_ => ?_) e_
  try dsimp only at e_
  grind -ring -linarith -lia -ac -order [inv_mk, → State.Inv.mem, → State.Inv.claims, → State.Inv.slots, → State.Inv.dusk, State.gate_inv,
      State.binary_inv]

theorem execVffma_inv {_c : Bool} {mk : Nat} {d : Nat} {a : Nat} {b : Nat} {s : State} {t_ : State} (s_i : s.Inv) (e_ : execVffma _c mk d a b s =
    .next t_) : t_.Inv := by
  unfold execVffma at e_
  refine State.gate_inv s_i (fun s t s_i e_ => ?_) e_
  try dsimp only at e_
  grind -ring -linarith -lia -ac -order [inv_mk, → State.Inv.mem, → State.Inv.claims, → State.Inv.slots, → State.Inv.dusk, State.gate_inv,
      State.fma_inv]

theorem execVicmp_inv {_c : Bool} {mk : Nat} {d : Nat} {a : Nat} {b : Nat} {y : Nat} {s : State} {t_ : State} (s_i : s.Inv) (e_ : execVicmp _c mk d a
    b y s = .next t_) : t_.Inv := by
  unfold execVicmp at e_
  refine State.gate_inv s_i (fun s t s_i e_ => ?_) e_
  try dsimp only at e_
  grind -ring -linarith -lia -ac -order [inv_mk, → State.Inv.mem, → State.Inv.claims, → State.Inv.slots, → State.Inv.dusk, State.gate_inv,
      State.intCompare_inv]

theorem execVfcmp_inv {_c : Bool} {mk : Nat} {d : Nat} {a : Nat} {b : Nat} {y : Nat} {s : State} {t_ : State} (s_i : s.Inv) (e_ : execVfcmp _c mk d a
    b y s = .next t_) : t_.Inv := by
  unfold execVfcmp at e_
  refine State.gate_inv s_i (fun s t s_i e_ => ?_) e_
  try dsimp only at e_
  grind -ring -linarith -lia -ac -order [inv_mk, → State.Inv.mem, → State.Inv.claims, → State.Inv.slots, → State.Inv.dusk, State.gate_inv,
      State.fltCompare_inv]

theorem execVfcmpF_inv {_c : Bool} {mk : Nat} {d : Nat} {a : Nat} {b : Nat} {y : Nat} {s : State} {t_ : State} (s_i : s.Inv) (e_ : execVfcmpF _c mk d
    a b y s = .next t_) : t_.Inv := by
  unfold execVfcmpF at e_
  refine State.gate_inv s_i (fun s t s_i e_ => ?_) e_
  try dsimp only at e_
  grind -ring -linarith -lia -ac -order [inv_mk, → State.Inv.mem, → State.Inv.claims, → State.Inv.slots, → State.Inv.dusk, State.gate_inv,
      State.finCompare_inv]

theorem execVaddP_inv {_c : Bool} {d : Nat} {a : Nat} {b : Nat} {k : Nat} {s : State} {t_ : State} (s_i : s.Inv) (e_ : execVaddP _c d a b k s = .next
    t_) : t_.Inv := by
  unfold execVaddP at e_
  refine State.gate_inv s_i (fun s t s_i e_ => ?_) e_
  try dsimp only at e_
  grind -ring -linarith -lia -ac -order [inv_mk, → State.Inv.mem, → State.Inv.claims, → State.Inv.slots, → State.Inv.dusk, State.gate_inv,
      State.binary_inv]

theorem execVsubP_inv {_c : Bool} {d : Nat} {a : Nat} {b : Nat} {k : Nat} {s : State} {t_ : State} (s_i : s.Inv) (e_ : execVsubP _c d a b k s = .next
    t_) : t_.Inv := by
  unfold execVsubP at e_
  refine State.gate_inv s_i (fun s t s_i e_ => ?_) e_
  try dsimp only at e_
  grind -ring -linarith -lia -ac -order [inv_mk, → State.Inv.mem, → State.Inv.claims, → State.Inv.slots, → State.Inv.dusk, State.gate_inv,
      State.binary_inv]

theorem execVmulP_inv {_c : Bool} {d : Nat} {a : Nat} {b : Nat} {k : Nat} {s : State} {t_ : State} (s_i : s.Inv) (e_ : execVmulP _c d a b k s = .next
    t_) : t_.Inv := by
  unfold execVmulP at e_
  refine State.gate_inv s_i (fun s t s_i e_ => ?_) e_
  try dsimp only at e_
  grind -ring -linarith -lia -ac -order [inv_mk, → State.Inv.mem, → State.Inv.claims, → State.Inv.slots, → State.Inv.dusk, State.gate_inv,
      State.binary_inv]

theorem execVminP_inv {_c : Bool} {d : Nat} {a : Nat} {b : Nat} {k : Nat} {s : State} {t_ : State} (s_i : s.Inv) (e_ : execVminP _c d a b k s = .next
    t_) : t_.Inv := by
  unfold execVminP at e_
  refine State.gate_inv s_i (fun s t s_i e_ => ?_) e_
  try dsimp only at e_
  grind -ring -linarith -lia -ac -order [inv_mk, → State.Inv.mem, → State.Inv.claims, → State.Inv.slots, → State.Inv.dusk, State.gate_inv,
      State.binary_inv]

theorem execVfaddP_inv {_c : Bool} {d : Nat} {a : Nat} {b : Nat} {k : Nat} {s : State} {t_ : State} (s_i : s.Inv) (e_ : execVfaddP _c d a b k s =
    .next t_) : t_.Inv := by
  unfold execVfaddP at e_
  refine State.gate_inv s_i (fun s t s_i e_ => ?_) e_
  try dsimp only at e_
  grind -ring -linarith -lia -ac -order [inv_mk, → State.Inv.mem, → State.Inv.claims, → State.Inv.slots, → State.Inv.dusk, State.gate_inv,
      State.binary_inv]

theorem execVfsubP_inv {_c : Bool} {d : Nat} {a : Nat} {b : Nat} {k : Nat} {s : State} {t_ : State} (s_i : s.Inv) (e_ : execVfsubP _c d a b k s =
    .next t_) : t_.Inv := by
  unfold execVfsubP at e_
  refine State.gate_inv s_i (fun s t s_i e_ => ?_) e_
  try dsimp only at e_
  grind -ring -linarith -lia -ac -order [inv_mk, → State.Inv.mem, → State.Inv.claims, → State.Inv.slots, → State.Inv.dusk, State.gate_inv,
      State.binary_inv]

theorem execVfmulP_inv {_c : Bool} {d : Nat} {a : Nat} {b : Nat} {k : Nat} {s : State} {t_ : State} (s_i : s.Inv) (e_ : execVfmulP _c d a b k s =
    .next t_) : t_.Inv := by
  unfold execVfmulP at e_
  refine State.gate_inv s_i (fun s t s_i e_ => ?_) e_
  try dsimp only at e_
  grind -ring -linarith -lia -ac -order [inv_mk, → State.Inv.mem, → State.Inv.claims, → State.Inv.slots, → State.Inv.dusk, State.gate_inv,
      State.binary_inv]

theorem execVffmaP_inv {_c : Bool} {d : Nat} {a : Nat} {b : Nat} {k : Nat} {s : State} {t_ : State} (s_i : s.Inv) (e_ : execVffmaP _c d a b k s =
    .next t_) : t_.Inv := by
  unfold execVffmaP at e_
  refine State.gate_inv s_i (fun s t s_i e_ => ?_) e_
  try dsimp only at e_
  grind -ring -linarith -lia -ac -order [inv_mk, → State.Inv.mem, → State.Inv.claims, → State.Inv.slots, → State.Inv.dusk, State.gate_inv,
      State.fma_inv]

theorem execVaddVx_inv {_c : Bool} {mk : Nat} {d : Nat} {a : Nat} {b : Nat} {s : State} {t_ : State} (s_i : s.Inv) (e_ : execVaddVx _c mk d a b s =
    .next t_) : t_.Inv := by
  unfold execVaddVx at e_
  refine State.gate_inv s_i (fun s t s_i e_ => ?_) e_
  try dsimp only at e_
  grind -ring -linarith -lia -ac -order [inv_mk, → State.Inv.mem, → State.Inv.claims, → State.Inv.slots, → State.Inv.dusk, State.gate_inv,
      State.binary_inv]

theorem execVsubVx_inv {_c : Bool} {mk : Nat} {d : Nat} {a : Nat} {b : Nat} {s : State} {t_ : State} (s_i : s.Inv) (e_ : execVsubVx _c mk d a b s =
    .next t_) : t_.Inv := by
  unfold execVsubVx at e_
  refine State.gate_inv s_i (fun s t s_i e_ => ?_) e_
  try dsimp only at e_
  grind -ring -linarith -lia -ac -order [inv_mk, → State.Inv.mem, → State.Inv.claims, → State.Inv.slots, → State.Inv.dusk, State.gate_inv,
      State.binary_inv]

theorem execVmulVx_inv {_c : Bool} {mk : Nat} {d : Nat} {a : Nat} {b : Nat} {s : State} {t_ : State} (s_i : s.Inv) (e_ : execVmulVx _c mk d a b s =
    .next t_) : t_.Inv := by
  unfold execVmulVx at e_
  refine State.gate_inv s_i (fun s t s_i e_ => ?_) e_
  try dsimp only at e_
  grind -ring -linarith -lia -ac -order [inv_mk, → State.Inv.mem, → State.Inv.claims, → State.Inv.slots, → State.Inv.dusk, State.gate_inv,
      State.binary_inv]

theorem execVmulhVx_inv {_c : Bool} {mk : Nat} {d : Nat} {a : Nat} {b : Nat} {s : State} {t_ : State} (s_i : s.Inv) (e_ : execVmulhVx _c mk d a b s =
    .next t_) : t_.Inv := by
  unfold execVmulhVx at e_
  refine State.gate_inv s_i (fun s t s_i e_ => ?_) e_
  try dsimp only at e_
  grind -ring -linarith -lia -ac -order [inv_mk, → State.Inv.mem, → State.Inv.claims, → State.Inv.slots, → State.Inv.dusk, State.gate_inv,
      State.binary_inv]

theorem execVdivVx_inv {_c : Bool} {mk : Nat} {d : Nat} {a : Nat} {b : Nat} {s : State} {t_ : State} (s_i : s.Inv) (e_ : execVdivVx _c mk d a b s =
    .next t_) : t_.Inv := by
  unfold execVdivVx at e_
  refine State.gate_inv s_i (fun s t s_i e_ => ?_) e_
  try dsimp only at e_
  grind -ring -linarith -lia -ac -order [inv_mk, → State.Inv.mem, → State.Inv.claims, → State.Inv.slots, → State.Inv.dusk, State.gate_inv,
      State.binary_inv]

theorem execVremVx_inv {_c : Bool} {mk : Nat} {d : Nat} {a : Nat} {b : Nat} {s : State} {t_ : State} (s_i : s.Inv) (e_ : execVremVx _c mk d a b s =
    .next t_) : t_.Inv := by
  unfold execVremVx at e_
  refine State.gate_inv s_i (fun s t s_i e_ => ?_) e_
  try dsimp only at e_
  grind -ring -linarith -lia -ac -order [inv_mk, → State.Inv.mem, → State.Inv.claims, → State.Inv.slots, → State.Inv.dusk, State.gate_inv,
      State.binary_inv]

theorem execVminVx_inv {_c : Bool} {mk : Nat} {d : Nat} {a : Nat} {b : Nat} {s : State} {t_ : State} (s_i : s.Inv) (e_ : execVminVx _c mk d a b s =
    .next t_) : t_.Inv := by
  unfold execVminVx at e_
  refine State.gate_inv s_i (fun s t s_i e_ => ?_) e_
  try dsimp only at e_
  grind -ring -linarith -lia -ac -order [inv_mk, → State.Inv.mem, → State.Inv.claims, → State.Inv.slots, → State.Inv.dusk, State.gate_inv,
      State.binary_inv]

theorem execVmaxVx_inv {_c : Bool} {mk : Nat} {d : Nat} {a : Nat} {b : Nat} {s : State} {t_ : State} (s_i : s.Inv) (e_ : execVmaxVx _c mk d a b s =
    .next t_) : t_.Inv := by
  unfold execVmaxVx at e_
  refine State.gate_inv s_i (fun s t s_i e_ => ?_) e_
  try dsimp only at e_
  grind -ring -linarith -lia -ac -order [inv_mk, → State.Inv.mem, → State.Inv.claims, → State.Inv.slots, → State.Inv.dusk, State.gate_inv,
      State.binary_inv]

theorem execVandVx_inv {_c : Bool} {mk : Nat} {d : Nat} {a : Nat} {b : Nat} {s : State} {t_ : State} (s_i : s.Inv) (e_ : execVandVx _c mk d a b s =
    .next t_) : t_.Inv := by
  unfold execVandVx at e_
  refine State.gate_inv s_i (fun s t s_i e_ => ?_) e_
  try dsimp only at e_
  grind -ring -linarith -lia -ac -order [inv_mk, → State.Inv.mem, → State.Inv.claims, → State.Inv.slots, → State.Inv.dusk, State.gate_inv,
      State.binary_inv]

theorem execVorVx_inv {_c : Bool} {mk : Nat} {d : Nat} {a : Nat} {b : Nat} {s : State} {t_ : State} (s_i : s.Inv) (e_ : execVorVx _c mk d a b s =
    .next t_) : t_.Inv := by
  unfold execVorVx at e_
  refine State.gate_inv s_i (fun s t s_i e_ => ?_) e_
  try dsimp only at e_
  grind -ring -linarith -lia -ac -order [inv_mk, → State.Inv.mem, → State.Inv.claims, → State.Inv.slots, → State.Inv.dusk, State.gate_inv,
      State.binary_inv]

theorem execVxorVx_inv {_c : Bool} {mk : Nat} {d : Nat} {a : Nat} {b : Nat} {s : State} {t_ : State} (s_i : s.Inv) (e_ : execVxorVx _c mk d a b s =
    .next t_) : t_.Inv := by
  unfold execVxorVx at e_
  refine State.gate_inv s_i (fun s t s_i e_ => ?_) e_
  try dsimp only at e_
  grind -ring -linarith -lia -ac -order [inv_mk, → State.Inv.mem, → State.Inv.claims, → State.Inv.slots, → State.Inv.dusk, State.gate_inv,
      State.binary_inv]

theorem execVsllVx_inv {_c : Bool} {mk : Nat} {d : Nat} {a : Nat} {b : Nat} {s : State} {t_ : State} (s_i : s.Inv) (e_ : execVsllVx _c mk d a b s =
    .next t_) : t_.Inv := by
  unfold execVsllVx at e_
  refine State.gate_inv s_i (fun s t s_i e_ => ?_) e_
  try dsimp only at e_
  grind -ring -linarith -lia -ac -order [inv_mk, → State.Inv.mem, → State.Inv.claims, → State.Inv.slots, → State.Inv.dusk, State.gate_inv,
      State.binary_inv]

theorem execVsrlVx_inv {_c : Bool} {mk : Nat} {d : Nat} {a : Nat} {b : Nat} {s : State} {t_ : State} (s_i : s.Inv) (e_ : execVsrlVx _c mk d a b s =
    .next t_) : t_.Inv := by
  unfold execVsrlVx at e_
  refine State.gate_inv s_i (fun s t s_i e_ => ?_) e_
  try dsimp only at e_
  grind -ring -linarith -lia -ac -order [inv_mk, → State.Inv.mem, → State.Inv.claims, → State.Inv.slots, → State.Inv.dusk, State.gate_inv,
      State.binary_inv]

theorem execVsraVx_inv {_c : Bool} {mk : Nat} {d : Nat} {a : Nat} {b : Nat} {s : State} {t_ : State} (s_i : s.Inv) (e_ : execVsraVx _c mk d a b s =
    .next t_) : t_.Inv := by
  unfold execVsraVx at e_
  refine State.gate_inv s_i (fun s t s_i e_ => ?_) e_
  try dsimp only at e_
  grind -ring -linarith -lia -ac -order [inv_mk, → State.Inv.mem, → State.Inv.claims, → State.Inv.slots, → State.Inv.dusk, State.gate_inv,
      State.binary_inv]

theorem execVaddsVx_inv {_c : Bool} {mk : Nat} {d : Nat} {a : Nat} {b : Nat} {s : State} {t_ : State} (s_i : s.Inv) (e_ : execVaddsVx _c mk d a b s =
    .next t_) : t_.Inv := by
  unfold execVaddsVx at e_
  refine State.gate_inv s_i (fun s t s_i e_ => ?_) e_
  try dsimp only at e_
  grind -ring -linarith -lia -ac -order [inv_mk, → State.Inv.mem, → State.Inv.claims, → State.Inv.slots, → State.Inv.dusk, State.gate_inv,
      State.binary_inv]

theorem execVicmpVx_inv {_c : Bool} {mk : Nat} {d : Nat} {a : Nat} {b : Nat} {y : Nat} {s : State} {t_ : State} (s_i : s.Inv) (e_ : execVicmpVx _c mk
    d a b y s = .next t_) : t_.Inv := by
  unfold execVicmpVx at e_
  refine State.gate_inv s_i (fun s t s_i e_ => ?_) e_
  try dsimp only at e_
  grind -ring -linarith -lia -ac -order [inv_mk, → State.Inv.mem, → State.Inv.claims, → State.Inv.slots, → State.Inv.dusk, State.gate_inv,
      State.intCompare_inv]

theorem execVaddVi_inv {_c : Bool} {mk : Nat} {d : Nat} {b : Nat} {imm : Int} {s : State} {t_ : State} (s_i : s.Inv) (e_ : execVaddVi _c mk d b imm s
    = .next t_) : t_.Inv := by
  unfold execVaddVi at e_
  refine State.gate_inv s_i (fun s t s_i e_ => ?_) e_
  try dsimp only at e_
  grind -ring -linarith -lia -ac -order [inv_mk, → State.Inv.mem, → State.Inv.claims, → State.Inv.slots, → State.Inv.dusk, State.gate_inv,
      State.binary_inv]

theorem execVminVi_inv {_c : Bool} {mk : Nat} {d : Nat} {b : Nat} {imm : Int} {s : State} {t_ : State} (s_i : s.Inv) (e_ : execVminVi _c mk d b imm s
    = .next t_) : t_.Inv := by
  unfold execVminVi at e_
  refine State.gate_inv s_i (fun s t s_i e_ => ?_) e_
  try dsimp only at e_
  grind -ring -linarith -lia -ac -order [inv_mk, → State.Inv.mem, → State.Inv.claims, → State.Inv.slots, → State.Inv.dusk, State.gate_inv,
      State.binary_inv]

theorem execVmaxVi_inv {_c : Bool} {mk : Nat} {d : Nat} {b : Nat} {imm : Int} {s : State} {t_ : State} (s_i : s.Inv) (e_ : execVmaxVi _c mk d b imm s
    = .next t_) : t_.Inv := by
  unfold execVmaxVi at e_
  refine State.gate_inv s_i (fun s t s_i e_ => ?_) e_
  try dsimp only at e_
  grind -ring -linarith -lia -ac -order [inv_mk, → State.Inv.mem, → State.Inv.claims, → State.Inv.slots, → State.Inv.dusk, State.gate_inv,
      State.binary_inv]

theorem execVandVi_inv {_c : Bool} {mk : Nat} {d : Nat} {b : Nat} {imm : Int} {s : State} {t_ : State} (s_i : s.Inv) (e_ : execVandVi _c mk d b imm s
    = .next t_) : t_.Inv := by
  unfold execVandVi at e_
  refine State.gate_inv s_i (fun s t s_i e_ => ?_) e_
  try dsimp only at e_
  grind -ring -linarith -lia -ac -order [inv_mk, → State.Inv.mem, → State.Inv.claims, → State.Inv.slots, → State.Inv.dusk, State.gate_inv,
      State.binary_inv]

theorem execVorVi_inv {_c : Bool} {mk : Nat} {d : Nat} {b : Nat} {imm : Int} {s : State} {t_ : State} (s_i : s.Inv) (e_ : execVorVi _c mk d b imm s =
    .next t_) : t_.Inv := by
  unfold execVorVi at e_
  refine State.gate_inv s_i (fun s t s_i e_ => ?_) e_
  try dsimp only at e_
  grind -ring -linarith -lia -ac -order [inv_mk, → State.Inv.mem, → State.Inv.claims, → State.Inv.slots, → State.Inv.dusk, State.gate_inv,
      State.binary_inv]

theorem execVxorVi_inv {_c : Bool} {mk : Nat} {d : Nat} {b : Nat} {imm : Int} {s : State} {t_ : State} (s_i : s.Inv) (e_ : execVxorVi _c mk d b imm s
    = .next t_) : t_.Inv := by
  unfold execVxorVi at e_
  refine State.gate_inv s_i (fun s t s_i e_ => ?_) e_
  try dsimp only at e_
  grind -ring -linarith -lia -ac -order [inv_mk, → State.Inv.mem, → State.Inv.claims, → State.Inv.slots, → State.Inv.dusk, State.gate_inv,
      State.binary_inv]

theorem execVsllVi_inv {_c : Bool} {mk : Nat} {d : Nat} {b : Nat} {imm : Nat} {s : State} {t_ : State} (s_i : s.Inv) (e_ : execVsllVi _c mk d b imm s
    = .next t_) : t_.Inv := by
  unfold execVsllVi at e_
  refine State.gate_inv s_i (fun s t s_i e_ => ?_) e_
  try dsimp only at e_
  grind -ring -linarith -lia -ac -order [inv_mk, → State.Inv.mem, → State.Inv.claims, → State.Inv.slots, → State.Inv.dusk, State.gate_inv,
      State.binary_inv]

theorem execVsrlVi_inv {_c : Bool} {mk : Nat} {d : Nat} {b : Nat} {imm : Nat} {s : State} {t_ : State} (s_i : s.Inv) (e_ : execVsrlVi _c mk d b imm s
    = .next t_) : t_.Inv := by
  unfold execVsrlVi at e_
  refine State.gate_inv s_i (fun s t s_i e_ => ?_) e_
  try dsimp only at e_
  grind -ring -linarith -lia -ac -order [inv_mk, → State.Inv.mem, → State.Inv.claims, → State.Inv.slots, → State.Inv.dusk, State.gate_inv,
      State.binary_inv]

theorem execVsraVi_inv {_c : Bool} {mk : Nat} {d : Nat} {b : Nat} {imm : Nat} {s : State} {t_ : State} (s_i : s.Inv) (e_ : execVsraVi _c mk d b imm s
    = .next t_) : t_.Inv := by
  unfold execVsraVi at e_
  refine State.gate_inv s_i (fun s t s_i e_ => ?_) e_
  try dsimp only at e_
  grind -ring -linarith -lia -ac -order [inv_mk, → State.Inv.mem, → State.Inv.claims, → State.Inv.slots, → State.Inv.dusk, State.gate_inv,
      State.binary_inv]

theorem execVaddsVi_inv {_c : Bool} {mk : Nat} {d : Nat} {b : Nat} {imm : Int} {s : State} {t_ : State} (s_i : s.Inv) (e_ : execVaddsVi _c mk d b imm
    s = .next t_) : t_.Inv := by
  unfold execVaddsVi at e_
  refine State.gate_inv s_i (fun s t s_i e_ => ?_) e_
  try dsimp only at e_
  grind -ring -linarith -lia -ac -order [inv_mk, → State.Inv.mem, → State.Inv.claims, → State.Inv.slots, → State.Inv.dusk, State.gate_inv,
      State.binary_inv]

theorem execVicmpVi_inv {_c : Bool} {mk : Nat} {d : Nat} {b : Nat} {imm : Int} {y : Nat} {s : State} {t_ : State} (s_i : s.Inv) (e_ : execVicmpVi _c
    mk d b imm y s = .next t_) : t_.Inv := by
  unfold execVicmpVi at e_
  refine State.gate_inv s_i (fun s t s_i e_ => ?_) e_
  try dsimp only at e_
  grind -ring -linarith -lia -ac -order [inv_mk, → State.Inv.mem, → State.Inv.claims, → State.Inv.slots, → State.Inv.dusk, State.gate_inv,
      State.intCompare_inv]

theorem execVfaddVf_inv {_c : Bool} {mk : Nat} {d : Nat} {a : Nat} {b : Nat} {s : State} {t_ : State} (s_i : s.Inv) (e_ : execVfaddVf _c mk d a b s =
    .next t_) : t_.Inv := by
  unfold execVfaddVf at e_
  refine State.gate_inv s_i (fun s t s_i e_ => ?_) e_
  try dsimp only at e_
  grind -ring -linarith -lia -ac -order [inv_mk, → State.Inv.mem, → State.Inv.claims, → State.Inv.slots, → State.Inv.dusk, State.gate_inv,
      State.binary_inv]

theorem execVfsubVf_inv {_c : Bool} {mk : Nat} {d : Nat} {a : Nat} {b : Nat} {s : State} {t_ : State} (s_i : s.Inv) (e_ : execVfsubVf _c mk d a b s =
    .next t_) : t_.Inv := by
  unfold execVfsubVf at e_
  refine State.gate_inv s_i (fun s t s_i e_ => ?_) e_
  try dsimp only at e_
  grind -ring -linarith -lia -ac -order [inv_mk, → State.Inv.mem, → State.Inv.claims, → State.Inv.slots, → State.Inv.dusk, State.gate_inv,
      State.binary_inv]

theorem execVfmulVf_inv {_c : Bool} {mk : Nat} {d : Nat} {a : Nat} {b : Nat} {s : State} {t_ : State} (s_i : s.Inv) (e_ : execVfmulVf _c mk d a b s =
    .next t_) : t_.Inv := by
  unfold execVfmulVf at e_
  refine State.gate_inv s_i (fun s t s_i e_ => ?_) e_
  try dsimp only at e_
  grind -ring -linarith -lia -ac -order [inv_mk, → State.Inv.mem, → State.Inv.claims, → State.Inv.slots, → State.Inv.dusk, State.gate_inv,
      State.binary_inv]

theorem execVfminVf_inv {_c : Bool} {mk : Nat} {d : Nat} {a : Nat} {b : Nat} {s : State} {t_ : State} (s_i : s.Inv) (e_ : execVfminVf _c mk d a b s =
    .next t_) : t_.Inv := by
  unfold execVfminVf at e_
  refine State.gate_inv s_i (fun s t s_i e_ => ?_) e_
  try dsimp only at e_
  grind -ring -linarith -lia -ac -order [inv_mk, → State.Inv.mem, → State.Inv.claims, → State.Inv.slots, → State.Inv.dusk, State.gate_inv,
      State.binary_inv]

theorem execVfmaxVf_inv {_c : Bool} {mk : Nat} {d : Nat} {a : Nat} {b : Nat} {s : State} {t_ : State} (s_i : s.Inv) (e_ : execVfmaxVf _c mk d a b s =
    .next t_) : t_.Inv := by
  unfold execVfmaxVf at e_
  refine State.gate_inv s_i (fun s t s_i e_ => ?_) e_
  try dsimp only at e_
  grind -ring -linarith -lia -ac -order [inv_mk, → State.Inv.mem, → State.Inv.claims, → State.Inv.slots, → State.Inv.dusk, State.gate_inv,
      State.binary_inv]

theorem execVfdivVf_inv {_c : Bool} {mk : Nat} {d : Nat} {a : Nat} {b : Nat} {s : State} {t_ : State} (s_i : s.Inv) (e_ : execVfdivVf _c mk d a b s =
    .next t_) : t_.Inv := by
  unfold execVfdivVf at e_
  refine State.gate_inv s_i (fun s t s_i e_ => ?_) e_
  try dsimp only at e_
  grind -ring -linarith -lia -ac -order [inv_mk, → State.Inv.mem, → State.Inv.claims, → State.Inv.slots, → State.Inv.dusk, State.gate_inv,
      State.binary_inv]

theorem execVffmaVf_inv {_c : Bool} {mk : Nat} {d : Nat} {a : Nat} {b : Nat} {s : State} {t_ : State} (s_i : s.Inv) (e_ : execVffmaVf _c mk d a b s =
    .next t_) : t_.Inv := by
  unfold execVffmaVf at e_
  refine State.gate_inv s_i (fun s t s_i e_ => ?_) e_
  try dsimp only at e_
  grind -ring -linarith -lia -ac -order [inv_mk, → State.Inv.mem, → State.Inv.claims, → State.Inv.slots, → State.Inv.dusk, State.gate_inv,
      State.fma_inv]

theorem execVfcmpVf_inv {_c : Bool} {mk : Nat} {d : Nat} {a : Nat} {b : Nat} {y : Nat} {s : State} {t_ : State} (s_i : s.Inv) (e_ : execVfcmpVf _c mk
    d a b y s = .next t_) : t_.Inv := by
  unfold execVfcmpVf at e_
  refine State.gate_inv s_i (fun s t s_i e_ => ?_) e_
  try dsimp only at e_
  grind -ring -linarith -lia -ac -order [inv_mk, → State.Inv.mem, → State.Inv.claims, → State.Inv.slots, → State.Inv.dusk, State.gate_inv,
      State.fltCompare_inv]

theorem execVfcmpFVf_inv {_c : Bool} {mk : Nat} {d : Nat} {a : Nat} {b : Nat} {y : Nat} {s : State} {t_ : State} (s_i : s.Inv) (e_ : execVfcmpFVf _c
    mk d a b y s = .next t_) : t_.Inv := by
  unfold execVfcmpFVf at e_
  refine State.gate_inv s_i (fun s t s_i e_ => ?_) e_
  try dsimp only at e_
  grind -ring -linarith -lia -ac -order [inv_mk, → State.Inv.mem, → State.Inv.claims, → State.Inv.slots, → State.Inv.dusk, State.gate_inv,
      State.finCompare_inv]

theorem execVfcvt_inv {_c : Bool} {mk : Nat} {d : Nat} {a : Nat} {f : Nat} {s : State} {t_ : State} (s_i : s.Inv) (e_ : execVfcvt _c mk d a f s =
    .next t_) : t_.Inv := by
  unfold execVfcvt at e_
  refine State.gate_inv s_i (fun s t s_i e_ => ?_) e_
  try dsimp only at e_
  grind -ring -linarith -lia -ac -order [inv_mk, → State.Inv.mem, → State.Inv.claims, → State.Inv.slots, → State.Inv.dusk, State.gate_inv,
      State.elementwise_inv]

theorem execVfrnd_inv {_c : Bool} {mk : Nat} {d : Nat} {a : Nat} {o : Nat} {s : State} {t_ : State} (s_i : s.Inv) (e_ : execVfrnd _c mk d a o s =
    .next t_) : t_.Inv := by
  unfold execVfrnd at e_
  refine State.gate_inv s_i (fun s t s_i e_ => ?_) e_
  try dsimp only at e_
  grind -ring -linarith -lia -ac -order [inv_mk, → State.Inv.mem, → State.Inv.claims, → State.Inv.slots, → State.Inv.dusk, State.gate_inv,
      State.unary_inv]

theorem execVfcls_inv {_c : Bool} {mk : Nat} {d : Nat} {a : Nat} {s : State} {t_ : State} (s_i : s.Inv) (e_ : execVfcls _c mk d a s = .next t_) :
    t_.Inv := by
  unfold execVfcls at e_
  refine State.gate_inv s_i (fun s t s_i e_ => ?_) e_
  try dsimp only at e_
  grind -ring -linarith -lia -ac -order [inv_mk, → State.Inv.mem, → State.Inv.claims, → State.Inv.slots, → State.Inv.dusk, State.upd_inv,
      State.gate_inv]

theorem execVfabs_inv {_c : Bool} {mk : Nat} {d : Nat} {a : Nat} {s : State} {t_ : State} (s_i : s.Inv) (e_ : execVfabs _c mk d a s = .next t_) :
    t_.Inv := by
  unfold execVfabs at e_
  refine State.gate_inv s_i (fun s t s_i e_ => ?_) e_
  try dsimp only at e_
  grind -ring -linarith -lia -ac -order [inv_mk, → State.Inv.mem, → State.Inv.claims, → State.Inv.slots, → State.Inv.dusk, State.gate_inv,
      State.unary_inv]

theorem State.function_inv {s : State} {mk : Nat} {d : Nat} {a : Nat} {f : Val → Val × BitVec 5} {t_ : State} (s_i : s.Inv) (e_ : State.function s mk
    d a f = .next t_) : t_.Inv := by
  unfold State.function at e_
  grind -ring -linarith -lia -ac -order [inv_mk, → State.Inv.mem, → State.Inv.claims, → State.Inv.slots, → State.Inv.dusk, State.unary_inv]

theorem execVfsqrt_inv {_c : Bool} {mk : Nat} {d : Nat} {a : Nat} {s : State} {t_ : State} (s_i : s.Inv) (e_ : execVfsqrt _c mk d a s = .next t_) :
    t_.Inv := by
  unfold execVfsqrt at e_
  refine State.gate_inv s_i (fun s t s_i e_ => ?_) e_
  try dsimp only at e_
  grind -ring -linarith -lia -ac -order [inv_mk, → State.Inv.mem, → State.Inv.claims, → State.Inv.slots, → State.Inv.dusk, State.gate_inv,
      State.function_inv]

theorem execVrsqe_inv {_c : Bool} {mk : Nat} {d : Nat} {a : Nat} {s : State} {t_ : State} (s_i : s.Inv) (e_ : execVrsqe _c mk d a s = .next t_) :
    t_.Inv := by
  unfold execVrsqe at e_
  refine State.gate_inv s_i (fun s t s_i e_ => ?_) e_
  try dsimp only at e_
  grind -ring -linarith -lia -ac -order [inv_mk, → State.Inv.mem, → State.Inv.claims, → State.Inv.slots, → State.Inv.dusk, State.gate_inv,
      State.function_inv]

theorem execVrcpe_inv {_c : Bool} {mk : Nat} {d : Nat} {a : Nat} {s : State} {t_ : State} (s_i : s.Inv) (e_ : execVrcpe _c mk d a s = .next t_) :
    t_.Inv := by
  unfold execVrcpe at e_
  refine State.gate_inv s_i (fun s t s_i e_ => ?_) e_
  try dsimp only at e_
  grind -ring -linarith -lia -ac -order [inv_mk, → State.Inv.mem, → State.Inv.claims, → State.Inv.slots, → State.Inv.dusk, State.gate_inv,
      State.function_inv]

theorem execVexp_inv {_c : Bool} {mk : Nat} {d : Nat} {a : Nat} {s : State} {t_ : State} (s_i : s.Inv) (e_ : execVexp _c mk d a s = .next t_) : t_.Inv
    := by
  unfold execVexp at e_
  refine State.gate_inv s_i (fun s t s_i e_ => ?_) e_
  try dsimp only at e_
  grind -ring -linarith -lia -ac -order [inv_mk, → State.Inv.mem, → State.Inv.claims, → State.Inv.slots, → State.Inv.dusk, State.gate_inv,
      State.function_inv]

theorem execVlog_inv {_c : Bool} {mk : Nat} {d : Nat} {a : Nat} {s : State} {t_ : State} (s_i : s.Inv) (e_ : execVlog _c mk d a s = .next t_) : t_.Inv
    := by
  unfold execVlog at e_
  refine State.gate_inv s_i (fun s t s_i e_ => ?_) e_
  try dsimp only at e_
  grind -ring -linarith -lia -ac -order [inv_mk, → State.Inv.mem, → State.Inv.claims, → State.Inv.slots, → State.Inv.dusk, State.gate_inv,
      State.function_inv]

theorem execVsigm_inv {_c : Bool} {mk : Nat} {d : Nat} {a : Nat} {s : State} {t_ : State} (s_i : s.Inv) (e_ : execVsigm _c mk d a s = .next t_) :
    t_.Inv := by
  unfold execVsigm at e_
  refine State.gate_inv s_i (fun s t s_i e_ => ?_) e_
  try dsimp only at e_
  grind -ring -linarith -lia -ac -order [inv_mk, → State.Inv.mem, → State.Inv.claims, → State.Inv.slots, → State.Inv.dusk, State.gate_inv,
      State.function_inv]

theorem execVtanh_inv {_c : Bool} {mk : Nat} {d : Nat} {a : Nat} {s : State} {t_ : State} (s_i : s.Inv) (e_ : execVtanh _c mk d a s = .next t_) :
    t_.Inv := by
  unfold execVtanh at e_
  refine State.gate_inv s_i (fun s t s_i e_ => ?_) e_
  try dsimp only at e_
  grind -ring -linarith -lia -ac -order [inv_mk, → State.Inv.mem, → State.Inv.claims, → State.Inv.slots, → State.Inv.dusk, State.gate_inv,
      State.function_inv]

theorem State.loadUnit_inv {addr : Hart → Nat → Nat} {d : Nat} {s : State} {e : Nat} {t_ : State} (s_i : s.Inv) (e_ : State.loadUnit addr d s e = .ok
    t_) : t_.Inv := by
  unfold State.loadUnit at e_
  grind -ring -linarith -lia -ac -order [inv_mk, → State.Inv.mem, → State.Inv.claims, → State.Inv.slots, → State.Inv.dusk, State.upd_inv,
      State.load_inv]

theorem State.storeUnit_inv {addr : Hart → Nat → Nat} {n : Nat} {s : State} {e : Nat} {t_ : State} (s_i : s.Inv) (e_ : State.storeUnit addr n s e =
    .ok t_) : t_.Inv := by
  unfold State.storeUnit at e_
  grind -ring -linarith -lia -ac -order [inv_mk, → State.Inv.mem, → State.Inv.claims, → State.Inv.slots, → State.Inv.dusk, State.upd_inv,
      State.store_inv]

theorem State.vload_inv {s : State} {mk : Nat} {d : Nat} {addr : Hart → Nat → Nat} {t_ : State} (s_i : s.Inv) (e_ : State.vload s mk d addr = .next
    t_) : t_.Inv := by
  unfold State.vload at e_
  refine State.gate_inv s_i (fun s t s_i e_ => ?_) e_
  try dsimp only at e_
  grind -ring -linarith -lia -ac -order [inv_mk, → State.Inv.mem, → State.Inv.claims, → State.Inv.slots, → State.Inv.dusk, State.upd_inv,
      State.gate_inv, State.eachUnit_inv, State.finishUnits_inv, State.loadUnit_inv]

theorem State.vstore_inv {s : State} {mk : Nat} {n : Nat} {addr : Hart → Nat → Nat} {t_ : State} (s_i : s.Inv) (e_ : State.vstore s mk n addr = .next
    t_) : t_.Inv := by
  unfold State.vstore at e_
  refine State.gate_inv s_i (fun s t s_i e_ => ?_) e_
  try dsimp only at e_
  grind -ring -linarith -lia -ac -order [inv_mk, → State.Inv.mem, → State.Inv.claims, → State.Inv.slots, → State.Inv.dusk, State.gate_inv,
      State.eachUnit_inv, State.finishUnits_inv, State.storeUnit_inv]

theorem State.vloadFirst_inv {s : State} {mk : Nat} {d : Nat} {addr : Hart → Nat → Nat} {t_ : State} (s_i : s.Inv) (e_ : State.vloadFirst s mk d addr
    = .next t_) : t_.Inv := by
  unfold State.vloadFirst at e_
  refine State.gate_inv s_i (fun s t s_i e_ => ?_) e_
  try dsimp only at e_
  grind -ring -linarith -lia -ac -order [inv_mk, → State.Inv.mem, → State.Inv.claims, → State.Inv.slots, → State.Inv.dusk, State.upd_inv,
      State.advance_inv, State.trap_inv, State.gate_inv, State.eachUnit_inv, State.finishUnits_inv, State.loadUnit_inv]

theorem execVld_inv {_c : Bool} {mk : Nat} {d : Nat} {a : Nat} {s : State} {t_ : State} (s_i : s.Inv) (e_ : execVld _c mk d a s = .next t_) : t_.Inv
    := by
  unfold execVld at e_
  grind -ring -linarith -lia -ac -order [inv_mk, → State.Inv.mem, → State.Inv.claims, → State.Inv.slots, → State.Inv.dusk, State.vload_inv]

theorem execVlds_inv {_c : Bool} {mk : Nat} {d : Nat} {a : Nat} {b : Nat} {s : State} {t_ : State} (s_i : s.Inv) (e_ : execVlds _c mk d a b s = .next
    t_) : t_.Inv := by
  unfold execVlds at e_
  grind -ring -linarith -lia -ac -order [inv_mk, → State.Inv.mem, → State.Inv.claims, → State.Inv.slots, → State.Inv.dusk, State.vload_inv]

theorem execVldx_inv {_c : Bool} {mk : Nat} {d : Nat} {a : Nat} {b : Nat} {s : State} {t_ : State} (s_i : s.Inv) (e_ : execVldx _c mk d a b s = .next
    t_) : t_.Inv := by
  unfold execVldx at e_
  grind -ring -linarith -lia -ac -order [inv_mk, → State.Inv.mem, → State.Inv.claims, → State.Inv.slots, → State.Inv.dusk, State.vload_inv]

theorem execVldf_inv {_c : Bool} {mk : Nat} {d : Nat} {a : Nat} {s : State} {t_ : State} (s_i : s.Inv) (e_ : execVldf _c mk d a s = .next t_) : t_.Inv
    := by
  unfold execVldf at e_
  grind -ring -linarith -lia -ac -order [inv_mk, → State.Inv.mem, → State.Inv.claims, → State.Inv.slots, → State.Inv.dusk, State.vloadFirst_inv]

theorem execVldxf_inv {_c : Bool} {mk : Nat} {d : Nat} {a : Nat} {b : Nat} {s : State} {t_ : State} (s_i : s.Inv) (e_ : execVldxf _c mk d a b s =
    .next t_) : t_.Inv := by
  unfold execVldxf at e_
  grind -ring -linarith -lia -ac -order [inv_mk, → State.Inv.mem, → State.Inv.claims, → State.Inv.slots, → State.Inv.dusk, State.vloadFirst_inv]

theorem execVst_inv {_c : Bool} {mk : Nat} {d : Nat} {a : Nat} {s : State} {t_ : State} (s_i : s.Inv) (e_ : execVst _c mk d a s = .next t_) : t_.Inv
    := by
  unfold execVst at e_
  grind -ring -linarith -lia -ac -order [inv_mk, → State.Inv.mem, → State.Inv.claims, → State.Inv.slots, → State.Inv.dusk, State.vstore_inv]

theorem execVsts_inv {_c : Bool} {mk : Nat} {d : Nat} {a : Nat} {b : Nat} {s : State} {t_ : State} (s_i : s.Inv) (e_ : execVsts _c mk d a b s = .next
    t_) : t_.Inv := by
  unfold execVsts at e_
  grind -ring -linarith -lia -ac -order [inv_mk, → State.Inv.mem, → State.Inv.claims, → State.Inv.slots, → State.Inv.dusk, State.vstore_inv]

theorem execVstx_inv {_c : Bool} {mk : Nat} {d : Nat} {a : Nat} {b : Nat} {s : State} {t_ : State} (s_i : s.Inv) (e_ : execVstx _c mk d a b s = .next
    t_) : t_.Inv := by
  unfold execVstx at e_
  grind -ring -linarith -lia -ac -order [inv_mk, → State.Inv.mem, → State.Inv.claims, → State.Inv.slots, → State.Inv.dusk, State.vstore_inv]

theorem State.loadPeerSlot_inv {pa : Nat} {d : Nat} {s : State} {sl : Nat} {t_ : State} (s_i : s.Inv) (e_ : State.loadPeerSlot pa d s sl = .ok t_) :
    t_.Inv := by
  unfold State.loadPeerSlot at e_
  grind -ring -linarith -lia -ac -order [inv_mk, → State.Inv.mem, → State.Inv.claims, → State.Inv.slots, → State.Inv.dusk, State.upd_inv]

theorem State.storePeerSlot_inv {pa : Nat} {s : State} {sl : Nat} {v : Nat} {t_ : State} (s_i : s.Inv) (e_ : State.storePeerSlot pa s sl v = .ok t_) :
    t_.Inv := by
  unfold State.storePeerSlot at e_
  grind -ring -linarith -lia -ac -order [inv_mk, → State.Inv.mem, → State.Inv.claims, → State.Inv.slots, → State.Inv.dusk, State.putScratch_inv]

theorem eachUnit_eq_inv {f : State → Nat → Except Stop State} {s t : State} {l : List Nat} {o : Option (Nat × Stop)}
    (hf : ∀ (s t : State) e, s.Inv → f s e = .ok t → t.Inv) (h : s.Inv) (e : State.eachUnit f s l = (t, o)) : t.Inv := by
  have := State.eachUnit_inv (z1 := l) hf h
  rwa [e] at this

theorem execVldp_inv {_c : Bool} {mk : Nat} {d : Nat} {a : Nat} {s : State} {t_ : State} (s_i : s.Inv) (e_ : execVldp _c mk d a s = .next t_) : t_.Inv
    := by
  unfold execVldp at e_
  refine State.gate_inv s_i (fun s t s_i e_ => ?_) e_
  dsimp only at e_
  refine State.finishUnits_inv s_i ?_ e_
  split
  · next h => dsimp only; exact State.upd_inv (eachUnit_eq_inv (fun s t e s_i e_ => foldlM_inv (fun _ _ _ h e => State.loadPeerSlot_inv h e) _ s_i e_) s_i h)
  · exact State.eachUnit_inv (fun s t e s_i e_ => foldlM_inv (fun _ _ _ h e => State.loadPeerSlot_inv h e) _ s_i e_) s_i

theorem execVstp_inv {_c : Bool} {mk : Nat} {d : Nat} {a : Nat} {s : State} {t_ : State} (s_i : s.Inv) (e_ : execVstp _c mk d a s = .next t_) : t_.Inv
    := by
  unfold execVstp at e_
  refine State.gate_inv s_i (fun s t s_i e_ => ?_) e_
  refine State.finishUnits_inv s_i (State.eachUnit_inv (fun s t e s_i e_ => ?_) s_i) e_
  dsimp only at e_
  split at e_
  · nomatch e_
  · next h =>
    injection e_ with e_
    subst e_
    exact State.upd_inv (foldlM_inv (fun _ _ _ h e => State.storePeerSlot_inv h e) _ s_i h)

theorem State.spillSlot_inv {pa : Nat} {n : Nat} {k : Nat} {s : State} {i : Nat} {t_ : State} (s_i : s.Inv) (e_ : State.spillSlot pa n k s i = .ok t_)
    : t_.Inv := by
  unfold State.spillSlot at e_
  dsimp only at e_
  split at e_
  · nomatch e_
  · next h => exact State.store_inv (State.store_inv s_i h) e_

theorem State.reloadSlot_inv {pa : Nat} {d : Nat} {k : Nat} {s : State} {i : Nat} {t_ : State} (s_i : s.Inv) (e_ : State.reloadSlot pa d k s i = .ok
    t_) : t_.Inv := by
  unfold State.reloadSlot at e_
  split at e_
  · nomatch e_
  · next h =>
    split at e_
    · nomatch e_
    · next h2 =>
      injection e_ with e_
      subst e_
      exact State.upd_inv (State.load_inv (State.load_inv s_i h) h2)

theorem execVspill_inv {_c : Bool} {mk : Nat} {d : Nat} {a : Nat} {s : State} {t_ : State} (s_i : s.Inv) (e_ : execVspill _c mk d a s = .next t_) :
    t_.Inv := by
  unfold execVspill at e_
  refine State.gate_inv s_i (fun s t s_i e_ => ?_) e_
  exact State.finishUnits_inv s_i (State.eachUnit_inv (fun s t e s_i e_ => foldlM_inv (fun _ _ _ h e => State.spillSlot_inv h e) _ s_i e_) s_i) e_

theorem execVreload_inv {_c : Bool} {mk : Nat} {d : Nat} {a : Nat} {s : State} {t_ : State} (s_i : s.Inv) (e_ : execVreload _c mk d a s = .next t_) :
    t_.Inv := by
  unfold execVreload at e_
  refine State.gate_inv s_i (fun s t s_i e_ => ?_) e_
  dsimp only at e_
  refine State.finishUnits_inv s_i ?_ e_
  split
  · next h => dsimp only; exact State.upd_inv (eachUnit_eq_inv (fun s t e s_i e_ => foldlM_inv (fun _ _ _ h e => State.reloadSlot_inv h e) _ s_i e_) s_i h)
  · exact State.eachUnit_inv (fun s t e s_i e_ => foldlM_inv (fun _ _ _ h e => State.reloadSlot_inv h e) _ s_i e_) s_i

theorem State.loadByte_inv {r : State × List Byte} {a : Nat} {t_ : State} {v_ : List Byte} (r_i : r.1.Inv) (e_ : State.loadByte r a = .ok (t_, v_)) :
    t_.Inv := by
  unfold State.loadByte at e_
  grind -ring -linarith -lia -ac -order [inv_mk, → State.Inv.mem, → State.Inv.claims, → State.Inv.slots, → State.Inv.dusk, State.load_inv]

theorem State.loadCode_inv {s : State} {f : Nat} {pa : Nat} {k : Nat} {t_ : State} {v_ : Nat} (s_i : s.Inv) (e_ : State.loadCode s f pa k = .ok (t_,
    v_)) : t_.Inv := by
  unfold State.loadCode at e_
  dsimp only at e_
  split at e_
  · nomatch e_
  · next h =>
    injection e_ with e_
    injection e_ with e_ _
    subst e_
    exact foldlM_fst_inv (fun _ _ _ h e => State.loadByte_inv h e) _ (s := (s, [])) s_i h

theorem State.loadNext_inv {f : Nat} {pa : Nat} {r : State × List Image} {k : Nat} {t_ : State} {v_ : List Image} (r_i : r.1.Inv) (e_ : State.loadNext
    f pa r k = .ok (t_, v_)) : t_.Inv := by
  unfold State.loadNext at e_
  grind -ring -linarith -lia -ac -order [inv_mk, → State.Inv.mem, → State.Inv.claims, → State.Inv.slots, → State.Inv.dusk, State.loadCode_inv]

theorem State.loadDense_inv {f : Nat} {pa : Nat} {d : Nat} {s : State} {e : Nat} {t_ : State} (s_i : s.Inv) (e_ : State.loadDense f pa d s e = .ok t_)
    : t_.Inv := by
  unfold State.loadDense at e_
  split at e_
  · nomatch e_
  · next h =>
    injection e_ with e_
    subst e_
    exact State.upd_inv (foldlM_fst_inv (fun _ _ _ h e => State.loadNext_inv h e) _ (s := (s, [])) s_i h)

theorem execVldt_inv {_c : Bool} {mk : Nat} {d : Nat} {a : Nat} {f : Nat} {s : State} {t_ : State} (s_i : s.Inv) (e_ : execVldt _c mk d a f s = .next
    t_) : t_.Inv := by
  unfold execVldt at e_
  refine State.gate_inv s_i (fun s t s_i e_ => ?_) e_
  try dsimp only at e_
  grind -ring -linarith -lia -ac -order [inv_mk, → State.Inv.mem, → State.Inv.claims, → State.Inv.slots, → State.Inv.dusk, State.upd_inv,
      State.gate_inv, State.eachUnit_inv, State.finishUnits_inv, State.loadDense_inv]

theorem execVmv_inv {_c : Bool} {mk : Nat} {d : Nat} {a : Nat} {s : State} {t_ : State} (s_i : s.Inv) (e_ : execVmv _c mk d a s = .next t_) : t_.Inv
    := by
  unfold execVmv at e_
  refine State.gate_inv s_i (fun s t s_i e_ => ?_) e_
  try dsimp only at e_
  grind -ring -linarith -lia -ac -order [inv_mk, → State.Inv.mem, → State.Inv.claims, → State.Inv.slots, → State.Inv.dusk, State.gate_inv,
      State.moves_inv]

theorem execVmvx_inv {_c : Bool} {mk : Nat} {d : Nat} {a : Nat} {s : State} {t_ : State} (s_i : s.Inv) (e_ : execVmvx _c mk d a s = .next t_) : t_.Inv
    := by
  unfold execVmvx at e_
  refine State.gate_inv s_i (fun s t s_i e_ => ?_) e_
  try dsimp only at e_
  grind -ring -linarith -lia -ac -order [inv_mk, → State.Inv.mem, → State.Inv.claims, → State.Inv.slots, → State.Inv.dusk, State.upd_inv,
      State.gate_inv]

theorem execVmvs_inv {_c : Bool} {d : Nat} {a : Nat} {b : Nat} {s : State} {t_ : State} (s_i : s.Inv) (e_ : execVmvs _c d a b s = .next t_) : t_.Inv
    := by
  unfold execVmvs at e_
  refine State.gate_inv s_i (fun s t s_i e_ => ?_) e_
  try dsimp only at e_
  grind -ring -linarith -lia -ac -order [inv_mk, → State.Inv.mem, → State.Inv.claims, → State.Inv.slots, → State.Inv.dusk, State.upd_inv,
      State.fill_inv, State.gate_inv]

theorem execVslideu_inv {_c : Bool} {mk : Nat} {d : Nat} {a : Nat} {b : Nat} {s : State} {t_ : State} (s_i : s.Inv) (e_ : execVslideu _c mk d a b s =
    .next t_) : t_.Inv := by
  unfold execVslideu at e_
  refine State.gate_inv s_i (fun s t s_i e_ => ?_) e_
  try dsimp only at e_
  grind -ring -linarith -lia -ac -order [inv_mk, → State.Inv.mem, → State.Inv.claims, → State.Inv.slots, → State.Inv.dusk, State.upd_inv,
      State.gate_inv]

theorem State.permute_inv {s : State} {d : Nat} {a : Nat} {src : Nat → Nat} {es : List Nat} {t_ : State} (s_i : s.Inv) (e_ : State.permute s d a src
    es = .next t_) : t_.Inv := by
  unfold State.permute at e_
  grind -ring -linarith -lia -ac -order [inv_mk, → State.Inv.mem, → State.Inv.claims, → State.Inv.slots, → State.Inv.dusk, State.upd_inv]

theorem execVslided_inv {_c : Bool} {mk : Nat} {d : Nat} {a : Nat} {b : Nat} {s : State} {t_ : State} (s_i : s.Inv) (e_ : execVslided _c mk d a b s =
    .next t_) : t_.Inv := by
  unfold execVslided at e_
  refine State.gate_inv s_i (fun s t s_i e_ => ?_) e_
  try dsimp only at e_
  grind -ring -linarith -lia -ac -order [inv_mk, → State.Inv.mem, → State.Inv.claims, → State.Inv.slots, → State.Inv.dusk, State.gate_inv,
      State.permute_inv]

theorem execVgath_inv {_c : Bool} {mk : Nat} {d : Nat} {a : Nat} {b : Nat} {s : State} {t_ : State} (s_i : s.Inv) (e_ : execVgath _c mk d a b s =
    .next t_) : t_.Inv := by
  unfold execVgath at e_
  refine State.gate_inv s_i (fun s t s_i e_ => ?_) e_
  try dsimp only at e_
  grind -ring -linarith -lia -ac -order [inv_mk, → State.Inv.mem, → State.Inv.claims, → State.Inv.slots, → State.Inv.dusk, State.gate_inv,
      State.permute_inv]

theorem execVcomp_inv {_c : Bool} {mk : Nat} {d : Nat} {a : Nat} {s : State} {t_ : State} (s_i : s.Inv) (e_ : execVcomp _c mk d a s = .next t_) :
    t_.Inv := by
  unfold execVcomp at e_
  refine State.gate_inv s_i (fun s t s_i e_ => ?_) e_
  try dsimp only at e_
  grind -ring -linarith -lia -ac -order [inv_mk, → State.Inv.mem, → State.Inv.claims, → State.Inv.slots, → State.Inv.dusk, State.upd_inv,
      State.gate_inv]

theorem execVexpd_inv {_c : Bool} {mk : Nat} {d : Nat} {a : Nat} {s : State} {t_ : State} (s_i : s.Inv) (e_ : execVexpd _c mk d a s = .next t_) :
    t_.Inv := by
  unfold execVexpd at e_
  refine State.gate_inv s_i (fun s t s_i e_ => ?_) e_
  try dsimp only at e_
  grind -ring -linarith -lia -ac -order [inv_mk, → State.Inv.mem, → State.Inv.claims, → State.Inv.slots, → State.Inv.dusk, State.upd_inv,
      State.gate_inv]

theorem execVsel_inv {_c : Bool} {mk : Nat} {d : Nat} {a : Nat} {b : Nat} {s : State} {t_ : State} (s_i : s.Inv) (e_ : execVsel _c mk d a b s = .next
    t_) : t_.Inv := by
  unfold execVsel at e_
  refine State.gate_inv s_i (fun s t s_i e_ => ?_) e_
  try dsimp only at e_
  grind -ring -linarith -lia -ac -order [inv_mk, → State.Inv.mem, → State.Inv.claims, → State.Inv.slots, → State.Inv.dusk, State.gate_inv,
      State.moves_inv]

theorem execVpack_inv {_c : Bool} {mk : Nat} {d : Nat} {a : Nat} {b : Nat} {s : State} {t_ : State} (s_i : s.Inv) (e_ : execVpack _c mk d a b s =
    .next t_) : t_.Inv := by
  unfold execVpack at e_
  refine State.gate_inv s_i (fun s t s_i e_ => ?_) e_
  try dsimp only at e_
  grind -ring -linarith -lia -ac -order [inv_mk, → State.Inv.mem, → State.Inv.claims, → State.Inv.slots, → State.Inv.dusk, State.gate_inv,
      State.moves_inv]

theorem execVunpk_inv {_c : Bool} {mk : Nat} {d : Nat} {a : Nat} {k : Nat} {s : State} {t_ : State} (s_i : s.Inv) (e_ : execVunpk _c mk d a k s =
    .next t_) : t_.Inv := by
  unfold execVunpk at e_
  refine State.gate_inv s_i (fun s t s_i e_ => ?_) e_
  try dsimp only at e_
  grind -ring -linarith -lia -ac -order [inv_mk, → State.Inv.mem, → State.Inv.claims, → State.Inv.slots, → State.Inv.dusk, State.upd_inv,
      State.gate_inv]

theorem execViota_inv {_c : Bool} {mk : Nat} {d : Nat} {a : Nat} {s : State} {t_ : State} (s_i : s.Inv) (e_ : execViota _c mk d a s = .next t_) :
    t_.Inv := by
  unfold execViota at e_
  refine State.gate_inv s_i (fun s t s_i e_ => ?_) e_
  try dsimp only at e_
  grind -ring -linarith -lia -ac -order [inv_mk, → State.Inv.mem, → State.Inv.claims, → State.Inv.slots, → State.Inv.dusk, State.upd_inv,
      State.gate_inv]

theorem State.maskOp_inv {s : State} {d : Nat} {a : Nat} {b : Nat} {f : Bool → Bool → Bool} {t_ : State} (s_i : s.Inv) (e_ : State.maskOp s d a b f =
    .next t_) : t_.Inv := by
  unfold State.maskOp at e_
  grind -ring -linarith -lia -ac -order [inv_mk, → State.Inv.mem, → State.Inv.claims, → State.Inv.slots, → State.Inv.dusk, State.upd_inv]

theorem execMand_inv {_c : Bool} {d : Nat} {a : Nat} {b : Nat} {s : State} {t_ : State} (s_i : s.Inv) (e_ : execMand _c d a b s = .next t_) : t_.Inv
    := by
  unfold execMand at e_
  grind -ring -linarith -lia -ac -order [inv_mk, → State.Inv.mem, → State.Inv.claims, → State.Inv.slots, → State.Inv.dusk, State.maskOp_inv]

theorem execMor_inv {_c : Bool} {d : Nat} {a : Nat} {b : Nat} {s : State} {t_ : State} (s_i : s.Inv) (e_ : execMor _c d a b s = .next t_) : t_.Inv :=
    by
  unfold execMor at e_
  grind -ring -linarith -lia -ac -order [inv_mk, → State.Inv.mem, → State.Inv.claims, → State.Inv.slots, → State.Inv.dusk, State.maskOp_inv]

theorem execMxor_inv {_c : Bool} {d : Nat} {a : Nat} {b : Nat} {s : State} {t_ : State} (s_i : s.Inv) (e_ : execMxor _c d a b s = .next t_) : t_.Inv
    := by
  unfold execMxor at e_
  grind -ring -linarith -lia -ac -order [inv_mk, → State.Inv.mem, → State.Inv.claims, → State.Inv.slots, → State.Inv.dusk, State.maskOp_inv]

theorem execMandn_inv {_c : Bool} {d : Nat} {a : Nat} {b : Nat} {s : State} {t_ : State} (s_i : s.Inv) (e_ : execMandn _c d a b s = .next t_) : t_.Inv
    := by
  unfold execMandn at e_
  grind -ring -linarith -lia -ac -order [inv_mk, → State.Inv.mem, → State.Inv.claims, → State.Inv.slots, → State.Inv.dusk, State.maskOp_inv]

theorem execMset_inv {_c : Bool} {d : Nat} {v : Nat} {s : State} {t_ : State} (s_i : s.Inv) (e_ : execMset _c d v s = .next t_) : t_.Inv := by
  unfold execMset at e_
  grind -ring -linarith -lia -ac -order [inv_mk, → State.Inv.mem, → State.Inv.claims, → State.Inv.slots, → State.Inv.dusk, State.upd_inv]

theorem execVcut_inv {_c : Bool} {d : Nat} {a : Nat} {s : State} {t_ : State} (s_i : s.Inv) (e_ : execVcut _c d a s = .next t_) : t_.Inv := by
  unfold execVcut at e_
  grind -ring -linarith -lia -ac -order [inv_mk, → State.Inv.mem, → State.Inv.claims, → State.Inv.slots, → State.Inv.dusk, State.upd_inv]

theorem execVpopm_inv {_c : Bool} {d : Nat} {a : Nat} {s : State} {t_ : State} (s_i : s.Inv) (e_ : execVpopm _c d a s = .next t_) : t_.Inv := by
  unfold execVpopm at e_
  grind -ring -linarith -lia -ac -order [inv_mk, → State.Inv.mem, → State.Inv.claims, → State.Inv.slots, → State.Inv.dusk, State.upd_inv]

theorem execVredsum_inv {_c : Bool} {mk : Nat} {d : Nat} {a : Nat} {b : Nat} {s : State} {t_ : State} (s_i : s.Inv) (e_ : execVredsum _c mk d a b s =
    .next t_) : t_.Inv := by
  unfold execVredsum at e_
  refine State.gate_inv s_i (fun s t s_i e_ => ?_) e_
  try dsimp only at e_
  grind -ring -linarith -lia -ac -order [inv_mk, → State.Inv.mem, → State.Inv.claims, → State.Inv.slots, → State.Inv.dusk, State.upd_inv,
      State.gate_inv]

theorem execVredtree_inv {_c : Bool} {mk : Nat} {d : Nat} {a : Nat} {b : Nat} {s : State} {t_ : State} (s_i : s.Inv) (e_ : execVredtree _c mk d a b s
    = .next t_) : t_.Inv := by
  unfold execVredtree at e_
  refine State.gate_inv s_i (fun s t s_i e_ => ?_) e_
  try dsimp only at e_
  grind -ring -linarith -lia -ac -order [inv_mk, → State.Inv.mem, → State.Inv.claims, → State.Inv.slots, → State.Inv.dusk, State.upd_inv,
      State.gate_inv]

theorem execVred_inv {_c : Bool} {mk : Nat} {d : Nat} {a : Nat} {o : Nat} {s : State} {t_ : State} (s_i : s.Inv) (e_ : execVred _c mk d a o s = .next
    t_) : t_.Inv := by
  unfold execVred at e_
  refine State.gate_inv s_i (fun s t s_i e_ => ?_) e_
  try dsimp only at e_
  grind -ring -linarith -lia -ac -order [inv_mk, → State.Inv.mem, → State.Inv.claims, → State.Inv.slots, → State.Inv.dusk, State.upd_inv,
      State.gate_inv]

theorem execVscan_inv {_c : Bool} {mk : Nat} {d : Nat} {a : Nat} {o : Nat} {s : State} {t_ : State} (s_i : s.Inv) (e_ : execVscan _c mk d a o s =
    .next t_) : t_.Inv := by
  unfold execVscan at e_
  refine State.gate_inv s_i (fun s t s_i e_ => ?_) e_
  try dsimp only at e_
  grind -ring -linarith -lia -ac -order [inv_mk, → State.Inv.mem, → State.Inv.claims, → State.Inv.slots, → State.Inv.dusk, State.upd_inv,
      State.gate_inv]

theorem execVffs_inv {_c : Bool} {mk : Nat} {d : Nat} {a : Nat} {s : State} {t_ : State} (s_i : s.Inv) (e_ : execVffs _c mk d a s = .next t_) : t_.Inv
    := by
  unfold execVffs at e_
  grind -ring -linarith -lia -ac -order [inv_mk, → State.Inv.mem, → State.Inv.claims, → State.Inv.slots, → State.Inv.dusk, State.upd_inv]

theorem execVredx_inv {_c : Bool} {mk : Nat} {a : Nat} {q : Nat} {s : State} {t_ : State} (s_i : s.Inv) (e_ : execVredx _c mk a q s = .next t_) :
    t_.Inv := by
  unfold execVredx at e_
  refine State.gate_inv s_i (fun s t s_i e_ => ?_) e_
  try dsimp only at e_
  grind -ring -linarith -lia -ac -order [inv_mk, → State.Inv.mem, → State.Inv.claims, → State.Inv.slots, → State.Inv.dusk, State.upd_inv,
      State.halt_inv, State.gate_inv]

theorem execLaget_inv {_c : Bool} {d : Nat} {f : Nat} {s : State} {t_ : State} (s_i : s.Inv) (e_ : execLaget _c d f s = .next t_) : t_.Inv := by
  unfold execLaget at e_
  grind -ring -linarith -lia -ac -order [inv_mk, → State.Inv.mem, → State.Inv.claims, → State.Inv.slots, → State.Inv.dusk, State.upd_inv]

theorem execLaclr_inv {_c : Bool} {s : State} {t_ : State} (s_i : s.Inv) (e_ : execLaclr _c s = .next t_) : t_.Inv := by
  unfold execLaclr at e_
  grind -ring -linarith -lia -ac -order [inv_mk, → State.Inv.mem, → State.Inv.claims, → State.Inv.slots, → State.Inv.dusk, State.upd_inv]

theorem execSmx_inv {_c : Bool} {mk : Nat} {d : Nat} {a : Nat} {b : Nat} {s : State} {t_ : State} (s_i : s.Inv) (e_ : execSmx _c mk d a b s = .next
    t_) : t_.Inv := by
  unfold execSmx at e_
  refine State.gate_inv s_i (fun s t s_i e_ => ?_) e_
  try dsimp only at e_
  grind -ring -linarith -lia -ac -order [inv_mk, → State.Inv.mem, → State.Inv.claims, → State.Inv.slots, → State.Inv.dusk, State.upd_inv,
      State.gate_inv]

theorem execVrng_inv {_c : Bool} {mk : Nat} {d : Nat} {a : Nat} {w : Nat} {s : State} {t_ : State} (s_i : s.Inv) (e_ : execVrng _c mk d a w s = .next
    t_) : t_.Inv := by
  unfold execVrng at e_
  refine State.gate_inv s_i (fun s t s_i e_ => ?_) e_
  try dsimp only at e_
  grind -ring -linarith -lia -ac -order [inv_mk, → State.Inv.mem, → State.Inv.claims, → State.Inv.slots, → State.Inv.dusk, State.gate_inv,
      State.elementwise_inv]

theorem execVutf_inv {_c : Bool} {mk : Nat} {d : Nat} {a : Nat} {s : State} {t_ : State} (s_i : s.Inv) (e_ : execVutf _c mk d a s = .next t_) : t_.Inv
    := by
  unfold execVutf at e_
  refine State.gate_inv s_i (fun s t s_i e_ => ?_) e_
  try dsimp only at e_
  grind -ring -linarith -lia -ac -order [inv_mk, → State.Inv.mem, → State.Inv.claims, → State.Inv.slots, → State.Inv.dusk, State.gate_inv,
      State.unary_inv]

theorem State.tableEntry_inv {s : State} {xb : Nat} {n : Nat} {i : Nat} {t_ : State} {v_ : Nat} (s_i : s.Inv) (e_ : State.tableEntry s xb n i = .ok
    (t_, v_)) : t_.Inv := by
  unfold State.tableEntry at e_
  grind -ring -linarith -lia -ac -order [inv_mk, → State.Inv.mem, → State.Inv.claims, → State.Inv.slots, → State.Inv.dusk, State.load_inv,
      State.trap_inv]

theorem State.nextEntry_inv {xb : Nat} {n : Nat} {r : State × List Image} {i : Image} {t_ : State} {v_ : List Image} (r_i : r.1.Inv) (e_ :
    State.nextEntry xb n r i = .ok (t_, v_)) : t_.Inv := by
  unfold State.nextEntry at e_
  grind -ring -linarith -lia -ac -order [inv_mk, → State.Inv.mem, → State.Inv.claims, → State.Inv.slots, → State.Inv.dusk, State.tableEntry_inv]

theorem execVtbl_inv {_c : Bool} {mk : Nat} {d : Nat} {a : Nat} {b : Nat} {s : State} {t_ : State} (s_i : s.Inv) (e_ : execVtbl _c mk d a b s = .next
    t_) : t_.Inv := by
  unfold execVtbl at e_
  refine State.gate_inv s_i (fun s t s_i e_ => ?_) e_
  dsimp only at e_
  refine State.finishUnits_inv s_i ?_ e_
  have step : ∀ (u t : State) e, u.Inv → (match (u.hart.unit a e).foldlM (State.nextEntry (s.hart.getX b).toNat (fmtWidth s.hart.fmt / 8)) (u, []) with
      | .error x => (.error x : Except Stop State)
      | .ok (s1, is) => .ok (s1.upd (·.setUnit d e is))) = .ok t → t.Inv := by
    intro u t e s_i e_
    split at e_
    · nomatch e_
    · next h =>
      injection e_ with e_
      subst e_
      exact State.upd_inv (foldlM_fst_inv (fun _ _ _ h e => State.nextEntry_inv h e) _ (s := (u, [])) s_i h)
  split
  · next h => dsimp only; exact State.upd_inv (eachUnit_eq_inv step s_i h)
  · exact State.eachUnit_inv step s_i

theorem execGfromv_inv {_c : Bool} {mk : Nat} {d : Nat} {a : Nat} {s : State} {t_ : State} (s_i : s.Inv) (e_ : execGfromv _c mk d a s = .next t_) :
    t_.Inv := by
  unfold execGfromv at e_
  refine State.gate_inv s_i (fun s t s_i e_ => ?_) e_
  try dsimp only at e_
  grind -ring -linarith -lia -ac -order [inv_mk, → State.Inv.mem, → State.Inv.claims, → State.Inv.slots, → State.Inv.dusk, State.upd_inv,
      State.gate_inv]

theorem execGtov_inv {_c : Bool} {mk : Nat} {d : Nat} {a : Nat} {s : State} {t_ : State} (s_i : s.Inv) (e_ : execGtov _c mk d a s = .next t_) : t_.Inv
    := by
  unfold execGtov at e_
  refine State.gate_inv s_i (fun s t s_i e_ => ?_) e_
  try dsimp only at e_
  grind -ring -linarith -lia -ac -order [inv_mk, → State.Inv.mem, → State.Inv.claims, → State.Inv.slots, → State.Inv.dusk, State.upd_inv,
      State.gate_inv]

theorem State.doubling_inv {s : State} {k : TreeKind} {mk : Nat} {d : Nat} {a : Nat} {g : Nat} {mb : Nat} {t_ : State} (s_i : s.Inv) (e_ :
    State.doubling s k mk d a g mb = .next t_) : t_.Inv := by
  unfold State.doubling at e_
  grind -ring -linarith -lia -ac -order [inv_mk, → State.Inv.mem, → State.Inv.claims, → State.Inv.slots, → State.Inv.dusk, State.upd_inv]

theorem execTup_inv {_c : Bool} {mk : Nat} {d : Nat} {a : Nat} {b : Nat} {y : Nat} {s : State} {t_ : State} (s_i : s.Inv) (e_ : execTup _c mk d a b y
    s = .next t_) : t_.Inv := by
  unfold execTup at e_
  refine State.gate_inv s_i (fun s t s_i e_ => ?_) e_
  try dsimp only at e_
  grind -ring -linarith -lia -ac -order [inv_mk, → State.Inv.mem, → State.Inv.claims, → State.Inv.slots, → State.Inv.dusk, State.gate_inv,
      State.doubling_inv]

theorem execTdown_inv {_c : Bool} {mk : Nat} {d : Nat} {a : Nat} {b : Nat} {y : Nat} {s : State} {t_ : State} (s_i : s.Inv) (e_ : execTdown _c mk d a
    b y s = .next t_) : t_.Inv := by
  unfold execTdown at e_
  refine State.gate_inv s_i (fun s t s_i e_ => ?_) e_
  try dsimp only at e_
  grind -ring -linarith -lia -ac -order [inv_mk, → State.Inv.mem, → State.Inv.claims, → State.Inv.slots, → State.Inv.dusk, State.gate_inv,
      State.doubling_inv]

theorem execTbcast_inv {_c : Bool} {mk : Nat} {d : Nat} {a : Nat} {b : Nat} {s : State} {t_ : State} (s_i : s.Inv) (e_ : execTbcast _c mk d a b s =
    .next t_) : t_.Inv := by
  unfold execTbcast at e_
  refine State.gate_inv s_i (fun s t s_i e_ => ?_) e_
  try dsimp only at e_
  grind -ring -linarith -lia -ac -order [inv_mk, → State.Inv.mem, → State.Inv.claims, → State.Inv.slots, → State.Inv.dusk, State.gate_inv,
      State.doubling_inv]

theorem execTdepth_inv {_c : Bool} {mk : Nat} {d : Nat} {a : Nat} {s : State} {t_ : State} (s_i : s.Inv) (e_ : execTdepth _c mk d a s = .next t_) :
    t_.Inv := by
  unfold execTdepth at e_
  refine State.gate_inv s_i (fun s t s_i e_ => ?_) e_
  try dsimp only at e_
  grind -ring -linarith -lia -ac -order [inv_mk, → State.Inv.mem, → State.Inv.claims, → State.Inv.slots, → State.Inv.dusk, State.gate_inv,
      State.doubling_inv]

theorem execTanc_inv {_c : Bool} {mk : Nat} {d : Nat} {a : Nat} {b : Nat} {s : State} {t_ : State} (s_i : s.Inv) (e_ : execTanc _c mk d a b s = .next
    t_) : t_.Inv := by
  unfold execTanc at e_
  refine State.gate_inv s_i (fun s t s_i e_ => ?_) e_
  try dsimp only at e_
  grind -ring -linarith -lia -ac -order [inv_mk, → State.Inv.mem, → State.Inv.claims, → State.Inv.slots, → State.Inv.dusk, State.gate_inv,
      State.doubling_inv]

theorem execTisanc_inv {_c : Bool} {mk : Nat} {d : Nat} {a : Nat} {b : Nat} {s : State} {t_ : State} (s_i : s.Inv) (e_ : execTisanc _c mk d a b s =
    .next t_) : t_.Inv := by
  unfold execTisanc at e_
  refine State.gate_inv s_i (fun s t s_i e_ => ?_) e_
  try dsimp only at e_
  grind -ring -linarith -lia -ac -order [inv_mk, → State.Inv.mem, → State.Inv.claims, → State.Inv.slots, → State.Inv.dusk, State.gate_inv,
      State.doubling_inv]

theorem execTcontract_inv {_c : Bool} {d : Nat} {a : Nat} {b : Nat} {s : State} {t_ : State} (s_i : s.Inv) (e_ : execTcontract _c d a b s = .next t_)
    : t_.Inv := by
  unfold execTcontract at e_
  refine State.gate_inv s_i (fun s t s_i e_ => ?_) e_
  try dsimp only at e_
  grind -ring -linarith -lia -ac -order [inv_mk, → State.Inv.mem, → State.Inv.claims, → State.Inv.slots, → State.Inv.dusk, State.gate_inv,
      State.doubling_inv]

theorem execTcheck_inv {_c : Bool} {d : Nat} {a : Nat} {s : State} {t_ : State} (s_i : s.Inv) (e_ : execTcheck _c d a s = .next t_) : t_.Inv := by
  unfold execTcheck at e_
  refine State.gate_inv s_i (fun s t s_i e_ => ?_) e_
  try dsimp only at e_
  grind -ring -linarith -lia -ac -order [inv_mk, → State.Inv.mem, → State.Inv.claims, → State.Inv.slots, → State.Inv.dusk, State.gate_inv,
      State.doubling_inv]

theorem State.vamoUnit_inv {op : Nat} {d : Nat} {rel : Bool} {addr : Nat → Nat} {s : State} {e : Nat} {t_ : State} (s_i : s.Inv) (e_ : State.vamoUnit
    op d rel addr s e = .ok t_) : t_.Inv := by
  unfold State.vamoUnit at e_
  grind -ring -linarith -lia -ac -order [inv_mk, → State.Inv.mem, → State.Inv.claims, → State.Inv.slots, → State.Inv.dusk, State.upd_inv,
      State.rmw_inv]

theorem State.vamo_inv {s : State} {op : Nat} {c : Bool} {mk : Nat} {d : Nat} {b : Nat} {y : Nat} {p : Nat} {t_ : State} (s_i : s.Inv) (e_ :
    State.vamo s op c mk d b y p = .next t_) : t_.Inv := by
  unfold State.vamo at e_
  refine State.gate_inv s_i (fun s t s_i e_ => ?_) e_
  try dsimp only at e_
  grind -ring -linarith -lia -ac -order [inv_mk, → State.Inv.mem, → State.Inv.claims, → State.Inv.slots, → State.Inv.dusk, State.upd_inv,
      State.halt_inv, State.gate_inv, State.eachUnit_inv, State.finishUnits_inv, State.vamoUnit_inv]

theorem execVamoAdd_inv {c : Bool} {mk : Nat} {d : Nat} {b : Nat} {y : Nat} {p : Nat} {s : State} {t_ : State} (s_i : s.Inv) (e_ : execVamoAdd c mk d
    b y p s = .next t_) : t_.Inv := by
  unfold execVamoAdd at e_
  grind -ring -linarith -lia -ac -order [inv_mk, → State.Inv.mem, → State.Inv.claims, → State.Inv.slots, → State.Inv.dusk, State.vamo_inv]

theorem execVamoFadd_inv {c : Bool} {mk : Nat} {d : Nat} {b : Nat} {y : Nat} {p : Nat} {s : State} {t_ : State} (s_i : s.Inv) (e_ : execVamoFadd c mk
    d b y p s = .next t_) : t_.Inv := by
  unfold execVamoFadd at e_
  grind -ring -linarith -lia -ac -order [inv_mk, → State.Inv.mem, → State.Inv.claims, → State.Inv.slots, → State.Inv.dusk, State.vamo_inv]

theorem execVamoMin_inv {c : Bool} {mk : Nat} {d : Nat} {b : Nat} {y : Nat} {p : Nat} {s : State} {t_ : State} (s_i : s.Inv) (e_ : execVamoMin c mk d
    b y p s = .next t_) : t_.Inv := by
  unfold execVamoMin at e_
  grind -ring -linarith -lia -ac -order [inv_mk, → State.Inv.mem, → State.Inv.claims, → State.Inv.slots, → State.Inv.dusk, State.vamo_inv]

theorem execVamoMax_inv {c : Bool} {mk : Nat} {d : Nat} {b : Nat} {y : Nat} {p : Nat} {s : State} {t_ : State} (s_i : s.Inv) (e_ : execVamoMax c mk d
    b y p s = .next t_) : t_.Inv := by
  unfold execVamoMax at e_
  grind -ring -linarith -lia -ac -order [inv_mk, → State.Inv.mem, → State.Inv.claims, → State.Inv.slots, → State.Inv.dusk, State.vamo_inv]

theorem execVamoAnd_inv {c : Bool} {mk : Nat} {d : Nat} {b : Nat} {y : Nat} {p : Nat} {s : State} {t_ : State} (s_i : s.Inv) (e_ : execVamoAnd c mk d
    b y p s = .next t_) : t_.Inv := by
  unfold execVamoAnd at e_
  grind -ring -linarith -lia -ac -order [inv_mk, → State.Inv.mem, → State.Inv.claims, → State.Inv.slots, → State.Inv.dusk, State.vamo_inv]

theorem execVamoOr_inv {c : Bool} {mk : Nat} {d : Nat} {b : Nat} {y : Nat} {p : Nat} {s : State} {t_ : State} (s_i : s.Inv) (e_ : execVamoOr c mk d b
    y p s = .next t_) : t_.Inv := by
  unfold execVamoOr at e_
  grind -ring -linarith -lia -ac -order [inv_mk, → State.Inv.mem, → State.Inv.claims, → State.Inv.slots, → State.Inv.dusk, State.vamo_inv]

theorem execVamoXor_inv {c : Bool} {mk : Nat} {d : Nat} {b : Nat} {y : Nat} {p : Nat} {s : State} {t_ : State} (s_i : s.Inv) (e_ : execVamoXor c mk d
    b y p s = .next t_) : t_.Inv := by
  unfold execVamoXor at e_
  grind -ring -linarith -lia -ac -order [inv_mk, → State.Inv.mem, → State.Inv.claims, → State.Inv.slots, → State.Inv.dusk, State.vamo_inv]

theorem execVamoSwap_inv {c : Bool} {mk : Nat} {d : Nat} {b : Nat} {y : Nat} {p : Nat} {s : State} {t_ : State} (s_i : s.Inv) (e_ : execVamoSwap c mk
    d b y p s = .next t_) : t_.Inv := by
  unfold execVamoSwap at e_
  grind -ring -linarith -lia -ac -order [inv_mk, → State.Inv.mem, → State.Inv.claims, → State.Inv.slots, → State.Inv.dusk, State.vamo_inv]

theorem State.addLink_inv {s : State} {n : Nat} {t : Target} (s_i : s.Inv) : (State.addLink s n t).Inv := by
  unfold State.addLink
  grind -ring -linarith -lia -ac -order [inv_mk, → State.Inv.mem, → State.Inv.claims, → State.Inv.slots, → State.Inv.dusk, State.upd_inv]

theorem State.vglUnit_inv {d : Nat} {rel : Bool} {addr : Nat → Nat} {s : State} {e : Nat} {t_ : State} (s_i : s.Inv) (e_ : State.vglUnit d rel addr s
    e = .ok t_) : t_.Inv := by
  unfold State.vglUnit at e_
  grind -ring -linarith -lia -ac -order [inv_mk, → State.Inv.mem, → State.Inv.claims, → State.Inv.slots, → State.Inv.dusk, State.upd_inv,
      State.rmw_inv, State.addLink_inv]

theorem State.firstDrop_inv {s : State} (s_i : s.Inv) : (State.firstDrop s).Inv := by
  unfold State.firstDrop
  grind -ring -linarith -lia -ac -order [inv_mk, → State.Inv.mem, → State.Inv.claims, → State.Inv.slots, → State.Inv.dusk, State.dropLinks_inv]

theorem execVgl_inv {c : Bool} {mk : Nat} {d : Nat} {b : Nat} {y : Nat} {p : Nat} {s : State} {t_ : State} (s_i : s.Inv) (e_ : execVgl c mk d b y p s
    = .next t_) : t_.Inv := by
  unfold execVgl at e_
  refine State.gate_inv s_i (fun s t s_i e_ => ?_) e_
  try dsimp only at e_
  grind -ring -linarith -lia -ac -order [inv_mk, → State.Inv.mem, → State.Inv.claims, → State.Inv.slots, → State.Inv.dusk, State.upd_inv,
      State.halt_inv, State.gate_inv, State.eachUnit_inv, State.finishUnits_inv, State.vglUnit_inv, State.firstDrop_inv]

theorem State.vscReady_inv {s : State} {rel : Bool} {a : Nat} {u : Nat} {t : Target} (s_i : s.Inv) : (State.vscReady s rel a u t).Inv := by
  unfold State.vscReady
  grind -ring -linarith -lia -ac -order [inv_mk, → State.Inv.mem, → State.Inv.claims, → State.Inv.slots, → State.Inv.dusk, State.drain_inv,
      State.drainOwn_inv, State.note_inv]

theorem State.vscUnit_inv {mk : Nat} {n : Nat} {rel : Bool} {addr : Nat → Nat} {es : List Nat} {s : State} {e : Nat} {t_ : State} (s_i : s.Inv) (e_ :
    State.vscUnit mk n rel addr es s e = .ok t_) : t_.Inv := by
  unfold State.vscUnit at e_
  grind -ring -linarith -lia -ac -order [inv_mk, → State.Inv.mem, → State.Inv.claims, → State.Inv.slots, → State.Inv.dusk, State.upd_inv,
      State.writePhys_inv, State.dropRoutes_inv, State.putScratch_inv, State.vscReady_inv]

theorem State.lastDrop_inv {s : State} (s_i : s.Inv) : (State.lastDrop s).Inv := by
  unfold State.lastDrop
  grind -ring -linarith -lia -ac -order [inv_mk, → State.Inv.mem, → State.Inv.claims, → State.Inv.slots, → State.Inv.dusk, State.dropLinks_inv]

theorem execVsc_inv {c : Bool} {mk : Nat} {d : Nat} {b : Nat} {y : Nat} {p : Nat} {s : State} {t_ : State} (s_i : s.Inv) (e_ : execVsc c mk d b y p s
    = .next t_) : t_.Inv := by
  unfold execVsc at e_
  refine State.gate_inv s_i (fun s t s_i e_ => ?_) e_
  try dsimp only at e_
  grind -ring -linarith -lia -ac -order [inv_mk, → State.Inv.mem, → State.Inv.claims, → State.Inv.slots, → State.Inv.dusk, State.upd_inv,
      State.halt_inv, State.gate_inv, State.eachUnit_inv, State.finishUnits_inv, State.vscUnit_inv, State.lastDrop_inv]

theorem execFas_inv {c : Bool} {mk : Nat} {d : Nat} {b : Nat} {y : Nat} {p : Nat} {s : State} {t_ : State} (s_i : s.Inv) (e_ : execFas c mk d b y p s
    = .next t_) : t_.Inv := by
  unfold execFas at e_
  refine State.gate_inv s_i (fun s t s_i e_ => ?_) e_
  try dsimp only at e_
  grind -ring -linarith -lia -ac -order [inv_mk, → State.Inv.mem, → State.Inv.claims, → State.Inv.slots, → State.Inv.dusk, State.upd_inv,
      State.rmw_inv, State.advance_inv, State.halt_inv, State.gate_inv]

theorem State.orderedAt_inv {s : State} {a : Nat} {n : Nat} {t_ : State} {v_ : Nat} (s_i : s.Inv) (e_ : State.orderedAt s a n = .ok (t_, v_)) : t_.Inv
    := by
  unfold State.orderedAt at e_
  grind -ring -linarith -lia -ac -order [inv_mk, → State.Inv.mem, → State.Inv.claims, → State.Inv.slots, → State.Inv.dusk, State.note_inv,
      State.trap_inv]

theorem State.vamooUnit_inv {op : Nat} {n : Nat} {addr : Nat → Nat} {s : State} {e : Nat} {t_ : State} (s_i : s.Inv) (e_ : State.vamooUnit op n addr s
    e = .ok t_) : t_.Inv := by
  unfold State.vamooUnit at e_
  grind -ring -linarith -lia -ac -order [inv_mk, → State.Inv.mem, → State.Inv.claims, → State.Inv.slots, → State.Inv.dusk, State.upd_inv,
      State.orderedAt_inv]

theorem State.vamoo_inv {s : State} {op : Nat} {mk : Nat} {n : Nat} {b : Nat} {p : Nat} {t_ : State} (s_i : s.Inv) (e_ : State.vamoo s op mk n b p =
    .next t_) : t_.Inv := by
  unfold State.vamoo at e_
  refine State.gate_inv s_i (fun s t s_i e_ => ?_) e_
  try dsimp only at e_
  grind -ring -linarith -lia -ac -order [inv_mk, → State.Inv.mem, → State.Inv.claims, → State.Inv.slots, → State.Inv.dusk, State.gate_inv,
      State.eachUnit_inv, State.finishUnits_inv, State.vamooUnit_inv]

theorem execVamooAdd_inv {mk : Nat} {d : Nat} {b : Nat} {p : Nat} {s : State} {t_ : State} (s_i : s.Inv) (e_ : execVamooAdd mk d b p s = .next t_) :
    t_.Inv := by
  unfold execVamooAdd at e_
  grind -ring -linarith -lia -ac -order [inv_mk, → State.Inv.mem, → State.Inv.claims, → State.Inv.slots, → State.Inv.dusk, State.vamoo_inv]

theorem execVamooFadd_inv {mk : Nat} {d : Nat} {b : Nat} {p : Nat} {s : State} {t_ : State} (s_i : s.Inv) (e_ : execVamooFadd mk d b p s = .next t_) :
    t_.Inv := by
  unfold execVamooFadd at e_
  grind -ring -linarith -lia -ac -order [inv_mk, → State.Inv.mem, → State.Inv.claims, → State.Inv.slots, → State.Inv.dusk, State.vamoo_inv]

theorem execVamooMin_inv {mk : Nat} {d : Nat} {b : Nat} {p : Nat} {s : State} {t_ : State} (s_i : s.Inv) (e_ : execVamooMin mk d b p s = .next t_) :
    t_.Inv := by
  unfold execVamooMin at e_
  grind -ring -linarith -lia -ac -order [inv_mk, → State.Inv.mem, → State.Inv.claims, → State.Inv.slots, → State.Inv.dusk, State.vamoo_inv]

theorem execVamooMax_inv {mk : Nat} {d : Nat} {b : Nat} {p : Nat} {s : State} {t_ : State} (s_i : s.Inv) (e_ : execVamooMax mk d b p s = .next t_) :
    t_.Inv := by
  unfold execVamooMax at e_
  grind -ring -linarith -lia -ac -order [inv_mk, → State.Inv.mem, → State.Inv.claims, → State.Inv.slots, → State.Inv.dusk, State.vamoo_inv]

theorem execVamooAnd_inv {mk : Nat} {d : Nat} {b : Nat} {p : Nat} {s : State} {t_ : State} (s_i : s.Inv) (e_ : execVamooAnd mk d b p s = .next t_) :
    t_.Inv := by
  unfold execVamooAnd at e_
  grind -ring -linarith -lia -ac -order [inv_mk, → State.Inv.mem, → State.Inv.claims, → State.Inv.slots, → State.Inv.dusk, State.vamoo_inv]

theorem execVamooOr_inv {mk : Nat} {d : Nat} {b : Nat} {p : Nat} {s : State} {t_ : State} (s_i : s.Inv) (e_ : execVamooOr mk d b p s = .next t_) :
    t_.Inv := by
  unfold execVamooOr at e_
  grind -ring -linarith -lia -ac -order [inv_mk, → State.Inv.mem, → State.Inv.claims, → State.Inv.slots, → State.Inv.dusk, State.vamoo_inv]

theorem execVamooXor_inv {mk : Nat} {d : Nat} {b : Nat} {p : Nat} {s : State} {t_ : State} (s_i : s.Inv) (e_ : execVamooXor mk d b p s = .next t_) :
    t_.Inv := by
  unfold execVamooXor at e_
  grind -ring -linarith -lia -ac -order [inv_mk, → State.Inv.mem, → State.Inv.claims, → State.Inv.slots, → State.Inv.dusk, State.vamoo_inv]

theorem execVamooSwap_inv {mk : Nat} {d : Nat} {b : Nat} {p : Nat} {s : State} {t_ : State} (s_i : s.Inv) (e_ : execVamooSwap mk d b p s = .next t_) :
    t_.Inv := by
  unfold execVamooSwap at e_
  grind -ring -linarith -lia -ac -order [inv_mk, → State.Inv.mem, → State.Inv.claims, → State.Inv.slots, → State.Inv.dusk, State.vamoo_inv]

theorem State.amox_inv {s : State} {op : Nat} {d : Nat} {a : Nat} {w : Nat} {y : Nat} {t_ : State} (s_i : s.Inv) (e_ : State.amox s op d a w y = .next
    t_) : t_.Inv := by
  unfold State.amox at e_
  refine State.gate_inv s_i (fun s t s_i e_ => ?_) e_
  try dsimp only at e_
  grind -ring -linarith -lia -ac -order [inv_mk, → State.Inv.mem, → State.Inv.claims, → State.Inv.slots, → State.Inv.dusk, State.upd_inv,
      State.rmw_inv, State.halt_inv, State.gate_inv]

theorem execAmoxAdd_inv {d : Nat} {a : Nat} {w : Nat} {y : Nat} {s : State} {t_ : State} (s_i : s.Inv) (e_ : execAmoxAdd d a w y s = .next t_) :
    t_.Inv := by
  unfold execAmoxAdd at e_
  grind -ring -linarith -lia -ac -order [inv_mk, → State.Inv.mem, → State.Inv.claims, → State.Inv.slots, → State.Inv.dusk, State.amox_inv]

theorem execAmoxFadd_inv {d : Nat} {a : Nat} {w : Nat} {y : Nat} {s : State} {t_ : State} (s_i : s.Inv) (e_ : execAmoxFadd d a w y s = .next t_) :
    t_.Inv := by
  unfold execAmoxFadd at e_
  grind -ring -linarith -lia -ac -order [inv_mk, → State.Inv.mem, → State.Inv.claims, → State.Inv.slots, → State.Inv.dusk, State.amox_inv]

theorem execAmoxMin_inv {d : Nat} {a : Nat} {w : Nat} {y : Nat} {s : State} {t_ : State} (s_i : s.Inv) (e_ : execAmoxMin d a w y s = .next t_) :
    t_.Inv := by
  unfold execAmoxMin at e_
  grind -ring -linarith -lia -ac -order [inv_mk, → State.Inv.mem, → State.Inv.claims, → State.Inv.slots, → State.Inv.dusk, State.amox_inv]

theorem execAmoxMax_inv {d : Nat} {a : Nat} {w : Nat} {y : Nat} {s : State} {t_ : State} (s_i : s.Inv) (e_ : execAmoxMax d a w y s = .next t_) :
    t_.Inv := by
  unfold execAmoxMax at e_
  grind -ring -linarith -lia -ac -order [inv_mk, → State.Inv.mem, → State.Inv.claims, → State.Inv.slots, → State.Inv.dusk, State.amox_inv]

theorem execAmoxAnd_inv {d : Nat} {a : Nat} {w : Nat} {y : Nat} {s : State} {t_ : State} (s_i : s.Inv) (e_ : execAmoxAnd d a w y s = .next t_) :
    t_.Inv := by
  unfold execAmoxAnd at e_
  grind -ring -linarith -lia -ac -order [inv_mk, → State.Inv.mem, → State.Inv.claims, → State.Inv.slots, → State.Inv.dusk, State.amox_inv]

theorem execAmoxOr_inv {d : Nat} {a : Nat} {w : Nat} {y : Nat} {s : State} {t_ : State} (s_i : s.Inv) (e_ : execAmoxOr d a w y s = .next t_) : t_.Inv
    := by
  unfold execAmoxOr at e_
  grind -ring -linarith -lia -ac -order [inv_mk, → State.Inv.mem, → State.Inv.claims, → State.Inv.slots, → State.Inv.dusk, State.amox_inv]

theorem execAmoxXor_inv {d : Nat} {a : Nat} {w : Nat} {y : Nat} {s : State} {t_ : State} (s_i : s.Inv) (e_ : execAmoxXor d a w y s = .next t_) :
    t_.Inv := by
  unfold execAmoxXor at e_
  grind -ring -linarith -lia -ac -order [inv_mk, → State.Inv.mem, → State.Inv.claims, → State.Inv.slots, → State.Inv.dusk, State.amox_inv]

theorem execAmoxSwap_inv {d : Nat} {a : Nat} {w : Nat} {y : Nat} {s : State} {t_ : State} (s_i : s.Inv) (e_ : execAmoxSwap d a w y s = .next t_) :
    t_.Inv := by
  unfold execAmoxSwap at e_
  grind -ring -linarith -lia -ac -order [inv_mk, → State.Inv.mem, → State.Inv.claims, → State.Inv.slots, → State.Inv.dusk, State.amox_inv]

theorem execLdaq_inv {d : Nat} {a : Nat} {w : Nat} {_sc : Nat} {s : State} {t_ : State} (s_i : s.Inv) (e_ : execLdaq d a w _sc s = .next t_) : t_.Inv
    := by
  unfold execLdaq at e_
  grind -ring -linarith -lia -ac -order [inv_mk, → State.Inv.mem, → State.Inv.claims, → State.Inv.slots, → State.Inv.dusk, State.upd_inv,
      State.load_inv, State.halt_inv]

theorem execStrl_inv {d : Nat} {a : Nat} {w : Nat} {_sc : Nat} {s : State} {t_ : State} (s_i : s.Inv) (e_ : execStrl d a w _sc s = .next t_) : t_.Inv
    := by
  unfold execStrl at e_
  grind -ring -linarith -lia -ac -order [inv_mk, → State.Inv.mem, → State.Inv.claims, → State.Inv.slots, → State.Inv.dusk, State.writePhys_inv,
      State.drain_inv, State.dropRoutes_inv, State.putScratch_inv, State.note_inv, State.advance4_inv, State.halt_inv]

theorem State.fenced_inv {s : State} (s_i : s.Inv) : (State.fenced s).Inv := by
  unfold State.fenced
  grind -ring -linarith -lia -ac -order [inv_mk, → State.Inv.mem, → State.Inv.claims, → State.Inv.slots, → State.Inv.dusk, State.drain_inv]

theorem execFencev_inv {_sc : Nat} {s : State} {t_ : State} (s_i : s.Inv) (e_ : execFencev _sc s = .next t_) : t_.Inv := by
  unfold execFencev at e_
  grind -ring -linarith -lia -ac -order [inv_mk, → State.Inv.mem, → State.Inv.claims, → State.Inv.slots, → State.Inv.dusk, State.advance4_inv,
      State.halt_inv, State.fenced_inv]

theorem execFencel_inv {s : State} {t_ : State} (s_i : s.Inv) (e_ : execFencel s = .next t_) : t_.Inv := by
  unfold execFencel at e_
  grind -ring -linarith -lia -ac -order [inv_mk, → State.Inv.mem, → State.Inv.claims, → State.Inv.slots, → State.Inv.dusk, State.drain_inv,
      State.advance4_inv, State.halt_inv]

theorem State.updLaunch_inv {s : State} {i : Nat} {l : Nat} {f : Launch → Launch} (s_i : s.Inv) : (State.updLaunch s i l f).Inv := by
  unfold State.updLaunch
  grind -ring -linarith -lia -ac -order [inv_mk, → State.Inv.mem, → State.Inv.claims, → State.Inv.slots, → State.Inv.dusk, State.updJob_inv]

theorem State.checkColl_inv {s : State} {i : Nat} {l : Nat} (s_i : s.Inv) : (State.checkColl s i l).Inv := by
  unfold State.checkColl
  grind -ring -linarith -lia -ac -order [inv_mk, → State.Inv.mem, → State.Inv.claims, → State.Inv.slots, → State.Inv.dusk, State.post_inv]

theorem execFencevColl_inv {sc : Nat} {s : State} {t_ : State} (s_i : s.Inv) (e_ : execFencevColl sc s = .next t_) : t_.Inv := by
  unfold execFencevColl at e_
  refine State.gate_inv s_i (fun s t s_i e_ => ?_) e_
  try dsimp only at e_
  grind -ring -linarith -lia -ac -order [inv_mk, → State.Inv.mem, → State.Inv.claims, → State.Inv.slots, → State.Inv.dusk, State.upd_inv,
      State.halt_inv, State.gate_inv, State.fenced_inv, State.updLaunch_inv, State.checkColl_inv]

theorem State.applyPending_inv {s : State} {gang : List Nat} {q : PendingAtomic} (s_i : s.Inv) : (State.applyPending s gang q).1.Inv := by
  unfold State.applyPending
  grind -ring -linarith -lia -ac -order [inv_mk, → State.Inv.mem, → State.Inv.claims, → State.Inv.slots, → State.Inv.dusk, State.writePhys_inv,
      State.touch_inv]

theorem foldl_fst_inv {β γ : Type} {f : State × γ → β → State × γ} (hf : ∀ s b, s.1.Inv → (f s b).1.Inv) (l : List β)
    {s : State × γ} (h : s.1.Inv) : (l.foldl f s).1.Inv := by
  induction l generalizing s with
  | nil => exact h
  | cons b r ih => exact ih (hf _ _ h)

theorem State.applyAll_inv {s : State} {gang : List Nat} {qs : List PendingAtomic} (s_i : s.Inv) : (State.applyAll s gang qs).1.Inv := by
  unfold State.applyAll
  refine foldl_fst_inv (fun s b h => ?_) _ s_i
  exact State.applyPending_inv h

theorem State.leaveColl_inv {s : State} {hid : Nat} {fl : BitVec 5} {stop : Option Trap} (s_i : s.Inv) : (State.leaveColl s hid fl stop).Inv := by
  unfold State.leaveColl
  grind -ring -linarith -lia -ac -order [inv_mk, → State.Inv.mem, → State.Inv.claims, → State.Inv.slots, → State.Inv.dusk, State.upd_inv,
      State.on_inv, State.takeTrap_inv]

theorem State.drainHart_inv {gang : List Nat} {s : State} {h : Hart} (s_i : s.Inv) : (State.drainHart gang s h).Inv := by
  unfold State.drainHart
  grind -ring -linarith -lia -ac -order [inv_mk, → State.Inv.mem, → State.Inv.claims, → State.Inv.slots, → State.Inv.dusk, State.applyAll_inv,
      State.leaveColl_inv]

theorem State.collect_inv {s : State} {i : Nat} {l : Nat} (s_i : s.Inv) : (State.collect s i l).Inv := by
  unfold State.collect
  dsimp only
  refine State.updLaunch_inv (foldl_inv (fun s b h => ?_) _ s_i)
  grind -ring -linarith -lia -ac -order [State.drainHart_inv, State.applyAll_inv]

theorem execCollectiveDrain_inv {slot : Nat} {launch : Nat} {s : State} {t_ : State} (s_i : s.Inv) (e_ : execCollectiveDrain slot launch s = .next t_)
    : t_.Inv := by
  unfold execCollectiveDrain at e_
  grind -ring -linarith -lia -ac -order [inv_mk, → State.Inv.mem, → State.Inv.claims, → State.Inv.slots, → State.Inv.dusk, State.collect_inv]

theorem State.checkBar_inv {s : State} {i : Nat} {l : Nat} {k : Nat} (s_i : s.Inv) : (State.checkBar s i l k).Inv := by
  unfold State.checkBar
  grind -ring -linarith -lia -ac -order [inv_mk, → State.Inv.mem, → State.Inv.claims, → State.Inv.slots, → State.Inv.dusk, State.postAll_inv]

theorem execBar_inv {a : Nat} {s : State} {t_ : State} (s_i : s.Inv) (e_ : execBar a s = .next t_) : t_.Inv := by
  unfold execBar at e_
  refine State.gate_inv s_i (fun s t s_i e_ => ?_) e_
  try dsimp only at e_
  grind -ring -linarith -lia -ac -order [inv_mk, → State.Inv.mem, → State.Inv.claims, → State.Inv.slots, → State.Inv.dusk, State.upd_inv,
      State.halt_inv, State.gate_inv, State.updLaunch_inv, State.checkBar_inv]

theorem execBarrierRelease_inv {slot : Nat} {launch : Nat} {k : Nat} {s : State} {t_ : State} (s_i : s.Inv) (e_ : execBarrierRelease slot launch k s =
    .next t_) : t_.Inv := by
  unfold execBarrierRelease at e_
  grind -ring -linarith -lia -ac -order [inv_mk, → State.Inv.mem, → State.Inv.claims, → State.Inv.slots, → State.Inv.dusk, State.mapHarts_inv,
      State.updLaunch_inv]

end Sys2Proof.Machine
end

