-- ==== Sys2Proof/Laws/InvTile.lean ====
section
/-! SUPPORT. The invariant kept by the engine and the tile instructions: one lemma for each function that answers a state. -/

namespace Sys2Proof.Machine

set_option Elab.async false

theorem engineNext_inv {ok : Nat → Bool} {r : State × List Byte} {a : Nat} {t_ : State} {v_ : List Byte} (r_i : r.1.Inv) (e_ : engineNext ok r a = .ok
    (t_, v_)) : t_.Inv := by
  unfold engineNext at e_
  grind -ring -linarith -lia -ac -order [inv_mk, → State.Inv.mem, → State.Inv.claims, → State.Inv.slots, → State.Inv.dusk, State.note_inv]

theorem State.engineRead_inv {s : State} {ok : Nat → Bool} {a : Nat} {n : Nat} {t_ : State} {v_ : List Byte} (s_i : s.Inv) (e_ : State.engineRead s ok
    a n = .ok (t_, v_)) : t_.Inv := by
  exact foldlM_fst_inv (fun _ _ _ h e => engineNext_inv h e) _ (s := (s, [])) s_i e_

theorem enginePut_inv {s : State} {p : Nat × Byte × Target} {t_ : State} (s_i : s.Inv) (e_ : enginePut s p = .ok t_) : t_.Inv := by
  unfold enginePut at e_
  grind -ring -linarith -lia -ac -order [inv_mk, → State.Inv.mem, → State.Inv.claims, → State.Inv.slots, → State.Inv.dusk, State.putTarget_inv,
      State.note_inv]

theorem State.engineWrite_inv {s : State} {ok : Nat → Bool} {a : Nat} {bs : List Byte} {t_ : State} (s_i : s.Inv) (e_ : State.engineWrite s ok a bs =
    .ok t_) : t_.Inv := by
  unfold State.engineWrite at e_
  split at e_
  · nomatch e_
  · split at e_
    · cases e_; exact State.putScratch_inv s_i
    · exact foldlM_inv (fun _ _ _ h e => enginePut_inv h e) _ s_i e_

theorem State.readElem_inv {s : State} {e : BitVec 512} {i : Nat} {t_ : State} {v_ : Nat} (s_i : s.Inv) (e_ : State.readElem s e i = .ok (t_, v_)) :
    t_.Inv := by
  unfold State.readElem at e_
  grind -ring -linarith -lia -ac -order [inv_mk, → State.Inv.mem, → State.Inv.claims, → State.Inv.slots, → State.Inv.dusk, State.engineRead_inv]

theorem State.writeElem_inv {s : State} {e : BitVec 512} {i : Nat} {v : Nat} {t_ : State} (s_i : s.Inv) (e_ : State.writeElem s e i v = .ok t_) :
    t_.Inv := by
  unfold State.writeElem at e_
  grind -ring -linarith -lia -ac -order [inv_mk, → State.Inv.mem, → State.Inv.claims, → State.Inv.slots, → State.Inv.dusk, State.engineWrite_inv]

theorem runTld_inv {z0 : Nat} {z1 : State} {z2 : EngineOp} (z1_i : z1.Inv) : (runTld z0 z1 z2).1.Inv := by
  induction z0 generalizing z1 z2 with
  | zero => exact z1_i
  | succ n ih =>
    unfold runTld
    dsimp only
    split
    · exact z1_i
    split
    · exact z1_i
    split
    · exact z1_i
    · next h => exact ih (State.upd_inv (State.readElem_inv z1_i h))

theorem runTst_inv {z0 : Nat} {z1 : State} {z2 : EngineOp} (z1_i : z1.Inv) : (runTst z0 z1 z2).1.Inv := by
  induction z0 generalizing z1 z2 with
  | zero => unfold runTst; dsimp only; exact State.upd_inv z1_i
  | succ n ih =>
    unfold runTst
    dsimp only
    repeat' split
    all_goals try dsimp only
    all_goals first
      | exact z1_i
      | exact State.upd_inv z1_i
      | exact ih (State.writeElem_inv z1_i ‹_›)

theorem runBcopy_inv {d : Nat} {lines : List (Nat × Nat)} {s : State} {o : EngineOp} (s_i : s.Inv) : (runBcopy d lines s o).1.Inv := by
  induction lines generalizing s o with
  | nil => exact s_i
  | cons l r ih =>
    unfold runBcopy
    split
    · exact s_i
    · next h =>
      split
      · exact s_i
      · next h2 => exact ih (State.engineWrite_inv (State.engineRead_inv s_i h) h2)

theorem State.nextLine_inv {s : State} {o : EngineOp} {t_ : State} {v_ : EngineOp} (s_i : s.Inv) (e_ : State.nextLine s o = .ok (t_, v_)) : t_.Inv :=
    by
  unfold State.nextLine at e_
  grind -ring -linarith -lia -ac -order [inv_mk, → State.Inv.mem, → State.Inv.claims, → State.Inv.slots, → State.Inv.dusk, State.engineRead_inv]

theorem runBcopyStream_inv {z0 : Nat} {z1 : State} {z2 : EngineOp} (z1_i : z1.Inv) : (runBcopyStream z0 z1 z2).1.Inv := by
  induction z0 generalizing z1 z2 with
  | zero => exact z1_i
  | succ n ih =>
    unfold runBcopyStream
    dsimp only
    split
    · exact z1_i
    split
    · exact z1_i
    split
    · exact z1_i
    · next h =>
      have h1 := State.nextLine_inv z1_i h
      split
      · exact ih (State.upd_inv h1)
      · dsimp only
        exact State.upd_inv h1

theorem runQld_inv {z0 : Nat} {z1 : State} {z2 : EngineOp} (z1_i : z1.Inv) : (runQld z0 z1 z2).1.Inv := by
  induction z0 generalizing z1 z2 with
  | zero => exact z1_i
  | succ n ih =>
    unfold runQld
    split
    · exact z1_i
    split
    · exact ih (State.upd_inv z1_i)
    split
    · exact z1_i
    · next h => exact ih (State.upd_inv (State.engineRead_inv z1_i h))

theorem State.digestUnit_inv {s : State} {e : BitVec 512} {i : Nat} {t_ : State} {v_ : Nat} (s_i : s.Inv) (e_ : State.digestUnit s e i = .ok (t_, v_))
    : t_.Inv := by
  unfold State.digestUnit at e_
  grind -ring -linarith -lia -ac -order [inv_mk, → State.Inv.mem, → State.Inv.claims, → State.Inv.slots, → State.Inv.dusk, State.engineRead_inv,
      State.readElem_inv]

theorem runTdigest_inv {z0 : Nat} {z1 : State} {z2 : EngineOp} (z1_i : z1.Inv) : (runTdigest z0 z1 z2).1.Inv := by
  induction z0 generalizing z1 z2 with
  | zero => exact z1_i
  | succ n ih =>
    unfold runTdigest
    split
    · split
      · exact z1_i
      · next h => exact State.engineWrite_inv z1_i h
    · split
      · exact z1_i
      · next h => exact ih (State.digestUnit_inv z1_i h)

theorem runEngineOp_inv {s : State} {o : EngineOp} (s_i : s.Inv) : (runEngineOp s o).1.Inv := by
  unfold runEngineOp
  grind -ring -linarith -lia -ac -order [inv_mk, → State.Inv.mem, → State.Inv.claims, → State.Inv.slots, → State.Inv.dusk, runTld_inv, runTst_inv,
      runBcopy_inv, runBcopyStream_inv, runQld_inv, runTdigest_inv]

theorem runLines_inv {n : Nat} {s : State} {o : EngineOp} (s_i : s.Inv) : (runLines n s o).1.Inv := by
  unfold runLines
  grind -ring -linarith -lia -ac -order [inv_mk, → State.Inv.mem, → State.Inv.claims, → State.Inv.slots, → State.Inv.dusk, runBcopy_inv,
      runBcopyStream_inv]

theorem runTurn_inv {s : State} {o : EngineOp} (s_i : s.Inv) : (runTurn s o).1.Inv := by
  unfold runTurn
  dsimp only
  split
  · exact runLines_inv (s_i.of_eq rfl rfl rfl rfl)
  · exact runEngineOp_inv s_i

theorem runToSave_inv {run : State → EngineOp → State × EngineOp × EngineEnd} {s : State} {o : EngineOp} (run_h : ∀ (s : State) o, s.Inv → (run s
    o).1.Inv) (s_i : s.Inv) : (runToSave run s o).1.Inv := by
  unfold runToSave
  grind -ring -linarith -lia -ac -order [inv_mk, → State.Inv.mem, → State.Inv.claims, → State.Inv.slots, → State.Inv.dusk, runLines_inv]

theorem State.engineOrder_inv {run : State → EngineOp → State × EngineOp × EngineEnd} {z0 : State} {z1 : List EngineOp} {z2 : List EngineOp} (run_h :
    ∀ (s : State) o, s.Inv → (run s o).1.Inv) (z0_i : z0.Inv) : (State.engineOrder run z0 z1 z2).Inv := by
  induction z2 generalizing z0 z1 with
  | nil => exact State.upd_inv z0_i
  | cons o r ih =>
    have hq := run_h z0 o z0_i
    unfold State.engineOrder
    dsimp only
    split
    · exact State.upd_inv z0_i
    split
    · exact ih z0_i
    split
    · split
      · exact State.upd_inv hq
      · exact State.post_inv (State.upd_inv hq)
    · exact ih (ite_inv (State.post_inv (ite_inv hq (State.upd_inv hq))) (ite_inv hq (State.upd_inv hq)))
    · refine State.upd_inv (State.noteFault_inv ?_)
      split
      · exact hq
      · exact State.logRace_inv hq

theorem State.retryEngine_inv {s : State} (s_i : s.Inv) : (State.retryEngine s).Inv := by
  unfold State.retryEngine
  grind -ring -linarith -lia -ac -order [inv_mk, → State.Inv.mem, → State.Inv.claims, → State.Inv.slots, → State.Inv.dusk, State.upd_inv,
      State.post_inv]

theorem State.issueOp_inv {s : State} {o : EngineOp} (s_i : s.Inv) : (State.issueOp s o).Inv := by
  unfold State.issueOp
  grind -ring -linarith -lia -ac -order [inv_mk, → State.Inv.mem, → State.Inv.claims, → State.Inv.slots, → State.Inv.dusk, State.upd_inv,
      State.post_inv]

theorem execTidset_inv {_c : Bool} {t : Nat} {a : Nat} {s : State} {t_ : State} (s_i : s.Inv) (e_ : execTidset _c t a s = .next t_) : t_.Inv := by
  unfold execTidset at e_
  grind -ring -linarith -lia -ac -order [inv_mk, → State.Inv.mem, → State.Inv.claims, → State.Inv.slots, → State.Inv.dusk, State.upd_inv,
      State.loadBlock_inv, State.trapWith_inv, State.halt_inv]

theorem execTidget_inv {_c : Bool} {t : Nat} {a : Nat} {s : State} {t_ : State} (s_i : s.Inv) (e_ : execTidget _c t a s = .next t_) : t_.Inv := by
  unfold execTidget at e_
  grind -ring -linarith -lia -ac -order [inv_mk, → State.Inv.mem, → State.Inv.claims, → State.Inv.slots, → State.Inv.dusk, State.storeBlock_inv,
      State.advance_inv, State.halt_inv]

theorem execQset_inv {_c : Bool} {d : Nat} {a : Nat} {b : Nat} {s : State} {t_ : State} (s_i : s.Inv) (e_ : execQset _c d a b s = .next t_) : t_.Inv
    := by
  unfold execQset at e_
  grind -ring -linarith -lia -ac -order [inv_mk, → State.Inv.mem, → State.Inv.claims, → State.Inv.slots, → State.Inv.dusk, State.upd_inv,
      State.halt_inv]

theorem State.freed_inv {s : State} {n : Nat} (s_i : s.Inv) : (State.freed s n).Inv := by
  unfold State.freed
  grind -ring -linarith -lia -ac -order [inv_mk, → State.Inv.mem, → State.Inv.claims, → State.Inv.slots, → State.Inv.dusk, State.post_inv]

theorem execWset_inv {_c : Bool} {d : Nat} {a : Nat} {b : Nat} {s : State} {t_ : State} (s_i : s.Inv) (e_ : execWset _c d a b s = .next t_) : t_.Inv
    := by
  unfold execWset at e_
  refine State.gate_inv s_i (fun s t s_i e_ => ?_) e_
  try dsimp only at e_
  grind -ring -linarith -lia -ac -order [inv_mk, → State.Inv.mem, → State.Inv.claims, → State.Inv.slots, → State.Inv.dusk, State.stalled_inv,
      State.halt_inv, State.gate_inv, State.freed_inv]

theorem execTld_inv {_c : Bool} {t : Nat} {d : Nat} {a : Nat} {s : State} {t_ : State} (s_i : s.Inv) (e_ : execTld _c t d a s = .next t_) : t_.Inv :=
    by
  unfold execTld at e_
  refine State.gate_inv s_i (fun s t s_i e_ => ?_) e_
  try dsimp only at e_
  grind -ring -linarith -lia -ac -order [inv_mk, → State.Inv.mem, → State.Inv.claims, → State.Inv.slots, → State.Inv.dusk, State.advance_inv,
      State.gate_inv, State.issueOp_inv]

theorem execTst_inv {_c : Bool} {t : Nat} {d : Nat} {a : Nat} {s : State} {t_ : State} (s_i : s.Inv) (e_ : execTst _c t d a s = .next t_) : t_.Inv :=
    by
  unfold execTst at e_
  refine State.gate_inv s_i (fun s t s_i e_ => ?_) e_
  try dsimp only at e_
  grind -ring -linarith -lia -ac -order [inv_mk, → State.Inv.mem, → State.Inv.claims, → State.Inv.slots, → State.Inv.dusk, State.advance_inv,
      State.gate_inv, State.issueOp_inv]

theorem execBcopy_inv {_c : Bool} {g : Nat} {d : Nat} {a : Nat} {b : Nat} {s : State} {t_ : State} (s_i : s.Inv) (e_ : execBcopy _c g d a b s = .next
    t_) : t_.Inv := by
  unfold execBcopy at e_
  refine State.gate_inv s_i (fun s t s_i e_ => ?_) e_
  try dsimp only at e_
  grind -ring -linarith -lia -ac -order [inv_mk, → State.Inv.mem, → State.Inv.claims, → State.Inv.slots, → State.Inv.dusk, State.advance_inv,
      State.gate_inv, State.issueOp_inv]

theorem execQld_inv {_c : Bool} {t : Nat} {d : Nat} {a : Nat} {s : State} {t_ : State} (s_i : s.Inv) (e_ : execQld _c t d a s = .next t_) : t_.Inv :=
    by
  unfold execQld at e_
  refine State.gate_inv s_i (fun s t s_i e_ => ?_) e_
  try dsimp only at e_
  grind -ring -linarith -lia -ac -order [inv_mk, → State.Inv.mem, → State.Inv.claims, → State.Inv.slots, → State.Inv.dusk, State.advance_inv,
      State.gate_inv, State.issueOp_inv]

theorem execTdigest_inv {_c : Bool} {t : Nat} {a : Nat} {s : State} {t_ : State} (s_i : s.Inv) (e_ : execTdigest _c t a s = .next t_) : t_.Inv := by
  unfold execTdigest at e_
  refine State.gate_inv s_i (fun s t s_i e_ => ?_) e_
  try dsimp only at e_
  grind -ring -linarith -lia -ac -order [inv_mk, → State.Inv.mem, → State.Inv.claims, → State.Inv.slots, → State.Inv.dusk, State.advance_inv,
      State.gate_inv, State.issueOp_inv]

theorem State.opaStep_inv {s : State} {n : Nat} {mk : Nat} {a : Nat} {b : Nat} {fa : Nat} {fb : Nat} {t_ : State} (s_i : s.Inv) (e_ : State.opaStep s
    n mk a b fa fb = .ok t_) : t_.Inv := by
  unfold State.opaStep at e_
  grind -ring -linarith -lia -ac -order [inv_mk, → State.Inv.mem, → State.Inv.claims, → State.Inv.slots, → State.Inv.dusk, State.postAll_inv,
      State.trap_inv]

theorem execOpa_inv {_c : Bool} {mk : Nat} {d : Nat} {a : Nat} {b : Nat} {y : Nat} {x : Nat} {s : State} {t_ : State} (s_i : s.Inv) (e_ : execOpa _c
    mk d a b y x s = .next t_) : t_.Inv := by
  unfold execOpa at e_
  refine State.gate_inv s_i (fun s t s_i e_ => ?_) e_
  try dsimp only at e_
  grind -ring -linarith -lia -ac -order [inv_mk, → State.Inv.mem, → State.Inv.claims, → State.Inv.slots, → State.Inv.dusk, State.advance_inv,
      State.halt_inv, State.gate_inv, State.opaStep_inv]

theorem State.tmmSteps_inv {n : Nat} {q : Nat} {p : Nat} {z0 : Nat} {z1 : Nat} {z2 : State} (z2_i : z2.Inv) : (State.tmmSteps n q p z0 z1 z2).1.Inv :=
    by
  induction z0 generalizing z1 z2 with
  | zero => exact z2_i
  | succ n ih =>
    unfold State.tmmSteps
    split
    · exact z2_i
    · next h => exact ih (State.opaStep_inv z2_i h)

theorem execTmm_inv {_c : Bool} {d : Nat} {a : Nat} {q : Nat} {p : Nat} {s : State} {t_ : State} (s_i : s.Inv) (e_ : execTmm _c d a q p s = .next t_)
    : t_.Inv := by
  unfold execTmm at e_
  refine State.gate_inv s_i (fun s t s_i e_ => ?_) e_
  try dsimp only at e_
  grind -ring -linarith -lia -ac -order [inv_mk, → State.Inv.mem, → State.Inv.claims, → State.Inv.slots, → State.Inv.dusk, State.upd_inv,
      State.advance_inv, State.trap_inv, State.stalled_inv, State.gate_inv, State.tmmSteps_inv]

theorem execAclr_inv {_c : Bool} {d : Nat} {s : State} {t_ : State} (s_i : s.Inv) (e_ : execAclr _c d s = .next t_) : t_.Inv := by
  unfold execAclr at e_
  refine State.gate_inv s_i (fun s t s_i e_ => ?_) e_
  try dsimp only at e_
  grind -ring -linarith -lia -ac -order [inv_mk, → State.Inv.mem, → State.Inv.claims, → State.Inv.slots, → State.Inv.dusk, State.upd_inv,
      State.halt_inv, State.gate_inv]

theorem execArdv_inv {_c : Bool} {mk : Nat} {d : Nat} {a : Nat} {b : Nat} {s : State} {t_ : State} (s_i : s.Inv) (e_ : execArdv _c mk d a b s = .next
    t_) : t_.Inv := by
  unfold execArdv at e_
  refine State.gate_inv s_i (fun s t s_i e_ => ?_) e_
  try dsimp only at e_
  grind -ring -linarith -lia -ac -order [inv_mk, → State.Inv.mem, → State.Inv.claims, → State.Inv.slots, → State.Inv.dusk, State.gate_inv,
      State.elementwise_inv]

theorem execAwrv_inv {_c : Bool} {mk : Nat} {d : Nat} {a : Nat} {b : Nat} {s : State} {t_ : State} (s_i : s.Inv) (e_ : execAwrv _c mk d a b s = .next
    t_) : t_.Inv := by
  unfold execAwrv at e_
  refine State.gate_inv s_i (fun s t s_i e_ => ?_) e_
  try dsimp only at e_
  grind -ring -linarith -lia -ac -order [inv_mk, → State.Inv.mem, → State.Inv.claims, → State.Inv.slots, → State.Inv.dusk, State.upd_inv,
      State.halt_inv, State.gate_inv]

theorem execAsave_inv {_c : Bool} {d : Nat} {a : Nat} {s : State} {t_ : State} (s_i : s.Inv) (e_ : execAsave _c d a s = .next t_) : t_.Inv := by
  unfold execAsave at e_
  refine State.gate_inv s_i (fun s t s_i e_ => ?_) e_
  dsimp only at e_
  split at e_
  · exact State.halt_inv s_i e_
  split at e_
  · exact State.halt_inv s_i e_
  split at e_
  · exact State.halt_inv s_i e_
  · next h =>
    injection e_ with e_
    subst e_
    exact State.advance_inv (foldlM_inv (fun _ _ _ h e => State.putTarget_inv (State.note_inv h) e) _ s_i h)

theorem execArestore_inv {_c : Bool} {d : Nat} {a : Nat} {s : State} {t_ : State} (s_i : s.Inv) (e_ : execArestore _c d a s = .next t_) : t_.Inv := by
  unfold execArestore at e_
  refine State.gate_inv s_i (fun s t s_i e_ => ?_) e_
  dsimp only at e_
  split at e_
  · exact State.halt_inv s_i e_
  split at e_
  · exact State.halt_inv s_i e_
  split at e_
  · exact State.halt_inv s_i e_
  split at e_
  · exact State.halt_inv s_i e_
  · injection e_ with e_
    subst e_
    exact State.upd_inv (foldl_inv (fun _ _ h => State.note_inv h) _ s_i)

end Sys2Proof.Machine
end

