-- ==== Sys2Proof/Laws/InvWork.lean ====
section
/-! SUPPORT. The invariant kept by work, messages, contexts and tokens: one lemma for each function that answers a state. -/

namespace Sys2Proof.Machine

set_option Elab.async false

theorem State.addLaunch_inv {s : State} {i : Nat} {cl : Nat} {b : LaunchBlock} {graph : Option Nat} (s_i : s.Inv) : (State.addLaunch s i cl b
    graph).Inv := by
  unfold State.addLaunch
  grind -ring -linarith -lia -ac -order [inv_mk, → State.Inv.mem, → State.Inv.claims, → State.Inv.slots, → State.Inv.dusk, State.updJob_inv]

theorem execLaunch_inv {d : Nat} {a : Nat} {s : State} {t_ : State} (s_i : s.Inv) (e_ : execLaunch d a s = .next t_) : t_.Inv := by
  unfold execLaunch at e_
  refine State.gate_inv s_i (fun s t s_i e_ => ?_) e_
  try dsimp only at e_
  grind -ring -linarith -lia -ac -order [inv_mk, → State.Inv.mem, → State.Inv.claims, → State.Inv.slots, → State.Inv.dusk, State.upd_inv,
      State.checkReady_inv, State.drain_inv, State.loadBlock_inv, State.trap_inv, State.trapWith_inv, State.halt_inv, State.gate_inv,
      State.addLaunch_inv]

theorem State.readLaunch_inv {r : State × List Nat} {a : Nat} {t_ : State} {v_ : List Nat} (r_i : r.1.Inv) (e_ : State.readLaunch r a = .ok (t_, v_))
    : t_.Inv := by
  unfold State.readLaunch at e_
  grind -ring -linarith -lia -ac -order [inv_mk, → State.Inv.mem, → State.Inv.claims, → State.Inv.slots, → State.Inv.dusk, State.loadBlock_inv]

theorem State.addGraph_inv {s : State} {i : Nat} {cl : Nat} {extra : Nat} {waits : List Nat} {bs : List LaunchBlock} (s_i : s.Inv) : (State.addGraph s
    i cl extra waits bs).Inv := by
  unfold State.addGraph
  dsimp only
  refine State.checkReady_inv ?_
  have h1 : ∀ (u : State), u.Inv → (bs.foldl (fun (u : State) b => u.addLaunch i cl (resolveWaits (s.counts i).1 b) (some (s.counts i).2)) u).Inv :=
    fun u h => foldl_inv (fun _ _ h => State.addLaunch_inv h) bs h
  split
  · exact State.finish_inv (h1 _ (State.updJob_inv s_i))
  · exact h1 _ (State.updJob_inv s_i)

theorem execGraphrun_inv {d : Nat} {a : Nat} {s : State} {t_ : State} (s_i : s.Inv) (e_ : execGraphrun d a s = .next t_) : t_.Inv := by
  unfold execGraphrun at e_
  refine State.gate_inv s_i (fun s t s_i e_ => ?_) e_
  dsimp only at e_
  split at e_
  · exact State.halt_inv s_i e_
  split at e_
  · exact State.halt_inv s_i e_
  next h =>
  have h1 := State.loadBlock_inv s_i h
  split at e_
  · exact State.trap_inv s_i e_
  split at e_
  · exact State.halt_inv s_i e_
  next h2 =>
  have h3 := foldlM_fst_inv (fun _ _ _ h e => State.readLaunch_inv h e) _ (s := (_, [])) h1 h2
  split at e_
  · exact State.trap_inv s_i e_
  split at e_
  · exact State.trapWith_inv s_i e_
  split at e_
  · exact State.trapWith_inv s_i e_
  injection e_ with e_
  subst e_
  exact State.upd_inv (State.addGraph_inv (State.drain_inv h3))

theorem execCcadd_inv {a : Nat} {b : Nat} {s : State} {t_ : State} (s_i : s.Inv) (e_ : execCcadd a b s = .next t_) : t_.Inv := by
  unfold execCcadd at e_
  refine State.gate_inv s_i (fun s t s_i e_ => ?_) e_
  try dsimp only at e_
  grind -ring -linarith -lia -ac -order [inv_mk, → State.Inv.mem, → State.Inv.claims, → State.Inv.slots, → State.Inv.dusk, State.updJob_inv,
      State.underflow_inv, State.advance4_inv, State.gate_inv]

theorem execCcwait_inv {a : Nat} {s : State} {t_ : State} (s_i : s.Inv) (e_ : execCcwait a s = .next t_) : t_.Inv := by
  unfold execCcwait at e_
  refine State.gate_inv s_i (fun s t s_i e_ => ?_) e_
  try dsimp only at e_
  grind -ring -linarith -lia -ac -order [inv_mk, → State.Inv.mem, → State.Inv.claims, → State.Inv.slots, → State.Inv.dusk, State.upd_inv,
      State.advance4_inv, State.gate_inv]

theorem execCcread_inv {d : Nat} {a : Nat} {s : State} {t_ : State} (s_i : s.Inv) (e_ : execCcread d a s = .next t_) : t_.Inv := by
  unfold execCcread at e_
  refine State.gate_inv s_i (fun s t s_i e_ => ?_) e_
  try dsimp only at e_
  grind -ring -linarith -lia -ac -order [inv_mk, → State.Inv.mem, → State.Inv.claims, → State.Inv.slots, → State.Inv.dusk, State.upd_inv,
      State.gate_inv]

theorem State.cancelAt_inv {s : State} {i : Nat} {lvl : Nat} {idx : Nat} {why : Nat} (s_i : s.Inv) : (State.cancelAt s i lvl idx why).Inv := by
  unfold State.cancelAt
  grind -ring -linarith -lia -ac -order [inv_mk, → State.Inv.mem, → State.Inv.claims, → State.Inv.slots, → State.Inv.dusk, State.post_inv,
      State.cancel_inv]

theorem execCancel_inv {a : Nat} {l : Nat} {s : State} {t_ : State} (s_i : s.Inv) (e_ : execCancel a l s = .next t_) : t_.Inv := by
  unfold execCancel at e_
  refine State.gate_inv s_i (fun s t s_i e_ => ?_) e_
  try dsimp only at e_
  grind -ring -linarith -lia -ac -order [inv_mk, → State.Inv.mem, → State.Inv.claims, → State.Inv.slots, → State.Inv.dusk, State.advance4_inv,
      State.gate_inv, State.cancelAt_inv]

theorem execYield_inv {s : State} {t_ : State} (s_i : s.Inv) (e_ : execYield s = .next t_) : t_.Inv := by
  unfold execYield at e_
  refine State.gate_inv s_i (fun s t s_i e_ => ?_) e_
  try dsimp only at e_
  grind -ring -linarith -lia -ac -order [inv_mk, → State.Inv.mem, → State.Inv.claims, → State.Inv.slots, → State.Inv.dusk, State.upd_inv,
      State.gate_inv]

theorem execHalt_inv {s : State} {t_ : State} (s_i : s.Inv) (e_ : execHalt s = .next t_) : t_.Inv := by
  unfold execHalt at e_
  refine State.gate_inv s_i (fun s t s_i e_ => ?_) e_
  try dsimp only at e_
  grind -ring -linarith -lia -ac -order [inv_mk, → State.Inv.mem, → State.Inv.claims, → State.Inv.slots, → State.Inv.dusk, State.upd_inv,
      State.post_inv, State.drain_inv, State.dropLinks_inv, State.halt_inv, State.gate_inv]

theorem State.retireRows_inv {s : State} {h : Hart} (s_i : s.Inv) : (State.retireRows s h).Inv := by
  unfold State.retireRows
  grind -ring -linarith -lia -ac -order [inv_mk, → State.Inv.mem, → State.Inv.claims, → State.Inv.slots, → State.Inv.dusk, State.setCore_inv]

theorem State.remove_inv {s : State} {hid : Nat} (s_i : s.Inv) : (State.remove s hid).Inv := by
  unfold State.remove
  grind -ring -linarith -lia -ac -order [inv_mk, → State.Inv.mem, → State.Inv.claims, → State.Inv.slots, → State.Inv.dusk]

theorem State.checkBars_inv {s : State} {i : Nat} {l : Nat} (s_i : s.Inv) : (State.checkBars s i l).Inv := by
  exact foldl_inv (fun _ _ h => State.checkBar_inv h) _ s_i

theorem State.loseReport_inv {s : State} {h : Hart} {r : Report} (s_i : s.Inv) : (State.loseReport s h r).Inv := by
  unfold State.loseReport
  grind -ring -linarith -lia -ac -order [inv_mk, → State.Inv.mem, → State.Inv.claims, → State.Inv.slots, → State.Inv.dusk, State.log_inv]

theorem State.haltDone_inv {s : State} {h : Hart} (s_i : s.Inv) : (State.haltDone s h).Inv := by
  unfold State.haltDone
  dsimp only
  refine State.closeJob_inv (State.countDown_inv (State.checkBars_inv ?_))
  have h2 := foldl_inv (f := fun (u : State) r => u.loseReport h r) (fun _ _ h => State.loseReport_inv h) h.held
    (State.remove_inv (hid := h.hid) (State.retireRows_inv (h := h) (State.updLaunch_inv (i := h.slot) (l := h.launchid) (f := fun l =>
    { l with halted := l.halted + 1, pend := if h.pending.isEmpty then l.pend else mapSet [] l.pend h.lcore h.pending }) s_i)))
  split
  · exact h2
  · exact ite_inv (State.collect_inv h2) h2

theorem execHaltComplete_inv {hid : Nat} {s : State} {t_ : State} (s_i : s.Inv) (e_ : execHaltComplete hid s = .next t_) : t_.Inv := by
  unfold execHaltComplete at e_
  grind -ring -linarith -lia -ac -order [inv_mk, → State.Inv.mem, → State.Inv.claims, → State.Inv.slots, → State.Inv.dusk, State.haltDone_inv]

theorem execTtstart_inv {a : Nat} {s : State} {t_ : State} (s_i : s.Inv) (e_ : execTtstart a s = .next t_) : t_.Inv := by
  unfold execTtstart at e_
  refine State.gate_inv s_i (fun s t s_i e_ => ?_) e_
  try dsimp only at e_
  grind -ring -linarith -lia -ac -order [inv_mk, → State.Inv.mem, → State.Inv.claims, → State.Inv.slots, → State.Inv.dusk, State.upd_inv,
      State.setCluster_inv, State.post_inv, State.loadBlock_inv, State.trapWith_inv, State.halt_inv, State.gate_inv]

theorem State.deviate_inv {s : State} {kind : Nat} {cycle : Nat} {t_ : State} (s_i : s.Inv) (e_ : State.deviate s kind cycle = .next t_) : t_.Inv :=
    by
  unfold State.deviate at e_
  grind -ring -linarith -lia -ac -order [inv_mk, → State.Inv.mem, → State.Inv.claims, → State.Inv.slots, → State.Inv.dusk, State.abandon_inv,
      State.trap_inv]

theorem State.atBoundary_inv {s : State} (s_i : s.Inv) : (State.atBoundary s).Inv := by
  unfold State.atBoundary
  grind -ring -linarith -lia -ac -order [inv_mk, → State.Inv.mem, → State.Inv.claims, → State.Inv.slots, → State.Inv.dusk, State.setCore_inv,
      State.post_inv, State.postAll_inv]

theorem State.arrive_inv {s : State} {t : TimePos} (s_i : s.Inv) : (State.arrive s t).Inv := by
  unfold State.arrive
  grind -ring -linarith -lia -ac -order [inv_mk, → State.Inv.mem, → State.Inv.claims, → State.Inv.slots, → State.Inv.dusk, State.upd_inv,
      State.mapHarts_inv, State.setCluster_inv, State.post_inv]

theorem execTtsync_inv {s : State} {t_ : State} (s_i : s.Inv) (e_ : execTtsync s = .next t_) : t_.Inv := by
  unfold execTtsync at e_
  refine State.gate_inv s_i (fun s t s_i e_ => ?_) e_
  try dsimp only at e_
  grind -ring -linarith -lia -ac -order [inv_mk, → State.Inv.mem, → State.Inv.claims, → State.Inv.slots, → State.Inv.dusk, State.upd_inv,
      State.advance4_inv, State.takeAsync_inv, State.halt_inv, State.gate_inv, State.deviate_inv, State.atBoundary_inv, State.arrive_inv]

theorem execDaybreakPulse_inv {cl : Nat} {s : State} {t_ : State} (s_i : s.Inv) (e_ : execDaybreakPulse cl s = .next t_) : t_.Inv := by
  unfold execDaybreakPulse at e_
  grind -ring -linarith -lia -ac -order [inv_mk, → State.Inv.mem, → State.Inv.claims, → State.Inv.slots, → State.Inv.dusk, State.mapHarts_inv,
      State.setCluster_inv]

theorem State.holdRoute_inv {s : State} {key : Nat} {bs : List Byte} (s_i : s.Inv) : (State.holdRoute s key bs).Inv := by
  unfold State.holdRoute
  grind -ring -linarith -lia -ac -order [inv_mk, → State.Inv.mem, → State.Inv.claims, → State.Inv.slots, → State.Inv.dusk]

theorem State.readRoute_inv {s : State} {a : Nat} {t_ : State} {v_ : Nat} (s_i : s.Inv) (e_ : State.readRoute s a = .ok (t_, v_)) : t_.Inv := by
  unfold State.readRoute at e_
  grind -ring -linarith -lia -ac -order [inv_mk, → State.Inv.mem, → State.Inv.claims, → State.Inv.slots, → State.Inv.dusk, State.loadBlock_inv,
      State.trap_inv, State.holdRoute_inv]

theorem execMchk_inv {d : Nat} {a : Nat} {s : State} {t_ : State} (s_i : s.Inv) (e_ : execMchk d a s = .next t_) : t_.Inv := by
  unfold execMchk at e_
  refine State.gate_inv s_i (fun s t s_i e_ => ?_) e_
  try dsimp only at e_
  grind -ring -linarith -lia -ac -order [inv_mk, → State.Inv.mem, → State.Inv.claims, → State.Inv.slots, → State.Inv.dusk, State.upd_inv,
      State.halt_inv, State.gate_inv, State.readRoute_inv]

theorem State.send_inv {s : State} {p : Packet} (s_i : s.Inv) : (State.send s p).Inv := by
  unfold State.send
  grind -ring -linarith -lia -ac -order [inv_mk, → State.Inv.mem, → State.Inv.claims, → State.Inv.slots, → State.Inv.dusk, State.post_inv]

theorem State.resend_inv {s : State} {p : Packet} (s_i : s.Inv) : (State.resend s p).Inv := by
  unfold State.resend
  grind -ring -linarith -lia -ac -order [inv_mk, → State.Inv.mem, → State.Inv.claims, → State.Inv.slots, → State.Inv.dusk]

theorem State.inject_inv {s : State} {p : Packet} {slot : Nat} {mid : Nat} (s_i : s.Inv) : (State.inject s p slot mid).Inv := by
  unfold State.inject
  grind -ring -linarith -lia -ac -order [inv_mk, → State.Inv.mem, → State.Inv.claims, → State.Inv.slots, → State.Inv.dusk, State.send_inv]

theorem State.depart_inv {s : State} {p : Packet} (s_i : s.Inv) : (State.depart s p).Inv := by
  unfold State.depart
  grind -ring -linarith -lia -ac -order [inv_mk, → State.Inv.mem, → State.Inv.claims, → State.Inv.slots, → State.Inv.dusk]

theorem State.messageRoute_inv {s : State} {d : Nat} {t_ : State} {v_ : Nat} (s_i : s.Inv) (e_ : State.messageRoute s d = .ok (t_, v_)) : t_.Inv := by
  unfold State.messageRoute at e_
  grind -ring -linarith -lia -ac -order [inv_mk, → State.Inv.mem, → State.Inv.claims, → State.Inv.slots, → State.Inv.dusk, State.trap_inv,
      State.readRoute_inv]

theorem State.awaitRoom_inv {s : State} {t_ : State} (s_i : s.Inv) (e_ : State.awaitRoom s = .next t_) : t_.Inv := by
  unfold State.awaitRoom at e_
  grind -ring -linarith -lia -ac -order [inv_mk, → State.Inv.mem, → State.Inv.claims, → State.Inv.slots, → State.Inv.dusk, State.upd_inv]

theorem State.addMessage_inv {s : State} {m : Message} (s_i : s.Inv) : (State.addMessage s m).Inv := by
  unfold State.addMessage
  grind -ring -linarith -lia -ac -order [inv_mk, → State.Inv.mem, → State.Inv.claims, → State.Inv.slots, → State.Inv.dusk]

theorem State.updMessage_inv {s : State} {mid : Nat} {f : Message → Message} (s_i : s.Inv) : (State.updMessage s mid f).Inv := by
  unfold State.updMessage
  grind -ring -linarith -lia -ac -order [inv_mk, → State.Inv.mem, → State.Inv.claims, → State.Inv.slots, → State.Inv.dusk]

theorem State.settle_inv {s : State} {mid : Nat} (s_i : s.Inv) : (State.settle s mid).Inv := by
  unfold State.settle
  grind -ring -linarith -lia -ac -order [inv_mk, → State.Inv.mem, → State.Inv.claims, → State.Inv.slots, → State.Inv.dusk, State.updHart_inv,
      State.countDown_inv]

theorem execMput_inv {d : Nat} {a : Nat} {b : Nat} {s : State} {t_ : State} (s_i : s.Inv) (e_ : execMput d a b s = .next t_) : t_.Inv := by
  unfold execMput at e_
  refine State.gate_inv s_i (fun s t s_i e_ => ?_) e_
  dsimp only at e_
  split at e_
  · exact State.awaitRoom_inv s_i e_
  split at e_
  · exact State.halt_inv s_i e_
  next h =>
  split at e_
  · exact State.halt_inv s_i e_
  next h2 =>
  split at e_
  · exact State.trap_inv s_i e_
  injection e_ with e_
  subst e_
  exact State.advance4_inv (State.post_inv (State.upd_inv (State.addMessage_inv (State.drain_inv (State.loadBlock_inv (State.messageRoute_inv s_i h) h2)))))

theorem State.translatePart_inv {r : State × List (Nat × Nat)} {q : Nat × Nat} {t_ : State} {v_ : List (Nat × Nat)} (r_i : r.1.Inv) (e_ :
    State.translatePart r q = .ok (t_, v_)) : t_.Inv := by
  unfold State.translatePart at e_
  grind -ring -linarith -lia -ac -order [inv_mk, → State.Inv.mem, → State.Inv.claims, → State.Inv.slots, → State.Inv.dusk, State.note_inv,
      State.trap_inv]

theorem execMget_inv {d : Nat} {a : Nat} {b : Nat} {s : State} {t_ : State} (s_i : s.Inv) (e_ : execMget d a b s = .next t_) : t_.Inv := by
  unfold execMget at e_
  refine State.gate_inv s_i (fun s t s_i e_ => ?_) e_
  dsimp only at e_
  split at e_
  · exact State.awaitRoom_inv s_i e_
  split at e_
  · exact State.halt_inv s_i e_
  next h =>
  split at e_
  · exact State.halt_inv s_i e_
  next h2 =>
  split at e_
  · exact State.trap_inv s_i e_
  split at e_
  · exact State.trap_inv s_i e_
  split at e_
  · exact State.halt_inv s_i e_
  next h3 =>
  injection e_ with e_
  subst e_
  have h4 := foldlM_fst_inv (fun _ _ _ h e => State.translatePart_inv h e) _ (s := (_, [])) (State.loadBlock_inv (State.messageRoute_inv s_i h) h2) h3
  exact State.advance4_inv (State.upd_inv (State.inject_inv (State.addMessage_inv (State.drain_inv h4))))

theorem execMsig_inv {d : Nat} {a : Nat} {b : Nat} {s : State} {t_ : State} (s_i : s.Inv) (e_ : execMsig d a b s = .next t_) : t_.Inv := by
  unfold execMsig at e_
  refine State.gate_inv s_i (fun s t s_i e_ => ?_) e_
  try dsimp only at e_
  grind -ring -linarith -lia -ac -order [inv_mk, → State.Inv.mem, → State.Inv.claims, → State.Inv.slots, → State.Inv.dusk, State.upd_inv,
      State.drain_inv, State.advance4_inv, State.trap_inv, State.stalled_inv, State.halt_inv, State.gate_inv, State.inject_inv,
      State.messageRoute_inv, State.awaitRoom_inv, State.addMessage_inv]

theorem State.receiveAll_inv {s : State} (s_i : s.Inv) : (State.receiveAll s).Inv := by
  unfold State.receiveAll
  grind -ring -linarith -lia -ac -order [inv_mk, → State.Inv.mem, → State.Inv.claims, → State.Inv.slots, → State.Inv.dusk, State.mapHarts_inv]

theorem State.report_inv {s : State} {hid : Nat} {r : Report} {cl : Nat} {launch : Nat} {lcore : Nat} (s_i : s.Inv) : (State.report s hid r cl launch
    lcore).Inv := by
  unfold State.report
  grind -ring -linarith -lia -ac -order [inv_mk, → State.Inv.mem, → State.Inv.claims, → State.Inv.slots, → State.Inv.dusk, State.updHart_inv,
      State.loseReport_inv]

theorem State.reportAlone_inv {s : State} {hid : Nat} {r : Report} (s_i : s.Inv) : (State.reportAlone s hid r).Inv := by
  unfold State.reportAlone
  grind -ring -linarith -lia -ac -order [inv_mk, → State.Inv.mem, → State.Inv.claims, → State.Inv.slots, → State.Inv.dusk, State.report_inv]

theorem State.failPacket_inv {s : State} {mid : Nat} {hid : Nat} {r : Report} (s_i : s.Inv) : (State.failPacket s mid hid r).Inv := by
  unfold State.failPacket
  grind -ring -linarith -lia -ac -order [inv_mk, → State.Inv.mem, → State.Inv.claims, → State.Inv.slots, → State.Inv.dusk, State.updMessage_inv,
      State.settle_inv, State.report_inv, State.reportAlone_inv]

theorem execReportArrival_inv {hid : Nat} {r : Report} {s : State} {t_ : State} (s_i : s.Inv) (e_ : execReportArrival hid r s = .next t_) : t_.Inv :=
    by
  unfold execReportArrival at e_
  grind -ring -linarith -lia -ac -order [inv_mk, → State.Inv.mem, → State.Inv.claims, → State.Inv.slots, → State.Inv.dusk, State.reportAlone_inv,
      State.failPacket_inv]

theorem runMput_inv {z0 : Nat} {z1 : State} {z2 : EngineOp} (z1_i : z1.Inv) : (runMput z0 z1 z2).1.Inv := by
  induction z0 generalizing z1 z2 with
  | zero => unfold runMput; exact State.settle_inv (State.updMessage_inv z1_i)
  | succ n ih =>
    have fin : ∀ (u : State) o, u.Inv → (runMput 0 u o).1.Inv := by
      intro u o h
      unfold runMput
      exact State.settle_inv (State.updMessage_inv h)
    rw [runMput.eq_2]
    split
    · exact z1_i
    · dsimp only
      split
      · exact fin _ _ z1_i
      · split
        · split
          · exact z1_i
          · exact fin _ _ (ite_inv (State.updMessage_inv z1_i) (State.report_inv (State.updMessage_inv z1_i)))
        · exact z1_i
        · next h => exact ih (State.inject_inv (State.updMessage_inv (State.engineRead_inv z1_i h)))

theorem runAnyOp_inv {s : State} {o : EngineOp} (s_i : s.Inv) : (runAnyOp s o).1.Inv := by
  unfold runAnyOp
  grind -ring -linarith -lia -ac -order [inv_mk, → State.Inv.mem, → State.Inv.claims, → State.Inv.slots, → State.Inv.dusk, runTurn_inv, runMput_inv]

theorem runWhole_inv {s : State} {o : EngineOp} (s_i : s.Inv) : (runWhole s o).1.Inv := by
  unfold runWhole
  grind -ring -linarith -lia -ac -order [inv_mk, → State.Inv.mem, → State.Inv.claims, → State.Inv.slots, → State.Inv.dusk, runEngineOp_inv,
      runMput_inv]

theorem State.engineTurn_inv {s : State} (s_i : s.Inv) : (State.engineTurn s).Inv := by
  unfold State.engineTurn
  grind -ring -linarith -lia -ac -order [inv_mk, → State.Inv.mem, → State.Inv.claims, → State.Inv.slots, → State.Inv.dusk, State.engineOrder_inv,
      runAnyOp_inv]

theorem execCopyEngineOperation_inv {hid : Nat} {s : State} {t_ : State} (s_i : s.Inv) (e_ : execCopyEngineOperation hid s = .next t_) : t_.Inv := by
  unfold execCopyEngineOperation at e_
  grind -ring -linarith -lia -ac -order [inv_mk, → State.Inv.mem, → State.Inv.claims, → State.Inv.slots, → State.Inv.dusk, State.on_inv,
      State.engineTurn_inv]

theorem execFeedQueueFillResume_inv {hid : Nat} {fq : Nat} {s : State} {t_ : State} (s_i : s.Inv) (e_ : execFeedQueueFillResume hid fq s = .next t_) :
    t_.Inv := by
  unfold execFeedQueueFillResume at e_
  grind -ring -linarith -lia -ac -order [inv_mk, → State.Inv.mem, → State.Inv.claims, → State.Inv.slots, → State.Inv.dusk, State.on_inv,
      State.engineTurn_inv]

theorem State.acknowledge_inv {s : State} {p : Packet} {excess : Nat} (s_i : s.Inv) : (State.acknowledge s p excess).Inv := by
  unfold State.acknowledge
  grind -ring -linarith -lia -ac -order [inv_mk, → State.Inv.mem, → State.Inv.claims, → State.Inv.slots, → State.Inv.dusk, State.send_inv]

theorem State.sendReport_inv {s : State} {p : Packet} {r : Report} (s_i : s.Inv) : (State.sendReport s p r).Inv := by
  unfold State.sendReport
  grind -ring -linarith -lia -ac -order [inv_mk, → State.Inv.mem, → State.Inv.claims, → State.Inv.slots, → State.Inv.dusk, State.post_inv,
      State.report_inv]

theorem State.refuse_inv {s : State} {p : Packet} {why : Nat} (s_i : s.Inv) : (State.refuse s p why).Inv := by
  unfold State.refuse
  grind -ring -linarith -lia -ac -order [inv_mk, → State.Inv.mem, → State.Inv.claims, → State.Inv.slots, → State.Inv.dusk, State.sendReport_inv]

theorem State.acceptSeq_inv {s : State} {p : Packet} (s_i : s.Inv) : (State.acceptSeq s p).Inv := by
  unfold State.acceptSeq
  grind -ring -linarith -lia -ac -order [inv_mk, → State.Inv.mem, → State.Inv.claims, → State.Inv.slots, → State.Inv.dusk]

theorem State.acknowledgeWith_inv {s : State} {p : Packet} {excess : Nat} (s_i : s.Inv) : (State.acknowledgeWith s p excess).Inv := by
  unfold State.acknowledgeWith
  grind -ring -linarith -lia -ac -order [inv_mk, → State.Inv.mem, → State.Inv.claims, → State.Inv.slots, → State.Inv.dusk, State.acknowledge_inv]

theorem State.acknowledgeAgain_inv {s : State} {p : Packet} (s_i : s.Inv) : (State.acknowledgeAgain s p).Inv := by
  unfold State.acknowledgeAgain
  grind -ring -linarith -lia -ac -order [inv_mk, → State.Inv.mem, → State.Inv.claims, → State.Inv.slots, → State.Inv.dusk, State.acknowledge_inv]

theorem State.noteRange_inv {s : State} {i : Nat} {va : Nat} {pas : List Nat} (s_i : s.Inv) : (State.noteRange s i va pas).Inv := by
  unfold State.noteRange
  refine State.fillIn_inv (State.touch_inv (foldl_inv (fun s q h => ?_) _ s_i))
  split
  · exact h
  · exact foldl_inv (fun _ _ h => State.setHome_inv h) _ h

theorem State.waitPacket_inv {s : State} {p : Packet} (s_i : s.Inv) : (State.waitPacket s p).Inv := by
  unfold State.waitPacket
  grind -ring -linarith -lia -ac -order [inv_mk, → State.Inv.mem, → State.Inv.claims, → State.Inv.slots, → State.Inv.dusk]

theorem State.putDone_inv {s : State} {p : Packet} (s_i : s.Inv) : (State.putDone s p).1.Inv := by
  unfold State.putDone
  grind -ring -linarith -lia -ac -order [inv_mk, → State.Inv.mem, → State.Inv.claims, → State.Inv.slots, → State.Inv.dusk]

theorem State.put_inv {s : State} {p : Packet} (s_i : s.Inv) : (State.put s p).Inv := by
  unfold State.put
  grind -ring -linarith -lia -ac -order [inv_mk, → State.Inv.mem, → State.Inv.claims, → State.Inv.slots, → State.Inv.dusk, State.writeMem_inv,
      State.countExcess_inv, State.acknowledge_inv, State.refuse_inv, State.acceptSeq_inv, State.acknowledgeWith_inv, State.acknowledgeAgain_inv,
      State.noteRange_inv, State.waitPacket_inv, State.putDone_inv]

theorem State.reply_inv {p : Packet} {slot : Nat} {s : State} {q : Nat × List Byte} (s_i : s.Inv) : (State.reply p slot s q).Inv := by
  unfold State.reply
  grind -ring -linarith -lia -ac -order [inv_mk, → State.Inv.mem, → State.Inv.claims, → State.Inv.slots, → State.Inv.dusk, State.inject_inv]

theorem State.get_inv {s : State} {p : Packet} (s_i : s.Inv) : (State.get s p).Inv := by
  unfold State.get
  dsimp only
  repeat' split
  all_goals first
    | exact s_i
    | exact State.acknowledge_inv s_i
    | exact State.refuse_inv s_i
    | exact State.waitPacket_inv s_i
    | exact foldl_inv (fun _ _ h => State.reply_inv h) _ (State.acknowledge_inv (State.acceptSeq_inv (State.noteRange_inv s_i)))

theorem State.reply3_inv {s : State} {p : Packet} (s_i : s.Inv) : (State.reply3 s p).Inv := by
  unfold State.reply3
  grind -ring -linarith -lia -ac -order [inv_mk, → State.Inv.mem, → State.Inv.claims, → State.Inv.slots, → State.Inv.dusk, State.writeMem_inv,
      State.touch_inv, State.updMessage_inv, State.settle_inv, State.acknowledge_inv, State.acceptSeq_inv, State.acknowledgeAgain_inv,
      State.waitPacket_inv]

theorem State.signal_inv {s : State} {p : Packet} (s_i : s.Inv) : (State.signal s p).Inv := by
  unfold State.signal
  grind -ring -linarith -lia -ac -order [inv_mk, → State.Inv.mem, → State.Inv.claims, → State.Inv.slots, → State.Inv.dusk, State.countExcess_inv,
      State.refuse_inv, State.acceptSeq_inv, State.acknowledgeWith_inv, State.acknowledgeAgain_inv, State.waitPacket_inv]

theorem State.endpoint_inv {s : State} {p : Packet} (s_i : s.Inv) : (State.endpoint s p).Inv := by
  unfold State.endpoint
  grind -ring -linarith -lia -ac -order [inv_mk, → State.Inv.mem, → State.Inv.claims, → State.Inv.slots, → State.Inv.dusk, State.put_inv,
      State.get_inv, State.reply3_inv, State.signal_inv]

theorem State.replyFailed_inv {s : State} {p : Packet} {r : Report} (s_i : s.Inv) : (State.replyFailed s p r).Inv := by
  unfold State.replyFailed
  grind -ring -linarith -lia -ac -order [inv_mk, → State.Inv.mem, → State.Inv.claims, → State.Inv.slots, → State.Inv.dusk, State.report_inv,
      State.failPacket_inv]

theorem State.hopRefused_inv {s : State} {p : Packet} {rtype : Nat} {why : Nat} (s_i : s.Inv) : (State.hopRefused s p rtype why).Inv := by
  unfold State.hopRefused
  grind -ring -linarith -lia -ac -order [inv_mk, → State.Inv.mem, → State.Inv.claims, → State.Inv.slots, → State.Inv.dusk, State.post_inv,
      State.replyFailed_inv]

theorem State.switchHop_inv {s : State} {p : Packet} {a : SwitchPort} (s_i : s.Inv) : (State.switchHop s p a).Inv := by
  unfold State.switchHop
  grind -ring -linarith -lia -ac -order [inv_mk, → State.Inv.mem, → State.Inv.claims, → State.Inv.slots, → State.Inv.dusk, State.depart_inv,
      State.hopRefused_inv]

theorem State.atSwitch_inv {s : State} {p : Packet} {k : Nat} (s_i : s.Inv) : (State.atSwitch s p k).Inv := by
  unfold State.atSwitch
  grind -ring -linarith -lia -ac -order [inv_mk, → State.Inv.mem, → State.Inv.claims, → State.Inv.slots, → State.Inv.dusk, State.depart_inv,
      State.switchHop_inv]

theorem State.forward_inv {s : State} {p : Packet} (s_i : s.Inv) : (State.forward s p).Inv := by
  unfold State.forward
  grind -ring -linarith -lia -ac -order [inv_mk, → State.Inv.mem, → State.Inv.claims, → State.Inv.slots, → State.Inv.dusk, State.resend_inv]

theorem execPacketHop_inv {p : Packet} {s : State} {t_ : State} (s_i : s.Inv) (e_ : execPacketHop p s = .next t_) : t_.Inv := by
  unfold execPacketHop at e_
  grind -ring -linarith -lia -ac -order [inv_mk, → State.Inv.mem, → State.Inv.claims, → State.Inv.slots, → State.Inv.dusk, State.post_inv,
      State.hopRefused_inv, State.atSwitch_inv, State.forward_inv]

theorem State.arriveAt_inv {s : State} {p : Packet} (s_i : s.Inv) : (State.arriveAt s p).Inv := by
  unfold State.arriveAt
  grind -ring -linarith -lia -ac -order [inv_mk, → State.Inv.mem, → State.Inv.claims, → State.Inv.slots, → State.Inv.dusk, State.sendReport_inv,
      State.waitPacket_inv, State.endpoint_inv]

theorem execPutPacket_inv {p : Packet} {s : State} {t_ : State} (s_i : s.Inv) (e_ : execPutPacket p s = .next t_) : t_.Inv := by
  unfold execPutPacket at e_
  grind -ring -linarith -lia -ac -order [inv_mk, → State.Inv.mem, → State.Inv.claims, → State.Inv.slots, → State.Inv.dusk, State.arriveAt_inv]

theorem execGetRequest_inv {p : Packet} {s : State} {t_ : State} (s_i : s.Inv) (e_ : execGetRequest p s = .next t_) : t_.Inv := by
  unfold execGetRequest at e_
  grind -ring -linarith -lia -ac -order [inv_mk, → State.Inv.mem, → State.Inv.claims, → State.Inv.slots, → State.Inv.dusk, State.arriveAt_inv]

theorem execGetReply_inv {p : Packet} {s : State} {t_ : State} (s_i : s.Inv) (e_ : execGetReply p s = .next t_) : t_.Inv := by
  unfold execGetReply at e_
  grind -ring -linarith -lia -ac -order [inv_mk, → State.Inv.mem, → State.Inv.claims, → State.Inv.slots, → State.Inv.dusk, State.arriveAt_inv]

theorem execSignalPacket_inv {p : Packet} {s : State} {t_ : State} (s_i : s.Inv) (e_ : execSignalPacket p s = .next t_) : t_.Inv := by
  unfold execSignalPacket at e_
  grind -ring -linarith -lia -ac -order [inv_mk, → State.Inv.mem, → State.Inv.claims, → State.Inv.slots, → State.Inv.dusk, State.arriveAt_inv]

theorem State.acked_inv {s : State} {u : Unacked} {excess : Nat} (s_i : s.Inv) : (State.acked s u excess).Inv := by
  unfold State.acked
  grind -ring -linarith -lia -ac -order [inv_mk, → State.Inv.mem, → State.Inv.claims, → State.Inv.slots, → State.Inv.dusk, State.underflow_inv,
      State.updMessage_inv, State.settle_inv]

theorem execAcknowledgment_inv {dst : Nat} {seq : AckOf} {s : State} {t_ : State} (s_i : s.Inv) (e_ : execAcknowledgment dst seq s = .next t_) :
    t_.Inv := by
  unfold execAcknowledgment at e_
  grind -ring -linarith -lia -ac -order [inv_mk, → State.Inv.mem, → State.Inv.claims, → State.Inv.slots, → State.Inv.dusk, State.acked_inv]

theorem execRetransmitTimeout_inv {dst : Nat} {seq : Nat} {s : State} {t_ : State} (s_i : s.Inv) (e_ : execRetransmitTimeout dst seq s = .next t_) :
    t_.Inv := by
  unfold execRetransmitTimeout at e_
  grind -ring -linarith -lia -ac -order [inv_mk, → State.Inv.mem, → State.Inv.claims, → State.Inv.slots, → State.Inv.dusk, State.send_inv,
      State.failPacket_inv, State.replyFailed_inv]

theorem State.linkLost_inv {s : State} {k : Nat} (s_i : s.Inv) : (State.linkLost s k).Inv :=
  State.postAll_inv (foldl_inv (fun _ _ h => State.hopRefused_inv h) _ (foldl_inv (fun _ _ h => State.setPort_inv h) _
    (s_i.of_eq (t := { s with agenda := s.agenda.filter (fun i => (onLink k i).isNone) }) rfl rfl rfl rfl)))

theorem execLinkDown_inv {port : Nat} {s : State} {t_ : State} (s_i : s.Inv) (e_ : execLinkDown port s = .next t_) : t_.Inv := by
  unfold execLinkDown at e_
  grind -ring -linarith -lia -ac -order [inv_mk, → State.Inv.mem, → State.Inv.claims, → State.Inv.slots, → State.Inv.dusk, State.linkLost_inv]

theorem State.retryFailed_inv {s : State} {port : Nat} {tries : Nat} (s_i : s.Inv) : (State.retryFailed s port tries).Inv := by
  unfold State.retryFailed
  grind -ring -linarith -lia -ac -order [inv_mk, → State.Inv.mem, → State.Inv.claims, → State.Inv.slots, → State.Inv.dusk, State.post_inv,
      State.log_inv, State.linkLost_inv]

theorem execFlitCrcError_inv {port : Nat} {tries : Nat} {s : State} {t_ : State} (s_i : s.Inv) (e_ : execFlitCrcError port tries s = .next t_) :
    t_.Inv := by
  unfold execFlitCrcError at e_
  grind -ring -linarith -lia -ac -order [inv_mk, → State.Inv.mem, → State.Inv.claims, → State.Inv.slots, → State.Inv.dusk, State.retryFailed_inv]

theorem State.lateArrival_inv {s : State} (s_i : s.Inv) : (State.lateArrival s).Inv := by
  unfold State.lateArrival
  grind -ring -linarith -lia -ac -order [inv_mk, → State.Inv.mem, → State.Inv.claims, → State.Inv.slots, → State.Inv.dusk, State.arrive_inv]

theorem execTret_inv {s : State} {t_ : State} (s_i : s.Inv) (e_ : execTret s = .next t_) : t_.Inv := by
  unfold execTret at e_
  refine State.gate_inv s_i (fun s t s_i e_ => ?_) e_
  try dsimp only at e_
  grind -ring -linarith -lia -ac -order [inv_mk, → State.Inv.mem, → State.Inv.claims, → State.Inv.slots, → State.Inv.dusk, State.upd_inv,
      State.gate_inv, State.retryEngine_inv, State.lateArrival_inv]

theorem execWait_inv {s : State} {t_ : State} (s_i : s.Inv) (e_ : execWait s = .next t_) : t_.Inv := by
  unfold execWait at e_
  refine State.gate_inv s_i (fun s t s_i e_ => ?_) e_
  try dsimp only at e_
  grind -ring -linarith -lia -ac -order [inv_mk, → State.Inv.mem, → State.Inv.claims, → State.Inv.slots, → State.Inv.dusk, State.upd_inv,
      State.gate_inv]

theorem execTinv_inv {a : Nat} {b : Nat} {s : State} {t_ : State} (s_i : s.Inv) (e_ : execTinv a b s = .next t_) : t_.Inv := by
  unfold execTinv at e_
  refine State.gate_inv s_i (fun s t s_i e_ => ?_) e_
  try dsimp only at e_
  grind -ring -linarith -lia -ac -order [inv_mk, → State.Inv.mem, → State.Inv.claims, → State.Inv.slots, → State.Inv.dusk, State.drain_inv,
      State.advance4_inv, State.halt_inv, State.gate_inv]

theorem State.restEngine_inv {z0 : Nat} {z1 : State} (z1_i : z1.Inv) : (State.restEngine z0 z1).Inv := by
  induction z0 generalizing z1 with
  | zero => exact z1_i
  | succ n ih =>
    unfold State.restEngine
    exact ite_inv z1_i (ih (State.engineOrder_inv (fun _ _ h => runToSave_inv (fun _ _ h => runAnyOp_inv h) h) z1_i))

theorem State.saveArea_inv {s : State} (s_i : s.Inv) : (State.saveArea s).Inv := by
  unfold State.saveArea
  grind -ring -linarith -lia -ac -order [inv_mk, → State.Inv.mem, → State.Inv.claims, → State.Inv.slots, → State.Inv.dusk, State.upd_inv,
      State.dropLinks_inv, State.restEngine_inv]

theorem State.writeArea_inv {s : State} {xa : Nat} {bs : List Byte} {ts : List (Nat × Nat × Nat × Nat)} (s_i : s.Inv) :
    (State.writeArea s xa bs ts).Inv := foldl_inv (fun _ _ h => State.writePhys_inv (State.note_inv h)) _ s_i

theorem State.noteArea_inv {s : State} {ts : List (Nat × Nat × Nat × Nat)} (s_i : s.Inv) : (State.noteArea s ts).Inv :=
  foldl_inv (fun _ _ h => State.note_inv h) _ s_i

theorem execCtxsave_inv {a : Nat} {s : State} {t_ : State} (s_i : s.Inv) (e_ : execCtxsave a s = .next t_) : t_.Inv := by
  unfold execCtxsave at e_
  refine State.gate_inv s_i (fun s t s_i e_ => ?_) e_
  dsimp only at e_
  split at e_
  · exact State.awaitRoom_inv s_i e_
  split at e_
  · exact State.halt_inv s_i e_
  split at e_
  · exact State.trap_inv s_i e_
  split at e_
  · exact State.halt_inv s_i e_
  · injection e_ with e_
    subst e_
    exact State.advance4_inv ((State.writeArea_inv (State.dropLinks_inv (State.drain_inv s_i))).of_eq rfl rfl rfl rfl)

theorem execCtxload_inv {a : Nat} {s : State} {t_ : State} (s_i : s.Inv) (e_ : execCtxload a s = .next t_) : t_.Inv := by
  unfold execCtxload at e_
  refine State.gate_inv s_i (fun s t s_i e_ => ?_) e_
  dsimp only at e_
  have h1 := State.dropLinks_inv (State.drain_inv s_i)
  split at e_
  · exact State.halt_inv s_i e_
  split at e_
  · exact State.trap_inv s_i e_
  split at e_
  · exact State.halt_inv s_i e_
  split at e_
  · exact State.halt_inv s_i e_
  split at e_
  · exact State.trapWith_inv s_i e_
  split at e_
  · exact State.halt_inv s_i e_
  split at e_
  · exact State.halt_inv s_i e_
  split at e_
  · exact State.trapWith_inv s_i e_
  injection e_ with e_
  subst e_
  exact State.upd_inv (State.noteArea_inv h1)

theorem State.setChan_inv {s : State} {c : Channel} (s_i : s.Inv) : (State.setChan s c).Inv := by
  unfold State.setChan
  grind -ring -linarith -lia -ac -order [inv_mk, → State.Inv.mem, → State.Inv.claims, → State.Inv.slots, → State.Inv.dusk]

theorem State.append_inv {s : State} {desc : Nat} {pas : List Nat} {tp : List Nat} {bs : List Byte} (s_i : s.Inv) : (State.append s desc pas tp
    bs).Inv := by
  unfold State.append
  grind -ring -linarith -lia -ac -order [inv_mk, → State.Inv.mem, → State.Inv.claims, → State.Inv.slots, → State.Inv.dusk, State.writeMem_inv,
      State.writePhys_inv, State.touch_inv]

theorem State.countRecord_inv {s : State} {desc : Nat} (s_i : s.Inv) : (State.countRecord s desc).Inv := by
  unfold State.countRecord
  grind -ring -linarith -lia -ac -order [inv_mk, → State.Inv.mem, → State.Inv.claims, → State.Inv.slots, → State.Inv.dusk, State.setChan_inv]

theorem State.dequeue_inv {s : State} {desc : Nat} (s_i : s.Inv) : (State.dequeue s desc).Inv := by
  unfold State.dequeue
  grind -ring -linarith -lia -ac -order [inv_mk, → State.Inv.mem, → State.Inv.claims, → State.Inv.slots, → State.Inv.dusk, State.setChan_inv]

theorem State.finishRecord_inv {s : State} {desc : Nat} {q : LogReq} (s_i : s.Inv) : (State.finishRecord s desc q).Inv := by
  unfold State.finishRecord
  grind -ring -linarith -lia -ac -order [inv_mk, → State.Inv.mem, → State.Inv.claims, → State.Inv.slots, → State.Inv.dusk, State.upd_inv,
      State.append_inv, State.countRecord_inv, State.dequeue_inv]

theorem State.setFirst_inv {s : State} {desc : Nat} {q : LogReq} (s_i : s.Inv) : (State.setFirst s desc q).Inv := by
  unfold State.setFirst
  grind -ring -linarith -lia -ac -order [inv_mk, → State.Inv.mem, → State.Inv.claims, → State.Inv.slots, → State.Inv.dusk, State.setChan_inv]

theorem of_ite_none {c : Prop} [Decidable c] {a : Option State} {t : State} (e : (if c then none else a) = some t) : a = some t := by
  split at e
  · cases e
  · exact e

theorem State.writeRecord_inv {s : State} {desc : Nat} {q : LogReq} {accepted : Bool} {t_ : State} (s_i : s.Inv) (e_ : State.writeRecord s desc q
    accepted = some t_) : t_.Inv := by
  unfold State.writeRecord at e_
  cases accepted with
  | true =>
    dsimp only at e_
    generalize ringRoom _ _ _ _ = b at e_
    cases b with
    | true => exact Option.some.inj e_ ▸ State.finishRecord_inv s_i
    | false => simp at e_
  | false =>
    dsimp only at e_
    generalize decide (_ < q.bytes.length) = pad at e_
    generalize s.ringPlaces _ _ _ _ _ _ _ = o at e_
    rcases o with t | ⟨tp, next, start⟩
    · exact Option.some.inj e_ ▸ State.takeTrap_inv (State.upd_inv (State.dequeue_inv s_i))
    · have e := of_ite_none (by simpa only [Bool.false_eq_true, if_false] using e_)
      cases pad with
      | true => exact Option.some.inj e ▸ State.upd_inv (State.setFirst_inv (State.append_inv s_i))
      | false => exact Option.some.inj e ▸ State.finishRecord_inv s_i

theorem State.pump_inv {desc : Nat} {z0 : Nat} {z1 : State} (z1_i : z1.Inv) : (State.pump desc z0 z1).Inv := by
  induction z0 generalizing z1 with
  | zero => exact z1_i
  | succ n ih =>
    unfold State.pump
    split
    · exact z1_i
    split
    · exact ih (State.dequeue_inv z1_i)
    split
    · exact z1_i
    · next h => exact ih (State.tryOn_inv z1_i (fun _ _ h e => State.writeRecord_inv h e) h)

theorem State.publish_inv {s : State} {desc : Nat} {bytes : List Byte} {step : Nat} {cprec : Bool} (s_i : s.Inv) : (State.publish s desc bytes step
    cprec).Inv := by
  unfold State.publish
  grind -ring -linarith -lia -ac -order [inv_mk, → State.Inv.mem, → State.Inv.claims, → State.Inv.slots, → State.Inv.dusk, State.upd_inv,
      State.drain_inv, State.setChan_inv, State.pump_inv]

theorem State.openChannel_inv {s : State} {xa : Nat} {priv : Bool} {t_ : State} {v_ : Nat × Nat} (s_i : s.Inv) (e_ : State.openChannel s xa priv = .ok
    (t_, v_)) : t_.Inv := by
  unfold State.openChannel at e_
  grind -ring -linarith -lia -ac -order [inv_mk, → State.Inv.mem, → State.Inv.claims, → State.Inv.slots, → State.Inv.dusk, State.loadBlock_inv,
      State.trap_inv]

theorem execLogpub_inv {a : Nat} {b : Nat} {s : State} {t_ : State} (s_i : s.Inv) (e_ : execLogpub a b s = .next t_) : t_.Inv := by
  unfold execLogpub at e_
  refine State.gate_inv s_i (fun s t s_i e_ => ?_) e_
  dsimp only at e_
  split at e_
  · exact State.halt_inv s_i e_
  next h =>
  split at e_
  · exact State.halt_inv s_i e_
  next h2 =>
  split at e_
  · exact State.trapWith_inv s_i e_
  split at e_
  · exact State.trapWith_inv s_i e_
  split at e_
  · exact State.halt_inv s_i e_
  next h3 =>
  injection e_ with e_
  subst e_
  exact State.publish_inv (State.engineRead_inv (State.engineRead_inv (State.openChannel_inv s_i h) h2) h3)

theorem State.readEntries_inv {z0 : Nat} {z1 : State} {z2 : Nat} {z3 : List Byte} {t_ : State} {v_ : List Byte} (z1_i : z1.Inv) (e_ :
    State.readEntries z0 z1 z2 z3 = .ok (t_, v_)) : t_.Inv := by
  induction z0 generalizing z1 z2 z3 with
  | zero =>
    unfold State.readEntries at e_
    injection e_ with e_
    injection e_ with e_ _
    exact e_ ▸ z1_i
  | succ n ih =>
    unfold State.readEntries at e_
    dsimp only at e_
    split at e_
    · nomatch e_
    next h =>
    split at e_
    · nomatch e_
    next h2 =>
    exact ih (State.engineRead_inv (State.engineRead_inv z1_i h) h2) e_

theorem execCprec_inv {a : Nat} {b : Nat} {s : State} {t_ : State} (s_i : s.Inv) (e_ : execCprec a b s = .next t_) : t_.Inv := by
  unfold execCprec at e_
  refine State.gate_inv s_i (fun s t s_i e_ => ?_) e_
  dsimp only at e_
  split at e_
  · exact State.halt_inv s_i e_
  next h =>
  split at e_
  · exact State.halt_inv s_i e_
  next h2 =>
  split at e_
  · exact State.halt_inv s_i e_
  next h3 =>
  split at e_
  · exact State.trapWith_inv s_i e_
  injection e_ with e_
  subst e_
  exact State.publish_inv (State.readEntries_inv (State.engineRead_inv (State.openChannel_inv s_i h) h2) h3)

theorem execLogRecordWrite_inv {hid : Nat} {s : State} {t_ : State} (s_i : s.Inv) (e_ : execLogRecordWrite hid s = .next t_) : t_.Inv := by
  unfold execLogRecordWrite at e_
  grind -ring -linarith -lia -ac -order [inv_mk, → State.Inv.mem, → State.Inv.claims, → State.Inv.slots, → State.Inv.dusk, State.pump_inv]

theorem execMtimerExpiry_inv {desc : Nat} {s : State} {t_ : State} (s_i : s.Inv) (e_ : execMtimerExpiry desc s = .next t_) : t_.Inv := by
  unfold execMtimerExpiry at e_
  grind -ring -linarith -lia -ac -order [inv_mk, → State.Inv.mem, → State.Inv.claims, → State.Inv.slots, → State.Inv.dusk, State.setChan_inv]

theorem State.pumpAll_inv {s : State} (s_i : s.Inv) : (State.pumpAll s).Inv := by
  exact foldl_inv (fun _ _ h => State.pump_inv h) _ s_i

end Sys2Proof.Machine
end

