-- ==== Sys2Proof/Laws/InvHost.lean ====
section
/-! SUPPORT. The invariant kept by placement, the functions and the host: one lemma for each function that answers a state. -/

namespace Sys2Proof.Machine

theorem State.matchLanes_inv {s : State} {i : Nat} {l : Nat} {cl : Nat} {core : Nat} (s_i : s.Inv) : (State.matchLanes s i l cl core).Inv := by
  unfold State.matchLanes
  grind -ring -linarith -lia -ac -order [inv_mk, → State.Inv.mem, → State.Inv.claims, → State.Inv.slots, → State.Inv.dusk, State.setCore_inv]

set_option Elab.async false

theorem State.addHart_inv {s : State} {h : Hart} (s_i : s.Inv) : (State.addHart s h).Inv := by
  unfold State.addHart
  grind -ring -linarith -lia -ac -order [inv_mk, → State.Inv.mem, → State.Inv.claims, → State.Inv.slots, → State.Inv.dusk]

theorem State.placeNew_inv {i : Nat} {cl : Nat} {start : Nat} {grant : Nat} {l : Launch} {z0 : Nat} {z1 : Nat} {z2 : State} (z2_i : z2.Inv) :
    (State.placeNew i cl start grant l z0 z1 z2).1.Inv := by
  induction z0 generalizing z1 z2 with
  | zero => exact z2_i
  | succ n ih =>
    unfold State.placeNew
    split
    · exact z2_i
    · exact ih (State.addHart_inv (State.matchLanes_inv z2_i))

theorem State.resumeAll_inv {cl : Nat} {start : Nat} {grant : Nat} {z0 : List Hart} {z1 : State} {t_ : State} (z1_i : z1.Inv) (e_ : State.resumeAll cl
    start grant z0 z1 = some t_) : t_.Inv := by
  induction z0 generalizing z1 with
  | nil => injection e_ with e_; exact e_ ▸ z1_i
  | cons h r ih =>
    unfold State.resumeAll at e_
    split at e_
    · nomatch e_
    · next core _ =>
      refine ih (State.post_inv ?_) e_
      exact (State.updHart_inv (hid := h.hid) (f := Hart.resumeAt cl core grant z1.placed)
        (State.matchLanes_inv (i := h.slot) (l := h.launchid) (cl := cl) (core := core) z1_i)).of_eq rfl rfl rfl rfl

theorem State.setLanes_inv {s : State} {n : Nat} {cs : List (Nat × Nat)} (s_i : s.Inv) : (State.setLanes s n cs).Inv :=
  foldl_inv (fun _ _ h => State.setCore_inv h) _ s_i

theorem State.placeFirst_inv {s : State} {cl : Nat} {core : Nat} {grant : Nat} {t_ : State} (s_i : s.Inv) (e_ : State.placeFirst s cl core grant =
    some t_) : t_.Inv := by
  unfold State.placeFirst at e_
  split at e_
  · cases e_
  · split at e_
    · cases e_
    · exact State.resumeAll_inv s_i e_
  · dsimp only at e_
    split at e_
    · cases e_
    · cases e_; exact State.updLaunch_inv (State.placeNew_inv s_i)

theorem execLaunchPlacement_inv {cl : Nat} {core : Nat} {grant : Nat} {s : State} {t_ : State} (s_i : s.Inv) (e_ : execLaunchPlacement cl core grant s
    = .next t_) : t_.Inv := by
  unfold execLaunchPlacement at e_
  grind -ring -linarith -lia -ac -order [inv_mk, → State.Inv.mem, → State.Inv.claims, → State.Inv.slots, → State.Inv.dusk, State.postAll_inv,
      State.placeFirst_inv]

theorem State.withdraw_inv {s : State} (s_i : s.Inv) : (State.withdraw s).Inv := by
  unfold State.withdraw
  grind -ring -linarith -lia -ac -order [inv_mk, → State.Inv.mem, → State.Inv.claims, → State.Inv.slots, → State.Inv.dusk]

theorem State.preempt_inv {s : State} (s_i : s.Inv) : (State.preempt s).Inv := by
  unfold State.preempt
  grind -ring -linarith -lia -ac -order [inv_mk, → State.Inv.mem, → State.Inv.claims, → State.Inv.slots, → State.Inv.dusk, State.upd_inv,
      State.retireRows_inv, State.saveArea_inv, State.withdraw_inv]

theorem execPreemption_inv {hid : Nat} {s : State} {t_ : State} (s_i : s.Inv) (e_ : execPreemption hid s = .next t_) : t_.Inv := by
  unfold execPreemption at e_
  grind -ring -linarith -lia -ac -order [inv_mk, → State.Inv.mem, → State.Inv.claims, → State.Inv.slots, → State.Inv.dusk, State.updHart_inv,
      State.on_inv, State.preempt_inv]

theorem State.giveSlot_inv {s : State} {h : Hart} (s_i : s.Inv) : (State.giveSlot s h).Inv := by
  unfold State.giveSlot
  grind -ring -linarith -lia -ac -order [inv_mk, → State.Inv.mem, → State.Inv.claims, → State.Inv.slots, → State.Inv.dusk, State.swapIn_inv]

theorem State.softError_inv {s : State} {e : SoftError} (s_i : s.Inv) : (State.softError s e).Inv := by
  unfold State.softError
  grind -ring -linarith -lia -ac -order [inv_mk, → State.Inv.mem, → State.Inv.claims, → State.Inv.slots, → State.Inv.dusk, State.upd_inv,
      State.setCore_inv, State.post_inv, State.log_inv]

theorem execIssueTurn_inv {cl : Nat} {turn : CoreTurn} {s : State} {t_ : State} (s_i : s.Inv) (e_ : execIssueTurn cl turn s = .next t_) : t_.Inv := by
  unfold execIssueTurn at e_
  dsimp only at e_
  split at e_
  · cases e_; exact s_i
  · split at e_
    · cases e_; exact s_i
    · split at e_
      · cases e_; exact State.mapHarts_inv s_i
      · cases e_; exact foldl_inv (fun _ _ h => State.softError_inv h) _ (State.giveSlot_inv (State.mapHarts_inv s_i))

theorem execLaneCountChange_inv {cl : Nat} {core : Nat} {lanes : Nat} {s : State} {t_ : State} (s_i : s.Inv) (e_ : execLaneCountChange cl core lanes s
    = .next t_) : t_.Inv := by
  unfold execLaneCountChange at e_
  dsimp only at e_
  split at e_
  · injection e_ with e_
    subst e_
    exact foldl_inv (fun _ _ h => State.setCore_inv h) _ s_i
  · injection e_ with e_
    exact e_ ▸ s_i

theorem execClockStretch_inv {cl : Nat} {n : Nat} {s : State} {t_ : State} (s_i : s.Inv) (e_ : execClockStretch cl n s = .next t_) : t_.Inv := by
  unfold execClockStretch at e_
  grind -ring -linarith -lia -ac -order [inv_mk, → State.Inv.mem, → State.Inv.claims, → State.Inv.slots, → State.Inv.dusk, State.setCluster_inv]

theorem State.clearErrors_inv {s : State} {cl : Nat} (s_i : s.Inv) : (State.clearErrors s cl).Inv := by
  have h1 : State.Inv (if s.fixes.isEmpty then s else { s with fixes := s.fixes.filter (fun f => f.1 / 64 ≠ cl) }) :=
    ite_inv s_i (s_i.of_eq rfl rfl rfl rfl)
  exact ite_inv h1 (foldl_inv (fun _ _ h => ite_inv h (State.setCore_inv h)) _ h1)

theorem execPeriodBoundary_inv {cl : Nat} {s : State} {t_ : State} (s_i : s.Inv) (e_ : execPeriodBoundary cl s = .next t_) : t_.Inv := by
  unfold execPeriodBoundary at e_
  grind -ring -linarith -lia -ac -order [inv_mk, → State.Inv.mem, → State.Inv.claims, → State.Inv.slots, → State.Inv.dusk, State.setCluster_inv,
      State.post_inv, State.clearErrors_inv]

theorem State.closePhase_inv {s : State} {i : Nat} {k : Nat} (s_i : s.Inv) : (State.closePhase s i k).Inv := by
  unfold State.closePhase
  grind -ring -linarith -lia -ac -order [inv_mk, → State.Inv.mem, → State.Inv.claims, → State.Inv.slots, → State.Inv.dusk, State.updJob_inv,
      State.checkReady_inv, State.wakeOn_inv, State.countDown_inv]

theorem execPeriodLimit_inv {slot : Nat} {s : State} {t_ : State} (s_i : s.Inv) (e_ : execPeriodLimit slot s = .next t_) : t_.Inv := by
  unfold execPeriodLimit at e_
  grind -ring -linarith -lia -ac -order [inv_mk, → State.Inv.mem, → State.Inv.claims, → State.Inv.slots, → State.Inv.dusk, State.postAll_inv,
      State.updJob_inv, State.beginPhase_inv, State.finish_inv, State.cancel_inv, State.closePhase_inv]

theorem execBankTwilight_inv {cl : Nat} {slice : Nat} {bank : Nat} {s : State} {t_ : State} (s_i : s.Inv) (e_ : execBankTwilight cl slice bank s =
    .next t_) : t_.Inv := by
  unfold execBankTwilight at e_
  grind -ring -linarith -lia -ac -order [inv_mk, → State.Inv.mem, → State.Inv.claims, → State.Inv.slots, → State.Inv.dusk]

theorem execBankWake_inv {cl : Nat} {slice : Nat} {bank : Nat} {s : State} {t_ : State} (s_i : s.Inv) (e_ : execBankWake cl slice bank s = .next t_) :
    t_.Inv := by
  unfold execBankWake at e_
  grind -ring -linarith -lia -ac -order [inv_mk, → State.Inv.mem, → State.Inv.claims, → State.Inv.slots, → State.Inv.dusk]

theorem execCountDown_inv {slot : Nat} {handle : Nat} {n : Nat} {issuer : Option Nat} {s : State} {t_ : State} (s_i : s.Inv) (e_ : execCountDown slot
    handle n issuer s = .next t_) : t_.Inv := by
  unfold execCountDown at e_
  grind -ring -linarith -lia -ac -order [inv_mk, → State.Inv.mem, → State.Inv.claims, → State.Inv.slots, → State.Inv.dusk, State.countDown_inv]

theorem State.discard_inv {s : State} (s_i : s.Inv) : (State.discard s).Inv := by
  unfold State.discard
  dsimp only
  have h1 := foldl_inv (fun (u : State) o h => runEngineOp_inv (o := { o with fault := none }) h) (s.hart.engine.filter EngineOp.finishes) s_i
  have h2 := State.writeMem_inv (keep := 0) (bs := ((((s.hart.engine.filter EngineOp.finishes).foldl
    (fun (u : State) (o : EngineOp) => (runEngineOp u { o with fault := none }).1) s).hart.wcb.filter (fun b => b.2.2)).map (fun b => (b.1, b.2.1))))
    (State.touch_inv (pas := ((((s.hart.engine.filter EngineOp.finishes).foldl
      (fun (u : State) (o : EngineOp) => (runEngineOp u { o with fault := none }).1) s).hart.wcb.filter (fun b => b.2.2)).map
        (fun b => (b.1, b.2.1))).map (·.1)) h1)
  exact State.serveWaits_inv (foldl_inv (fun _ _ h => State.loseReport_inv h) _ ⟨h2.mem, mapWf_filter _ _ h2.claims, h2.slots, h2.dusk⟩)

theorem execHartCancel_inv {hid : Nat} {s : State} {t_ : State} (s_i : s.Inv) (e_ : execHartCancel hid s = .next t_) : t_.Inv := by
  unfold execHartCancel at e_
  grind -ring -linarith -lia -ac -order [inv_mk, → State.Inv.mem, → State.Inv.claims, → State.Inv.slots, → State.Inv.dusk, State.updHart_inv,
      State.on_inv, State.postAll_inv, State.closeJob_inv, State.retireRows_inv, State.remove_inv, State.discard_inv]

theorem execCancellationComplete_inv {slot : Nat} {handle : Nat} {s : State} {t_ : State} (s_i : s.Inv) (e_ : execCancellationComplete slot handle s =
    .next t_) : t_.Inv := by
  unfold execCancellationComplete at e_
  grind -ring -linarith -lia -ac -order [inv_mk, → State.Inv.mem, → State.Inv.claims, → State.Inv.slots, → State.Inv.dusk, State.closeJob_inv,
      State.finish_inv]

theorem State.retireLane_inv {s : State} {cl : Nat} {core : Nat} {lane : Nat} {corrections : Nat} (s_i : s.Inv) : (State.retireLane s cl core lane
    corrections).Inv := by
  unfold State.retireLane
  grind -ring -linarith -lia -ac -order [inv_mk, → State.Inv.mem, → State.Inv.claims, → State.Inv.slots, → State.Inv.dusk, State.setCore_inv,
      State.log_inv, State.setLanes_inv]

theorem execLaneRetirement_inv {cl : Nat} {core : Nat} {lane : Nat} {corrections : Option Nat} {s : State} {t_ : State} (s_i : s.Inv) (e_ :
    execLaneRetirement cl core lane corrections s = .next t_) : t_.Inv := by
  unfold execLaneRetirement at e_
  grind -ring -linarith -lia -ac -order [inv_mk, → State.Inv.mem, → State.Inv.claims, → State.Inv.slots, → State.Inv.dusk, State.setCore_inv,
      State.postAll_inv, State.retireLane_inv]

theorem State.markPoison_inv {s : State} {line : Nat} {k : Nat} (s_i : s.Inv) : (State.markPoison s line k).Inv := by
  unfold State.markPoison
  grind -ring -linarith -lia -ac -order [inv_mk, → State.Inv.mem, → State.Inv.claims, → State.Inv.slots, → State.Inv.dusk]

theorem State.scrubLine_inv {cl : Nat} {slice : Nat} {s : State} {e : Nat × Bool} (s_i : s.Inv) : (State.scrubLine cl slice s e).Inv := by
  unfold State.scrubLine
  grind -ring -linarith -lia -ac -order [inv_mk, → State.Inv.mem, → State.Inv.claims, → State.Inv.slots, → State.Inv.dusk, State.log_inv,
      State.markPoison_inv]

theorem execScrub_inv {cl : Nat} {scrub : ScrubOf} {s : State} {t_ : State} (s_i : s.Inv) (e_ : execScrub cl scrub s = .next t_) : t_.Inv := by
  unfold execScrub at e_
  cases e_
  exact foldl_inv (fun _ _ h => State.scrubLine_inv h) _ (s_i.of_eq rfl rfl rfl rfl)

theorem execAsyncInterrupt_inv {s : State} {t_ : State} (s_i : s.Inv) (e_ : execAsyncInterrupt s = .next t_) : t_.Inv := by
  unfold execAsyncInterrupt at e_
  grind -ring -linarith -lia -ac -order [inv_mk, → State.Inv.mem, → State.Inv.claims, → State.Inv.slots, → State.Inv.dusk, State.takeAsync_inv]

theorem State.atMember_inv {s : State} {pos : Nat} (s_i : s.Inv) : (State.atMember s pos).Inv := by
  unfold State.atMember
  grind -ring -linarith -lia -ac -order [inv_mk, → State.Inv.mem, → State.Inv.claims, → State.Inv.slots, → State.Inv.dusk, State.upd_inv]

theorem execIllegalInstruction_inv {word : Nat} {pos : Nat} {s : State} {t_ : State} (s_i : s.Inv) (e_ : execIllegalInstruction word pos s = .next t_)
    : t_.Inv := by
  unfold execIllegalInstruction at e_
  grind -ring -linarith -lia -ac -order [inv_mk, → State.Inv.mem, → State.Inv.claims, → State.Inv.slots, → State.Inv.dusk, State.trapWith_inv,
      State.atMember_inv]

theorem execFetchFault_inv {va : Nat} {pos : Nat} {s : State} {t_ : State} (s_i : s.Inv) (e_ : execFetchFault va pos s = .next t_) : t_.Inv := by
  unfold execFetchFault at e_
  grind -ring -linarith -lia -ac -order [inv_mk, → State.Inv.mem, → State.Inv.claims, → State.Inv.slots, → State.Inv.dusk, State.trap_inv,
      State.atMember_inv]

theorem State.claim_inv {s : State} {va : Nat} {n : Nat} (s_i : s.Inv) : (State.claim s va n).Inv := by
  unfold State.claim
  split
  · exact State.takeTrap_inv s_i
  · exact s_i
  · exact s_i
  · dsimp only
    split
    · split
      · exact s_i
      · exact State.takeTrap_inv s_i
    · exact ⟨s_i.mem, mapWf_foldl_mapSet _ _ id _ s_i.claims, s_i.slots, s_i.dusk⟩

theorem execClaimArrival_inv {hid : Nat} {va : Nat} {n : Nat} {s : State} {t_ : State} (s_i : s.Inv) (e_ : execClaimArrival hid va n s = .next t_) :
    t_.Inv := by
  unfold execClaimArrival at e_
  grind -ring -linarith -lia -ac -order [inv_mk, → State.Inv.mem, → State.Inv.claims, → State.Inv.slots, → State.Inv.dusk, State.on_inv,
      State.claim_inv]

theorem State.atomicAt_inv {s : State} {va : Nat} {op : Nat} {w : Nat} {operand : Nat} (s_i : s.Inv) : (State.atomicAt s va op w operand).Inv := by
  unfold State.atomicAt
  grind -ring -linarith -lia -ac -order [inv_mk, → State.Inv.mem, → State.Inv.claims, → State.Inv.slots, → State.Inv.dusk, State.rmw_inv,
      State.takeTrap_inv, State.trap_inv, State.stalled_inv]

theorem execAtomicArrival_inv {hid : Nat} {va : Nat} {op : Nat} {w : Nat} {operand : Nat} {s : State} {t_ : State} (s_i : s.Inv) (e_ :
    execAtomicArrival hid va op w operand s = .next t_) : t_.Inv := by
  unfold execAtomicArrival at e_
  grind -ring -linarith -lia -ac -order [inv_mk, → State.Inv.mem, → State.Inv.claims, → State.Inv.slots, → State.Inv.dusk, State.on_inv,
      State.atomicAt_inv]

theorem State.refuseStart_inv {s : State} {i : Nat} {code : Nat} {off : Nat} (s_i : s.Inv) : (State.refuseStart s i code off).Inv := by
  unfold State.refuseStart
  grind -ring -linarith -lia -ac -order [inv_mk, → State.Inv.mem, → State.Inv.claims, → State.Inv.slots, → State.Inv.dusk, State.updSlot_inv,
      State.log_inv]

theorem State.afterStart_inv {s : State} {i : Nat} (s_i : s.Inv) : (State.afterStart s i).Inv := by
  unfold State.afterStart
  grind -ring -linarith -lia -ac -order [inv_mk, → State.Inv.mem, → State.Inv.claims, → State.Inv.slots, → State.Inv.dusk, State.post_inv]

theorem State.viewDue_inv {s : State} {i : Nat} (s_i : s.Inv) : (State.viewDue s i).Inv := by
  unfold State.viewDue
  grind -ring -linarith -lia -ac -order [inv_mk, → State.Inv.mem, → State.Inv.claims, → State.Inv.slots, → State.Inv.dusk, State.post_inv]

theorem State.startJob_inv {s : State} {i : Nat} {desc : Nat} {v : Nat} (s_i : s.Inv) : (State.startJob s i desc v).Inv := by
  unfold State.startJob
  grind -ring -linarith -lia -ac -order [inv_mk, → State.Inv.mem, → State.Inv.claims, → State.Inv.slots, → State.Inv.dusk, State.updSlot_inv,
      State.checkReady_inv, State.beginPhase_inv, State.addLaunch_inv, State.refuseStart_inv, State.afterStart_inv, State.viewDue_inv]

theorem State.touchStart_inv {s : State} {desc : Nat} (s_i : s.Inv) : (State.touchStart s desc).Inv := by
  unfold State.touchStart
  grind -ring -linarith -lia -ac -order [inv_mk, → State.Inv.mem, → State.Inv.claims, → State.Inv.slots, → State.Inv.dusk, State.touch_inv]

theorem State.beginStart_inv {s : State} {slot : Nat} (s_i : s.Inv) : (State.beginStart s slot).Inv := by
  unfold State.beginStart
  grind -ring -linarith -lia -ac -order [inv_mk, → State.Inv.mem, → State.Inv.claims, → State.Inv.slots, → State.Inv.dusk, State.refuseStart_inv,
      State.startJob_inv, State.touchStart_inv]

theorem execJstart_inv {slot : Nat} {desc : Option Nat} {s : State} {t_ : State} (s_i : s.Inv) (e_ : execJstart slot desc s = .next t_) : t_.Inv := by
  unfold execJstart at e_
  grind -ring -linarith -lia -ac -order [inv_mk, → State.Inv.mem, → State.Inv.claims, → State.Inv.slots, → State.Inv.dusk, State.post_inv,
      State.updSlot_inv, State.beginStart_inv]

theorem execJctlCancel_inv {slot : Nat} {s : State} {t_ : State} (s_i : s.Inv) (e_ : execJctlCancel slot s = .next t_) : t_.Inv := by
  unfold execJctlCancel at e_
  grind -ring -linarith -lia -ac -order [inv_mk, → State.Inv.mem, → State.Inv.claims, → State.Inv.slots, → State.Inv.dusk, State.updSlot_inv,
      State.cancelAt_inv]

theorem State.preemptJob_inv {s : State} {i : Nat} (s_i : s.Inv) : (State.preemptJob s i).Inv := by
  unfold State.preemptJob
  grind -ring -linarith -lia -ac -order [inv_mk, → State.Inv.mem, → State.Inv.claims, → State.Inv.slots, → State.Inv.dusk, State.postAll_inv]

theorem execJctlHold_inv {slot : Nat} {s : State} {t_ : State} (s_i : s.Inv) (e_ : execJctlHold slot s = .next t_) : t_.Inv := by
  unfold execJctlHold at e_
  grind -ring -linarith -lia -ac -order [inv_mk, → State.Inv.mem, → State.Inv.claims, → State.Inv.slots, → State.Inv.dusk, State.updSlot_inv,
      State.preemptJob_inv]

theorem execJctlResume_inv {slot : Nat} {s : State} {t_ : State} (s_i : s.Inv) (e_ : execJctlResume slot s = .next t_) : t_.Inv := by
  unfold execJctlResume at e_
  grind -ring -linarith -lia -ac -order [inv_mk, → State.Inv.mem, → State.Inv.claims, → State.Inv.slots, → State.Inv.dusk, State.updSlot_inv]

theorem execDclr_inv {s : State} {t_ : State} (s_i : s.Inv) (e_ : execDclr s = .next t_) : t_.Inv := by
  unfold execDclr at e_
  grind -ring -linarith -ac -order [inv_mk, → State.Inv.mem, → State.Inv.claims, → State.Inv.slots, → State.Inv.dusk]

theorem execHostRegisterWrite_inv {off : Nat} {val : Nat} {s : State} {t_ : State} (s_i : s.Inv) (e_ : execHostRegisterWrite off val s = .next t_) :
    t_.Inv := by
  unfold execHostRegisterWrite at e_
  grind -ring -linarith -lia -ac -order [inv_mk, → State.Inv.mem, → State.Inv.claims, → State.Inv.slots, → State.Inv.dusk]

theorem State.complete_inv {s : State} {tag : Nat} {status : Nat} {bs : List Byte} (s_i : s.Inv) : (State.complete s tag status bs).Inv := by
  unfold State.complete
  grind -ring -linarith -lia -ac -order [inv_mk, → State.Inv.mem, → State.Inv.claims, → State.Inv.slots, → State.Inv.dusk]

theorem State.serve_inv {s : State} {w : HostWait} (s_i : s.Inv) : (State.serve s w).Inv := by
  unfold State.serve
  grind -ring -linarith -lia -ac -order [inv_mk, → State.Inv.mem, → State.Inv.claims, → State.Inv.slots, → State.Inv.dusk, State.writePhys_inv,
      State.touch_inv, State.endpoint_inv, State.pumpAll_inv, State.complete_inv]

theorem State.hostAccess_inv {s : State} {w : HostWait} (s_i : s.Inv) : (State.hostAccess s w).Inv := by
  unfold State.hostAccess
  grind -ring -linarith -lia -ac -order [inv_mk, → State.Inv.mem, → State.Inv.claims, → State.Inv.slots, → State.Inv.dusk, State.serve_inv]

theorem execHostRead_inv {space : Nat} {addr : Nat} {len : Nat} {tag : Nat} {s : State} {t_ : State} (s_i : s.Inv) (e_ : execHostRead space addr len
    tag s = .next t_) : t_.Inv := by
  unfold execHostRead at e_
  grind -ring -linarith -lia -ac -order [inv_mk, → State.Inv.mem, → State.Inv.claims, → State.Inv.slots, → State.Inv.dusk, State.complete_inv,
      State.hostAccess_inv]

theorem execHostPostedWrite_inv {addr : Nat} {bytes : List Byte} {relaxed : Bool} {s : State} {t_ : State} (s_i : s.Inv) (e_ : execHostPostedWrite
    addr bytes relaxed s = .next t_) : t_.Inv := by
  unfold execHostPostedWrite at e_
  grind -ring -linarith -lia -ac -order [inv_mk, → State.Inv.mem, → State.Inv.claims, → State.Inv.slots, → State.Inv.dusk, State.hostAccess_inv]

theorem State.dropWait_inv {s : State} {k : Nat} (s_i : s.Inv) : (State.dropWait s k).Inv := by
  unfold State.dropWait
  grind -ring -linarith -lia -ac -order [inv_mk, → State.Inv.mem, → State.Inv.claims, → State.Inv.slots, → State.Inv.dusk]

theorem execHostAccessAfterClaim_inv {k : Nat} {s : State} {t_ : State} (s_i : s.Inv) (e_ : execHostAccessAfterClaim k s = .next t_) : t_.Inv := by
  unfold execHostAccessAfterClaim at e_
  grind -ring -linarith -lia -ac -order [inv_mk, → State.Inv.mem, → State.Inv.claims, → State.Inv.slots, → State.Inv.dusk, State.serve_inv,
      State.dropWait_inv]

theorem State.logTimeout_inv {s : State} {flags : Nat} {pas : List Nat} (s_i : s.Inv) : (State.logTimeout s flags pas).Inv := by
  unfold State.logTimeout
  grind -ring -linarith -lia -ac -order [inv_mk, → State.Inv.mem, → State.Inv.claims, → State.Inv.slots, → State.Inv.dusk, State.log_inv]

theorem execHostClaimTimeout_inv {k : Nat} {s : State} {t_ : State} (s_i : s.Inv) (e_ : execHostClaimTimeout k s = .next t_) : t_.Inv := by
  unfold execHostClaimTimeout at e_
  grind -ring -linarith -lia -ac -order [inv_mk, → State.Inv.mem, → State.Inv.claims, → State.Inv.slots, → State.Inv.dusk, State.log_inv,
      State.serveWaits_inv, State.complete_inv, State.dropWait_inv, State.logTimeout_inv]

theorem execMessageClaimTimeout_inv {k : Nat} {s : State} {t_ : State} (s_i : s.Inv) (e_ : execMessageClaimTimeout k s = .next t_) : t_.Inv := by
  unfold execMessageClaimTimeout at e_
  grind -ring -linarith -lia -ac -order [inv_mk, → State.Inv.mem, → State.Inv.claims, → State.Inv.slots, → State.Inv.dusk, State.serveWaits_inv,
      State.failPacket_inv, State.refuse_inv, State.dropWait_inv, State.logTimeout_inv]

theorem execTdispEnterRun_inv {slot : Nat} {s : State} {t_ : State} (s_i : s.Inv) (e_ : execTdispEnterRun slot s = .next t_) : t_.Inv := by
  unfold execTdispEnterRun at e_
  grind -ring -linarith -lia -ac -order [inv_mk, → State.Inv.mem, → State.Inv.claims, → State.Inv.slots, → State.Inv.dusk, State.updSlot_inv]

theorem execTdispExitRun_inv {slot : Nat} {s : State} {t_ : State} (s_i : s.Inv) (e_ : execTdispExitRun slot s = .next t_) : t_.Inv := by
  unfold execTdispExitRun at e_
  grind -ring -linarith -lia -ac -order [inv_mk, → State.Inv.mem, → State.Inv.claims, → State.Inv.slots, → State.Inv.dusk, State.post_inv,
      State.updSlot_inv, State.cancel_inv]

theorem execHostLinkFailure_inv {why : Nat} {s : State} {t_ : State} (s_i : s.Inv) (e_ : execHostLinkFailure why s = .next t_) : t_.Inv := by
  unfold execHostLinkFailure at e_
  cases e_
  exact foldl_inv (fun _ _ h => State.cancelAt_inv h) _ (State.postAll_inv (State.log_inv s_i))

theorem State.setPorts_inv {s : State} {ps : List Nat} {prt : Nat} (s_i : s.Inv) : (State.setPorts s ps prt).Inv :=
  foldl_inv (fun _ _ h => State.setPort_inv h) _ s_i

theorem State.bindPorts_inv {s : State} {clus : Nat} (s_i : s.Inv) : (State.bindPorts s clus).Inv := by
  unfold State.bindPorts
  grind -ring -linarith -lia -ac -order [inv_mk, → State.Inv.mem, → State.Inv.claims, → State.Inv.slots, → State.Inv.dusk]

theorem execPartitionBinding_inv {slot : Nat} {part : Nat} {bound : BoundTo} {regions : List Region} {s : State} {t_ : State} (s_i : s.Inv) (e_ :
    execPartitionBinding slot part bound regions s = .next t_) : t_.Inv := by
  unfold execPartitionBinding at e_
  grind -ring -linarith -lia -ac -order [inv_mk, → State.Inv.mem, → State.Inv.claims, → State.Inv.slots, → State.Inv.dusk, State.updSlot_inv,
      State.viewDue_inv, State.bindPorts_inv]

theorem execPartitionReset_inv {slot : Nat} {why : Nat} {s : State} {t_ : State} (s_i : s.Inv) (e_ : execPartitionReset slot why s = .next t_) :
    t_.Inv := by
  unfold execPartitionReset at e_
  grind -ring -linarith -lia -ac -order [inv_mk, → State.Inv.mem, → State.Inv.claims, → State.Inv.slots, → State.Inv.dusk, State.post_inv,
      State.updSlot_inv]

theorem State.discardNet_inv {s : State} {i : Nat} {part : Nat} (s_i : s.Inv) : (State.discardNet s i part).Inv := by
  unfold State.discardNet
  grind -ring -linarith -lia -ac -order [inv_mk, → State.Inv.mem, → State.Inv.claims, → State.Inv.slots, → State.Inv.dusk, State.mapHarts_inv]

theorem execPartitionDrainEnd_inv {slot : Nat} {us : Nat} {s : State} {t_ : State} (s_i : s.Inv) (e_ : execPartitionDrainEnd slot us s = .next t_) :
    t_.Inv := by
  unfold execPartitionDrainEnd at e_
  dsimp only at e_
  split at e_
  · injection e_ with e_
    subst e_
    have h1 := foldl_inv (fun (u : State) w h => State.log_inv (etype := 9) (blk := 9) (inst := 0)
      (a := (s.slotOf slot).part % 65536 + 65536 * w) (b := us) h) ((s.slotOf slot).why :: (s.slotOf slot).resets)
      (State.updSlot_inv (i := slot) (f := fun sl => { sl with sink := false, why := 0, resets := [] })
        (State.discardNet_inv (i := slot) (part := (s.slotOf slot).part) (State.setPorts_inv (ps := portsOf (s.slotOf slot).clus) (prt := 0xffff) s_i)))
    exact ite_inv (State.jobDone_inv h1) h1
  · injection e_ with e_
    exact e_ ▸ s_i

theorem State.poisonWindow_inv {s : State} {line : Nat} (s_i : s.Inv) : (State.poisonWindow s line).Inv := by
  unfold State.poisonWindow
  grind -ring -linarith -lia -ac -order [inv_mk, → State.Inv.mem, → State.Inv.claims, → State.Inv.slots, → State.Inv.dusk, State.log_inv,
      State.markPoison_inv]

theorem State.windowWritten_inv {s : State} {pa : Nat} {n : Nat} {failed : Bool} (s_i : s.Inv) : (State.windowWritten s pa n failed).Inv := by
  refine ⟨?_, s_i.claims, s_i.slots, s_i.dusk⟩
  unfold State.windowWritten
  dsimp only
  split
  · exact mapWf_foldl_mapSet _ _ _ _ s_i.mem
  · exact s_i.mem

theorem execHostWindowCompletion_inv {pa : Nat} {len : Nat} {err : Nat} {write : Bool} {s : State} {t_ : State} (s_i : s.Inv)
    (e_ : execHostWindowCompletion pa len err write s = .next t_) : t_.Inv := by
  unfold execHostWindowCompletion at e_
  dsimp only at e_
  split at e_
  · cases e_
  · split at e_
    · cases e_; exact ite_inv (State.windowWritten_inv s_i) (State.log_inv (State.windowWritten_inv s_i))
    · split at e_
      · cases e_; exact s_i.of_eq rfl rfl rfl rfl
      · cases e_; exact foldl_inv (fun _ _ h => State.poisonWindow_inv h) _ s_i

theorem State.viewWrite_inv {i : Nat} {view : Nat} {s : State} {c : Nat × List Byte} (s_i : s.Inv) : (State.viewWrite i view s c).Inv := by
  unfold State.viewWrite
  grind -ring -linarith -lia -ac -order [inv_mk, → State.Inv.mem, → State.Inv.claims, → State.Inv.slots, → State.Inv.dusk, State.writeMem_inv,
      State.touch_inv]

theorem State.viewChanges_inv {s : State} {i : Nat} {view : Nat} {bs : List Byte} (s_i : s.Inv) : (State.viewChanges s i view bs).Inv := by
  unfold State.viewChanges
  grind -ring -linarith -lia -ac -order [inv_mk, → State.Inv.mem, → State.Inv.claims, → State.Inv.slots, → State.Inv.dusk, State.writeMem_inv,
      State.touch_inv]

theorem State.writeView_inv {s : State} {i : Nat} {view : Nat} (s_i : s.Inv) : (State.writeView s i view).Inv := by
  unfold State.writeView
  grind -ring -linarith -lia -ac -order [inv_mk, → State.Inv.mem, → State.Inv.claims, → State.Inv.slots, → State.Inv.dusk, State.updSlot_inv,
      State.viewWrite_inv, State.viewChanges_inv]

theorem State.mapChanged_inv {s : State} {slot : Nat} {changes : List SwitchPort} (s_i : s.Inv) : (State.mapChanged s slot changes).Inv := by
  unfold State.mapChanged
  grind -ring -linarith -lia -ac -order [inv_mk, → State.Inv.mem, → State.Inv.claims, → State.Inv.slots, → State.Inv.dusk]

theorem execViewUpdate_inv {slot : Nat} {changes : List SwitchPort} {s : State} {t_ : State} (s_i : s.Inv) (e_ : execViewUpdate slot changes s = .next
    t_) : t_.Inv := by
  have h : (s.mapChanged slot changes).Inv := s_i.of_eq rfl rfl rfl rfl
  unfold execViewUpdate at e_
  dsimp only at e_
  split at e_
  · cases e_; exact h
  · cases e_; exact ite_inv h (State.writeView_inv h)

theorem State.stretchAll_inv {s : State} (s_i : s.Inv) : (State.stretchAll s).Inv := by
  refine foldl_inv (fun s c h => ?_) _ s_i
  dsimp only
  repeat' split
  all_goals first
    | exact h
    | exact State.setCluster_inv h

theorem execThermalLevelChange_inv {lvl : Nat} {why : Nat} {reading : Nat} {s : State} {t_ : State} (s_i : s.Inv) (e_ : execThermalLevelChange lvl why
    reading s = .next t_) : t_.Inv := by
  unfold execThermalLevelChange at e_
  dsimp only at e_
  have h1 := State.stretchAll_inv (State.log_inv (etype := 13) (blk := 9) (inst := 0) (a := lvl + 4 * (why % 64)) (b := reading)
    (s_i.of_eq (t := { s with health := lvl }) rfl rfl rfl rfl))
  split at e_
  · injection e_ with e_
    subst e_
    split
    · exact foldl_inv (fun _ _ h => State.preemptJob_inv h) _ h1
    · exact h1
  · injection e_ with e_
    exact e_ ▸ s_i

theorem execLevelFall_inv {lvl : Nat} {why : Nat} {reading : Nat} {s : State} {t_ : State} (s_i : s.Inv) (e_ : execLevelFall lvl why reading s = .next
    t_) : t_.Inv := by
  unfold execLevelFall at e_
  grind -ring -linarith -lia -ac -order [inv_mk, → State.Inv.mem, → State.Inv.claims, → State.Inv.slots, → State.Inv.dusk, State.log_inv]

theorem State.restart_inv {s : State} (s_i : s.Inv) : (State.restart s).Inv := by
  have h1 := foldl_inv (fun (_ : State) i h => State.sealMemory_inv (i := i) h) s.keys s_i
  exact ⟨h1.mem, rfl, rfl, s_i.dusk⟩

theorem execModuleReset_inv {s : State} {t_ : State} (s_i : s.Inv) (e_ : execModuleReset s = .next t_) : t_.Inv := by
  unfold execModuleReset at e_
  grind -ring -linarith -lia -ac -order [inv_mk, → State.Inv.mem, → State.Inv.claims, → State.Inv.slots, → State.Inv.dusk, State.restart_inv]

theorem execThermalTrip_inv {why : Nat} {reading : Nat} {s : State} {t_ : State} (s_i : s.Inv) (e_ : execThermalTrip why reading s = .next t_) :
    t_.Inv := by
  unfold execThermalTrip at e_
  grind -ring -linarith -lia -ac -order [inv_mk, → State.Inv.mem, → State.Inv.claims, → State.Inv.slots, → State.Inv.dusk, State.log_inv,
      State.restart_inv]

theorem execBlockReady_inv {bit : Nat} {failed : Nat} {s : State} {t_ : State} (s_i : s.Inv) (e_ : execBlockReady bit failed s = .next t_) : t_.Inv :=
    by
  unfold execBlockReady at e_
  grind -ring -linarith -lia -ac -order [inv_mk, → State.Inv.mem, → State.Inv.claims, → State.Inv.slots, → State.Inv.dusk, State.log_inv]

theorem State.respond_inv {s : State} {req : List Byte} {code : Nat} {body : List Byte} (s_i : s.Inv) : (State.respond s req code body).Inv := by
  unfold State.respond
  grind -ring -linarith -lia -ac -order [inv_mk, → State.Inv.mem, → State.Inv.claims, → State.Inv.slots, → State.Inv.dusk]

theorem State.spdmError_inv {s : State} {code : Nat} (s_i : s.Inv) : (State.spdmError s code).Inv := by
  unfold State.spdmError
  grind -ring -linarith -lia -ac -order [inv_mk, → State.Inv.mem, → State.Inv.claims, → State.Inv.slots, → State.Inv.dusk]

theorem State.atStage_inv {s : State} {n : Nat} {f : State → State} {t_ : State} (s_i : s.Inv) (f_h : ∀ s : State, s.Inv → (f s).Inv) (e_ :
    State.atStage s n f = .next t_) : t_.Inv := by
  unfold State.atStage at e_
  grind -ring -linarith -lia -ac -order [inv_mk, → State.Inv.mem, → State.Inv.claims, → State.Inv.slots, → State.Inv.dusk, State.spdmError_inv]

theorem State.toStage_inv {s : State} {n : Nat} (s_i : s.Inv) : (State.toStage s n).Inv := by
  unfold State.toStage
  grind -ring -linarith -lia -ac -order [inv_mk, → State.Inv.mem, → State.Inv.claims, → State.Inv.slots, → State.Inv.dusk]

theorem State.random_inv {s : State} {n : Nat} (s_i : s.Inv) : (State.random s n).1.Inv := by
  unfold State.random
  grind -ring -linarith -lia -ac -order [inv_mk, → State.Inv.mem, → State.Inv.claims, → State.Inv.slots, → State.Inv.dusk]

theorem State.respondSigned_inv {s : State} {req : List Byte} {code : Nat} {body : List Byte} (s_i : s.Inv) : (State.respondSigned s req code
    body).Inv := by
  unfold State.respondSigned
  grind -ring -linarith -lia -ac -order [inv_mk, → State.Inv.mem, → State.Inv.claims, → State.Inv.slots, → State.Inv.dusk, State.respond_inv]

theorem execGetVersion_inv {s : State} {t_ : State} (s_i : s.Inv) (e_ : execGetVersion s = .next t_) : t_.Inv := by
  unfold execGetVersion at e_
  grind -ring -linarith -lia -ac -order [inv_mk, → State.Inv.mem, → State.Inv.claims, → State.Inv.slots, → State.Inv.dusk, State.respond_inv,
      State.atStage_inv]

theorem execGetCapabilities_inv {s : State} {t_ : State} (s_i : s.Inv) (e_ : execGetCapabilities s = .next t_) : t_.Inv := by
  unfold execGetCapabilities at e_
  grind -ring -linarith -lia -ac -order [inv_mk, → State.Inv.mem, → State.Inv.claims, → State.Inv.slots, → State.Inv.dusk, State.respond_inv,
      State.atStage_inv, State.toStage_inv]

theorem execNegotiateAlgorithms_inv {hash : Nat} {s : State} {t_ : State} (s_i : s.Inv) (e_ : execNegotiateAlgorithms hash s = .next t_) : t_.Inv :=
    by
  unfold execNegotiateAlgorithms at e_
  grind -ring -linarith -lia -ac -order [inv_mk, → State.Inv.mem, → State.Inv.claims, → State.Inv.slots, → State.Inv.dusk, State.respond_inv,
      State.spdmError_inv, State.atStage_inv, State.toStage_inv]

theorem execGetDigests_inv {s : State} {t_ : State} (s_i : s.Inv) (e_ : execGetDigests s = .next t_) : t_.Inv := by
  unfold execGetDigests at e_
  grind -ring -linarith -lia -ac -order [inv_mk, → State.Inv.mem, → State.Inv.claims, → State.Inv.slots, → State.Inv.dusk, State.respond_inv,
      State.atStage_inv]

theorem execGetCertificate_inv {chain : Nat} {off : Nat} {len : Nat} {s : State} {t_ : State} (s_i : s.Inv) (e_ : execGetCertificate chain off len s =
    .next t_) : t_.Inv := by
  unfold execGetCertificate at e_
  grind -ring -linarith -lia -ac -order [inv_mk, → State.Inv.mem, → State.Inv.claims, → State.Inv.slots, → State.Inv.dusk, State.respond_inv,
      State.spdmError_inv, State.atStage_inv]

theorem execChallenge_inv {slot : Nat} {nonce : Nat} {s : State} {t_ : State} (s_i : s.Inv) (e_ : execChallenge slot nonce s = .next t_) : t_.Inv :=
    by
  unfold execChallenge at e_
  grind -ring -linarith -lia -ac -order [inv_mk, → State.Inv.mem, → State.Inv.claims, → State.Inv.slots, → State.Inv.dusk, State.spdmError_inv,
      State.atStage_inv, State.random_inv, State.respondSigned_inv]

theorem execGetMeasurements_inv {slot : Nat} {index : Nat} {nonce : Nat} {s : State} {t_ : State} (s_i : s.Inv) (e_ : execGetMeasurements slot index
    nonce s = .next t_) : t_.Inv := by
  unfold execGetMeasurements at e_
  grind -ring -linarith -lia -ac -order [inv_mk, → State.Inv.mem, → State.Inv.claims, → State.Inv.slots, → State.Inv.dusk, State.spdmError_inv,
      State.atStage_inv, State.respondSigned_inv]

theorem execKeyExchange_inv {slot : Nat} {share : Nat} {s : State} {t_ : State} (s_i : s.Inv) (e_ : execKeyExchange slot share s = .next t_) : t_.Inv
    := by
  unfold execKeyExchange at e_
  grind -ring -linarith -lia -ac -order [inv_mk, → State.Inv.mem, → State.Inv.claims, → State.Inv.slots, → State.Inv.dusk, State.spdmError_inv,
      State.atStage_inv, State.random_inv, State.respondSigned_inv]

theorem State.giveSecret_inv {s : State} {i : Nat} {secret : List Byte} (s_i : s.Inv) : (State.giveSecret s i secret).Inv := by
  unfold State.giveSecret
  grind -ring -linarith -lia -ac -order [inv_mk, → State.Inv.mem, → State.Inv.claims, → State.Inv.slots, → State.Inv.dusk, State.writeMem_inv,
      State.touch_inv]

theorem execFinish_inv {slot : Nat} {s : State} {t_ : State} (s_i : s.Inv) (e_ : execFinish slot s = .next t_) : t_.Inv := by
  unfold execFinish at e_
  grind -ring -linarith -lia -ac -order [inv_mk, → State.Inv.mem, → State.Inv.claims, → State.Inv.slots, → State.Inv.dusk, State.respond_inv,
      State.spdmError_inv, State.atStage_inv, State.giveSecret_inv]

theorem execUnsupportedSpdmRequest_inv {code : Nat} {s : State} {t_ : State} (s_i : s.Inv) (e_ : execUnsupportedSpdmRequest code s = .next t_) :
    t_.Inv := by
  unfold execUnsupportedSpdmRequest at e_
  grind -ring -linarith -lia -ac -order [inv_mk, → State.Inv.mem, → State.Inv.claims, → State.Inv.slots, → State.Inv.dusk]

end Sys2Proof.Machine
end

