-- ==== Sys2Proof/Laws/InvStep.lean ====
section
/-! SUPPORT. The invariant kept by every instruction, by a convoy and by a step with an empty agenda. -/

namespace Sys2Proof.Machine

set_option Elab.async false

/-- No instruction and no step of another agent breaks the invariant. -/
theorem exec_inv {i : Instr} {s t : State} (h : s.Inv) (e : exec i s = .next t) : t.Inv := by
  cases i
  case moduleReset => exact execModuleReset_inv h e
  case blockReady => exact execBlockReady_inv h e
  case jstart => exact execJstart_inv h e
  case jctlCancel => exact execJctlCancel_inv h e
  case jctlHold => exact execJctlHold_inv h e
  case jctlResume => exact execJctlResume_inv h e
  case dclr => exact execDclr_inv h e
  case hostRegisterWrite => exact execHostRegisterWrite_inv h e
  case hostRead => exact execHostRead_inv h e
  case hostPostedWrite => exact execHostPostedWrite_inv h e
  case hostAccessAfterClaim => exact execHostAccessAfterClaim_inv h e
  case hostClaimTimeout => exact execHostClaimTimeout_inv h e
  case tdispExitRun => exact execTdispExitRun_inv h e
  case hostLinkFailure => exact execHostLinkFailure_inv h e
  case getVersion => exact execGetVersion_inv h e
  case getCapabilities => exact execGetCapabilities_inv h e
  case negotiateAlgorithms => exact execNegotiateAlgorithms_inv h e
  case getDigests => exact execGetDigests_inv h e
  case getCertificate => exact execGetCertificate_inv h e
  case challenge => exact execChallenge_inv h e
  case getMeasurements => exact execGetMeasurements_inv h e
  case keyExchange => exact execKeyExchange_inv h e
  case finish => exact execFinish_inv h e
  case countDown => exact execCountDown_inv h e
  case hartCancel => exact execHartCancel_inv h e
  case cancellationComplete => exact execCancellationComplete_inv h e
  case launchPlacement => exact execLaunchPlacement_inv h e
  case preemption => exact execPreemption_inv h e
  case issueTurn => exact execIssueTurn_inv h e
  case laneCountChange => exact execLaneCountChange_inv h e
  case clockStretch => exact execClockStretch_inv h e
  case periodBoundary => exact execPeriodBoundary_inv h e
  case periodLimit => exact execPeriodLimit_inv h e
  case daybreakPulse => exact execDaybreakPulse_inv h e
  case bankTwilight => exact execBankTwilight_inv h e
  case bankWake => exact execBankWake_inv h e
  case asyncInterrupt => exact execAsyncInterrupt_inv h e
  case claimArrival => exact execClaimArrival_inv h e
  case atomicArrival => exact execAtomicArrival_inv h e
  case copyEngineOperation => exact execCopyEngineOperation_inv h e
  case feedQueueFillResume => exact execFeedQueueFillResume_inv h e
  case collectiveDrain => exact execCollectiveDrain_inv h e
  case barrierRelease => exact execBarrierRelease_inv h e
  case haltComplete => exact execHaltComplete_inv h e
  case packetHop => exact execPacketHop_inv h e
  case putPacket => exact execPutPacket_inv h e
  case getRequest => exact execGetRequest_inv h e
  case getReply => exact execGetReply_inv h e
  case signalPacket => exact execSignalPacket_inv h e
  case acknowledgment => exact execAcknowledgment_inv h e
  case messageClaimTimeout => exact execMessageClaimTimeout_inv h e
  case reportArrival => exact execReportArrival_inv h e
  case retransmitTimeout => exact execRetransmitTimeout_inv h e
  case flitCrcError => exact execFlitCrcError_inv h e
  case linkDown => exact execLinkDown_inv h e
  case viewUpdate => exact execViewUpdate_inv h e
  case logRecordWrite => exact execLogRecordWrite_inv h e
  case mtimerExpiry => exact execMtimerExpiry_inv h e
  case partitionReset => exact execPartitionReset_inv h e
  case partitionDrainEnd => exact execPartitionDrainEnd_inv h e
  case thermalLevelChange => exact execThermalLevelChange_inv h e
  case levelFall => exact execLevelFall_inv h e
  case thermalTrip => exact execThermalTrip_inv h e
  case laneRetirement => exact execLaneRetirement_inv h e
  case scrub => exact execScrub_inv h e
  case illegalInstruction => exact execIllegalInstruction_inv h e
  case fetchFault => exact execFetchFault_inv h e
  case tdispEnterRun => exact execTdispEnterRun_inv h e
  case partitionBinding => exact execPartitionBinding_inv h e
  case hostWindowCompletion => exact execHostWindowCompletion_inv h e
  case unsupportedSpdmRequest => exact execUnsupportedSpdmRequest_inv h e
  case lui => exact execLui_inv h e
  case auipc => exact execAuipc_inv h e
  case jal => exact execJal_inv h e
  case jalr => exact execJalr_inv h e
  case beq => exact execBeq_inv h e
  case bne => exact execBne_inv h e
  case blt => exact execBlt_inv h e
  case bge => exact execBge_inv h e
  case bltu => exact execBltu_inv h e
  case bgeu => exact execBgeu_inv h e
  case lb => exact execLb_inv h e
  case lh => exact execLh_inv h e
  case lw => exact execLw_inv h e
  case ld => exact execLd_inv h e
  case lbu => exact execLbu_inv h e
  case lhu => exact execLhu_inv h e
  case lwu => exact execLwu_inv h e
  case sb => exact execSb_inv h e
  case sh => exact execSh_inv h e
  case sw => exact execSw_inv h e
  case sd => exact execSd_inv h e
  case addi => exact execAddi_inv h e
  case slti => exact execSlti_inv h e
  case sltiu => exact execSltiu_inv h e
  case xori => exact execXori_inv h e
  case ori => exact execOri_inv h e
  case andi => exact execAndi_inv h e
  case slli => exact execSlli_inv h e
  case srli => exact execSrli_inv h e
  case srai => exact execSrai_inv h e
  case add => exact execAdd_inv h e
  case sub => exact execSub_inv h e
  case sll => exact execSll_inv h e
  case slt => exact execSlt_inv h e
  case sltu => exact execSltu_inv h e
  case xor => exact execXor_inv h e
  case srl => exact execSrl_inv h e
  case sra => exact execSra_inv h e
  case or => exact execOr_inv h e
  case and => exact execAnd_inv h e
  case mul => exact execMul_inv h e
  case mulh => exact execMulh_inv h e
  case mulhsu => exact execMulhsu_inv h e
  case mulhu => exact execMulhu_inv h e
  case div => exact execDiv_inv h e
  case divu => exact execDivu_inv h e
  case rem => exact execRem_inv h e
  case remu => exact execRemu_inv h e
  case addiw => exact execAddiw_inv h e
  case slliw => exact execSlliw_inv h e
  case srliw => exact execSrliw_inv h e
  case sraiw => exact execSraiw_inv h e
  case addw => exact execAddw_inv h e
  case subw => exact execSubw_inv h e
  case sllw => exact execSllw_inv h e
  case srlw => exact execSrlw_inv h e
  case sraw => exact execSraw_inv h e
  case mulw => exact execMulw_inv h e
  case divw => exact execDivw_inv h e
  case divuw => exact execDivuw_inv h e
  case remw => exact execRemw_inv h e
  case remuw => exact execRemuw_inv h e
  case fence => exact execFence_inv (_d := 0) (_a := 0) (_f := 0) (_p := 0) (_s := 0) h e
  case ecall => exact execEcall_inv h e
  case ebreak => exact execEbreak_inv h e
  case csrrw => exact execCsrrw_inv h e
  case csrrs => exact execCsrrs_inv h e
  case csrrc => exact execCsrrc_inv h e
  case csrrwi => exact execCsrrwi_inv h e
  case csrrsi => exact execCsrrsi_inv h e
  case csrrci => exact execCsrrci_inv h e
  case strip => exact execStrip_inv h e
  case vsetc => exact execVsetc_inv h e
  case pset => exact execPset_inv h e
  case pget => exact execPget_inv h e
  case vloop => exact execVloop_inv h e
  case vbany => exact execVbany_inv h e
  case vbnone => exact execVbnone_inv h e
  case vsett => exact execVsett_inv h e
  case vld => exact execVld_inv (_c := false) h e
  case vlds => exact execVlds_inv (_c := false) h e
  case vldx => exact execVldx_inv (_c := false) h e
  case vldf => exact execVldf_inv (_c := false) h e
  case vldxf => exact execVldxf_inv (_c := false) h e
  case vst => exact execVst_inv (_c := false) h e
  case vsts => exact execVsts_inv (_c := false) h e
  case vstx => exact execVstx_inv (_c := false) h e
  case vldp => exact execVldp_inv (_c := false) h e
  case vstp => exact execVstp_inv (_c := false) h e
  case vspill => exact execVspill_inv (_c := false) h e
  case vreload => exact execVreload_inv (_c := false) h e
  case qld => exact execQld_inv (_c := false) h e
  case vldt => exact execVldt_inv (_c := false) h e
  case vmv => exact execVmv_inv (_c := false) h e
  case vmvx => exact execVmvx_inv (_c := false) h e
  case vmvs => exact execVmvs_inv (_c := false) h e
  case vslideu => exact execVslideu_inv (_c := false) h e
  case vslided => exact execVslided_inv (_c := false) h e
  case vgath => exact execVgath_inv (_c := false) h e
  case vcomp => exact execVcomp_inv (_c := false) h e
  case vexpd => exact execVexpd_inv (_c := false) h e
  case vsel => exact execVsel_inv (_c := false) h e
  case vpack => exact execVpack_inv (_c := false) h e
  case vunpk => exact execVunpk_inv (_c := false) h e
  case viota => exact execViota_inv (_c := false) h e
  case mand => exact execMand_inv (_c := false) h e
  case mor => exact execMor_inv (_c := false) h e
  case mxor => exact execMxor_inv (_c := false) h e
  case mandn => exact execMandn_inv (_c := false) h e
  case mset => exact execMset_inv (_c := false) h e
  case vcut => exact execVcut_inv (_c := false) h e
  case vpopm => exact execVpopm_inv (_c := false) h e
  case vadd => exact execVadd_inv (_c := false) h e
  case vsub => exact execVsub_inv (_c := false) h e
  case vmul => exact execVmul_inv (_c := false) h e
  case vmulh => exact execVmulh_inv (_c := false) h e
  case vdiv => exact execVdiv_inv (_c := false) h e
  case vrem => exact execVrem_inv (_c := false) h e
  case vmin => exact execVmin_inv (_c := false) h e
  case vmax => exact execVmax_inv (_c := false) h e
  case vand => exact execVand_inv (_c := false) h e
  case vor => exact execVor_inv (_c := false) h e
  case vxor => exact execVxor_inv (_c := false) h e
  case vsll => exact execVsll_inv (_c := false) h e
  case vsrl => exact execVsrl_inv (_c := false) h e
  case vsra => exact execVsra_inv (_c := false) h e
  case vadds => exact execVadds_inv (_c := false) h e
  case vaddsSub => exact execVaddsSub_inv (_c := false) h e
  case vicmp => exact execVicmp_inv (_c := false) h e
  case vfadd => exact execVfadd_inv (_c := false) h e
  case vfsub => exact execVfsub_inv (_c := false) h e
  case vfmul => exact execVfmul_inv (_c := false) h e
  case vffma => exact execVffma_inv (_c := false) h e
  case vfmin => exact execVfmin_inv (_c := false) h e
  case vfmax => exact execVfmax_inv (_c := false) h e
  case vfcmp => exact execVfcmp_inv (_c := false) h e
  case vfcmpF => exact execVfcmpF_inv (_c := false) h e
  case vfcvt => exact execVfcvt_inv (_c := false) h e
  case vfrnd => exact execVfrnd_inv (_c := false) h e
  case vfcls => exact execVfcls_inv (_c := false) h e
  case vfabs => exact execVfabs_inv (_c := false) h e
  case vfdiv => exact execVfdiv_inv (_c := false) h e
  case vfsqrt => exact execVfsqrt_inv (_c := false) h e
  case vrsqe => exact execVrsqe_inv (_c := false) h e
  case vrcpe => exact execVrcpe_inv (_c := false) h e
  case vexp => exact execVexp_inv (_c := false) h e
  case vlog => exact execVlog_inv (_c := false) h e
  case vsigm => exact execVsigm_inv (_c := false) h e
  case vtanh => exact execVtanh_inv (_c := false) h e
  case vredsum => exact execVredsum_inv (_c := false) h e
  case vredtree => exact execVredtree_inv (_c := false) h e
  case vredx => exact execVredx_inv (_c := false) h e
  case vred => exact execVred_inv (_c := false) h e
  case vscan => exact execVscan_inv (_c := false) h e
  case vffs => exact execVffs_inv (_c := false) h e
  case laget => exact execLaget_inv (_c := false) h e
  case laclr => exact execLaclr_inv (_c := false) h e
  case smx => exact execSmx_inv (_c := false) h e
  case vrng => exact execVrng_inv (_c := false) h e
  case vutf => exact execVutf_inv (_c := false) h e
  case vtbl => exact execVtbl_inv (_c := false) h e
  case vaddP => exact execVaddP_inv (_c := false) h e
  case vsubP => exact execVsubP_inv (_c := false) h e
  case vmulP => exact execVmulP_inv (_c := false) h e
  case vminP => exact execVminP_inv (_c := false) h e
  case vfaddP => exact execVfaddP_inv (_c := false) h e
  case vfsubP => exact execVfsubP_inv (_c := false) h e
  case vfmulP => exact execVfmulP_inv (_c := false) h e
  case vffmaP => exact execVffmaP_inv (_c := false) h e
  case vaddVx => exact execVaddVx_inv (_c := false) h e
  case vsubVx => exact execVsubVx_inv (_c := false) h e
  case vmulVx => exact execVmulVx_inv (_c := false) h e
  case vmulhVx => exact execVmulhVx_inv (_c := false) h e
  case vdivVx => exact execVdivVx_inv (_c := false) h e
  case vremVx => exact execVremVx_inv (_c := false) h e
  case vminVx => exact execVminVx_inv (_c := false) h e
  case vmaxVx => exact execVmaxVx_inv (_c := false) h e
  case vandVx => exact execVandVx_inv (_c := false) h e
  case vorVx => exact execVorVx_inv (_c := false) h e
  case vxorVx => exact execVxorVx_inv (_c := false) h e
  case vsllVx => exact execVsllVx_inv (_c := false) h e
  case vsrlVx => exact execVsrlVx_inv (_c := false) h e
  case vsraVx => exact execVsraVx_inv (_c := false) h e
  case vaddsVx => exact execVaddsVx_inv (_c := false) h e
  case vicmpVx => exact execVicmpVx_inv (_c := false) h e
  case vaddVi => exact execVaddVi_inv (_c := false) h e
  case vminVi => exact execVminVi_inv (_c := false) h e
  case vmaxVi => exact execVmaxVi_inv (_c := false) h e
  case vandVi => exact execVandVi_inv (_c := false) h e
  case vorVi => exact execVorVi_inv (_c := false) h e
  case vxorVi => exact execVxorVi_inv (_c := false) h e
  case vsllVi => exact execVsllVi_inv (_c := false) h e
  case vsrlVi => exact execVsrlVi_inv (_c := false) h e
  case vsraVi => exact execVsraVi_inv (_c := false) h e
  case vaddsVi => exact execVaddsVi_inv (_c := false) h e
  case vicmpVi => exact execVicmpVi_inv (_c := false) h e
  case vfaddVf => exact execVfaddVf_inv (_c := false) h e
  case vfsubVf => exact execVfsubVf_inv (_c := false) h e
  case vfmulVf => exact execVfmulVf_inv (_c := false) h e
  case vffmaVf => exact execVffmaVf_inv (_c := false) h e
  case vfminVf => exact execVfminVf_inv (_c := false) h e
  case vfmaxVf => exact execVfmaxVf_inv (_c := false) h e
  case vfcmpVf => exact execVfcmpVf_inv (_c := false) h e
  case vfcmpFVf => exact execVfcmpFVf_inv (_c := false) h e
  case vfdivVf => exact execVfdivVf_inv (_c := false) h e
  case fadd => exact execFadd_inv h e
  case fsub => exact execFsub_inv h e
  case fmul => exact execFmul_inv h e
  case ffma => exact execFfma_inv h e
  case fmin => exact execFmin_inv h e
  case fmax => exact execFmax_inv h e
  case fcmp => exact execFcmp_inv h e
  case fcmpF => exact execFcmpF_inv h e
  case fcvt => exact execFcvt_inv h e
  case frnd => exact execFrnd_inv h e
  case fcls => exact execFcls_inv h e
  case fmvx => exact execFmvx_inv h e
  case fmvf => exact execFmvf_inv h e
  case fld => exact execFld_inv h e
  case fst => exact execFst_inv h e
  case fspill => exact execFspill_inv h e
  case ffill => exact execFfill_inv h e
  case gfromv => exact execGfromv_inv (_c := false) h e
  case gtov => exact execGtov_inv (_c := false) h e
  case tup => exact execTup_inv (_c := false) h e
  case tdown => exact execTdown_inv (_c := false) h e
  case tbcast => exact execTbcast_inv (_c := false) h e
  case tdepth => exact execTdepth_inv (_c := false) h e
  case tanc => exact execTanc_inv (_c := false) h e
  case tisanc => exact execTisanc_inv (_c := false) h e
  case tcontract => exact execTcontract_inv (_c := false) h e
  case tcheck => exact execTcheck_inv (_c := false) h e
  case tidset => exact execTidset_inv (_c := false) h e
  case tidget => exact execTidget_inv (_c := false) h e
  case wset => exact execWset_inv (_c := false) h e
  case tld => exact execTld_inv (_c := false) h e
  case tst => exact execTst_inv (_c := false) h e
  case bcopy => exact execBcopy_inv (_c := false) h e
  case opa => exact execOpa_inv (_c := false) h e
  case tmm => exact execTmm_inv (_c := false) h e
  case aclr => exact execAclr_inv (_c := false) h e
  case ardv => exact execArdv_inv (_c := false) h e
  case awrv => exact execAwrv_inv (_c := false) h e
  case asave => exact execAsave_inv (_c := false) h e
  case arestore => exact execArestore_inv (_c := false) h e
  case tdigest => exact execTdigest_inv (_c := false) h e
  case qset => exact execQset_inv (_c := false) h e
  case vgl => exact execVgl_inv h e
  case vamoAdd => exact execVamoAdd_inv h e
  case vamoFadd => exact execVamoFadd_inv h e
  case vamoMin => exact execVamoMin_inv h e
  case vamoMax => exact execVamoMax_inv h e
  case vamoAnd => exact execVamoAnd_inv h e
  case vamoOr => exact execVamoOr_inv h e
  case vamoXor => exact execVamoXor_inv h e
  case vamoSwap => exact execVamoSwap_inv h e
  case vamooAdd => exact execVamooAdd_inv h e
  case vamooFadd => exact execVamooFadd_inv h e
  case vamooMin => exact execVamooMin_inv h e
  case vamooMax => exact execVamooMax_inv h e
  case vamooAnd => exact execVamooAnd_inv h e
  case vamooOr => exact execVamooOr_inv h e
  case vamooXor => exact execVamooXor_inv h e
  case vamooSwap => exact execVamooSwap_inv h e
  case vsc => exact execVsc_inv h e
  case fas => exact execFas_inv h e
  case amoxAdd => exact execAmoxAdd_inv h e
  case amoxFadd => exact execAmoxFadd_inv h e
  case amoxMin => exact execAmoxMin_inv h e
  case amoxMax => exact execAmoxMax_inv h e
  case amoxAnd => exact execAmoxAnd_inv h e
  case amoxOr => exact execAmoxOr_inv h e
  case amoxXor => exact execAmoxXor_inv h e
  case amoxSwap => exact execAmoxSwap_inv h e
  case ldaq => exact execLdaq_inv (_sc := 0) h e
  case strl => exact execStrl_inv (_sc := 0) h e
  case fencev => exact execFencev_inv (_sc := 0) h e
  case fencevColl => exact execFencevColl_inv h e
  case fencel => exact execFencel_inv h e
  case launch => exact execLaunch_inv h e
  case graphrun => exact execGraphrun_inv h e
  case ccadd => exact execCcadd_inv h e
  case ccwait => exact execCcwait_inv h e
  case ccread => exact execCcread_inv h e
  case cancel => exact execCancel_inv h e
  case yield => exact execYield_inv h e
  case halt => exact execHalt_inv h e
  case ttstart => exact execTtstart_inv h e
  case ttsync => exact execTtsync_inv h e
  case mput => exact execMput_inv h e
  case mget => exact execMget_inv h e
  case msig => exact execMsig_inv h e
  case mchk => exact execMchk_inv h e
  case logpub => exact execLogpub_inv h e
  case cprec => exact execCprec_inv h e
  case tret => exact execTret_inv h e
  case wait => exact execWait_inv h e
  case ctxsave => exact execCtxsave_inv h e
  case ctxload => exact execCtxload_inv h e
  case tinv => exact execTinv_inv h e
  case bar => exact execBar_inv h e

theorem State.atPlaced_inv {s : State} {c : Cursor} {p : Placed} {lo hi : Nat} (h : s.Inv) : (s.atPlaced c p lo hi).Inv := State.upd_inv h
theorem State.engineMoves_inv {s : State} (h : s.Inv) : s.engineMoves.Inv := State.engineOrder_inv (fun _ _ h => runWhole_inv h) h
theorem State.fetched_inv {s : State} {n : Nat} (h : s.Inv) : (s.fetched n).Inv := State.touch_inv (State.fill_inv h)
theorem State.fillUnits_inv {s : State} {i : Instr} (h : s.Inv) : (s.fillUnits i).Inv := State.fill_inv h

theorem State.fillEarly_inv {c : Cursor} (ps : List Placed) {e : List Member} {s : State} (h : s.Inv) : (State.fillEarly c e s ps).Inv := by
  induction ps generalizing e s with
  | nil => exact h
  | cons p r ih => exact ih (ite_inv ((State.fillUnits_inv (State.atPlaced_inv h)).of_eq rfl rfl rfl rfl) h)
theorem State.drawn_inv {s : State} {n : Nat} (h : s.Inv) : (s.drawn n).Inv := h.of_eq rfl rfl rfl rfl
theorem State.draw_inv {s : State} (h : s.Inv) : s.draw.Inv := h.of_eq rfl rfl rfl rfl

theorem State.trialAt_inv {s : State} {c : Cursor} {p : Placed} (h : s.Inv) : (s.trialAt c p).Inv := h.of_eq rfl rfl rfl rfl

theorem State.chooseStop_inv {s : State} {i : Instr} (h : s.Inv) : (s.chooseStop i).1.Inv := by
  unfold State.chooseStop
  dsimp only
  split
  · exact h
  · exact h.of_eq rfl rfl rfl rfl

theorem State.performAlone_inv {s t : State} {i : Instr} (h : s.Inv) (e : State.performAlone i s = .next t) : t.Inv := by
  unfold State.performAlone at e
  dsimp only at e
  split at e
  · exact exec_inv (State.chooseStop_inv h) e
  · split at e
    next u eu =>
      injection e with e
      exact e ▸ State.upd_inv (exec_inv (State.chooseStop_inv h) eu)
    next no => exact absurd e (no t)

/-- A trial changes only the claims that later trials see, and its fault's log is that of a step. -/
theorem State.trial_inv {s : State} {c : Cursor} {p : Placed} (h : s.Inv) :
    (s.trial c p).2.1.Inv ∧ ∀ f, (s.trial c p).1 = some f → f.log.Inv := by
  unfold State.trial
  dsimp only
  split
  next t e =>
    have ht := exec_inv (State.trialAt_inv h) e
    split
    · refine ⟨h, fun f hf => ?_⟩
      dsimp only at hf
      split at hf
      · injection hf with hf
        rw [← hf]
        exact ht
      · cases hf
    · exact ⟨⟨h.mem, ht.claims, h.slots, h.dusk⟩, fun f hf => nomatch hf⟩
  · exact ⟨h, fun f hf => nomatch hf⟩

theorem State.earlyFaults_inv (ps : List Placed) {e : List Member} {s : State} {c : Cursor} (h : s.Inv) :
    ∀ f ∈ State.earlyFaults e s c ps, f.log.Inv := by
  induction ps generalizing e s c with
  | nil => intro f hf; cases hf
  | cons p r ih =>
    intro f hf
    unfold State.earlyFaults at hf
    have k := State.trial_inv (c := c) (p := p) h
    split at hf
    · split at hf
      next g t d e0 =>
        rw [e0] at k
        rcases List.mem_cons.mp hf with rfl | hf
        · exact k.2 _ rfl
        · exact ih k.1 f hf
      next t d e0 =>
        rw [e0] at k
        exact ih k.1 f hf
    · exact ih h f hf

theorem lowestFault_mem {fs : List EarlyFault} {f : EarlyFault} (h : lowestFault fs = some f) : f ∈ fs := by
  have key : ∀ (l : List EarlyFault) (b : Option EarlyFault), (l.foldl (fun b f => match b with
      | none => some f
      | some g => if f.before g then some f else b) b) = some f → b = some f ∨ f ∈ l := by
    intro l
    induction l with
    | nil => intro b h; exact .inl h
    | cons a r ih =>
      intro b h
      rcases ih _ h with h | h
      · dsimp only at h
        split at h
        · injection h with h
          exact .inr (h ▸ List.mem_cons_self ..)
        · split at h
          · injection h with h
            exact .inr (h ▸ List.mem_cons_self ..)
          · exact .inl h
      · exact .inr (List.mem_cons_of_mem _ h)
  rcases key fs none h with h | h
  · cases h
  · exact h

/-- A convoy at work keeps the invariant, in its state and in the outcome of the member that ended it early. -/
structure Progress.Inv (g : Progress) : Prop where
  s : g.s.Inv
  out : ∀ x, g.ended = some x → ∀ t, x.out = .next t → t.Inv

theorem State.tryMember_inv {p : Placed} {k : Option Nat} (n : Nat) {s : State} (h : s.Inv) :
    (State.tryMember p k n s).1.Inv ∧ ∀ x, (State.tryMember p k n s).2 = some x → ∀ t, x.out = .next t → t.Inv := by
  induction n generalizing s with
  | zero =>
    unfold State.tryMember
    split
    next t e =>
      have ht := exec_inv h e
      split
      · split
        · exact ⟨h, fun x hx t ht => by cases hx; exact State.deviate_inv h ht⟩
        · exact ⟨ht, fun x hx t e => by cases hx; cases e; exact ht⟩
        next hn => cases hn
      · split
        · exact ⟨ht, fun x hx t e => by cases hx; cases e; exact ht⟩
        · split
          · exact ⟨ht, fun x hx => nomatch hx⟩
          · exact ⟨ht, fun x hx t e => by cases hx; cases e; exact ht⟩
    next no => exact ⟨h, fun x hx t e => by cases hx; exact absurd e (no t)⟩
  | succ n ih =>
    unfold State.tryMember
    split
    next t e =>
      have ht := exec_inv h e
      split
      · split
        · exact ⟨h, fun x hx t ht => by cases hx; exact State.deviate_inv h ht⟩
        next hn => cases hn
        next m hn =>
          injection hn with hn
          subst hn
          have hu := State.engineMoves_inv ht
          dsimp only
          split
          · exact ⟨hu, fun x hx t e => by cases hx; cases e; exact hu⟩
          · exact ih hu
      · split
        · exact ⟨ht, fun x hx t e => by cases hx; cases e; exact ht⟩
        · split
          · exact ⟨ht, fun x hx => nomatch hx⟩
          · exact ⟨ht, fun x hx t e => by cases hx; cases e; exact ht⟩
    next no => exact ⟨h, fun x hx t e => by cases hx; exact absurd e (no t)⟩

theorem Progress.before_inv {g : Progress} {cuts : List Nat} {p : Placed} {r : Nat} (h : g.Inv) : (g.before cuts p r).Inv := by
  unfold Progress.before
  exact State.upd_inv (State.atPlaced_inv h.s)

/-- A member's outcome with registers put back is of the invariant as before. -/
theorem Ended.restored_out {now : List OldReg} {e : Ended} (h : ∀ t, e.out = .next t → t.Inv) : ∀ t, (e.restored now).out = .next t → t.Inv := by
  intro t
  unfold Ended.restored
  split
  next u hu => intro e; injection e with e; exact e ▸ State.upd_inv (h _ hu)
  · exact h t

theorem Progress.run_inv {cuts : List Nat} {live : Option TimePos} {n : Nat} {ps : List Placed} {g : Progress} {p : Placed} {r : Nat} (h : g.Inv) :
    (g.run cuts live n ps p r).Inv := by
  unfold Progress.run
  dsimp only
  have h1 := Progress.before_inv (cuts := cuts) (p := p) (r := r) h
  split
  · exact ⟨h.s, fun x hx => by cases hx; exact Ended.restored_out (fun t e => State.trap_inv h1 e)⟩
  · have h2 := State.tryMember_inv (p := p)
      (k := live.map (fun t => (g.before cuts p r).entryCycle { t with entry := t.entry + (p.pos - g.c.pos) }))
      ((g.before cuts p r).hart.engine.length + 2)
      (ite_inv (c := p.mem.long = true) (State.chooseStop_inv (i := p.ins) h1) (State.fillUnits_inv (i := p.ins) h1))
    split
    next e he => exact ⟨by dsimp only; exact State.upd_inv h2.1, fun x hx => by cases hx; exact Ended.restored_out (h2.2 e he)⟩
    · exact ⟨by dsimp only; exact State.upd_inv h2.1, fun x hx => nomatch hx⟩

theorem Progress.demand_inv {cuts : List Nat} {live : Option TimePos} {n : Nat} {ps : List Placed} (fuel : Nat) {g : Progress} {t : Nat × Nat}
    (h : g.Inv) : (Progress.demand cuts live n ps fuel g t).Inv := by
  induction fuel generalizing g t with
  | zero => exact h
  | succ k ih =>
    have fold : ∀ (l : List (Nat × Nat)) {g : Progress}, g.Inv → (l.foldl (fun g d => Progress.demand cuts live n ps k g d) g).Inv := by
      intro l
      induction l with
      | nil => exact fun h => h
      | cons a r ihr => exact fun h => ihr (ih h)
    unfold Progress.demand
    split
    · exact h
    · split
      · exact h
      · dsimp only
        have hite : ∀ {c : Prop} [Decidable c] {a b : Progress}, a.Inv → b.Inv → Progress.Inv (if c then a else b) := by
          intro c _ a b ha hb
          split
          · exact ha
          · exact hb
        refine hite ?_ (Progress.run_inv ?_) <;>
        · split
          · exact fold _ h
          · exact hite (fold _ (fold _ (fold _ h))) (fold _ (fold _ h))

theorem State.performing_inv {live : Option TimePos} {ps : List Placed} {c : Cursor} (fuel : Nat) {s : State} {cuts : List Nat} (h : s.Inv) :
    (State.performing live ps c s fuel cuts).Inv := by
  induction fuel generalizing cuts with
  | zero => exact ⟨h, fun x hx => nomatch hx⟩
  | succ k ih =>
    have fold : ∀ (l : List (Nat × Nat)) (n m : Nat) {g : Progress}, g.Inv → (l.foldl (Progress.demand cuts live n ps m) g).Inv := by
      intro l n m
      induction l with
      | nil => exact fun h => h
      | cons a r ihr => exact fun h => ihr (Progress.demand_inv m h)
    unfold State.performing
    dsimp only
    split
    · exact fold _ _ _ ⟨h, fun x hx => nomatch hx⟩
    · split
      · exact ih
      · exact fold _ _ _ ⟨h, fun x hx => nomatch hx⟩

theorem State.perform_inv {s : State} {live : Option TimePos} {c : Cursor} {ps : List Placed} (h : s.Inv) : (s.perform live c ps).Inv :=
  State.performing_inv _ h

theorem Progress.close_inv {g : Progress} {t : State} (h : g.Inv) (e : g.close = .next t) : t.Inv := by
  unfold Progress.close at e
  split at e
  · injection e with e
    exact e ▸ State.upd_inv h.s
  next x hx =>
    have ho := h.out x hx
    split at e
    next u _ hu => injection e with e; exact e ▸ State.upd_inv (ho _ hu)
    next u _ hu => injection e with e; exact e ▸ State.upd_inv (ho _ hu)
    next u _ hu => injection e with e; exact e ▸ State.upd_inv (ho _ hu)
    · exact ho _ e

theorem State.afterIssue_inv {s t : State} {b : Bool} {o : Host.Outcome State Fault Refusal} (h : s.Inv) (ho : ∀ t, o = .next t → t.Inv)
    (e : s.afterIssue b o = .next t) : t.Inv := by
  unfold State.afterIssue at e
  split at e
  · split at e
    · exact State.deviate_inv h e
    · exact ho _ e
  · exact ho _ e

theorem State.aloneTimed_inv {s t : State} {c : Cursor} {p : Placed} {b : Bool} {k : State → Host.Outcome State Fault Refusal}
    (h : s.Inv) (hk : ∀ s t : State, s.Inv → k s = .next t → t.Inv) (e : s.aloneTimed c p b k = .next t) : t.Inv := by
  unfold State.aloneTimed at e
  split at e
  · exact hk _ _ h e
  · split at e
    · exact hk _ _ h e
    · split at e
      · exact State.deviate_inv (State.drawn_inv h) e
      · refine State.afterIssue_inv (State.drawn_inv h) (fun u hu => hk _ _ ?_ hu) e
        exact ite_inv (State.drawn_inv h) (State.upd_inv (State.drawn_inv h))

theorem State.convoyTimed_inv {s t : State} {c : Cursor} {ps : List Placed} (h : s.Inv) (e : s.convoyTimed c ps = .next t) : t.Inv := by
  unfold State.convoyTimed at e
  split at e
  · exact Progress.close_inv (State.perform_inv h) e
  · split at e
    · exact Progress.close_inv (State.perform_inv h) e
    · dsimp only at e
      split at e
      · split at e
        · exact Progress.close_inv (State.perform_inv (State.drawn_inv h)) e
        · exact State.deviate_inv (State.atPlaced_inv (State.perform_inv (State.drawn_inv h)).s) e
      · split at e
        · exact Progress.close_inv (State.perform_inv (State.upd_inv (State.drawn_inv h))) e
        · injection e with e
          exact e ▸ State.upd_inv (State.perform_inv (State.upd_inv (State.drawn_inv h))).s

theorem countTurn_inv {b : Bool} {o : Host.Outcome State Fault Refusal} {t : State} (ho : ∀ t, o = .next t → t.Inv) (e : countTurn b o = .next t) : t.Inv := by
  unfold countTurn at e
  split at e
  · injection e with e
    rw [← e]
    exact State.upd_inv (ho _ rfl)
  · exact ho _ e

theorem State.single_inv {s t : State} {w : Nat} {i : Instr} (h : s.Inv) (e : s.single w i = .next t) : t.Inv := by
  unfold State.single at e
  dsimp only at e
  split at e
  · exact State.trap_inv (State.upd_inv h) e
  · exact State.aloneTimed_inv (ite_inv (State.fillUnits_inv (State.upd_inv h)) (State.upd_inv h)) (fun _ _ h e => State.performAlone_inv h e) e

theorem State.trapAt_inv {s t : State} {c : Cursor} {ps : List Placed} {p : Placed} {k : Trap} (h : s.Inv) (e : s.trapAt c ps p k = .next t) :
    t.Inv := by
  unfold State.trapAt at e
  dsimp only at e
  split at e
  · exact Progress.close_inv (State.perform_inv h) e
  · injection e with e
    exact e ▸ State.takeTrap_inv (State.atPlaced_inv (State.perform_inv h).s)

theorem State.convoyOf_inv {s t : State} {ws : List Nat} (h : s.Inv) (e : s.convoyOf ws = .next t) : t.Inv := by
  unfold State.convoyOf at e
  split at e
  · exact exec_inv h e
  · dsimp only at e
    split at e
    · exact State.trapWith_inv h e
    · split at e
      · injection e with e
        rw [← e]
        exact State.takeTrap_inv (State.atPlaced_inv h)
      · have h := State.fillEarly_inv (c := s.hart.convoyCursor ws (!restartable ((s.hart.membersOf s.hart.vstart ws).map (·.mem))))
          (s.hart.membersOf s.hart.vstart ws) (e := []) h
        split at e
        next f ef =>
          have hf := State.earlyFaults_inv _ h f (lowestFault_mem ef)
          split at e
          · split at e
            · split at e
              · exact State.trapAt_inv h e
              · exact State.trapAt_inv h e
            · exact State.trapAt_inv h e
          · injection e with e
            rw [← e]
            refine State.takeTrap_inv (State.atPlaced_inv ?_)
            exact ite_inv ⟨h.mem, h.claims, h.slots, hf.dusk⟩ h
        · exact State.trapAt_inv h e
        · exact State.convoyTimed_inv h e

theorem State.issueVector_inv {s t : State} {w : Nat} (h : s.Inv) (e : s.issueVector w = .next t) : t.Inv := by
  unfold State.issueVector at e
  split at e
  · exact exec_inv h e
  · split at e
    · dsimp only at e
      split at e
      · exact exec_inv (State.fetched_inv h) e
      · exact State.trap_inv (State.atMember_inv (State.fetched_inv h)) e
    · dsimp only at e
      split at e
      · exact exec_inv (State.fetched_inv h) e
      · split at e
        · exact State.single_inv (State.fetched_inv h) e
        · exact State.convoyOf_inv (State.fetched_inv h) e

theorem State.deferredTrap_inv {s t : State} (h : s.Inv) (e : s.deferredTrap = some t) : t.Inv := by
  unfold State.deferredTrap at e
  split at e
  · cases e
  · split at e
    · cases e
    · split at e
      · cases e
      · split at e
        · cases e
        · dsimp only at e
          split at e
          · injection e with e
            exact e ▸ State.takeTrap_inv (State.upd_inv h)
          · split at e
            next u eu =>
              split at e
              · injection e with e
                exact e ▸ exec_inv (State.upd_inv h) eu
              · cases e
            · cases e

theorem State.issueNext_inv {s t : State} (h : s.Inv) (e : s.issueNext = .next t) : t.Inv := by
  unfold State.issueNext at e
  split at e
  · dsimp only at e
    split at e
    · exact exec_inv (State.fetched_inv h) e
    · exact State.trap_inv (State.atMember_inv (State.fetched_inv h)) e
  · injection e with e
    exact e ▸ h
  · split at e
    · exact countTurn_inv (fun _ e => State.issueVector_inv h e) e
    · dsimp only at e
      split at e
      · exact countTurn_inv (fun _ e => exec_inv (State.fetched_inv h) e) e
      · exact countTurn_inv (fun _ e => State.single_inv (State.fetched_inv h) e) e

theorem State.issue_inv {s t : State} (h : s.Inv) (e : s.issue = .next t) : t.Inv := by
  unfold State.issue at e
  dsimp only at e
  split at e
  next u eu => exact countTurn_inv (fun _ e => by cases e; exact State.deferredTrap_inv (State.upd_inv h) eu) e
  · exact State.issueNext_inv (State.upd_inv h) e

theorem State.continueConvoy_inv {s t : State} (h : s.Inv) (e : s.continueConvoy = .next t) : t.Inv := by
  unfold State.continueConvoy at e
  exact countTurn_inv (fun _ e => State.convoyTimed_inv h e) e

theorem State.deviated_inv {s t : State} {lc : Nat} (h : s.Inv) (e : s.deviated lc = .next t) : t.Inv := by
  unfold State.deviated at e
  dsimp only at e
  split at e
  · exact State.trapWith_inv (State.upd_inv h) e
  · exact State.trap_inv (State.atPlaced_inv (State.upd_inv h)) e

theorem State.hartStep_inv {s t : State} (h : s.Inv) (e : s.hartStep = .next t) : t.Inv := by
  unfold State.hartStep at e
  split at e
  · exact State.deviated_inv h e
  · split at e
    · exact State.continueConvoy_inv h e
    · split at e
      · exact exec_inv (State.upd_inv h) e
      · exact State.issue_inv h e

/-- A step with an empty agenda keeps the invariant. -/
theorem State.quietStep_inv {s t : State} (h : s.Inv) (e : s.quietStep = .next t) : t.Inv := by
  unfold State.quietStep at e
  have h1 := State.receiveAll_inv h
  dsimp only at e
  split at e
  · exact exec_inv h1 e
  · split at e
    · exact State.hartStep_inv h1 e
    · split at e
      · exact exec_inv (State.draw_inv h1) e
      · split at e
        · exact exec_inv (State.draw_inv h1) e
        · injection e with e
          exact e ▸ h1

end Sys2Proof.Machine
end

