-- ==== Sys2Proof/Laws/State.lean ====
section
/-! SUPPORT. What each update of a hart or of the module leaves of every field that later definitions read, and what it leaves as a whole. -/

namespace Sys2Proof.Machine

/-- `setX` changes only what it writes. -/
theorem Hart.setX_frame (h : Hart) (n : Nat) (v : Word) : h.setX n v = { h with x := (h.setX n v).x } := by
  unfold Hart.setX; split <;> rfl
@[simp] theorem Hart.setX_pc (h : Hart) (n : Nat) (v : Word) : (h.setX n v).pc = h.pc := by rw [Hart.setX_frame]
@[simp] theorem Hart.setX_f (h : Hart) (n : Nat) (v : Word) : (h.setX n v).f = h.f := by rw [Hart.setX_frame]
@[simp] theorem Hart.setX_v (h : Hart) (n : Nat) (v : Word) : (h.setX n v).v = h.v := by rw [Hart.setX_frame]
@[simp] theorem Hart.setX_m (h : Hart) (n : Nat) (v : Word) : (h.setX n v).m = h.m := by rw [Hart.setX_frame]
@[simp] theorem Hart.setX_g (h : Hart) (n : Nat) (v : Word) : (h.setX n v).g = h.g := by rw [Hart.setX_frame]
@[simp] theorem Hart.setX_p (h : Hart) (n : Nat) (v : Word) : (h.setX n v).p = h.p := by rw [Hart.setX_frame]
@[simp] theorem Hart.setX_acc (h : Hart) (n : Nat) (v : Word) : (h.setX n v).acc = h.acc := by rw [Hart.setX_frame]
@[simp] theorem Hart.setX_fq (h : Hart) (n : Nat) (v : Word) : (h.setX n v).fq = h.fq := by rw [Hart.setX_frame]
@[simp] theorem Hart.setX_sw (h : Hart) (n : Nat) (v : Word) : (h.setX n v).sw = h.sw := by rw [Hart.setX_frame]
@[simp] theorem Hart.setX_q (h : Hart) (n : Nat) (v : Word) : (h.setX n v).q = h.q := by rw [Hart.setX_frame]
@[simp] theorem Hart.setX_tid (h : Hart) (n : Nat) (v : Word) : (h.setX n v).tid = h.tid := by rw [Hart.setX_frame]
@[simp] theorem Hart.setX_scratch (h : Hart) (n : Nat) (v : Word) : (h.setX n v).scratch = h.scratch := by rw [Hart.setX_frame]
@[simp] theorem Hart.setX_vl (h : Hart) (n : Nat) (v : Word) : (h.setX n v).vl = h.vl := by rw [Hart.setX_frame]
@[simp] theorem Hart.setX_vlc (h : Hart) (n : Nat) (v : Word) : (h.setX n v).vlc = h.vlc := by rw [Hart.setX_frame]
@[simp] theorem Hart.setX_vtype (h : Hart) (n : Nat) (v : Word) : (h.setX n v).vtype = h.vtype := by rw [Hart.setX_frame]
@[simp] theorem Hart.setX_vstart (h : Hart) (n : Nat) (v : Word) : (h.setX n v).vstart = h.vstart := by rw [Hart.setX_frame]
@[simp] theorem Hart.setX_vfv (h : Hart) (n : Nat) (v : Word) : (h.setX n v).vfv = h.vfv := by rw [Hart.setX_frame]
@[simp] theorem Hart.setX_vrot (h : Hart) (n : Nat) (v : Word) : (h.setX n v).vrot = h.vrot := by rw [Hart.setX_frame]
@[simp] theorem Hart.setX_vdirty (h : Hart) (n : Nat) (v : Word) : (h.setX n v).vdirty = h.vdirty := by rw [Hart.setX_frame]
@[simp] theorem Hart.setX_vflags (h : Hart) (n : Nat) (v : Word) : (h.setX n v).vflags = h.vflags := by rw [Hart.setX_frame]
@[simp] theorem Hart.setX_gbase (h : Hart) (n : Nat) (v : Word) : (h.setX n v).gbase = h.gbase := by rw [Hart.setX_frame]
@[simp] theorem Hart.setX_poolpart (h : Hart) (n : Nat) (v : Word) : (h.setX n v).poolpart = h.poolpart := by rw [Hart.setX_frame]
@[simp] theorem Hart.setX_lcore (h : Hart) (n : Nat) (v : Word) : (h.setX n v).lcore = h.lcore := by rw [Hart.setX_frame]
@[simp] theorem Hart.setX_launchid (h : Hart) (n : Nat) (v : Word) : (h.setX n v).launchid = h.launchid := by rw [Hart.setX_frame]
@[simp] theorem Hart.setX_rngkey (h : Hart) (n : Nat) (v : Word) : (h.setX n v).rngkey = h.rngkey := by rw [Hart.setX_frame]
@[simp] theorem Hart.setX_rngkeyh (h : Hart) (n : Nat) (v : Word) : (h.setX n v).rngkeyh = h.rngkeyh := by rw [Hart.setX_frame]
@[simp] theorem Hart.setX_tstatus (h : Hart) (n : Nat) (v : Word) : (h.setX n v).tstatus = h.tstatus := by rw [Hart.setX_frame]
@[simp] theorem Hart.setX_tvec (h : Hart) (n : Nat) (v : Word) : (h.setX n v).tvec = h.tvec := by rw [Hart.setX_frame]
@[simp] theorem Hart.setX_seqstate (h : Hart) (n : Nat) (v : Word) : (h.setX n v).seqstate = h.seqstate := by rw [Hart.setX_frame]
@[simp] theorem Hart.setX_long (h : Hart) (n : Nat) (v : Word) : (h.setX n v).long = h.long := by rw [Hart.setX_frame]
@[simp] theorem Hart.setX_tree (h : Hart) (n : Nat) (v : Word) : (h.setX n v).tree = h.tree := by rw [Hart.setX_frame]
@[simp] theorem Hart.setX_wcb (h : Hart) (n : Nat) (v : Word) : (h.setX n v).wcb = h.wcb := by rw [Hart.setX_frame]
@[simp] theorem Hart.setX_wcbAge (h : Hart) (n : Nat) (v : Word) : (h.setX n v).wcbAge = h.wcbAge := by rw [Hart.setX_frame]
@[simp] theorem Hart.setX_pending (h : Hart) (n : Nat) (v : Word) : (h.setX n v).pending = h.pending := by rw [Hart.setX_frame]
@[simp] theorem Hart.setX_engine (h : Hart) (n : Nat) (v : Word) : (h.setX n v).engine = h.engine := by rw [Hart.setX_frame]
@[simp] theorem Hart.setX_links (h : Hart) (n : Nat) (v : Word) : (h.setX n v).links = h.links := by rw [Hart.setX_frame]
@[simp] theorem Hart.setX_held (h : Hart) (n : Nat) (v : Word) : (h.setX n v).held = h.held := by rw [Hart.setX_frame]
@[simp] theorem Hart.setX_underflows (h : Hart) (n : Nat) (v : Word) : (h.setX n v).underflows = h.underflows := by rw [Hart.setX_frame]
@[simp] theorem Hart.setX_poison (h : Hart) (n : Nat) (v : Word) : (h.setX n v).poison = h.poison := by rw [Hart.setX_frame]
@[simp] theorem Hart.setX_status (h : Hart) (n : Nat) (v : Word) : (h.setX n v).status = h.status := by rw [Hart.setX_frame]
@[simp] theorem Hart.setX_preempted (h : Hart) (n : Nat) (v : Word) : (h.setX n v).preempted = h.preempted := by rw [Hart.setX_frame]
@[simp] theorem Hart.setX_cancelled (h : Hart) (n : Nat) (v : Word) : (h.setX n v).cancelled = h.cancelled := by rw [Hart.setX_frame]
@[simp] theorem Hart.setX_hid (h : Hart) (n : Nat) (v : Word) : (h.setX n v).hid = h.hid := by rw [Hart.setX_frame]
@[simp] theorem Hart.setX_cl (h : Hart) (n : Nat) (v : Word) : (h.setX n v).cl = h.cl := by rw [Hart.setX_frame]
@[simp] theorem Hart.setX_core (h : Hart) (n : Nat) (v : Word) : (h.setX n v).core = h.core := by rw [Hart.setX_frame]
@[simp] theorem Hart.setX_slot (h : Hart) (n : Nat) (v : Word) : (h.setX n v).slot = h.slot := by rw [Hart.setX_frame]
@[simp] theorem Hart.setX_time (h : Hart) (n : Nat) (v : Word) : (h.setX n v).time = h.time := by rw [Hart.setX_frame]
@[simp] theorem Hart.setX_cur (h : Hart) (n : Nat) (v : Word) : (h.setX n v).cur = h.cur := by rw [Hart.setX_frame]
@[simp] theorem Hart.setX_resumeMid (h : Hart) (n : Nat) (v : Word) : (h.setX n v).resumeMid = h.resumeMid := by rw [Hart.setX_frame]
@[simp] theorem Hart.setX_carried (h : Hart) (n : Nat) (v : Word) : (h.setX n v).carried = h.carried := by rw [Hart.setX_frame]
@[simp] theorem Hart.setX_area (h : Hart) (n : Nat) (v : Word) : (h.setX n v).area = h.area := by rw [Hart.setX_frame]
@[simp] theorem Hart.setX_sends (h : Hart) (n : Nat) (v : Word) : (h.setX n v).sends = h.sends := by rw [Hart.setX_frame]

/-- `setF` changes only what it writes. -/
theorem Hart.setF_frame (h : Hart) (n : Nat) (v : BitVec 66) : h.setF n v = { h with f := (h.setF n v).f } := by
  rfl
@[simp] theorem Hart.setF_x (h : Hart) (n : Nat) (v : BitVec 66) : (h.setF n v).x = h.x := rfl
@[simp] theorem Hart.setF_pc (h : Hart) (n : Nat) (v : BitVec 66) : (h.setF n v).pc = h.pc := rfl
@[simp] theorem Hart.setF_v (h : Hart) (n : Nat) (v : BitVec 66) : (h.setF n v).v = h.v := rfl
@[simp] theorem Hart.setF_m (h : Hart) (n : Nat) (v : BitVec 66) : (h.setF n v).m = h.m := rfl
@[simp] theorem Hart.setF_g (h : Hart) (n : Nat) (v : BitVec 66) : (h.setF n v).g = h.g := rfl
@[simp] theorem Hart.setF_p (h : Hart) (n : Nat) (v : BitVec 66) : (h.setF n v).p = h.p := rfl
@[simp] theorem Hart.setF_acc (h : Hart) (n : Nat) (v : BitVec 66) : (h.setF n v).acc = h.acc := rfl
@[simp] theorem Hart.setF_fq (h : Hart) (n : Nat) (v : BitVec 66) : (h.setF n v).fq = h.fq := rfl
@[simp] theorem Hart.setF_sw (h : Hart) (n : Nat) (v : BitVec 66) : (h.setF n v).sw = h.sw := rfl
@[simp] theorem Hart.setF_q (h : Hart) (n : Nat) (v : BitVec 66) : (h.setF n v).q = h.q := rfl
@[simp] theorem Hart.setF_tid (h : Hart) (n : Nat) (v : BitVec 66) : (h.setF n v).tid = h.tid := rfl
@[simp] theorem Hart.setF_scratch (h : Hart) (n : Nat) (v : BitVec 66) : (h.setF n v).scratch = h.scratch := rfl
@[simp] theorem Hart.setF_vl (h : Hart) (n : Nat) (v : BitVec 66) : (h.setF n v).vl = h.vl := rfl
@[simp] theorem Hart.setF_vlc (h : Hart) (n : Nat) (v : BitVec 66) : (h.setF n v).vlc = h.vlc := rfl
@[simp] theorem Hart.setF_vtype (h : Hart) (n : Nat) (v : BitVec 66) : (h.setF n v).vtype = h.vtype := rfl
@[simp] theorem Hart.setF_vstart (h : Hart) (n : Nat) (v : BitVec 66) : (h.setF n v).vstart = h.vstart := rfl
@[simp] theorem Hart.setF_vfv (h : Hart) (n : Nat) (v : BitVec 66) : (h.setF n v).vfv = h.vfv := rfl
@[simp] theorem Hart.setF_vrot (h : Hart) (n : Nat) (v : BitVec 66) : (h.setF n v).vrot = h.vrot := rfl
@[simp] theorem Hart.setF_vdirty (h : Hart) (n : Nat) (v : BitVec 66) : (h.setF n v).vdirty = h.vdirty := rfl
@[simp] theorem Hart.setF_vflags (h : Hart) (n : Nat) (v : BitVec 66) : (h.setF n v).vflags = h.vflags := rfl
@[simp] theorem Hart.setF_gbase (h : Hart) (n : Nat) (v : BitVec 66) : (h.setF n v).gbase = h.gbase := rfl
@[simp] theorem Hart.setF_poolpart (h : Hart) (n : Nat) (v : BitVec 66) : (h.setF n v).poolpart = h.poolpart := rfl
@[simp] theorem Hart.setF_lcore (h : Hart) (n : Nat) (v : BitVec 66) : (h.setF n v).lcore = h.lcore := rfl
@[simp] theorem Hart.setF_launchid (h : Hart) (n : Nat) (v : BitVec 66) : (h.setF n v).launchid = h.launchid := rfl
@[simp] theorem Hart.setF_rngkey (h : Hart) (n : Nat) (v : BitVec 66) : (h.setF n v).rngkey = h.rngkey := rfl
@[simp] theorem Hart.setF_rngkeyh (h : Hart) (n : Nat) (v : BitVec 66) : (h.setF n v).rngkeyh = h.rngkeyh := rfl
@[simp] theorem Hart.setF_tstatus (h : Hart) (n : Nat) (v : BitVec 66) : (h.setF n v).tstatus = h.tstatus := rfl
@[simp] theorem Hart.setF_tvec (h : Hart) (n : Nat) (v : BitVec 66) : (h.setF n v).tvec = h.tvec := rfl
@[simp] theorem Hart.setF_seqstate (h : Hart) (n : Nat) (v : BitVec 66) : (h.setF n v).seqstate = h.seqstate := rfl
@[simp] theorem Hart.setF_long (h : Hart) (n : Nat) (v : BitVec 66) : (h.setF n v).long = h.long := rfl
@[simp] theorem Hart.setF_tree (h : Hart) (n : Nat) (v : BitVec 66) : (h.setF n v).tree = h.tree := rfl
@[simp] theorem Hart.setF_wcb (h : Hart) (n : Nat) (v : BitVec 66) : (h.setF n v).wcb = h.wcb := rfl
@[simp] theorem Hart.setF_wcbAge (h : Hart) (n : Nat) (v : BitVec 66) : (h.setF n v).wcbAge = h.wcbAge := rfl
@[simp] theorem Hart.setF_pending (h : Hart) (n : Nat) (v : BitVec 66) : (h.setF n v).pending = h.pending := rfl
@[simp] theorem Hart.setF_engine (h : Hart) (n : Nat) (v : BitVec 66) : (h.setF n v).engine = h.engine := rfl
@[simp] theorem Hart.setF_links (h : Hart) (n : Nat) (v : BitVec 66) : (h.setF n v).links = h.links := rfl
@[simp] theorem Hart.setF_held (h : Hart) (n : Nat) (v : BitVec 66) : (h.setF n v).held = h.held := rfl
@[simp] theorem Hart.setF_underflows (h : Hart) (n : Nat) (v : BitVec 66) : (h.setF n v).underflows = h.underflows := rfl
@[simp] theorem Hart.setF_poison (h : Hart) (n : Nat) (v : BitVec 66) : (h.setF n v).poison = h.poison := rfl
@[simp] theorem Hart.setF_status (h : Hart) (n : Nat) (v : BitVec 66) : (h.setF n v).status = h.status := rfl
@[simp] theorem Hart.setF_preempted (h : Hart) (n : Nat) (v : BitVec 66) : (h.setF n v).preempted = h.preempted := rfl
@[simp] theorem Hart.setF_cancelled (h : Hart) (n : Nat) (v : BitVec 66) : (h.setF n v).cancelled = h.cancelled := rfl
@[simp] theorem Hart.setF_hid (h : Hart) (n : Nat) (v : BitVec 66) : (h.setF n v).hid = h.hid := rfl
@[simp] theorem Hart.setF_cl (h : Hart) (n : Nat) (v : BitVec 66) : (h.setF n v).cl = h.cl := rfl
@[simp] theorem Hart.setF_core (h : Hart) (n : Nat) (v : BitVec 66) : (h.setF n v).core = h.core := rfl
@[simp] theorem Hart.setF_slot (h : Hart) (n : Nat) (v : BitVec 66) : (h.setF n v).slot = h.slot := rfl
@[simp] theorem Hart.setF_time (h : Hart) (n : Nat) (v : BitVec 66) : (h.setF n v).time = h.time := rfl
@[simp] theorem Hart.setF_cur (h : Hart) (n : Nat) (v : BitVec 66) : (h.setF n v).cur = h.cur := rfl
@[simp] theorem Hart.setF_resumeMid (h : Hart) (n : Nat) (v : BitVec 66) : (h.setF n v).resumeMid = h.resumeMid := rfl
@[simp] theorem Hart.setF_carried (h : Hart) (n : Nat) (v : BitVec 66) : (h.setF n v).carried = h.carried := rfl
@[simp] theorem Hart.setF_area (h : Hart) (n : Nat) (v : BitVec 66) : (h.setF n v).area = h.area := rfl
@[simp] theorem Hart.setF_sends (h : Hart) (n : Nat) (v : BitVec 66) : (h.setF n v).sends = h.sends := rfl

/-- `raise` changes only what it writes. -/
theorem Hart.raise_frame (h : Hart) (fl : BitVec 5) : h.raise fl = { h with vflags := (h.raise fl).vflags } := by
  rfl
@[simp] theorem Hart.raise_x (h : Hart) (fl : BitVec 5) : (h.raise fl).x = h.x := rfl
@[simp] theorem Hart.raise_pc (h : Hart) (fl : BitVec 5) : (h.raise fl).pc = h.pc := rfl
@[simp] theorem Hart.raise_f (h : Hart) (fl : BitVec 5) : (h.raise fl).f = h.f := rfl
@[simp] theorem Hart.raise_v (h : Hart) (fl : BitVec 5) : (h.raise fl).v = h.v := rfl
@[simp] theorem Hart.raise_m (h : Hart) (fl : BitVec 5) : (h.raise fl).m = h.m := rfl
@[simp] theorem Hart.raise_g (h : Hart) (fl : BitVec 5) : (h.raise fl).g = h.g := rfl
@[simp] theorem Hart.raise_p (h : Hart) (fl : BitVec 5) : (h.raise fl).p = h.p := rfl
@[simp] theorem Hart.raise_acc (h : Hart) (fl : BitVec 5) : (h.raise fl).acc = h.acc := rfl
@[simp] theorem Hart.raise_fq (h : Hart) (fl : BitVec 5) : (h.raise fl).fq = h.fq := rfl
@[simp] theorem Hart.raise_sw (h : Hart) (fl : BitVec 5) : (h.raise fl).sw = h.sw := rfl
@[simp] theorem Hart.raise_q (h : Hart) (fl : BitVec 5) : (h.raise fl).q = h.q := rfl
@[simp] theorem Hart.raise_tid (h : Hart) (fl : BitVec 5) : (h.raise fl).tid = h.tid := rfl
@[simp] theorem Hart.raise_scratch (h : Hart) (fl : BitVec 5) : (h.raise fl).scratch = h.scratch := rfl
@[simp] theorem Hart.raise_vl (h : Hart) (fl : BitVec 5) : (h.raise fl).vl = h.vl := rfl
@[simp] theorem Hart.raise_vlc (h : Hart) (fl : BitVec 5) : (h.raise fl).vlc = h.vlc := rfl
@[simp] theorem Hart.raise_vtype (h : Hart) (fl : BitVec 5) : (h.raise fl).vtype = h.vtype := rfl
@[simp] theorem Hart.raise_vstart (h : Hart) (fl : BitVec 5) : (h.raise fl).vstart = h.vstart := rfl
@[simp] theorem Hart.raise_vfv (h : Hart) (fl : BitVec 5) : (h.raise fl).vfv = h.vfv := rfl
@[simp] theorem Hart.raise_vrot (h : Hart) (fl : BitVec 5) : (h.raise fl).vrot = h.vrot := rfl
@[simp] theorem Hart.raise_vdirty (h : Hart) (fl : BitVec 5) : (h.raise fl).vdirty = h.vdirty := rfl
@[simp] theorem Hart.raise_gbase (h : Hart) (fl : BitVec 5) : (h.raise fl).gbase = h.gbase := rfl
@[simp] theorem Hart.raise_poolpart (h : Hart) (fl : BitVec 5) : (h.raise fl).poolpart = h.poolpart := rfl
@[simp] theorem Hart.raise_lcore (h : Hart) (fl : BitVec 5) : (h.raise fl).lcore = h.lcore := rfl
@[simp] theorem Hart.raise_launchid (h : Hart) (fl : BitVec 5) : (h.raise fl).launchid = h.launchid := rfl
@[simp] theorem Hart.raise_rngkey (h : Hart) (fl : BitVec 5) : (h.raise fl).rngkey = h.rngkey := rfl
@[simp] theorem Hart.raise_rngkeyh (h : Hart) (fl : BitVec 5) : (h.raise fl).rngkeyh = h.rngkeyh := rfl
@[simp] theorem Hart.raise_tstatus (h : Hart) (fl : BitVec 5) : (h.raise fl).tstatus = h.tstatus := rfl
@[simp] theorem Hart.raise_tvec (h : Hart) (fl : BitVec 5) : (h.raise fl).tvec = h.tvec := rfl
@[simp] theorem Hart.raise_seqstate (h : Hart) (fl : BitVec 5) : (h.raise fl).seqstate = h.seqstate := rfl
@[simp] theorem Hart.raise_long (h : Hart) (fl : BitVec 5) : (h.raise fl).long = h.long := rfl
@[simp] theorem Hart.raise_tree (h : Hart) (fl : BitVec 5) : (h.raise fl).tree = h.tree := rfl
@[simp] theorem Hart.raise_wcb (h : Hart) (fl : BitVec 5) : (h.raise fl).wcb = h.wcb := rfl
@[simp] theorem Hart.raise_wcbAge (h : Hart) (fl : BitVec 5) : (h.raise fl).wcbAge = h.wcbAge := rfl
@[simp] theorem Hart.raise_pending (h : Hart) (fl : BitVec 5) : (h.raise fl).pending = h.pending := rfl
@[simp] theorem Hart.raise_engine (h : Hart) (fl : BitVec 5) : (h.raise fl).engine = h.engine := rfl
@[simp] theorem Hart.raise_links (h : Hart) (fl : BitVec 5) : (h.raise fl).links = h.links := rfl
@[simp] theorem Hart.raise_held (h : Hart) (fl : BitVec 5) : (h.raise fl).held = h.held := rfl
@[simp] theorem Hart.raise_underflows (h : Hart) (fl : BitVec 5) : (h.raise fl).underflows = h.underflows := rfl
@[simp] theorem Hart.raise_poison (h : Hart) (fl : BitVec 5) : (h.raise fl).poison = h.poison := rfl
@[simp] theorem Hart.raise_status (h : Hart) (fl : BitVec 5) : (h.raise fl).status = h.status := rfl
@[simp] theorem Hart.raise_preempted (h : Hart) (fl : BitVec 5) : (h.raise fl).preempted = h.preempted := rfl
@[simp] theorem Hart.raise_cancelled (h : Hart) (fl : BitVec 5) : (h.raise fl).cancelled = h.cancelled := rfl
@[simp] theorem Hart.raise_hid (h : Hart) (fl : BitVec 5) : (h.raise fl).hid = h.hid := rfl
@[simp] theorem Hart.raise_cl (h : Hart) (fl : BitVec 5) : (h.raise fl).cl = h.cl := rfl
@[simp] theorem Hart.raise_core (h : Hart) (fl : BitVec 5) : (h.raise fl).core = h.core := rfl
@[simp] theorem Hart.raise_slot (h : Hart) (fl : BitVec 5) : (h.raise fl).slot = h.slot := rfl
@[simp] theorem Hart.raise_time (h : Hart) (fl : BitVec 5) : (h.raise fl).time = h.time := rfl
@[simp] theorem Hart.raise_cur (h : Hart) (fl : BitVec 5) : (h.raise fl).cur = h.cur := rfl
@[simp] theorem Hart.raise_resumeMid (h : Hart) (fl : BitVec 5) : (h.raise fl).resumeMid = h.resumeMid := rfl
@[simp] theorem Hart.raise_carried (h : Hart) (fl : BitVec 5) : (h.raise fl).carried = h.carried := rfl
@[simp] theorem Hart.raise_area (h : Hart) (fl : BitVec 5) : (h.raise fl).area = h.area := rfl
@[simp] theorem Hart.raise_sends (h : Hart) (fl : BitVec 5) : (h.raise fl).sends = h.sends := rfl

/-- `step4` changes only what it writes. -/
theorem Hart.step4_frame (h : Hart) : h.step4 = { h with pc := (h.step4).pc, resumeMid := (h.step4).resumeMid } := by
  rfl
@[simp] theorem Hart.step4_x (h : Hart) : (h.step4).x = h.x := rfl
@[simp] theorem Hart.step4_f (h : Hart) : (h.step4).f = h.f := rfl
@[simp] theorem Hart.step4_v (h : Hart) : (h.step4).v = h.v := rfl
@[simp] theorem Hart.step4_m (h : Hart) : (h.step4).m = h.m := rfl
@[simp] theorem Hart.step4_g (h : Hart) : (h.step4).g = h.g := rfl
@[simp] theorem Hart.step4_p (h : Hart) : (h.step4).p = h.p := rfl
@[simp] theorem Hart.step4_acc (h : Hart) : (h.step4).acc = h.acc := rfl
@[simp] theorem Hart.step4_fq (h : Hart) : (h.step4).fq = h.fq := rfl
@[simp] theorem Hart.step4_sw (h : Hart) : (h.step4).sw = h.sw := rfl
@[simp] theorem Hart.step4_q (h : Hart) : (h.step4).q = h.q := rfl
@[simp] theorem Hart.step4_tid (h : Hart) : (h.step4).tid = h.tid := rfl
@[simp] theorem Hart.step4_scratch (h : Hart) : (h.step4).scratch = h.scratch := rfl
@[simp] theorem Hart.step4_vl (h : Hart) : (h.step4).vl = h.vl := rfl
@[simp] theorem Hart.step4_vlc (h : Hart) : (h.step4).vlc = h.vlc := rfl
@[simp] theorem Hart.step4_vtype (h : Hart) : (h.step4).vtype = h.vtype := rfl
@[simp] theorem Hart.step4_vstart (h : Hart) : (h.step4).vstart = h.vstart := rfl
@[simp] theorem Hart.step4_vfv (h : Hart) : (h.step4).vfv = h.vfv := rfl
@[simp] theorem Hart.step4_vrot (h : Hart) : (h.step4).vrot = h.vrot := rfl
@[simp] theorem Hart.step4_vdirty (h : Hart) : (h.step4).vdirty = h.vdirty := rfl
@[simp] theorem Hart.step4_vflags (h : Hart) : (h.step4).vflags = h.vflags := rfl
@[simp] theorem Hart.step4_gbase (h : Hart) : (h.step4).gbase = h.gbase := rfl
@[simp] theorem Hart.step4_poolpart (h : Hart) : (h.step4).poolpart = h.poolpart := rfl
@[simp] theorem Hart.step4_lcore (h : Hart) : (h.step4).lcore = h.lcore := rfl
@[simp] theorem Hart.step4_launchid (h : Hart) : (h.step4).launchid = h.launchid := rfl
@[simp] theorem Hart.step4_rngkey (h : Hart) : (h.step4).rngkey = h.rngkey := rfl
@[simp] theorem Hart.step4_rngkeyh (h : Hart) : (h.step4).rngkeyh = h.rngkeyh := rfl
@[simp] theorem Hart.step4_tstatus (h : Hart) : (h.step4).tstatus = h.tstatus := rfl
@[simp] theorem Hart.step4_tvec (h : Hart) : (h.step4).tvec = h.tvec := rfl
@[simp] theorem Hart.step4_seqstate (h : Hart) : (h.step4).seqstate = h.seqstate := rfl
@[simp] theorem Hart.step4_long (h : Hart) : (h.step4).long = h.long := rfl
@[simp] theorem Hart.step4_tree (h : Hart) : (h.step4).tree = h.tree := rfl
@[simp] theorem Hart.step4_wcb (h : Hart) : (h.step4).wcb = h.wcb := rfl
@[simp] theorem Hart.step4_wcbAge (h : Hart) : (h.step4).wcbAge = h.wcbAge := rfl
@[simp] theorem Hart.step4_pending (h : Hart) : (h.step4).pending = h.pending := rfl
@[simp] theorem Hart.step4_engine (h : Hart) : (h.step4).engine = h.engine := rfl
@[simp] theorem Hart.step4_links (h : Hart) : (h.step4).links = h.links := rfl
@[simp] theorem Hart.step4_held (h : Hart) : (h.step4).held = h.held := rfl
@[simp] theorem Hart.step4_underflows (h : Hart) : (h.step4).underflows = h.underflows := rfl
@[simp] theorem Hart.step4_poison (h : Hart) : (h.step4).poison = h.poison := rfl
@[simp] theorem Hart.step4_status (h : Hart) : (h.step4).status = h.status := rfl
@[simp] theorem Hart.step4_preempted (h : Hart) : (h.step4).preempted = h.preempted := rfl
@[simp] theorem Hart.step4_cancelled (h : Hart) : (h.step4).cancelled = h.cancelled := rfl
@[simp] theorem Hart.step4_hid (h : Hart) : (h.step4).hid = h.hid := rfl
@[simp] theorem Hart.step4_cl (h : Hart) : (h.step4).cl = h.cl := rfl
@[simp] theorem Hart.step4_core (h : Hart) : (h.step4).core = h.core := rfl
@[simp] theorem Hart.step4_slot (h : Hart) : (h.step4).slot = h.slot := rfl
@[simp] theorem Hart.step4_time (h : Hart) : (h.step4).time = h.time := rfl
@[simp] theorem Hart.step4_cur (h : Hart) : (h.step4).cur = h.cur := rfl
@[simp] theorem Hart.step4_carried (h : Hart) : (h.step4).carried = h.carried := rfl
@[simp] theorem Hart.step4_area (h : Hart) : (h.step4).area = h.area := rfl
@[simp] theorem Hart.step4_sends (h : Hart) : (h.step4).sends = h.sends := rfl

/-- `next` changes only what it writes. -/
theorem Hart.next_frame (h : Hart) : h.next = { h with pc := (h.next).pc, vstart := (h.next).vstart, resumeMid := (h.next).resumeMid } := by
  rfl
@[simp] theorem Hart.next_x (h : Hart) : (h.next).x = h.x := rfl
@[simp] theorem Hart.next_f (h : Hart) : (h.next).f = h.f := rfl
@[simp] theorem Hart.next_v (h : Hart) : (h.next).v = h.v := rfl
@[simp] theorem Hart.next_m (h : Hart) : (h.next).m = h.m := rfl
@[simp] theorem Hart.next_g (h : Hart) : (h.next).g = h.g := rfl
@[simp] theorem Hart.next_p (h : Hart) : (h.next).p = h.p := rfl
@[simp] theorem Hart.next_acc (h : Hart) : (h.next).acc = h.acc := rfl
@[simp] theorem Hart.next_fq (h : Hart) : (h.next).fq = h.fq := rfl
@[simp] theorem Hart.next_sw (h : Hart) : (h.next).sw = h.sw := rfl
@[simp] theorem Hart.next_q (h : Hart) : (h.next).q = h.q := rfl
@[simp] theorem Hart.next_tid (h : Hart) : (h.next).tid = h.tid := rfl
@[simp] theorem Hart.next_scratch (h : Hart) : (h.next).scratch = h.scratch := rfl
@[simp] theorem Hart.next_vl (h : Hart) : (h.next).vl = h.vl := rfl
@[simp] theorem Hart.next_vlc (h : Hart) : (h.next).vlc = h.vlc := rfl
@[simp] theorem Hart.next_vtype (h : Hart) : (h.next).vtype = h.vtype := rfl
@[simp] theorem Hart.next_vfv (h : Hart) : (h.next).vfv = h.vfv := rfl
@[simp] theorem Hart.next_vrot (h : Hart) : (h.next).vrot = h.vrot := rfl
@[simp] theorem Hart.next_vdirty (h : Hart) : (h.next).vdirty = h.vdirty := rfl
@[simp] theorem Hart.next_vflags (h : Hart) : (h.next).vflags = h.vflags := rfl
@[simp] theorem Hart.next_gbase (h : Hart) : (h.next).gbase = h.gbase := rfl
@[simp] theorem Hart.next_poolpart (h : Hart) : (h.next).poolpart = h.poolpart := rfl
@[simp] theorem Hart.next_lcore (h : Hart) : (h.next).lcore = h.lcore := rfl
@[simp] theorem Hart.next_launchid (h : Hart) : (h.next).launchid = h.launchid := rfl
@[simp] theorem Hart.next_rngkey (h : Hart) : (h.next).rngkey = h.rngkey := rfl
@[simp] theorem Hart.next_rngkeyh (h : Hart) : (h.next).rngkeyh = h.rngkeyh := rfl
@[simp] theorem Hart.next_tstatus (h : Hart) : (h.next).tstatus = h.tstatus := rfl
@[simp] theorem Hart.next_tvec (h : Hart) : (h.next).tvec = h.tvec := rfl
@[simp] theorem Hart.next_seqstate (h : Hart) : (h.next).seqstate = h.seqstate := rfl
@[simp] theorem Hart.next_long (h : Hart) : (h.next).long = h.long := rfl
@[simp] theorem Hart.next_tree (h : Hart) : (h.next).tree = h.tree := rfl
@[simp] theorem Hart.next_wcb (h : Hart) : (h.next).wcb = h.wcb := rfl
@[simp] theorem Hart.next_wcbAge (h : Hart) : (h.next).wcbAge = h.wcbAge := rfl
@[simp] theorem Hart.next_pending (h : Hart) : (h.next).pending = h.pending := rfl
@[simp] theorem Hart.next_engine (h : Hart) : (h.next).engine = h.engine := rfl
@[simp] theorem Hart.next_links (h : Hart) : (h.next).links = h.links := rfl
@[simp] theorem Hart.next_held (h : Hart) : (h.next).held = h.held := rfl
@[simp] theorem Hart.next_underflows (h : Hart) : (h.next).underflows = h.underflows := rfl
@[simp] theorem Hart.next_poison (h : Hart) : (h.next).poison = h.poison := rfl
@[simp] theorem Hart.next_status (h : Hart) : (h.next).status = h.status := rfl
@[simp] theorem Hart.next_preempted (h : Hart) : (h.next).preempted = h.preempted := rfl
@[simp] theorem Hart.next_cancelled (h : Hart) : (h.next).cancelled = h.cancelled := rfl
@[simp] theorem Hart.next_hid (h : Hart) : (h.next).hid = h.hid := rfl
@[simp] theorem Hart.next_cl (h : Hart) : (h.next).cl = h.cl := rfl
@[simp] theorem Hart.next_core (h : Hart) : (h.next).core = h.core := rfl
@[simp] theorem Hart.next_slot (h : Hart) : (h.next).slot = h.slot := rfl
@[simp] theorem Hart.next_time (h : Hart) : (h.next).time = h.time := rfl
@[simp] theorem Hart.next_cur (h : Hart) : (h.next).cur = h.cur := rfl
@[simp] theorem Hart.next_carried (h : Hart) : (h.next).carried = h.carried := rfl
@[simp] theorem Hart.next_area (h : Hart) : (h.next).area = h.area := rfl
@[simp] theorem Hart.next_sends (h : Hart) : (h.next).sends = h.sends := rfl

/-- `setP` changes only what it writes. -/
theorem Hart.setP_frame (h : Hart) (n : Nat) (v : Pointer) : h.setP n v = { h with p := (h.setP n v).p } := by
  rfl
@[simp] theorem Hart.setP_x (h : Hart) (n : Nat) (v : Pointer) : (h.setP n v).x = h.x := rfl
@[simp] theorem Hart.setP_pc (h : Hart) (n : Nat) (v : Pointer) : (h.setP n v).pc = h.pc := rfl
@[simp] theorem Hart.setP_f (h : Hart) (n : Nat) (v : Pointer) : (h.setP n v).f = h.f := rfl
@[simp] theorem Hart.setP_v (h : Hart) (n : Nat) (v : Pointer) : (h.setP n v).v = h.v := rfl
@[simp] theorem Hart.setP_m (h : Hart) (n : Nat) (v : Pointer) : (h.setP n v).m = h.m := rfl
@[simp] theorem Hart.setP_g (h : Hart) (n : Nat) (v : Pointer) : (h.setP n v).g = h.g := rfl
@[simp] theorem Hart.setP_acc (h : Hart) (n : Nat) (v : Pointer) : (h.setP n v).acc = h.acc := rfl
@[simp] theorem Hart.setP_fq (h : Hart) (n : Nat) (v : Pointer) : (h.setP n v).fq = h.fq := rfl
@[simp] theorem Hart.setP_sw (h : Hart) (n : Nat) (v : Pointer) : (h.setP n v).sw = h.sw := rfl
@[simp] theorem Hart.setP_q (h : Hart) (n : Nat) (v : Pointer) : (h.setP n v).q = h.q := rfl
@[simp] theorem Hart.setP_tid (h : Hart) (n : Nat) (v : Pointer) : (h.setP n v).tid = h.tid := rfl
@[simp] theorem Hart.setP_scratch (h : Hart) (n : Nat) (v : Pointer) : (h.setP n v).scratch = h.scratch := rfl
@[simp] theorem Hart.setP_vl (h : Hart) (n : Nat) (v : Pointer) : (h.setP n v).vl = h.vl := rfl
@[simp] theorem Hart.setP_vlc (h : Hart) (n : Nat) (v : Pointer) : (h.setP n v).vlc = h.vlc := rfl
@[simp] theorem Hart.setP_vtype (h : Hart) (n : Nat) (v : Pointer) : (h.setP n v).vtype = h.vtype := rfl
@[simp] theorem Hart.setP_vstart (h : Hart) (n : Nat) (v : Pointer) : (h.setP n v).vstart = h.vstart := rfl
@[simp] theorem Hart.setP_vfv (h : Hart) (n : Nat) (v : Pointer) : (h.setP n v).vfv = h.vfv := rfl
@[simp] theorem Hart.setP_vrot (h : Hart) (n : Nat) (v : Pointer) : (h.setP n v).vrot = h.vrot := rfl
@[simp] theorem Hart.setP_vdirty (h : Hart) (n : Nat) (v : Pointer) : (h.setP n v).vdirty = h.vdirty := rfl
@[simp] theorem Hart.setP_vflags (h : Hart) (n : Nat) (v : Pointer) : (h.setP n v).vflags = h.vflags := rfl
@[simp] theorem Hart.setP_gbase (h : Hart) (n : Nat) (v : Pointer) : (h.setP n v).gbase = h.gbase := rfl
@[simp] theorem Hart.setP_poolpart (h : Hart) (n : Nat) (v : Pointer) : (h.setP n v).poolpart = h.poolpart := rfl
@[simp] theorem Hart.setP_lcore (h : Hart) (n : Nat) (v : Pointer) : (h.setP n v).lcore = h.lcore := rfl
@[simp] theorem Hart.setP_launchid (h : Hart) (n : Nat) (v : Pointer) : (h.setP n v).launchid = h.launchid := rfl
@[simp] theorem Hart.setP_rngkey (h : Hart) (n : Nat) (v : Pointer) : (h.setP n v).rngkey = h.rngkey := rfl
@[simp] theorem Hart.setP_rngkeyh (h : Hart) (n : Nat) (v : Pointer) : (h.setP n v).rngkeyh = h.rngkeyh := rfl
@[simp] theorem Hart.setP_tstatus (h : Hart) (n : Nat) (v : Pointer) : (h.setP n v).tstatus = h.tstatus := rfl
@[simp] theorem Hart.setP_tvec (h : Hart) (n : Nat) (v : Pointer) : (h.setP n v).tvec = h.tvec := rfl
@[simp] theorem Hart.setP_seqstate (h : Hart) (n : Nat) (v : Pointer) : (h.setP n v).seqstate = h.seqstate := rfl
@[simp] theorem Hart.setP_long (h : Hart) (n : Nat) (v : Pointer) : (h.setP n v).long = h.long := rfl
@[simp] theorem Hart.setP_tree (h : Hart) (n : Nat) (v : Pointer) : (h.setP n v).tree = h.tree := rfl
@[simp] theorem Hart.setP_wcb (h : Hart) (n : Nat) (v : Pointer) : (h.setP n v).wcb = h.wcb := rfl
@[simp] theorem Hart.setP_wcbAge (h : Hart) (n : Nat) (v : Pointer) : (h.setP n v).wcbAge = h.wcbAge := rfl
@[simp] theorem Hart.setP_pending (h : Hart) (n : Nat) (v : Pointer) : (h.setP n v).pending = h.pending := rfl
@[simp] theorem Hart.setP_engine (h : Hart) (n : Nat) (v : Pointer) : (h.setP n v).engine = h.engine := rfl
@[simp] theorem Hart.setP_links (h : Hart) (n : Nat) (v : Pointer) : (h.setP n v).links = h.links := rfl
@[simp] theorem Hart.setP_held (h : Hart) (n : Nat) (v : Pointer) : (h.setP n v).held = h.held := rfl
@[simp] theorem Hart.setP_underflows (h : Hart) (n : Nat) (v : Pointer) : (h.setP n v).underflows = h.underflows := rfl
@[simp] theorem Hart.setP_poison (h : Hart) (n : Nat) (v : Pointer) : (h.setP n v).poison = h.poison := rfl
@[simp] theorem Hart.setP_status (h : Hart) (n : Nat) (v : Pointer) : (h.setP n v).status = h.status := rfl
@[simp] theorem Hart.setP_preempted (h : Hart) (n : Nat) (v : Pointer) : (h.setP n v).preempted = h.preempted := rfl
@[simp] theorem Hart.setP_cancelled (h : Hart) (n : Nat) (v : Pointer) : (h.setP n v).cancelled = h.cancelled := rfl
@[simp] theorem Hart.setP_hid (h : Hart) (n : Nat) (v : Pointer) : (h.setP n v).hid = h.hid := rfl
@[simp] theorem Hart.setP_cl (h : Hart) (n : Nat) (v : Pointer) : (h.setP n v).cl = h.cl := rfl
@[simp] theorem Hart.setP_core (h : Hart) (n : Nat) (v : Pointer) : (h.setP n v).core = h.core := rfl
@[simp] theorem Hart.setP_slot (h : Hart) (n : Nat) (v : Pointer) : (h.setP n v).slot = h.slot := rfl
@[simp] theorem Hart.setP_time (h : Hart) (n : Nat) (v : Pointer) : (h.setP n v).time = h.time := rfl
@[simp] theorem Hart.setP_cur (h : Hart) (n : Nat) (v : Pointer) : (h.setP n v).cur = h.cur := rfl
@[simp] theorem Hart.setP_resumeMid (h : Hart) (n : Nat) (v : Pointer) : (h.setP n v).resumeMid = h.resumeMid := rfl
@[simp] theorem Hart.setP_carried (h : Hart) (n : Nat) (v : Pointer) : (h.setP n v).carried = h.carried := rfl
@[simp] theorem Hart.setP_area (h : Hart) (n : Nat) (v : Pointer) : (h.setP n v).area = h.area := rfl
@[simp] theorem Hart.setP_sends (h : Hart) (n : Nat) (v : Pointer) : (h.setP n v).sends = h.sends := rfl

/-- `dirty` changes only what it writes. -/
theorem Hart.dirty_frame (h : Hart) (i : Nat) : h.dirty i = { h with vdirty := (h.dirty i).vdirty } := by
  rfl
@[simp] theorem Hart.dirty_x (h : Hart) (i : Nat) : (h.dirty i).x = h.x := rfl
@[simp] theorem Hart.dirty_pc (h : Hart) (i : Nat) : (h.dirty i).pc = h.pc := rfl
@[simp] theorem Hart.dirty_f (h : Hart) (i : Nat) : (h.dirty i).f = h.f := rfl
@[simp] theorem Hart.dirty_v (h : Hart) (i : Nat) : (h.dirty i).v = h.v := rfl
@[simp] theorem Hart.dirty_m (h : Hart) (i : Nat) : (h.dirty i).m = h.m := rfl
@[simp] theorem Hart.dirty_g (h : Hart) (i : Nat) : (h.dirty i).g = h.g := rfl
@[simp] theorem Hart.dirty_p (h : Hart) (i : Nat) : (h.dirty i).p = h.p := rfl
@[simp] theorem Hart.dirty_acc (h : Hart) (i : Nat) : (h.dirty i).acc = h.acc := rfl
@[simp] theorem Hart.dirty_fq (h : Hart) (i : Nat) : (h.dirty i).fq = h.fq := rfl
@[simp] theorem Hart.dirty_sw (h : Hart) (i : Nat) : (h.dirty i).sw = h.sw := rfl
@[simp] theorem Hart.dirty_q (h : Hart) (i : Nat) : (h.dirty i).q = h.q := rfl
@[simp] theorem Hart.dirty_tid (h : Hart) (i : Nat) : (h.dirty i).tid = h.tid := rfl
@[simp] theorem Hart.dirty_scratch (h : Hart) (i : Nat) : (h.dirty i).scratch = h.scratch := rfl
@[simp] theorem Hart.dirty_vl (h : Hart) (i : Nat) : (h.dirty i).vl = h.vl := rfl
@[simp] theorem Hart.dirty_vlc (h : Hart) (i : Nat) : (h.dirty i).vlc = h.vlc := rfl
@[simp] theorem Hart.dirty_vtype (h : Hart) (i : Nat) : (h.dirty i).vtype = h.vtype := rfl
@[simp] theorem Hart.dirty_vstart (h : Hart) (i : Nat) : (h.dirty i).vstart = h.vstart := rfl
@[simp] theorem Hart.dirty_vfv (h : Hart) (i : Nat) : (h.dirty i).vfv = h.vfv := rfl
@[simp] theorem Hart.dirty_vrot (h : Hart) (i : Nat) : (h.dirty i).vrot = h.vrot := rfl
@[simp] theorem Hart.dirty_vflags (h : Hart) (i : Nat) : (h.dirty i).vflags = h.vflags := rfl
@[simp] theorem Hart.dirty_gbase (h : Hart) (i : Nat) : (h.dirty i).gbase = h.gbase := rfl
@[simp] theorem Hart.dirty_poolpart (h : Hart) (i : Nat) : (h.dirty i).poolpart = h.poolpart := rfl
@[simp] theorem Hart.dirty_lcore (h : Hart) (i : Nat) : (h.dirty i).lcore = h.lcore := rfl
@[simp] theorem Hart.dirty_launchid (h : Hart) (i : Nat) : (h.dirty i).launchid = h.launchid := rfl
@[simp] theorem Hart.dirty_rngkey (h : Hart) (i : Nat) : (h.dirty i).rngkey = h.rngkey := rfl
@[simp] theorem Hart.dirty_rngkeyh (h : Hart) (i : Nat) : (h.dirty i).rngkeyh = h.rngkeyh := rfl
@[simp] theorem Hart.dirty_tstatus (h : Hart) (i : Nat) : (h.dirty i).tstatus = h.tstatus := rfl
@[simp] theorem Hart.dirty_tvec (h : Hart) (i : Nat) : (h.dirty i).tvec = h.tvec := rfl
@[simp] theorem Hart.dirty_seqstate (h : Hart) (i : Nat) : (h.dirty i).seqstate = h.seqstate := rfl
@[simp] theorem Hart.dirty_long (h : Hart) (i : Nat) : (h.dirty i).long = h.long := rfl
@[simp] theorem Hart.dirty_tree (h : Hart) (i : Nat) : (h.dirty i).tree = h.tree := rfl
@[simp] theorem Hart.dirty_wcb (h : Hart) (i : Nat) : (h.dirty i).wcb = h.wcb := rfl
@[simp] theorem Hart.dirty_wcbAge (h : Hart) (i : Nat) : (h.dirty i).wcbAge = h.wcbAge := rfl
@[simp] theorem Hart.dirty_pending (h : Hart) (i : Nat) : (h.dirty i).pending = h.pending := rfl
@[simp] theorem Hart.dirty_engine (h : Hart) (i : Nat) : (h.dirty i).engine = h.engine := rfl
@[simp] theorem Hart.dirty_links (h : Hart) (i : Nat) : (h.dirty i).links = h.links := rfl
@[simp] theorem Hart.dirty_held (h : Hart) (i : Nat) : (h.dirty i).held = h.held := rfl
@[simp] theorem Hart.dirty_underflows (h : Hart) (i : Nat) : (h.dirty i).underflows = h.underflows := rfl
@[simp] theorem Hart.dirty_poison (h : Hart) (i : Nat) : (h.dirty i).poison = h.poison := rfl
@[simp] theorem Hart.dirty_status (h : Hart) (i : Nat) : (h.dirty i).status = h.status := rfl
@[simp] theorem Hart.dirty_preempted (h : Hart) (i : Nat) : (h.dirty i).preempted = h.preempted := rfl
@[simp] theorem Hart.dirty_cancelled (h : Hart) (i : Nat) : (h.dirty i).cancelled = h.cancelled := rfl
@[simp] theorem Hart.dirty_hid (h : Hart) (i : Nat) : (h.dirty i).hid = h.hid := rfl
@[simp] theorem Hart.dirty_cl (h : Hart) (i : Nat) : (h.dirty i).cl = h.cl := rfl
@[simp] theorem Hart.dirty_core (h : Hart) (i : Nat) : (h.dirty i).core = h.core := rfl
@[simp] theorem Hart.dirty_slot (h : Hart) (i : Nat) : (h.dirty i).slot = h.slot := rfl
@[simp] theorem Hart.dirty_time (h : Hart) (i : Nat) : (h.dirty i).time = h.time := rfl
@[simp] theorem Hart.dirty_cur (h : Hart) (i : Nat) : (h.dirty i).cur = h.cur := rfl
@[simp] theorem Hart.dirty_resumeMid (h : Hart) (i : Nat) : (h.dirty i).resumeMid = h.resumeMid := rfl
@[simp] theorem Hart.dirty_carried (h : Hart) (i : Nat) : (h.dirty i).carried = h.carried := rfl
@[simp] theorem Hart.dirty_area (h : Hart) (i : Nat) : (h.dirty i).area = h.area := rfl
@[simp] theorem Hart.dirty_sends (h : Hart) (i : Nat) : (h.dirty i).sends = h.sends := rfl

/-- `cure` changes only what it writes. -/
theorem Hart.cure_frame (h : Hart) (k n e : Nat) : h.cure k n e = { h with poison := (h.cure k n e).poison } := by
  unfold Hart.cure; split <;> rfl
@[simp] theorem Hart.cure_x (h : Hart) (k n e : Nat) : (h.cure k n e).x = h.x := by rw [Hart.cure_frame]
@[simp] theorem Hart.cure_pc (h : Hart) (k n e : Nat) : (h.cure k n e).pc = h.pc := by rw [Hart.cure_frame]
@[simp] theorem Hart.cure_f (h : Hart) (k n e : Nat) : (h.cure k n e).f = h.f := by rw [Hart.cure_frame]
@[simp] theorem Hart.cure_v (h : Hart) (k n e : Nat) : (h.cure k n e).v = h.v := by rw [Hart.cure_frame]
@[simp] theorem Hart.cure_m (h : Hart) (k n e : Nat) : (h.cure k n e).m = h.m := by rw [Hart.cure_frame]
@[simp] theorem Hart.cure_g (h : Hart) (k n e : Nat) : (h.cure k n e).g = h.g := by rw [Hart.cure_frame]
@[simp] theorem Hart.cure_p (h : Hart) (k n e : Nat) : (h.cure k n e).p = h.p := by rw [Hart.cure_frame]
@[simp] theorem Hart.cure_acc (h : Hart) (k n e : Nat) : (h.cure k n e).acc = h.acc := by rw [Hart.cure_frame]
@[simp] theorem Hart.cure_fq (h : Hart) (k n e : Nat) : (h.cure k n e).fq = h.fq := by rw [Hart.cure_frame]
@[simp] theorem Hart.cure_sw (h : Hart) (k n e : Nat) : (h.cure k n e).sw = h.sw := by rw [Hart.cure_frame]
@[simp] theorem Hart.cure_q (h : Hart) (k n e : Nat) : (h.cure k n e).q = h.q := by rw [Hart.cure_frame]
@[simp] theorem Hart.cure_tid (h : Hart) (k n e : Nat) : (h.cure k n e).tid = h.tid := by rw [Hart.cure_frame]
@[simp] theorem Hart.cure_scratch (h : Hart) (k n e : Nat) : (h.cure k n e).scratch = h.scratch := by rw [Hart.cure_frame]
@[simp] theorem Hart.cure_vl (h : Hart) (k n e : Nat) : (h.cure k n e).vl = h.vl := by rw [Hart.cure_frame]
@[simp] theorem Hart.cure_vlc (h : Hart) (k n e : Nat) : (h.cure k n e).vlc = h.vlc := by rw [Hart.cure_frame]
@[simp] theorem Hart.cure_vtype (h : Hart) (k n e : Nat) : (h.cure k n e).vtype = h.vtype := by rw [Hart.cure_frame]
@[simp] theorem Hart.cure_vstart (h : Hart) (k n e : Nat) : (h.cure k n e).vstart = h.vstart := by rw [Hart.cure_frame]
@[simp] theorem Hart.cure_vfv (h : Hart) (k n e : Nat) : (h.cure k n e).vfv = h.vfv := by rw [Hart.cure_frame]
@[simp] theorem Hart.cure_vrot (h : Hart) (k n e : Nat) : (h.cure k n e).vrot = h.vrot := by rw [Hart.cure_frame]
@[simp] theorem Hart.cure_vdirty (h : Hart) (k n e : Nat) : (h.cure k n e).vdirty = h.vdirty := by rw [Hart.cure_frame]
@[simp] theorem Hart.cure_vflags (h : Hart) (k n e : Nat) : (h.cure k n e).vflags = h.vflags := by rw [Hart.cure_frame]
@[simp] theorem Hart.cure_gbase (h : Hart) (k n e : Nat) : (h.cure k n e).gbase = h.gbase := by rw [Hart.cure_frame]
@[simp] theorem Hart.cure_poolpart (h : Hart) (k n e : Nat) : (h.cure k n e).poolpart = h.poolpart := by rw [Hart.cure_frame]
@[simp] theorem Hart.cure_lcore (h : Hart) (k n e : Nat) : (h.cure k n e).lcore = h.lcore := by rw [Hart.cure_frame]
@[simp] theorem Hart.cure_launchid (h : Hart) (k n e : Nat) : (h.cure k n e).launchid = h.launchid := by rw [Hart.cure_frame]
@[simp] theorem Hart.cure_rngkey (h : Hart) (k n e : Nat) : (h.cure k n e).rngkey = h.rngkey := by rw [Hart.cure_frame]
@[simp] theorem Hart.cure_rngkeyh (h : Hart) (k n e : Nat) : (h.cure k n e).rngkeyh = h.rngkeyh := by rw [Hart.cure_frame]
@[simp] theorem Hart.cure_tstatus (h : Hart) (k n e : Nat) : (h.cure k n e).tstatus = h.tstatus := by rw [Hart.cure_frame]
@[simp] theorem Hart.cure_tvec (h : Hart) (k n e : Nat) : (h.cure k n e).tvec = h.tvec := by rw [Hart.cure_frame]
@[simp] theorem Hart.cure_seqstate (h : Hart) (k n e : Nat) : (h.cure k n e).seqstate = h.seqstate := by rw [Hart.cure_frame]
@[simp] theorem Hart.cure_long (h : Hart) (k n e : Nat) : (h.cure k n e).long = h.long := by rw [Hart.cure_frame]
@[simp] theorem Hart.cure_tree (h : Hart) (k n e : Nat) : (h.cure k n e).tree = h.tree := by rw [Hart.cure_frame]
@[simp] theorem Hart.cure_wcb (h : Hart) (k n e : Nat) : (h.cure k n e).wcb = h.wcb := by rw [Hart.cure_frame]
@[simp] theorem Hart.cure_wcbAge (h : Hart) (k n e : Nat) : (h.cure k n e).wcbAge = h.wcbAge := by rw [Hart.cure_frame]
@[simp] theorem Hart.cure_pending (h : Hart) (k n e : Nat) : (h.cure k n e).pending = h.pending := by rw [Hart.cure_frame]
@[simp] theorem Hart.cure_engine (h : Hart) (k n e : Nat) : (h.cure k n e).engine = h.engine := by rw [Hart.cure_frame]
@[simp] theorem Hart.cure_links (h : Hart) (k n e : Nat) : (h.cure k n e).links = h.links := by rw [Hart.cure_frame]
@[simp] theorem Hart.cure_held (h : Hart) (k n e : Nat) : (h.cure k n e).held = h.held := by rw [Hart.cure_frame]
@[simp] theorem Hart.cure_underflows (h : Hart) (k n e : Nat) : (h.cure k n e).underflows = h.underflows := by rw [Hart.cure_frame]
@[simp] theorem Hart.cure_status (h : Hart) (k n e : Nat) : (h.cure k n e).status = h.status := by rw [Hart.cure_frame]
@[simp] theorem Hart.cure_preempted (h : Hart) (k n e : Nat) : (h.cure k n e).preempted = h.preempted := by rw [Hart.cure_frame]
@[simp] theorem Hart.cure_cancelled (h : Hart) (k n e : Nat) : (h.cure k n e).cancelled = h.cancelled := by rw [Hart.cure_frame]
@[simp] theorem Hart.cure_hid (h : Hart) (k n e : Nat) : (h.cure k n e).hid = h.hid := by rw [Hart.cure_frame]
@[simp] theorem Hart.cure_cl (h : Hart) (k n e : Nat) : (h.cure k n e).cl = h.cl := by rw [Hart.cure_frame]
@[simp] theorem Hart.cure_core (h : Hart) (k n e : Nat) : (h.cure k n e).core = h.core := by rw [Hart.cure_frame]
@[simp] theorem Hart.cure_slot (h : Hart) (k n e : Nat) : (h.cure k n e).slot = h.slot := by rw [Hart.cure_frame]
@[simp] theorem Hart.cure_time (h : Hart) (k n e : Nat) : (h.cure k n e).time = h.time := by rw [Hart.cure_frame]
@[simp] theorem Hart.cure_cur (h : Hart) (k n e : Nat) : (h.cure k n e).cur = h.cur := by rw [Hart.cure_frame]
@[simp] theorem Hart.cure_resumeMid (h : Hart) (k n e : Nat) : (h.cure k n e).resumeMid = h.resumeMid := by rw [Hart.cure_frame]
@[simp] theorem Hart.cure_carried (h : Hart) (k n e : Nat) : (h.cure k n e).carried = h.carried := by rw [Hart.cure_frame]
@[simp] theorem Hart.cure_area (h : Hart) (k n e : Nat) : (h.cure k n e).area = h.area := by rw [Hart.cure_frame]
@[simp] theorem Hart.cure_sends (h : Hart) (k n e : Nat) : (h.cure k n e).sends = h.sends := by rw [Hart.cure_frame]

/-- `setSlot` changes only what it writes. -/
theorem Hart.setSlot_frame (h : Hart) (n k : Nat) (v : Slot) : h.setSlot n k v = { h with v := (h.setSlot n k v).v, poison := (h.setSlot n k v).poison } := by
  unfold Hart.setSlot Hart.cure; split <;> rfl
@[simp] theorem Hart.setSlot_x (h : Hart) (n k : Nat) (v : Slot) : (h.setSlot n k v).x = h.x := by rw [Hart.setSlot_frame]
@[simp] theorem Hart.setSlot_pc (h : Hart) (n k : Nat) (v : Slot) : (h.setSlot n k v).pc = h.pc := by rw [Hart.setSlot_frame]
@[simp] theorem Hart.setSlot_f (h : Hart) (n k : Nat) (v : Slot) : (h.setSlot n k v).f = h.f := by rw [Hart.setSlot_frame]
@[simp] theorem Hart.setSlot_m (h : Hart) (n k : Nat) (v : Slot) : (h.setSlot n k v).m = h.m := by rw [Hart.setSlot_frame]
@[simp] theorem Hart.setSlot_g (h : Hart) (n k : Nat) (v : Slot) : (h.setSlot n k v).g = h.g := by rw [Hart.setSlot_frame]
@[simp] theorem Hart.setSlot_p (h : Hart) (n k : Nat) (v : Slot) : (h.setSlot n k v).p = h.p := by rw [Hart.setSlot_frame]
@[simp] theorem Hart.setSlot_acc (h : Hart) (n k : Nat) (v : Slot) : (h.setSlot n k v).acc = h.acc := by rw [Hart.setSlot_frame]
@[simp] theorem Hart.setSlot_fq (h : Hart) (n k : Nat) (v : Slot) : (h.setSlot n k v).fq = h.fq := by rw [Hart.setSlot_frame]
@[simp] theorem Hart.setSlot_sw (h : Hart) (n k : Nat) (v : Slot) : (h.setSlot n k v).sw = h.sw := by rw [Hart.setSlot_frame]
@[simp] theorem Hart.setSlot_q (h : Hart) (n k : Nat) (v : Slot) : (h.setSlot n k v).q = h.q := by rw [Hart.setSlot_frame]
@[simp] theorem Hart.setSlot_tid (h : Hart) (n k : Nat) (v : Slot) : (h.setSlot n k v).tid = h.tid := by rw [Hart.setSlot_frame]
@[simp] theorem Hart.setSlot_scratch (h : Hart) (n k : Nat) (v : Slot) : (h.setSlot n k v).scratch = h.scratch := by rw [Hart.setSlot_frame]
@[simp] theorem Hart.setSlot_vl (h : Hart) (n k : Nat) (v : Slot) : (h.setSlot n k v).vl = h.vl := by rw [Hart.setSlot_frame]
@[simp] theorem Hart.setSlot_vlc (h : Hart) (n k : Nat) (v : Slot) : (h.setSlot n k v).vlc = h.vlc := by rw [Hart.setSlot_frame]
@[simp] theorem Hart.setSlot_vtype (h : Hart) (n k : Nat) (v : Slot) : (h.setSlot n k v).vtype = h.vtype := by rw [Hart.setSlot_frame]
@[simp] theorem Hart.setSlot_vstart (h : Hart) (n k : Nat) (v : Slot) : (h.setSlot n k v).vstart = h.vstart := by rw [Hart.setSlot_frame]
@[simp] theorem Hart.setSlot_vfv (h : Hart) (n k : Nat) (v : Slot) : (h.setSlot n k v).vfv = h.vfv := by rw [Hart.setSlot_frame]
@[simp] theorem Hart.setSlot_vrot (h : Hart) (n k : Nat) (v : Slot) : (h.setSlot n k v).vrot = h.vrot := by rw [Hart.setSlot_frame]
@[simp] theorem Hart.setSlot_vdirty (h : Hart) (n k : Nat) (v : Slot) : (h.setSlot n k v).vdirty = h.vdirty := by rw [Hart.setSlot_frame]
@[simp] theorem Hart.setSlot_vflags (h : Hart) (n k : Nat) (v : Slot) : (h.setSlot n k v).vflags = h.vflags := by rw [Hart.setSlot_frame]
@[simp] theorem Hart.setSlot_gbase (h : Hart) (n k : Nat) (v : Slot) : (h.setSlot n k v).gbase = h.gbase := by rw [Hart.setSlot_frame]
@[simp] theorem Hart.setSlot_poolpart (h : Hart) (n k : Nat) (v : Slot) : (h.setSlot n k v).poolpart = h.poolpart := by rw [Hart.setSlot_frame]
@[simp] theorem Hart.setSlot_lcore (h : Hart) (n k : Nat) (v : Slot) : (h.setSlot n k v).lcore = h.lcore := by rw [Hart.setSlot_frame]
@[simp] theorem Hart.setSlot_launchid (h : Hart) (n k : Nat) (v : Slot) : (h.setSlot n k v).launchid = h.launchid := by rw [Hart.setSlot_frame]
@[simp] theorem Hart.setSlot_rngkey (h : Hart) (n k : Nat) (v : Slot) : (h.setSlot n k v).rngkey = h.rngkey := by rw [Hart.setSlot_frame]
@[simp] theorem Hart.setSlot_rngkeyh (h : Hart) (n k : Nat) (v : Slot) : (h.setSlot n k v).rngkeyh = h.rngkeyh := by rw [Hart.setSlot_frame]
@[simp] theorem Hart.setSlot_tstatus (h : Hart) (n k : Nat) (v : Slot) : (h.setSlot n k v).tstatus = h.tstatus := by rw [Hart.setSlot_frame]
@[simp] theorem Hart.setSlot_tvec (h : Hart) (n k : Nat) (v : Slot) : (h.setSlot n k v).tvec = h.tvec := by rw [Hart.setSlot_frame]
@[simp] theorem Hart.setSlot_seqstate (h : Hart) (n k : Nat) (v : Slot) : (h.setSlot n k v).seqstate = h.seqstate := by rw [Hart.setSlot_frame]
@[simp] theorem Hart.setSlot_long (h : Hart) (n k : Nat) (v : Slot) : (h.setSlot n k v).long = h.long := by rw [Hart.setSlot_frame]
@[simp] theorem Hart.setSlot_tree (h : Hart) (n k : Nat) (v : Slot) : (h.setSlot n k v).tree = h.tree := by rw [Hart.setSlot_frame]
@[simp] theorem Hart.setSlot_wcb (h : Hart) (n k : Nat) (v : Slot) : (h.setSlot n k v).wcb = h.wcb := by rw [Hart.setSlot_frame]
@[simp] theorem Hart.setSlot_wcbAge (h : Hart) (n k : Nat) (v : Slot) : (h.setSlot n k v).wcbAge = h.wcbAge := by rw [Hart.setSlot_frame]
@[simp] theorem Hart.setSlot_pending (h : Hart) (n k : Nat) (v : Slot) : (h.setSlot n k v).pending = h.pending := by rw [Hart.setSlot_frame]
@[simp] theorem Hart.setSlot_engine (h : Hart) (n k : Nat) (v : Slot) : (h.setSlot n k v).engine = h.engine := by rw [Hart.setSlot_frame]
@[simp] theorem Hart.setSlot_links (h : Hart) (n k : Nat) (v : Slot) : (h.setSlot n k v).links = h.links := by rw [Hart.setSlot_frame]
@[simp] theorem Hart.setSlot_held (h : Hart) (n k : Nat) (v : Slot) : (h.setSlot n k v).held = h.held := by rw [Hart.setSlot_frame]
@[simp] theorem Hart.setSlot_underflows (h : Hart) (n k : Nat) (v : Slot) : (h.setSlot n k v).underflows = h.underflows := by rw [Hart.setSlot_frame]
@[simp] theorem Hart.setSlot_status (h : Hart) (n k : Nat) (v : Slot) : (h.setSlot n k v).status = h.status := by rw [Hart.setSlot_frame]
@[simp] theorem Hart.setSlot_preempted (h : Hart) (n k : Nat) (v : Slot) : (h.setSlot n k v).preempted = h.preempted := by rw [Hart.setSlot_frame]
@[simp] theorem Hart.setSlot_cancelled (h : Hart) (n k : Nat) (v : Slot) : (h.setSlot n k v).cancelled = h.cancelled := by rw [Hart.setSlot_frame]
@[simp] theorem Hart.setSlot_hid (h : Hart) (n k : Nat) (v : Slot) : (h.setSlot n k v).hid = h.hid := by rw [Hart.setSlot_frame]
@[simp] theorem Hart.setSlot_cl (h : Hart) (n k : Nat) (v : Slot) : (h.setSlot n k v).cl = h.cl := by rw [Hart.setSlot_frame]
@[simp] theorem Hart.setSlot_core (h : Hart) (n k : Nat) (v : Slot) : (h.setSlot n k v).core = h.core := by rw [Hart.setSlot_frame]
@[simp] theorem Hart.setSlot_slot (h : Hart) (n k : Nat) (v : Slot) : (h.setSlot n k v).slot = h.slot := by rw [Hart.setSlot_frame]
@[simp] theorem Hart.setSlot_time (h : Hart) (n k : Nat) (v : Slot) : (h.setSlot n k v).time = h.time := by rw [Hart.setSlot_frame]
@[simp] theorem Hart.setSlot_cur (h : Hart) (n k : Nat) (v : Slot) : (h.setSlot n k v).cur = h.cur := by rw [Hart.setSlot_frame]
@[simp] theorem Hart.setSlot_resumeMid (h : Hart) (n k : Nat) (v : Slot) : (h.setSlot n k v).resumeMid = h.resumeMid := by rw [Hart.setSlot_frame]
@[simp] theorem Hart.setSlot_carried (h : Hart) (n k : Nat) (v : Slot) : (h.setSlot n k v).carried = h.carried := by rw [Hart.setSlot_frame]
@[simp] theorem Hart.setSlot_area (h : Hart) (n k : Nat) (v : Slot) : (h.setSlot n k v).area = h.area := by rw [Hart.setSlot_frame]
@[simp] theorem Hart.setSlot_sends (h : Hart) (n k : Nat) (v : Slot) : (h.setSlot n k v).sends = h.sends := by rw [Hart.setSlot_frame]

/-- `setMask` changes only what it writes. -/
theorem Hart.setMask_frame (h : Hart) (n : Nat) (v : BitVec 4096) (es : List Nat) : h.setMask n v es = { h with m := (h.setMask n v es).m, vdirty := (h.setMask n v es).vdirty, poison := (h.setMask n v es).poison } := by
  unfold Hart.setMask Hart.dirty; split
  · rfl
  · dsimp only; split <;> rfl
@[simp] theorem Hart.setMask_x (h : Hart) (n : Nat) (v : BitVec 4096) (es : List Nat) : (h.setMask n v es).x = h.x := by rw [Hart.setMask_frame]
@[simp] theorem Hart.setMask_pc (h : Hart) (n : Nat) (v : BitVec 4096) (es : List Nat) : (h.setMask n v es).pc = h.pc := by rw [Hart.setMask_frame]
@[simp] theorem Hart.setMask_f (h : Hart) (n : Nat) (v : BitVec 4096) (es : List Nat) : (h.setMask n v es).f = h.f := by rw [Hart.setMask_frame]
@[simp] theorem Hart.setMask_v (h : Hart) (n : Nat) (v : BitVec 4096) (es : List Nat) : (h.setMask n v es).v = h.v := by rw [Hart.setMask_frame]
@[simp] theorem Hart.setMask_g (h : Hart) (n : Nat) (v : BitVec 4096) (es : List Nat) : (h.setMask n v es).g = h.g := by rw [Hart.setMask_frame]
@[simp] theorem Hart.setMask_p (h : Hart) (n : Nat) (v : BitVec 4096) (es : List Nat) : (h.setMask n v es).p = h.p := by rw [Hart.setMask_frame]
@[simp] theorem Hart.setMask_acc (h : Hart) (n : Nat) (v : BitVec 4096) (es : List Nat) : (h.setMask n v es).acc = h.acc := by rw [Hart.setMask_frame]
@[simp] theorem Hart.setMask_fq (h : Hart) (n : Nat) (v : BitVec 4096) (es : List Nat) : (h.setMask n v es).fq = h.fq := by rw [Hart.setMask_frame]
@[simp] theorem Hart.setMask_sw (h : Hart) (n : Nat) (v : BitVec 4096) (es : List Nat) : (h.setMask n v es).sw = h.sw := by rw [Hart.setMask_frame]
@[simp] theorem Hart.setMask_q (h : Hart) (n : Nat) (v : BitVec 4096) (es : List Nat) : (h.setMask n v es).q = h.q := by rw [Hart.setMask_frame]
@[simp] theorem Hart.setMask_tid (h : Hart) (n : Nat) (v : BitVec 4096) (es : List Nat) : (h.setMask n v es).tid = h.tid := by rw [Hart.setMask_frame]
@[simp] theorem Hart.setMask_scratch (h : Hart) (n : Nat) (v : BitVec 4096) (es : List Nat) : (h.setMask n v es).scratch = h.scratch := by rw [Hart.setMask_frame]
@[simp] theorem Hart.setMask_vl (h : Hart) (n : Nat) (v : BitVec 4096) (es : List Nat) : (h.setMask n v es).vl = h.vl := by rw [Hart.setMask_frame]
@[simp] theorem Hart.setMask_vlc (h : Hart) (n : Nat) (v : BitVec 4096) (es : List Nat) : (h.setMask n v es).vlc = h.vlc := by rw [Hart.setMask_frame]
@[simp] theorem Hart.setMask_vtype (h : Hart) (n : Nat) (v : BitVec 4096) (es : List Nat) : (h.setMask n v es).vtype = h.vtype := by rw [Hart.setMask_frame]
@[simp] theorem Hart.setMask_vstart (h : Hart) (n : Nat) (v : BitVec 4096) (es : List Nat) : (h.setMask n v es).vstart = h.vstart := by rw [Hart.setMask_frame]
@[simp] theorem Hart.setMask_vfv (h : Hart) (n : Nat) (v : BitVec 4096) (es : List Nat) : (h.setMask n v es).vfv = h.vfv := by rw [Hart.setMask_frame]
@[simp] theorem Hart.setMask_vrot (h : Hart) (n : Nat) (v : BitVec 4096) (es : List Nat) : (h.setMask n v es).vrot = h.vrot := by rw [Hart.setMask_frame]
@[simp] theorem Hart.setMask_vflags (h : Hart) (n : Nat) (v : BitVec 4096) (es : List Nat) : (h.setMask n v es).vflags = h.vflags := by rw [Hart.setMask_frame]
@[simp] theorem Hart.setMask_gbase (h : Hart) (n : Nat) (v : BitVec 4096) (es : List Nat) : (h.setMask n v es).gbase = h.gbase := by rw [Hart.setMask_frame]
@[simp] theorem Hart.setMask_poolpart (h : Hart) (n : Nat) (v : BitVec 4096) (es : List Nat) : (h.setMask n v es).poolpart = h.poolpart := by rw [Hart.setMask_frame]
@[simp] theorem Hart.setMask_lcore (h : Hart) (n : Nat) (v : BitVec 4096) (es : List Nat) : (h.setMask n v es).lcore = h.lcore := by rw [Hart.setMask_frame]
@[simp] theorem Hart.setMask_launchid (h : Hart) (n : Nat) (v : BitVec 4096) (es : List Nat) : (h.setMask n v es).launchid = h.launchid := by rw [Hart.setMask_frame]
@[simp] theorem Hart.setMask_rngkey (h : Hart) (n : Nat) (v : BitVec 4096) (es : List Nat) : (h.setMask n v es).rngkey = h.rngkey := by rw [Hart.setMask_frame]
@[simp] theorem Hart.setMask_rngkeyh (h : Hart) (n : Nat) (v : BitVec 4096) (es : List Nat) : (h.setMask n v es).rngkeyh = h.rngkeyh := by rw [Hart.setMask_frame]
@[simp] theorem Hart.setMask_tstatus (h : Hart) (n : Nat) (v : BitVec 4096) (es : List Nat) : (h.setMask n v es).tstatus = h.tstatus := by rw [Hart.setMask_frame]
@[simp] theorem Hart.setMask_tvec (h : Hart) (n : Nat) (v : BitVec 4096) (es : List Nat) : (h.setMask n v es).tvec = h.tvec := by rw [Hart.setMask_frame]
@[simp] theorem Hart.setMask_seqstate (h : Hart) (n : Nat) (v : BitVec 4096) (es : List Nat) : (h.setMask n v es).seqstate = h.seqstate := by rw [Hart.setMask_frame]
@[simp] theorem Hart.setMask_long (h : Hart) (n : Nat) (v : BitVec 4096) (es : List Nat) : (h.setMask n v es).long = h.long := by rw [Hart.setMask_frame]
@[simp] theorem Hart.setMask_tree (h : Hart) (n : Nat) (v : BitVec 4096) (es : List Nat) : (h.setMask n v es).tree = h.tree := by rw [Hart.setMask_frame]
@[simp] theorem Hart.setMask_wcb (h : Hart) (n : Nat) (v : BitVec 4096) (es : List Nat) : (h.setMask n v es).wcb = h.wcb := by rw [Hart.setMask_frame]
@[simp] theorem Hart.setMask_wcbAge (h : Hart) (n : Nat) (v : BitVec 4096) (es : List Nat) : (h.setMask n v es).wcbAge = h.wcbAge := by rw [Hart.setMask_frame]
@[simp] theorem Hart.setMask_pending (h : Hart) (n : Nat) (v : BitVec 4096) (es : List Nat) : (h.setMask n v es).pending = h.pending := by rw [Hart.setMask_frame]
@[simp] theorem Hart.setMask_engine (h : Hart) (n : Nat) (v : BitVec 4096) (es : List Nat) : (h.setMask n v es).engine = h.engine := by rw [Hart.setMask_frame]
@[simp] theorem Hart.setMask_links (h : Hart) (n : Nat) (v : BitVec 4096) (es : List Nat) : (h.setMask n v es).links = h.links := by rw [Hart.setMask_frame]
@[simp] theorem Hart.setMask_held (h : Hart) (n : Nat) (v : BitVec 4096) (es : List Nat) : (h.setMask n v es).held = h.held := by rw [Hart.setMask_frame]
@[simp] theorem Hart.setMask_underflows (h : Hart) (n : Nat) (v : BitVec 4096) (es : List Nat) : (h.setMask n v es).underflows = h.underflows := by rw [Hart.setMask_frame]
@[simp] theorem Hart.setMask_status (h : Hart) (n : Nat) (v : BitVec 4096) (es : List Nat) : (h.setMask n v es).status = h.status := by rw [Hart.setMask_frame]
@[simp] theorem Hart.setMask_preempted (h : Hart) (n : Nat) (v : BitVec 4096) (es : List Nat) : (h.setMask n v es).preempted = h.preempted := by rw [Hart.setMask_frame]
@[simp] theorem Hart.setMask_cancelled (h : Hart) (n : Nat) (v : BitVec 4096) (es : List Nat) : (h.setMask n v es).cancelled = h.cancelled := by rw [Hart.setMask_frame]
@[simp] theorem Hart.setMask_hid (h : Hart) (n : Nat) (v : BitVec 4096) (es : List Nat) : (h.setMask n v es).hid = h.hid := by rw [Hart.setMask_frame]
@[simp] theorem Hart.setMask_cl (h : Hart) (n : Nat) (v : BitVec 4096) (es : List Nat) : (h.setMask n v es).cl = h.cl := by rw [Hart.setMask_frame]
@[simp] theorem Hart.setMask_core (h : Hart) (n : Nat) (v : BitVec 4096) (es : List Nat) : (h.setMask n v es).core = h.core := by rw [Hart.setMask_frame]
@[simp] theorem Hart.setMask_slot (h : Hart) (n : Nat) (v : BitVec 4096) (es : List Nat) : (h.setMask n v es).slot = h.slot := by rw [Hart.setMask_frame]
@[simp] theorem Hart.setMask_time (h : Hart) (n : Nat) (v : BitVec 4096) (es : List Nat) : (h.setMask n v es).time = h.time := by rw [Hart.setMask_frame]
@[simp] theorem Hart.setMask_cur (h : Hart) (n : Nat) (v : BitVec 4096) (es : List Nat) : (h.setMask n v es).cur = h.cur := by rw [Hart.setMask_frame]
@[simp] theorem Hart.setMask_resumeMid (h : Hart) (n : Nat) (v : BitVec 4096) (es : List Nat) : (h.setMask n v es).resumeMid = h.resumeMid := by rw [Hart.setMask_frame]
@[simp] theorem Hart.setMask_carried (h : Hart) (n : Nat) (v : BitVec 4096) (es : List Nat) : (h.setMask n v es).carried = h.carried := by rw [Hart.setMask_frame]
@[simp] theorem Hart.setMask_area (h : Hart) (n : Nat) (v : BitVec 4096) (es : List Nat) : (h.setMask n v es).area = h.area := by rw [Hart.setMask_frame]
@[simp] theorem Hart.setMask_sends (h : Hart) (n : Nat) (v : BitVec 4096) (es : List Nat) : (h.setMask n v es).sends = h.sends := by rw [Hart.setMask_frame]

/-- `setG` changes only what it writes. -/
theorem Hart.setG_frame (h : Hart) (n e : Nat) (v : BitVec 16) : h.setG n e v = { h with g := (h.setG n e v).g, poison := (h.setG n e v).poison } := by
  unfold Hart.setG Hart.cure; split <;> rfl
@[simp] theorem Hart.setG_x (h : Hart) (n e : Nat) (v : BitVec 16) : (h.setG n e v).x = h.x := by rw [Hart.setG_frame]
@[simp] theorem Hart.setG_pc (h : Hart) (n e : Nat) (v : BitVec 16) : (h.setG n e v).pc = h.pc := by rw [Hart.setG_frame]
@[simp] theorem Hart.setG_f (h : Hart) (n e : Nat) (v : BitVec 16) : (h.setG n e v).f = h.f := by rw [Hart.setG_frame]
@[simp] theorem Hart.setG_v (h : Hart) (n e : Nat) (v : BitVec 16) : (h.setG n e v).v = h.v := by rw [Hart.setG_frame]
@[simp] theorem Hart.setG_m (h : Hart) (n e : Nat) (v : BitVec 16) : (h.setG n e v).m = h.m := by rw [Hart.setG_frame]
@[simp] theorem Hart.setG_p (h : Hart) (n e : Nat) (v : BitVec 16) : (h.setG n e v).p = h.p := by rw [Hart.setG_frame]
@[simp] theorem Hart.setG_acc (h : Hart) (n e : Nat) (v : BitVec 16) : (h.setG n e v).acc = h.acc := by rw [Hart.setG_frame]
@[simp] theorem Hart.setG_fq (h : Hart) (n e : Nat) (v : BitVec 16) : (h.setG n e v).fq = h.fq := by rw [Hart.setG_frame]
@[simp] theorem Hart.setG_sw (h : Hart) (n e : Nat) (v : BitVec 16) : (h.setG n e v).sw = h.sw := by rw [Hart.setG_frame]
@[simp] theorem Hart.setG_q (h : Hart) (n e : Nat) (v : BitVec 16) : (h.setG n e v).q = h.q := by rw [Hart.setG_frame]
@[simp] theorem Hart.setG_tid (h : Hart) (n e : Nat) (v : BitVec 16) : (h.setG n e v).tid = h.tid := by rw [Hart.setG_frame]
@[simp] theorem Hart.setG_scratch (h : Hart) (n e : Nat) (v : BitVec 16) : (h.setG n e v).scratch = h.scratch := by rw [Hart.setG_frame]
@[simp] theorem Hart.setG_vl (h : Hart) (n e : Nat) (v : BitVec 16) : (h.setG n e v).vl = h.vl := by rw [Hart.setG_frame]
@[simp] theorem Hart.setG_vlc (h : Hart) (n e : Nat) (v : BitVec 16) : (h.setG n e v).vlc = h.vlc := by rw [Hart.setG_frame]
@[simp] theorem Hart.setG_vtype (h : Hart) (n e : Nat) (v : BitVec 16) : (h.setG n e v).vtype = h.vtype := by rw [Hart.setG_frame]
@[simp] theorem Hart.setG_vstart (h : Hart) (n e : Nat) (v : BitVec 16) : (h.setG n e v).vstart = h.vstart := by rw [Hart.setG_frame]
@[simp] theorem Hart.setG_vfv (h : Hart) (n e : Nat) (v : BitVec 16) : (h.setG n e v).vfv = h.vfv := by rw [Hart.setG_frame]
@[simp] theorem Hart.setG_vrot (h : Hart) (n e : Nat) (v : BitVec 16) : (h.setG n e v).vrot = h.vrot := by rw [Hart.setG_frame]
@[simp] theorem Hart.setG_vdirty (h : Hart) (n e : Nat) (v : BitVec 16) : (h.setG n e v).vdirty = h.vdirty := by rw [Hart.setG_frame]
@[simp] theorem Hart.setG_vflags (h : Hart) (n e : Nat) (v : BitVec 16) : (h.setG n e v).vflags = h.vflags := by rw [Hart.setG_frame]
@[simp] theorem Hart.setG_gbase (h : Hart) (n e : Nat) (v : BitVec 16) : (h.setG n e v).gbase = h.gbase := by rw [Hart.setG_frame]
@[simp] theorem Hart.setG_poolpart (h : Hart) (n e : Nat) (v : BitVec 16) : (h.setG n e v).poolpart = h.poolpart := by rw [Hart.setG_frame]
@[simp] theorem Hart.setG_lcore (h : Hart) (n e : Nat) (v : BitVec 16) : (h.setG n e v).lcore = h.lcore := by rw [Hart.setG_frame]
@[simp] theorem Hart.setG_launchid (h : Hart) (n e : Nat) (v : BitVec 16) : (h.setG n e v).launchid = h.launchid := by rw [Hart.setG_frame]
@[simp] theorem Hart.setG_rngkey (h : Hart) (n e : Nat) (v : BitVec 16) : (h.setG n e v).rngkey = h.rngkey := by rw [Hart.setG_frame]
@[simp] theorem Hart.setG_rngkeyh (h : Hart) (n e : Nat) (v : BitVec 16) : (h.setG n e v).rngkeyh = h.rngkeyh := by rw [Hart.setG_frame]
@[simp] theorem Hart.setG_tstatus (h : Hart) (n e : Nat) (v : BitVec 16) : (h.setG n e v).tstatus = h.tstatus := by rw [Hart.setG_frame]
@[simp] theorem Hart.setG_tvec (h : Hart) (n e : Nat) (v : BitVec 16) : (h.setG n e v).tvec = h.tvec := by rw [Hart.setG_frame]
@[simp] theorem Hart.setG_seqstate (h : Hart) (n e : Nat) (v : BitVec 16) : (h.setG n e v).seqstate = h.seqstate := by rw [Hart.setG_frame]
@[simp] theorem Hart.setG_long (h : Hart) (n e : Nat) (v : BitVec 16) : (h.setG n e v).long = h.long := by rw [Hart.setG_frame]
@[simp] theorem Hart.setG_tree (h : Hart) (n e : Nat) (v : BitVec 16) : (h.setG n e v).tree = h.tree := by rw [Hart.setG_frame]
@[simp] theorem Hart.setG_wcb (h : Hart) (n e : Nat) (v : BitVec 16) : (h.setG n e v).wcb = h.wcb := by rw [Hart.setG_frame]
@[simp] theorem Hart.setG_wcbAge (h : Hart) (n e : Nat) (v : BitVec 16) : (h.setG n e v).wcbAge = h.wcbAge := by rw [Hart.setG_frame]
@[simp] theorem Hart.setG_pending (h : Hart) (n e : Nat) (v : BitVec 16) : (h.setG n e v).pending = h.pending := by rw [Hart.setG_frame]
@[simp] theorem Hart.setG_engine (h : Hart) (n e : Nat) (v : BitVec 16) : (h.setG n e v).engine = h.engine := by rw [Hart.setG_frame]
@[simp] theorem Hart.setG_links (h : Hart) (n e : Nat) (v : BitVec 16) : (h.setG n e v).links = h.links := by rw [Hart.setG_frame]
@[simp] theorem Hart.setG_held (h : Hart) (n e : Nat) (v : BitVec 16) : (h.setG n e v).held = h.held := by rw [Hart.setG_frame]
@[simp] theorem Hart.setG_underflows (h : Hart) (n e : Nat) (v : BitVec 16) : (h.setG n e v).underflows = h.underflows := by rw [Hart.setG_frame]
@[simp] theorem Hart.setG_status (h : Hart) (n e : Nat) (v : BitVec 16) : (h.setG n e v).status = h.status := by rw [Hart.setG_frame]
@[simp] theorem Hart.setG_preempted (h : Hart) (n e : Nat) (v : BitVec 16) : (h.setG n e v).preempted = h.preempted := by rw [Hart.setG_frame]
@[simp] theorem Hart.setG_cancelled (h : Hart) (n e : Nat) (v : BitVec 16) : (h.setG n e v).cancelled = h.cancelled := by rw [Hart.setG_frame]
@[simp] theorem Hart.setG_hid (h : Hart) (n e : Nat) (v : BitVec 16) : (h.setG n e v).hid = h.hid := by rw [Hart.setG_frame]
@[simp] theorem Hart.setG_cl (h : Hart) (n e : Nat) (v : BitVec 16) : (h.setG n e v).cl = h.cl := by rw [Hart.setG_frame]
@[simp] theorem Hart.setG_core (h : Hart) (n e : Nat) (v : BitVec 16) : (h.setG n e v).core = h.core := by rw [Hart.setG_frame]
@[simp] theorem Hart.setG_slot (h : Hart) (n e : Nat) (v : BitVec 16) : (h.setG n e v).slot = h.slot := by rw [Hart.setG_frame]
@[simp] theorem Hart.setG_time (h : Hart) (n e : Nat) (v : BitVec 16) : (h.setG n e v).time = h.time := by rw [Hart.setG_frame]
@[simp] theorem Hart.setG_cur (h : Hart) (n e : Nat) (v : BitVec 16) : (h.setG n e v).cur = h.cur := by rw [Hart.setG_frame]
@[simp] theorem Hart.setG_resumeMid (h : Hart) (n e : Nat) (v : BitVec 16) : (h.setG n e v).resumeMid = h.resumeMid := by rw [Hart.setG_frame]
@[simp] theorem Hart.setG_carried (h : Hart) (n e : Nat) (v : BitVec 16) : (h.setG n e v).carried = h.carried := by rw [Hart.setG_frame]
@[simp] theorem Hart.setG_area (h : Hart) (n e : Nat) (v : BitVec 16) : (h.setG n e v).area = h.area := by rw [Hart.setG_frame]
@[simp] theorem Hart.setG_sends (h : Hart) (n e : Nat) (v : BitVec 16) : (h.setG n e v).sends = h.sends := by rw [Hart.setG_frame]

/-- `setAcc` changes only what it writes. -/
theorem Hart.setAcc_frame (h : Hart) (n c : Nat) (v : AccCell) : h.setAcc n c v = { h with acc := (h.setAcc n c v).acc, poison := (h.setAcc n c v).poison } := by
  unfold Hart.setAcc Hart.cure; split <;> rfl
@[simp] theorem Hart.setAcc_x (h : Hart) (n c : Nat) (v : AccCell) : (h.setAcc n c v).x = h.x := by rw [Hart.setAcc_frame]
@[simp] theorem Hart.setAcc_pc (h : Hart) (n c : Nat) (v : AccCell) : (h.setAcc n c v).pc = h.pc := by rw [Hart.setAcc_frame]
@[simp] theorem Hart.setAcc_f (h : Hart) (n c : Nat) (v : AccCell) : (h.setAcc n c v).f = h.f := by rw [Hart.setAcc_frame]
@[simp] theorem Hart.setAcc_v (h : Hart) (n c : Nat) (v : AccCell) : (h.setAcc n c v).v = h.v := by rw [Hart.setAcc_frame]
@[simp] theorem Hart.setAcc_m (h : Hart) (n c : Nat) (v : AccCell) : (h.setAcc n c v).m = h.m := by rw [Hart.setAcc_frame]
@[simp] theorem Hart.setAcc_g (h : Hart) (n c : Nat) (v : AccCell) : (h.setAcc n c v).g = h.g := by rw [Hart.setAcc_frame]
@[simp] theorem Hart.setAcc_p (h : Hart) (n c : Nat) (v : AccCell) : (h.setAcc n c v).p = h.p := by rw [Hart.setAcc_frame]
@[simp] theorem Hart.setAcc_fq (h : Hart) (n c : Nat) (v : AccCell) : (h.setAcc n c v).fq = h.fq := by rw [Hart.setAcc_frame]
@[simp] theorem Hart.setAcc_sw (h : Hart) (n c : Nat) (v : AccCell) : (h.setAcc n c v).sw = h.sw := by rw [Hart.setAcc_frame]
@[simp] theorem Hart.setAcc_q (h : Hart) (n c : Nat) (v : AccCell) : (h.setAcc n c v).q = h.q := by rw [Hart.setAcc_frame]
@[simp] theorem Hart.setAcc_tid (h : Hart) (n c : Nat) (v : AccCell) : (h.setAcc n c v).tid = h.tid := by rw [Hart.setAcc_frame]
@[simp] theorem Hart.setAcc_scratch (h : Hart) (n c : Nat) (v : AccCell) : (h.setAcc n c v).scratch = h.scratch := by rw [Hart.setAcc_frame]
@[simp] theorem Hart.setAcc_vl (h : Hart) (n c : Nat) (v : AccCell) : (h.setAcc n c v).vl = h.vl := by rw [Hart.setAcc_frame]
@[simp] theorem Hart.setAcc_vlc (h : Hart) (n c : Nat) (v : AccCell) : (h.setAcc n c v).vlc = h.vlc := by rw [Hart.setAcc_frame]
@[simp] theorem Hart.setAcc_vtype (h : Hart) (n c : Nat) (v : AccCell) : (h.setAcc n c v).vtype = h.vtype := by rw [Hart.setAcc_frame]
@[simp] theorem Hart.setAcc_vstart (h : Hart) (n c : Nat) (v : AccCell) : (h.setAcc n c v).vstart = h.vstart := by rw [Hart.setAcc_frame]
@[simp] theorem Hart.setAcc_vfv (h : Hart) (n c : Nat) (v : AccCell) : (h.setAcc n c v).vfv = h.vfv := by rw [Hart.setAcc_frame]
@[simp] theorem Hart.setAcc_vrot (h : Hart) (n c : Nat) (v : AccCell) : (h.setAcc n c v).vrot = h.vrot := by rw [Hart.setAcc_frame]
@[simp] theorem Hart.setAcc_vdirty (h : Hart) (n c : Nat) (v : AccCell) : (h.setAcc n c v).vdirty = h.vdirty := by rw [Hart.setAcc_frame]
@[simp] theorem Hart.setAcc_vflags (h : Hart) (n c : Nat) (v : AccCell) : (h.setAcc n c v).vflags = h.vflags := by rw [Hart.setAcc_frame]
@[simp] theorem Hart.setAcc_gbase (h : Hart) (n c : Nat) (v : AccCell) : (h.setAcc n c v).gbase = h.gbase := by rw [Hart.setAcc_frame]
@[simp] theorem Hart.setAcc_poolpart (h : Hart) (n c : Nat) (v : AccCell) : (h.setAcc n c v).poolpart = h.poolpart := by rw [Hart.setAcc_frame]
@[simp] theorem Hart.setAcc_lcore (h : Hart) (n c : Nat) (v : AccCell) : (h.setAcc n c v).lcore = h.lcore := by rw [Hart.setAcc_frame]
@[simp] theorem Hart.setAcc_launchid (h : Hart) (n c : Nat) (v : AccCell) : (h.setAcc n c v).launchid = h.launchid := by rw [Hart.setAcc_frame]
@[simp] theorem Hart.setAcc_rngkey (h : Hart) (n c : Nat) (v : AccCell) : (h.setAcc n c v).rngkey = h.rngkey := by rw [Hart.setAcc_frame]
@[simp] theorem Hart.setAcc_rngkeyh (h : Hart) (n c : Nat) (v : AccCell) : (h.setAcc n c v).rngkeyh = h.rngkeyh := by rw [Hart.setAcc_frame]
@[simp] theorem Hart.setAcc_tstatus (h : Hart) (n c : Nat) (v : AccCell) : (h.setAcc n c v).tstatus = h.tstatus := by rw [Hart.setAcc_frame]
@[simp] theorem Hart.setAcc_tvec (h : Hart) (n c : Nat) (v : AccCell) : (h.setAcc n c v).tvec = h.tvec := by rw [Hart.setAcc_frame]
@[simp] theorem Hart.setAcc_seqstate (h : Hart) (n c : Nat) (v : AccCell) : (h.setAcc n c v).seqstate = h.seqstate := by rw [Hart.setAcc_frame]
@[simp] theorem Hart.setAcc_long (h : Hart) (n c : Nat) (v : AccCell) : (h.setAcc n c v).long = h.long := by rw [Hart.setAcc_frame]
@[simp] theorem Hart.setAcc_tree (h : Hart) (n c : Nat) (v : AccCell) : (h.setAcc n c v).tree = h.tree := by rw [Hart.setAcc_frame]
@[simp] theorem Hart.setAcc_wcb (h : Hart) (n c : Nat) (v : AccCell) : (h.setAcc n c v).wcb = h.wcb := by rw [Hart.setAcc_frame]
@[simp] theorem Hart.setAcc_wcbAge (h : Hart) (n c : Nat) (v : AccCell) : (h.setAcc n c v).wcbAge = h.wcbAge := by rw [Hart.setAcc_frame]
@[simp] theorem Hart.setAcc_pending (h : Hart) (n c : Nat) (v : AccCell) : (h.setAcc n c v).pending = h.pending := by rw [Hart.setAcc_frame]
@[simp] theorem Hart.setAcc_engine (h : Hart) (n c : Nat) (v : AccCell) : (h.setAcc n c v).engine = h.engine := by rw [Hart.setAcc_frame]
@[simp] theorem Hart.setAcc_links (h : Hart) (n c : Nat) (v : AccCell) : (h.setAcc n c v).links = h.links := by rw [Hart.setAcc_frame]
@[simp] theorem Hart.setAcc_held (h : Hart) (n c : Nat) (v : AccCell) : (h.setAcc n c v).held = h.held := by rw [Hart.setAcc_frame]
@[simp] theorem Hart.setAcc_underflows (h : Hart) (n c : Nat) (v : AccCell) : (h.setAcc n c v).underflows = h.underflows := by rw [Hart.setAcc_frame]
@[simp] theorem Hart.setAcc_status (h : Hart) (n c : Nat) (v : AccCell) : (h.setAcc n c v).status = h.status := by rw [Hart.setAcc_frame]
@[simp] theorem Hart.setAcc_preempted (h : Hart) (n c : Nat) (v : AccCell) : (h.setAcc n c v).preempted = h.preempted := by rw [Hart.setAcc_frame]
@[simp] theorem Hart.setAcc_cancelled (h : Hart) (n c : Nat) (v : AccCell) : (h.setAcc n c v).cancelled = h.cancelled := by rw [Hart.setAcc_frame]
@[simp] theorem Hart.setAcc_hid (h : Hart) (n c : Nat) (v : AccCell) : (h.setAcc n c v).hid = h.hid := by rw [Hart.setAcc_frame]
@[simp] theorem Hart.setAcc_cl (h : Hart) (n c : Nat) (v : AccCell) : (h.setAcc n c v).cl = h.cl := by rw [Hart.setAcc_frame]
@[simp] theorem Hart.setAcc_core (h : Hart) (n c : Nat) (v : AccCell) : (h.setAcc n c v).core = h.core := by rw [Hart.setAcc_frame]
@[simp] theorem Hart.setAcc_slot (h : Hart) (n c : Nat) (v : AccCell) : (h.setAcc n c v).slot = h.slot := by rw [Hart.setAcc_frame]
@[simp] theorem Hart.setAcc_time (h : Hart) (n c : Nat) (v : AccCell) : (h.setAcc n c v).time = h.time := by rw [Hart.setAcc_frame]
@[simp] theorem Hart.setAcc_cur (h : Hart) (n c : Nat) (v : AccCell) : (h.setAcc n c v).cur = h.cur := by rw [Hart.setAcc_frame]
@[simp] theorem Hart.setAcc_resumeMid (h : Hart) (n c : Nat) (v : AccCell) : (h.setAcc n c v).resumeMid = h.resumeMid := by rw [Hart.setAcc_frame]
@[simp] theorem Hart.setAcc_carried (h : Hart) (n c : Nat) (v : AccCell) : (h.setAcc n c v).carried = h.carried := by rw [Hart.setAcc_frame]
@[simp] theorem Hart.setAcc_area (h : Hart) (n c : Nat) (v : AccCell) : (h.setAcc n c v).area = h.area := by rw [Hart.setAcc_frame]
@[simp] theorem Hart.setAcc_sends (h : Hart) (n c : Nat) (v : AccCell) : (h.setAcc n c v).sends = h.sends := by rw [Hart.setAcc_frame]

/-- `setQ` changes only what it writes. -/
theorem Hart.setQ_frame (h : Hart) (n i : Nat) (v : BitVec 8) : h.setQ n i v = { h with q := (h.setQ n i v).q, poison := (h.setQ n i v).poison } := by
  unfold Hart.setQ Hart.cure; split <;> rfl
@[simp] theorem Hart.setQ_x (h : Hart) (n i : Nat) (v : BitVec 8) : (h.setQ n i v).x = h.x := by rw [Hart.setQ_frame]
@[simp] theorem Hart.setQ_pc (h : Hart) (n i : Nat) (v : BitVec 8) : (h.setQ n i v).pc = h.pc := by rw [Hart.setQ_frame]
@[simp] theorem Hart.setQ_f (h : Hart) (n i : Nat) (v : BitVec 8) : (h.setQ n i v).f = h.f := by rw [Hart.setQ_frame]
@[simp] theorem Hart.setQ_v (h : Hart) (n i : Nat) (v : BitVec 8) : (h.setQ n i v).v = h.v := by rw [Hart.setQ_frame]
@[simp] theorem Hart.setQ_m (h : Hart) (n i : Nat) (v : BitVec 8) : (h.setQ n i v).m = h.m := by rw [Hart.setQ_frame]
@[simp] theorem Hart.setQ_g (h : Hart) (n i : Nat) (v : BitVec 8) : (h.setQ n i v).g = h.g := by rw [Hart.setQ_frame]
@[simp] theorem Hart.setQ_p (h : Hart) (n i : Nat) (v : BitVec 8) : (h.setQ n i v).p = h.p := by rw [Hart.setQ_frame]
@[simp] theorem Hart.setQ_acc (h : Hart) (n i : Nat) (v : BitVec 8) : (h.setQ n i v).acc = h.acc := by rw [Hart.setQ_frame]
@[simp] theorem Hart.setQ_fq (h : Hart) (n i : Nat) (v : BitVec 8) : (h.setQ n i v).fq = h.fq := by rw [Hart.setQ_frame]
@[simp] theorem Hart.setQ_sw (h : Hart) (n i : Nat) (v : BitVec 8) : (h.setQ n i v).sw = h.sw := by rw [Hart.setQ_frame]
@[simp] theorem Hart.setQ_tid (h : Hart) (n i : Nat) (v : BitVec 8) : (h.setQ n i v).tid = h.tid := by rw [Hart.setQ_frame]
@[simp] theorem Hart.setQ_scratch (h : Hart) (n i : Nat) (v : BitVec 8) : (h.setQ n i v).scratch = h.scratch := by rw [Hart.setQ_frame]
@[simp] theorem Hart.setQ_vl (h : Hart) (n i : Nat) (v : BitVec 8) : (h.setQ n i v).vl = h.vl := by rw [Hart.setQ_frame]
@[simp] theorem Hart.setQ_vlc (h : Hart) (n i : Nat) (v : BitVec 8) : (h.setQ n i v).vlc = h.vlc := by rw [Hart.setQ_frame]
@[simp] theorem Hart.setQ_vtype (h : Hart) (n i : Nat) (v : BitVec 8) : (h.setQ n i v).vtype = h.vtype := by rw [Hart.setQ_frame]
@[simp] theorem Hart.setQ_vstart (h : Hart) (n i : Nat) (v : BitVec 8) : (h.setQ n i v).vstart = h.vstart := by rw [Hart.setQ_frame]
@[simp] theorem Hart.setQ_vfv (h : Hart) (n i : Nat) (v : BitVec 8) : (h.setQ n i v).vfv = h.vfv := by rw [Hart.setQ_frame]
@[simp] theorem Hart.setQ_vrot (h : Hart) (n i : Nat) (v : BitVec 8) : (h.setQ n i v).vrot = h.vrot := by rw [Hart.setQ_frame]
@[simp] theorem Hart.setQ_vdirty (h : Hart) (n i : Nat) (v : BitVec 8) : (h.setQ n i v).vdirty = h.vdirty := by rw [Hart.setQ_frame]
@[simp] theorem Hart.setQ_vflags (h : Hart) (n i : Nat) (v : BitVec 8) : (h.setQ n i v).vflags = h.vflags := by rw [Hart.setQ_frame]
@[simp] theorem Hart.setQ_gbase (h : Hart) (n i : Nat) (v : BitVec 8) : (h.setQ n i v).gbase = h.gbase := by rw [Hart.setQ_frame]
@[simp] theorem Hart.setQ_poolpart (h : Hart) (n i : Nat) (v : BitVec 8) : (h.setQ n i v).poolpart = h.poolpart := by rw [Hart.setQ_frame]
@[simp] theorem Hart.setQ_lcore (h : Hart) (n i : Nat) (v : BitVec 8) : (h.setQ n i v).lcore = h.lcore := by rw [Hart.setQ_frame]
@[simp] theorem Hart.setQ_launchid (h : Hart) (n i : Nat) (v : BitVec 8) : (h.setQ n i v).launchid = h.launchid := by rw [Hart.setQ_frame]
@[simp] theorem Hart.setQ_rngkey (h : Hart) (n i : Nat) (v : BitVec 8) : (h.setQ n i v).rngkey = h.rngkey := by rw [Hart.setQ_frame]
@[simp] theorem Hart.setQ_rngkeyh (h : Hart) (n i : Nat) (v : BitVec 8) : (h.setQ n i v).rngkeyh = h.rngkeyh := by rw [Hart.setQ_frame]
@[simp] theorem Hart.setQ_tstatus (h : Hart) (n i : Nat) (v : BitVec 8) : (h.setQ n i v).tstatus = h.tstatus := by rw [Hart.setQ_frame]
@[simp] theorem Hart.setQ_tvec (h : Hart) (n i : Nat) (v : BitVec 8) : (h.setQ n i v).tvec = h.tvec := by rw [Hart.setQ_frame]
@[simp] theorem Hart.setQ_seqstate (h : Hart) (n i : Nat) (v : BitVec 8) : (h.setQ n i v).seqstate = h.seqstate := by rw [Hart.setQ_frame]
@[simp] theorem Hart.setQ_long (h : Hart) (n i : Nat) (v : BitVec 8) : (h.setQ n i v).long = h.long := by rw [Hart.setQ_frame]
@[simp] theorem Hart.setQ_tree (h : Hart) (n i : Nat) (v : BitVec 8) : (h.setQ n i v).tree = h.tree := by rw [Hart.setQ_frame]
@[simp] theorem Hart.setQ_wcb (h : Hart) (n i : Nat) (v : BitVec 8) : (h.setQ n i v).wcb = h.wcb := by rw [Hart.setQ_frame]
@[simp] theorem Hart.setQ_wcbAge (h : Hart) (n i : Nat) (v : BitVec 8) : (h.setQ n i v).wcbAge = h.wcbAge := by rw [Hart.setQ_frame]
@[simp] theorem Hart.setQ_pending (h : Hart) (n i : Nat) (v : BitVec 8) : (h.setQ n i v).pending = h.pending := by rw [Hart.setQ_frame]
@[simp] theorem Hart.setQ_engine (h : Hart) (n i : Nat) (v : BitVec 8) : (h.setQ n i v).engine = h.engine := by rw [Hart.setQ_frame]
@[simp] theorem Hart.setQ_links (h : Hart) (n i : Nat) (v : BitVec 8) : (h.setQ n i v).links = h.links := by rw [Hart.setQ_frame]
@[simp] theorem Hart.setQ_held (h : Hart) (n i : Nat) (v : BitVec 8) : (h.setQ n i v).held = h.held := by rw [Hart.setQ_frame]
@[simp] theorem Hart.setQ_underflows (h : Hart) (n i : Nat) (v : BitVec 8) : (h.setQ n i v).underflows = h.underflows := by rw [Hart.setQ_frame]
@[simp] theorem Hart.setQ_status (h : Hart) (n i : Nat) (v : BitVec 8) : (h.setQ n i v).status = h.status := by rw [Hart.setQ_frame]
@[simp] theorem Hart.setQ_preempted (h : Hart) (n i : Nat) (v : BitVec 8) : (h.setQ n i v).preempted = h.preempted := by rw [Hart.setQ_frame]
@[simp] theorem Hart.setQ_cancelled (h : Hart) (n i : Nat) (v : BitVec 8) : (h.setQ n i v).cancelled = h.cancelled := by rw [Hart.setQ_frame]
@[simp] theorem Hart.setQ_hid (h : Hart) (n i : Nat) (v : BitVec 8) : (h.setQ n i v).hid = h.hid := by rw [Hart.setQ_frame]
@[simp] theorem Hart.setQ_cl (h : Hart) (n i : Nat) (v : BitVec 8) : (h.setQ n i v).cl = h.cl := by rw [Hart.setQ_frame]
@[simp] theorem Hart.setQ_core (h : Hart) (n i : Nat) (v : BitVec 8) : (h.setQ n i v).core = h.core := by rw [Hart.setQ_frame]
@[simp] theorem Hart.setQ_slot (h : Hart) (n i : Nat) (v : BitVec 8) : (h.setQ n i v).slot = h.slot := by rw [Hart.setQ_frame]
@[simp] theorem Hart.setQ_time (h : Hart) (n i : Nat) (v : BitVec 8) : (h.setQ n i v).time = h.time := by rw [Hart.setQ_frame]
@[simp] theorem Hart.setQ_cur (h : Hart) (n i : Nat) (v : BitVec 8) : (h.setQ n i v).cur = h.cur := by rw [Hart.setQ_frame]
@[simp] theorem Hart.setQ_resumeMid (h : Hart) (n i : Nat) (v : BitVec 8) : (h.setQ n i v).resumeMid = h.resumeMid := by rw [Hart.setQ_frame]
@[simp] theorem Hart.setQ_carried (h : Hart) (n i : Nat) (v : BitVec 8) : (h.setQ n i v).carried = h.carried := by rw [Hart.setQ_frame]
@[simp] theorem Hart.setQ_area (h : Hart) (n i : Nat) (v : BitVec 8) : (h.setQ n i v).area = h.area := by rw [Hart.setQ_frame]
@[simp] theorem Hart.setQ_sends (h : Hart) (n i : Nat) (v : BitVec 8) : (h.setQ n i v).sends = h.sends := by rw [Hart.setQ_frame]

/-- `writeScratch` changes only what it writes. -/
theorem Hart.writeScratch_frame (h : Hart) (off : Nat) (bs : List Byte) : h.writeScratch off bs = { h with scratch := (h.writeScratch off bs).scratch, links := (h.writeScratch off bs).links, poison := (h.writeScratch off bs).poison } := by
  rfl
@[simp] theorem Hart.writeScratch_x (h : Hart) (off : Nat) (bs : List Byte) : (h.writeScratch off bs).x = h.x := rfl
@[simp] theorem Hart.writeScratch_pc (h : Hart) (off : Nat) (bs : List Byte) : (h.writeScratch off bs).pc = h.pc := rfl
@[simp] theorem Hart.writeScratch_f (h : Hart) (off : Nat) (bs : List Byte) : (h.writeScratch off bs).f = h.f := rfl
@[simp] theorem Hart.writeScratch_v (h : Hart) (off : Nat) (bs : List Byte) : (h.writeScratch off bs).v = h.v := rfl
@[simp] theorem Hart.writeScratch_m (h : Hart) (off : Nat) (bs : List Byte) : (h.writeScratch off bs).m = h.m := rfl
@[simp] theorem Hart.writeScratch_g (h : Hart) (off : Nat) (bs : List Byte) : (h.writeScratch off bs).g = h.g := rfl
@[simp] theorem Hart.writeScratch_p (h : Hart) (off : Nat) (bs : List Byte) : (h.writeScratch off bs).p = h.p := rfl
@[simp] theorem Hart.writeScratch_acc (h : Hart) (off : Nat) (bs : List Byte) : (h.writeScratch off bs).acc = h.acc := rfl
@[simp] theorem Hart.writeScratch_fq (h : Hart) (off : Nat) (bs : List Byte) : (h.writeScratch off bs).fq = h.fq := rfl
@[simp] theorem Hart.writeScratch_sw (h : Hart) (off : Nat) (bs : List Byte) : (h.writeScratch off bs).sw = h.sw := rfl
@[simp] theorem Hart.writeScratch_q (h : Hart) (off : Nat) (bs : List Byte) : (h.writeScratch off bs).q = h.q := rfl
@[simp] theorem Hart.writeScratch_tid (h : Hart) (off : Nat) (bs : List Byte) : (h.writeScratch off bs).tid = h.tid := rfl
@[simp] theorem Hart.writeScratch_vl (h : Hart) (off : Nat) (bs : List Byte) : (h.writeScratch off bs).vl = h.vl := rfl
@[simp] theorem Hart.writeScratch_vlc (h : Hart) (off : Nat) (bs : List Byte) : (h.writeScratch off bs).vlc = h.vlc := rfl
@[simp] theorem Hart.writeScratch_vtype (h : Hart) (off : Nat) (bs : List Byte) : (h.writeScratch off bs).vtype = h.vtype := rfl
@[simp] theorem Hart.writeScratch_vstart (h : Hart) (off : Nat) (bs : List Byte) : (h.writeScratch off bs).vstart = h.vstart := rfl
@[simp] theorem Hart.writeScratch_vfv (h : Hart) (off : Nat) (bs : List Byte) : (h.writeScratch off bs).vfv = h.vfv := rfl
@[simp] theorem Hart.writeScratch_vrot (h : Hart) (off : Nat) (bs : List Byte) : (h.writeScratch off bs).vrot = h.vrot := rfl
@[simp] theorem Hart.writeScratch_vdirty (h : Hart) (off : Nat) (bs : List Byte) : (h.writeScratch off bs).vdirty = h.vdirty := rfl
@[simp] theorem Hart.writeScratch_vflags (h : Hart) (off : Nat) (bs : List Byte) : (h.writeScratch off bs).vflags = h.vflags := rfl
@[simp] theorem Hart.writeScratch_gbase (h : Hart) (off : Nat) (bs : List Byte) : (h.writeScratch off bs).gbase = h.gbase := rfl
@[simp] theorem Hart.writeScratch_poolpart (h : Hart) (off : Nat) (bs : List Byte) : (h.writeScratch off bs).poolpart = h.poolpart := rfl
@[simp] theorem Hart.writeScratch_lcore (h : Hart) (off : Nat) (bs : List Byte) : (h.writeScratch off bs).lcore = h.lcore := rfl
@[simp] theorem Hart.writeScratch_launchid (h : Hart) (off : Nat) (bs : List Byte) : (h.writeScratch off bs).launchid = h.launchid := rfl
@[simp] theorem Hart.writeScratch_rngkey (h : Hart) (off : Nat) (bs : List Byte) : (h.writeScratch off bs).rngkey = h.rngkey := rfl
@[simp] theorem Hart.writeScratch_rngkeyh (h : Hart) (off : Nat) (bs : List Byte) : (h.writeScratch off bs).rngkeyh = h.rngkeyh := rfl
@[simp] theorem Hart.writeScratch_tstatus (h : Hart) (off : Nat) (bs : List Byte) : (h.writeScratch off bs).tstatus = h.tstatus := rfl
@[simp] theorem Hart.writeScratch_tvec (h : Hart) (off : Nat) (bs : List Byte) : (h.writeScratch off bs).tvec = h.tvec := rfl
@[simp] theorem Hart.writeScratch_seqstate (h : Hart) (off : Nat) (bs : List Byte) : (h.writeScratch off bs).seqstate = h.seqstate := rfl
@[simp] theorem Hart.writeScratch_long (h : Hart) (off : Nat) (bs : List Byte) : (h.writeScratch off bs).long = h.long := rfl
@[simp] theorem Hart.writeScratch_tree (h : Hart) (off : Nat) (bs : List Byte) : (h.writeScratch off bs).tree = h.tree := rfl
@[simp] theorem Hart.writeScratch_wcb (h : Hart) (off : Nat) (bs : List Byte) : (h.writeScratch off bs).wcb = h.wcb := rfl
@[simp] theorem Hart.writeScratch_wcbAge (h : Hart) (off : Nat) (bs : List Byte) : (h.writeScratch off bs).wcbAge = h.wcbAge := rfl
@[simp] theorem Hart.writeScratch_pending (h : Hart) (off : Nat) (bs : List Byte) : (h.writeScratch off bs).pending = h.pending := rfl
@[simp] theorem Hart.writeScratch_engine (h : Hart) (off : Nat) (bs : List Byte) : (h.writeScratch off bs).engine = h.engine := rfl
@[simp] theorem Hart.writeScratch_held (h : Hart) (off : Nat) (bs : List Byte) : (h.writeScratch off bs).held = h.held := rfl
@[simp] theorem Hart.writeScratch_underflows (h : Hart) (off : Nat) (bs : List Byte) : (h.writeScratch off bs).underflows = h.underflows := rfl
@[simp] theorem Hart.writeScratch_status (h : Hart) (off : Nat) (bs : List Byte) : (h.writeScratch off bs).status = h.status := rfl
@[simp] theorem Hart.writeScratch_preempted (h : Hart) (off : Nat) (bs : List Byte) : (h.writeScratch off bs).preempted = h.preempted := rfl
@[simp] theorem Hart.writeScratch_cancelled (h : Hart) (off : Nat) (bs : List Byte) : (h.writeScratch off bs).cancelled = h.cancelled := rfl
@[simp] theorem Hart.writeScratch_hid (h : Hart) (off : Nat) (bs : List Byte) : (h.writeScratch off bs).hid = h.hid := rfl
@[simp] theorem Hart.writeScratch_cl (h : Hart) (off : Nat) (bs : List Byte) : (h.writeScratch off bs).cl = h.cl := rfl
@[simp] theorem Hart.writeScratch_core (h : Hart) (off : Nat) (bs : List Byte) : (h.writeScratch off bs).core = h.core := rfl
@[simp] theorem Hart.writeScratch_slot (h : Hart) (off : Nat) (bs : List Byte) : (h.writeScratch off bs).slot = h.slot := rfl
@[simp] theorem Hart.writeScratch_time (h : Hart) (off : Nat) (bs : List Byte) : (h.writeScratch off bs).time = h.time := rfl
@[simp] theorem Hart.writeScratch_cur (h : Hart) (off : Nat) (bs : List Byte) : (h.writeScratch off bs).cur = h.cur := rfl
@[simp] theorem Hart.writeScratch_resumeMid (h : Hart) (off : Nat) (bs : List Byte) : (h.writeScratch off bs).resumeMid = h.resumeMid := rfl
@[simp] theorem Hart.writeScratch_carried (h : Hart) (off : Nat) (bs : List Byte) : (h.writeScratch off bs).carried = h.carried := rfl
@[simp] theorem Hart.writeScratch_area (h : Hart) (off : Nat) (bs : List Byte) : (h.writeScratch off bs).area = h.area := rfl
@[simp] theorem Hart.writeScratch_sends (h : Hart) (off : Nat) (bs : List Byte) : (h.writeScratch off bs).sends = h.sends := rfl

@[simp] theorem State.upd_hart (s : State) (f : Hart → Hart) : (s.upd f).hart = f s.hart := rfl
@[simp] theorem State.upd_others (s : State) (f : Hart → Hart) : (s.upd f).others = s.others := rfl
@[simp] theorem State.upd_agenda (s : State) (f : Hart → Hart) : (s.upd f).agenda = s.agenda := rfl
@[simp] theorem State.upd_mem (s : State) (f : Hart → Hart) : (s.upd f).mem = s.mem := rfl
@[simp] theorem State.upd_claims (s : State) (f : Hart → Hart) : (s.upd f).claims = s.claims := rfl
@[simp] theorem State.upd_links (s : State) (f : Hart → Hart) : (s.upd f).links = s.links := rfl
@[simp] theorem State.upd_poisoned (s : State) (f : Hart → Hart) : (s.upd f).poisoned = s.poisoned := rfl
@[simp] theorem State.upd_window (s : State) (f : Hart → Hart) : (s.upd f).window = s.window := rfl
@[simp] theorem State.upd_homes (s : State) (f : Hart → Hart) : (s.upd f).homes = s.homes := rfl
@[simp] theorem State.upd_dead (s : State) (f : Hart → Hart) : (s.upd f).dead = s.dead := rfl
@[simp] theorem State.upd_routes (s : State) (f : Hart → Hart) : (s.upd f).routes = s.routes := rfl
@[simp] theorem State.upd_xlat (s : State) (f : Hart → Hart) : (s.upd f).xlat = s.xlat := rfl
@[simp] theorem State.upd_cores (s : State) (f : Hart → Hart) : (s.upd f).cores = s.cores := rfl
@[simp] theorem State.upd_clusters (s : State) (f : Hart → Hart) : (s.upd f).clusters = s.clusters := rfl
@[simp] theorem State.upd_twilight (s : State) (f : Hart → Hart) : (s.upd f).twilight = s.twilight := rfl
@[simp] theorem State.upd_scrubs (s : State) (f : Hart → Hart) : (s.upd f).scrubs = s.scrubs := rfl
@[simp] theorem State.upd_fixes (s : State) (f : Hart → Hart) : (s.upd f).fixes = s.fixes := rfl
@[simp] theorem State.upd_slots (s : State) (f : Hart → Hart) : (s.upd f).slots = s.slots := rfl
@[simp] theorem State.upd_chans (s : State) (f : Hart → Hart) : (s.upd f).chans = s.chans := rfl
@[simp] theorem State.upd_ports (s : State) (f : Hart → Hart) : (s.upd f).ports = s.ports := rfl
@[simp] theorem State.upd_topo (s : State) (f : Hart → Hart) : (s.upd f).topo = s.topo := rfl
@[simp] theorem State.upd_secureBlocks (s : State) (f : Hart → Hart) : (s.upd f).secureBlocks = s.secureBlocks := rfl
@[simp] theorem State.upd_module_ (s : State) (f : Hart → Hart) : (s.upd f).module_ = s.module_ := rfl
@[simp] theorem State.upd_seqs (s : State) (f : Hart → Hart) : (s.upd f).seqs = s.seqs := rfl
@[simp] theorem State.upd_accepted (s : State) (f : Hart → Hart) : (s.upd f).accepted = s.accepted := rfl
@[simp] theorem State.upd_excesses (s : State) (f : Hart → Hart) : (s.upd f).excesses = s.excesses := rfl
@[simp] theorem State.upd_messages (s : State) (f : Hart → Hart) : (s.upd f).messages = s.messages := rfl
@[simp] theorem State.upd_unacked (s : State) (f : Hart → Hart) : (s.upd f).unacked = s.unacked := rfl
@[simp] theorem State.upd_hostWait (s : State) (f : Hart → Hart) : (s.upd f).hostWait = s.hostWait := rfl
@[simp] theorem State.upd_puts (s : State) (f : Hart → Hart) : (s.upd f).puts = s.puts := rfl
@[simp] theorem State.upd_toHost (s : State) (f : Hart → Hart) : (s.upd f).toHost = s.toHost := rfl
@[simp] theorem State.upd_readyReg (s : State) (f : Hart → Hart) : (s.upd f).readyReg = s.readyReg := rfl
@[simp] theorem State.upd_health (s : State) (f : Hart → Hart) : (s.upd f).health = s.health := rfl
@[simp] theorem State.upd_dsel (s : State) (f : Hart → Hart) : (s.upd f).dsel = s.dsel := rfl
@[simp] theorem State.upd_dusk (s : State) (f : Hart → Hart) : (s.upd f).dusk = s.dusk := rfl
@[simp] theorem State.upd_dcnt (s : State) (f : Hart → Hart) : (s.upd f).dcnt = s.dcnt := rfl
@[simp] theorem State.upd_boots (s : State) (f : Hart → Hart) : (s.upd f).boots = s.boots := rfl
@[simp] theorem State.upd_spdm (s : State) (f : Hart → Hart) : (s.upd f).spdm = s.spdm := rfl
@[simp] theorem State.upd_keys (s : State) (f : Hart → Hart) : (s.upd f).keys = s.keys := rfl
@[simp] theorem State.upd_ctxPoison (s : State) (f : Hart → Hart) : (s.upd f).ctxPoison = s.ctxPoison := rfl
@[simp] theorem State.upd_nextHid (s : State) (f : Hart → Hart) : (s.upd f).nextHid = s.nextHid := rfl
@[simp] theorem State.upd_nextMid (s : State) (f : Hart → Hart) : (s.upd f).nextMid = s.nextMid := rfl
@[simp] theorem State.upd_placed (s : State) (f : Hart → Hart) : (s.upd f).placed = s.placed := rfl
@[simp] theorem State.upd_freeN (s : State) (f : Hart → Hart) : (s.upd f).freeN = s.freeN := rfl
@[simp] theorem State.upd_upd (s : State) (f g : Hart → Hart) : (s.upd f).upd g = s.upd (fun h => g (f h)) := rfl

end Sys2Proof.Machine
end

