-- ==== Sys2Proof/Laws/Registers.lean ====
section
/-! SUPPORT. What a write of each register file leaves in every register of it, and bytes against numbers. -/

namespace Sys2Proof.Machine

/-! ### Lists of addresses, bytes -/

@[simp] theorem upFrom_length (n : Nat) : ∀ a, (upFrom a n).length = n := by
  induction n with
  | zero => intro a; rfl
  | succ n ih => intro a; simp [upFrom, ih]

theorem upFrom_getElem? (n : Nat) : ∀ a k, (upFrom a n)[k]? = if k < n then some (a + k) else none := by
  induction n with
  | zero => intro a k; simp [upFrom]
  | succ n ih =>
    intro a k
    cases k with
    | zero => simp [upFrom]
    | succ k =>
      simp only [upFrom, List.getElem?_cons_succ, ih, Nat.succ_lt_succ_iff]
      split
      · congr 1
        omega
      · rfl

theorem mem_upFrom {n : Nat} : ∀ {a b : Nat}, b ∈ upFrom a n ↔ a ≤ b ∧ b < a + n := by
  induction n with
  | zero =>
    intro a b
    constructor
    · intro h; simp [upFrom] at h
    · intro h; omega
  | succ n ih => intro a b; simp only [upFrom, List.mem_cons, ih]; omega

theorem upFrom_append (n m : Nat) : ∀ a, upFrom a (n + m) = upFrom a n ++ upFrom (a + n) m := by
  induction n with
  | zero => intro a; simp [upFrom]
  | succ n ih =>
    intro a
    rw [show n + 1 + m = (n + m) + 1 by omega]
    simp only [upFrom, ih, List.cons_append]
    rw [show a + 1 + n = a + (n + 1) by omega]

theorem upFrom_map_add (n : Nat) : ∀ a, upFrom a n = (List.range n).map (a + ·) := by
  intro a
  apply List.ext_getElem?
  intro k
  rw [upFrom_getElem?, List.getElem?_map]
  by_cases h : k < n
  · simp [h]
  · simp [h]

@[simp] theorem leBytes_length (n : Nat) : ∀ v, (leBytes v n).length = n := by
  induction n with
  | zero => intro v; rfl
  | succ n ih => intro v; simp [leBytes, ih]

theorem leBytes_getElem? (n : Nat) : ∀ v k, (leBytes v n)[k]? = if k < n then some (BitVec.ofNat 8 (v / 256 ^ k)) else none := by
  induction n with
  | zero => intro v k; simp [leBytes]
  | succ n ih =>
    intro v k
    cases k with
    | zero => simp [leBytes]
    | succ k =>
      simp only [leBytes, List.getElem?_cons_succ, ih, Nat.succ_lt_succ_iff, Nat.div_div_eq_div_mul, Nat.pow_succ, Nat.mul_comm]

theorem leNat_leBytes (n : Nat) : ∀ v, leNat (leBytes v n) = v % 256 ^ n := by
  induction n with
  | zero => intro v; simp [leBytes, leNat, Nat.mod_one]
  | succ n ih =>
    intro v
    have h : (BitVec.ofNat 8 v).toNat = v % 256 := by simp
    rw [leBytes, leNat, ih, h, Nat.pow_succ, Nat.mul_comm (256 ^ n) 256, Nat.mod_mul]

theorem leNat_lt : ∀ bs : List Byte, leNat bs < 256 ^ bs.length := by
  intro bs
  induction bs with
  | nil => simp [leNat]
  | cons b r ih =>
    have hb : b.toNat < 256 := by simpa using b.isLt
    rw [leNat, List.length_cons, Nat.pow_succ]
    omega

theorem leNat_append (a b : List Byte) : leNat (a ++ b) = leNat a + 256 ^ a.length * leNat b := by
  induction a with
  | nil => simp [leNat]
  | cons x r ih =>
    rw [List.cons_append, leNat, leNat, ih, List.length_cons, Nat.pow_succ, Nat.mul_add, ← Nat.mul_assoc, Nat.mul_comm 256 (256 ^ _), Nat.add_assoc]

theorem leBytes_leNat : ∀ bs : List Byte, leBytes (leNat bs) bs.length = bs := by
  intro bs
  induction bs with
  | nil => rfl
  | cons b r ih =>
    have hb : b.toNat < 256 := by simpa using b.isLt
    have h1 : (b.toNat + 256 * leNat r) / 256 = leNat r := by omega
    have h2 : BitVec.ofNat 8 (b.toNat + 256 * leNat r) = b := by
      apply BitVec.eq_of_toNat_eq
      simp only [BitVec.toNat_ofNat]
      omega
    rw [leNat, List.length_cons, leBytes, h1, h2, ih]

/-! ### Scalar registers -/

@[simp] theorem Hart.getX_zero (h : Hart) : h.getX 0 = 0 := rfl

theorem Hart.getX_setX (h : Hart) (d r : Nat) (v : Word) : (h.setX d v).getX r = if r = d ∧ d ≠ 0 then v else h.getX r := by
  unfold Hart.getX Hart.setX
  by_cases hd : d = 0
  · simp [hd]
  · by_cases hr : r = 0
    · subst hr; simp [hd]; omega
    · simp only [hd, hr, if_false, mapGet_mapSet, not_false_eq_true, and_true, ne_eq]

theorem Hart.getF_setF (h : Hart) (d r : Nat) (v : BitVec 66) : (h.setF d v).getF r = if r = d then v else h.getF r := by
  simp only [Hart.getF, Hart.setF, mapGet_mapSet]

theorem Hart.getP_setP (h : Hart) (d r : Nat) (v : Pointer) : (h.setP d v).getP r = if r = d then v else h.getP r := by
  simp only [Hart.getP, Hart.setP, mapGet_mapSet]

theorem Hart.getFq_setFq (h : Hart) (d r : Nat) (w : Window) : (h.setFq d w).getFq r = if r = d then w else h.getFq r := by
  simp only [Hart.getFq, Hart.setFq, mapGet_mapSet]

theorem Hart.getSw_setSw (h : Hart) (d r : Nat) (w : Window) : (h.setSw d w).getSw r = if r = d then w else h.getSw r := by
  simp only [Hart.getSw, Hart.setSw, mapGet_mapSet]

theorem Hart.getTid_setTid (h : Hart) (d r : Nat) (v : BitVec 512) : (h.setTid d v).getTid r = if r = d then v else h.getTid r := by
  simp only [Hart.getTid, Hart.setTid, mapGet_mapSet]

/-! ### Files of elements -/

theorem vKey_inj {a b e k : Nat} (ha : a < 32) (hb : b < 32) : vKey a e = vKey b k ↔ a = b ∧ e = k := by
  unfold vKey; omega

theorem elemKey_inj {a b e k : Nat} (ha : a < 8) (hb : b < 8) : elemKey a e = elemKey b k ↔ a = b ∧ e = k := by
  unfold elemKey; omega

theorem Hart.physV_lt (h : Hart) {n : Nat} (hn : n < 32) : h.physV n < 32 := by
  unfold Hart.physV; split <;> omega

theorem Hart.physM_lt (h : Hart) {n : Nat} (hn : n < 8) : h.physM n < 8 := by
  unfold Hart.physM; split <;> omega

theorem Hart.physV_inj (h : Hart) {a b : Nat} (ha : a < 32) (hb : b < 32) : h.physV a = h.physV b ↔ a = b := by
  unfold Hart.physV
  split <;> split <;> omega

theorem Hart.physM_inj (h : Hart) {a b : Nat} (ha : a < 8) (hb : b < 8) : h.physM a = h.physM b ↔ a = b := by
  unfold Hart.physM
  split <;> split <;> omega

/-- A slot written reads so; every other slot of every register that is another one reads as before. -/
theorem Hart.getSlot_setSlot (h : Hart) {d n : Nat} (e k : Nat) (v : Slot) (hd : d < 32) (hn : n < 32) :
    (h.setSlot d e v).getSlot n k = if n = d ∧ k = e then v else h.getSlot n k := by
  have hp : (h.setSlot d e v).physV n = h.physV n := by rw [Hart.setSlot_frame]; rfl
  have hv : (h.setSlot d e v).v = mapSet Slot.zero h.v (vKey (h.physV d) e) v := by
    unfold Hart.setSlot; rw [Hart.cure_frame]
  rw [Hart.getSlot, hp, hv, mapGet_mapSet]
  have := vKey_inj (e := k) (k := e) (h.physV_lt hn) (h.physV_lt hd)
  rw [h.physV_inj hn hd] at this
  simp only [this, Hart.getSlot]

theorem Hart.getG_setG (h : Hart) {d n : Nat} (e k : Nat) (v : BitVec 16) (hd : d < 8) (hn : n < 8) :
    (h.setG d e v).getG n k = if n = d ∧ k = e then v else h.getG n k := by
  have hv : (h.setG d e v).g = mapSet 0x8000 h.g (elemKey d e) v := by unfold Hart.setG; rw [Hart.cure_frame]
  rw [Hart.getG, hv, mapGet_mapSet]
  simp only [elemKey_inj hn hd, Hart.getG]

theorem Hart.getAcc_setAcc (h : Hart) {d n : Nat} (e k : Nat) (v : AccCell) (hd : d < 8) (hn : n < 8) :
    (h.setAcc d e v).getAcc n k = if n = d ∧ k = e then v else h.getAcc n k := by
  have hv : (h.setAcc d e v).acc = mapSet AccCell.zero h.acc (elemKey d e) v := by unfold Hart.setAcc; rw [Hart.cure_frame]
  rw [Hart.getAcc, hv, mapGet_mapSet]
  simp only [elemKey_inj hn hd, Hart.getAcc]

theorem Hart.getQ_setQ (h : Hart) {i k : Nat} (d n : Nat) (v : BitVec 8) (hi : i < 512) (hk : k < 512) :
    (h.setQ d i v).getQ n k = if n = d ∧ k = i then v else h.getQ n k := by
  have hv : (h.setQ d i v).q = mapSet 0 h.q (512 * d + i) v := by unfold Hart.setQ; rw [Hart.cure_frame]
  have he : (512 * n + k = 512 * d + i) ↔ (n = d ∧ k = i) := by omega
  rw [Hart.getQ, hv, mapGet_mapSet]
  simp only [he, Hart.getQ]

theorem Hart.getMask_setMask (h : Hart) {d n : Nat} (v : BitVec 4096) (es : List Nat) (hd : d < 8) (hn : n < 8) :
    (h.setMask d v es).getMask n = if n = d ∧ d ≠ 0 then v else h.getMask n := by
  by_cases h0 : d = 0
  · simp [Hart.setMask, h0]
  · by_cases hn0 : n = 0
    · subst hn0; simp [Hart.getMask]; omega
    · have hp : (h.setMask d v es).physM n = h.physM n := by rw [Hart.setMask_frame]; rfl
      have hv : (h.setMask d v es).m = mapSet 0 h.m (h.physM d) v := by
        unfold Hart.setMask; rw [if_neg h0]; dsimp only; split <;> rfl
      rw [Hart.getMask, if_neg hn0, hp, hv, mapGet_mapSet]
      simp only [h.physM_inj hn hd, ne_eq, h0, not_false_eq_true, and_true, Hart.getMask, hn0, if_false]

/-- Element `e` of mask `n` is bit `e` of it. -/
theorem Hart.maskBit_eq (h : Hart) (n : Nat) {e : Nat} (he : e < 4096) : h.maskBit n e = (h.getMask n).getLsbD e := by
  unfold Hart.maskBit Hart.getMask
  split
  · rw [BitVec.getLsbD_allOnes]
    exact (decide_eq_true he).symm
  · rfl

/-! ### The scratchpad -/

theorem foldl_mapSet_run (bs : List Byte) : ∀ (m : List Host.Cell) (o : Nat),
    (∀ k, mapGet 0 (bs.foldl (fun (a : List Host.Cell × Nat) b => (mapSet 0 a.1 a.2 b, a.2 + 1)) (m, o)).1 k =
      if o ≤ k ∧ k < o + bs.length then bs.getD (k - o) 0 else mapGet 0 m k) := by
  induction bs with
  | nil =>
    intro m o k
    rw [if_neg (by simp only [List.length_nil]; omega)]
    rfl
  | cons b r ih =>
    intro m o k
    rw [List.foldl_cons, ih, mapGet_mapSet, List.length_cons]
    by_cases hk : k = o
    · subst hk
      rw [if_neg (by omega), if_pos rfl, if_pos (by omega)]
      simp
    · rw [if_neg hk]
      by_cases h1 : o + 1 ≤ k ∧ k < o + 1 + r.length
      · rw [if_pos h1, if_pos (by omega)]
        obtain ⟨j, rfl⟩ : ∃ j, k = o + 1 + j := ⟨k - (o + 1), by omega⟩
        rw [show o + 1 + j - (o + 1) = j by omega, show o + 1 + j - o = j + 1 by omega]
        simp
      · rw [if_neg h1, if_neg (by omega)]

/-- Every byte of the scratchpad after a write. -/
theorem Hart.scratch_writeScratch (h : Hart) (off : Nat) (bs : List Byte) (k : Nat) :
    mapGet 0 (h.writeScratch off bs).scratch k = if off ≤ k ∧ k < off + bs.length then bs.getD (k - off) 0 else mapGet 0 h.scratch k :=
  foldl_mapSet_run bs h.scratch off k

/-- What was written is read back; a range that it does not touch reads as before. -/
theorem Hart.readScratch_writeScratch (h : Hart) (off : Nat) (bs : List Byte) :
    (h.writeScratch off bs).readScratch off bs.length = leNat bs := by
  unfold Hart.readScratch
  congr 1
  apply List.ext_getElem?
  intro k
  rw [List.getElem?_map, upFrom_getElem?]
  by_cases hk : k < bs.length
  · rw [if_pos hk, Option.map_some, Hart.scratch_writeScratch, if_pos (by omega), show off + k - off = k by omega]
    simp [hk]
  · rw [if_neg hk, List.getElem?_eq_none (by omega)]
    rfl

theorem Hart.readScratch_writeScratch_apart (h : Hart) {off o n : Nat} {bs : List Byte} (ha : o + n ≤ off ∨ off + bs.length ≤ o) :
    (h.writeScratch off bs).readScratch o n = h.readScratch o n := by
  unfold Hart.readScratch
  congr 1
  apply List.map_congr_left
  intro k hk
  have := mem_upFrom.mp hk
  rw [Hart.scratch_writeScratch, if_neg (by omega)]

end Sys2Proof.Machine
end

