-- ==== Sys2Proof/Laws/Memory.lean ====
section
/-! SUPPORT. What the shared operations over memory can do: bytes performed at home, translations noted, the store buffer drained, accesses checked,
loads, the gate of the issue checks, and the trap entry. -/

namespace Sys2Proof.Machine

/-! ### Bytes at home -/

/-- The last value that a list of writes has for a byte. -/
def lastWrite (bs : List (Nat × Byte)) (a : Nat) : Option Byte := (bs.reverse.find? (fun b => b.1 = a)).map (·.2)

theorem mapGet_foldl_writes (bs : List (Nat × Byte)) : ∀ (m : List Host.Cell) (a : Nat),
    mapGet unlisted (bs.foldl (fun m b => mapSet unlisted m b.1 b.2) m) a = (lastWrite bs a).getD (mapGet unlisted m a) := by
  induction bs with
  | nil => intro m a; rfl
  | cons b r ih =>
    intro m a
    rw [List.foldl_cons, ih, mapGet_mapSet]
    simp only [lastWrite, List.reverse_cons, List.find?_append]
    cases h : r.reverse.find? (fun c => decide (c.1 = a)) with
    | some c => simp
    | none =>
      by_cases hb : a = b.1
      · simp [hb]
      · simp [hb, Ne.symm hb]

@[simp] theorem State.breakLinks_mem (s : State) (k : Nat) (l : List Nat) : (s.breakLinks k l).mem = s.mem := by
  unfold State.breakLinks; split <;> rfl

@[simp] theorem State.breakLinks_dead (s : State) (k : Nat) (l : List Nat) : (s.breakLinks k l).dead = s.dead := by
  unfold State.breakLinks; split <;> rfl

/-- A write at home changes bytes, links, poison, and what is kept of overwritten and of dead bytes alone. -/
theorem State.writeMem_frame (s : State) (k : Nat) (bs : List (Nat × Byte)) : s.writeMem k bs =
    { s with mem := (s.writeMem k bs).mem, links := (s.writeMem k bs).links, poisoned := (s.writeMem k bs).poisoned,
             window := (s.writeMem k bs).window, dead := (s.writeMem k bs).dead } := by
  unfold State.writeMem State.breakLinks
  dsimp only
  split <;> rfl

/-- What a dead byte is taken from: the number of the draw at which its range died. -/
def deathOf (d : List (Nat × Nat × Nat)) (a : Nat) : Option Nat := (d.find? (covered a)).map (·.2.2)

theorem State.readByte_eq (s : State) (a : Nat) : s.readByte a = match deathOf s.dead a with
    | some n => Config.deadByte n a
    | none => mapGet unlisted s.mem a := by
  unfold State.readByte deathOf
  cases s.dead.find? (covered a) <;> rfl

/-- Whether one range covers the byte, and the draw of its death. -/
theorem deathOf_one (lo hi k a : Nat) : deathOf [(lo, hi, k)] a = if lo ≤ a ∧ a < hi then some k else none := by
  by_cases h : lo ≤ a ∧ a < hi
  · simp [deathOf, covered, h]
  · rw [if_neg h]
    simp only [deathOf, List.find?_cons, covered, List.find?_nil]
    have : (decide (lo ≤ a) && decide (a < hi)) = false := by simp; omega
    simp [this]

theorem deathOf_append (l r : List (Nat × Nat × Nat)) (a : Nat) : deathOf (l ++ r) a = (deathOf l a).or (deathOf r a) := by
  simp only [deathOf, List.find?_append, Option.map_or]

theorem deathOf_keep (lo hi k a : Nat) :
    deathOf (if lo < hi then [(lo, hi, k)] else []) a = if lo ≤ a ∧ a < hi then some k else none := by
  split
  · exact deathOf_one lo hi k a
  · rw [if_neg (by omega)]; rfl

/-- A byte written anew is dead no more; the others stand as they stood. -/
theorem deathOf_revive (pa a : Nat) : ∀ d, deathOf (revive d pa) a = if a = pa then none else deathOf d a := by
  intro d
  induction d with
  | nil => simp [revive, deathOf]
  | cons r d ih =>
    obtain ⟨lo, hi, k⟩ := r
    have hc : revive ((lo, hi, k) :: d) pa =
        (if covered pa (lo, hi, k) then (if lo < pa then [(lo, pa, k)] else []) ++ (if pa + 1 < hi then [(pa + 1, hi, k)] else [])
          else [(lo, hi, k)]) ++ revive d pa := by
      simp only [revive, List.flatMap_cons, List.filter_cons, List.filter_nil, decide_eq_true_eq]
      congr 1
      split
      · split <;> split <;> rfl
      · rfl
    rw [hc, deathOf_append, ih, show (lo, hi, k) :: d = [(lo, hi, k)] ++ d from rfl, deathOf_append, deathOf_one]
    by_cases h : covered pa (lo, hi, k) = true
    · rw [if_pos h, deathOf_append, deathOf_keep, deathOf_keep]
      have hb : lo ≤ pa ∧ pa < hi := by simpa [covered] using h
      by_cases ha : a = pa
      · rw [if_neg (by omega), if_neg (by omega), if_pos ha, if_pos ha]; rfl
      · rw [if_neg ha, if_neg ha]
        by_cases h1 : lo ≤ a ∧ a < hi
        · rw [if_pos h1]
          by_cases h2 : lo ≤ a ∧ a < pa
          · rw [if_pos h2]; rfl
          · rw [if_neg h2, if_pos (by omega)]; rfl
        · rw [if_neg h1, if_neg (by omega), if_neg (by omega)]; rfl
    · rw [if_neg h, deathOf_one]
      have hb : ¬(lo ≤ pa ∧ pa < hi) := by simpa [covered] using h
      by_cases ha : a = pa
      · rw [if_pos ha, if_pos ha, if_neg (by omega)]; rfl
      · rw [if_neg ha, if_neg ha]

theorem deathOf_revives (bs : List (Nat × Byte)) (a : Nat) : ∀ d, deathOf (bs.foldl (fun d b => revive d b.1) d) a =
    if (lastWrite bs a).isSome then none else deathOf d a := by
  induction bs with
  | nil => intro d; simp [lastWrite]
  | cons b r ih =>
    intro d
    have hl : lastWrite (b :: r) a = (lastWrite r a).or (if b.1 = a then some b.2 else none) := by
      simp only [lastWrite, List.reverse_cons, List.find?_append, Option.map_or]
      congr 1
      by_cases hb : b.1 = a <;> simp [hb]
    rw [List.foldl_cons, ih, deathOf_revive, hl]
    cases lastWrite r a with
    | some c => rfl
    | none =>
      by_cases hb : b.1 = a
      · simp [hb]
      · simp [hb, Ne.symm hb]

/-- Every byte of memory after a write at home. -/
theorem State.readByte_writeMem (s : State) (k : Nat) (bs : List (Nat × Byte)) (a : Nat) :
    (s.writeMem k bs).readByte a = (lastWrite bs a).getD (s.readByte a) := by
  have h : (s.writeMem k bs).mem = bs.foldl (fun m b => mapSet unlisted m b.1 b.2) s.mem := by
    simp [State.writeMem]
  have hd : deathOf (s.writeMem k bs).dead a = if (lastWrite bs a).isSome then none else deathOf s.dead a := by
    simp only [State.writeMem]
    split
    · rename_i he
      rw [List.isEmpty_iff.mp he]
      simp [deathOf]
    · exact deathOf_revives bs a s.dead
  rw [State.readByte_eq, State.readByte_eq, h, hd, mapGet_foldl_writes]
  cases lastWrite bs a <;> simp

theorem lastWrite_run (bs : List Byte) : ∀ (pa a : Nat),
    lastWrite ((upFrom pa bs.length).zip bs) a = if pa ≤ a ∧ a < pa + bs.length then bs[a - pa]? else none := by
  induction bs with
  | nil => intro pa a; simp [lastWrite, upFrom]
  | cons b r ih =>
    intro pa a
    have h := ih (pa + 1) a
    simp only [lastWrite] at h ⊢
    rw [List.length_cons, upFrom, List.zip_cons_cons, List.reverse_cons, List.find?_append, Option.map_or, h]
    by_cases h1 : pa + 1 ≤ a ∧ a < pa + 1 + r.length
    · rw [if_pos h1, if_pos (by omega)]
      obtain ⟨j, rfl⟩ : ∃ j, a = pa + 1 + j := ⟨a - (pa + 1), by omega⟩
      rw [show pa + 1 + j - (pa + 1) = j by omega, show pa + 1 + j - pa = j + 1 by omega]
      have hj : j < r.length := by omega
      simp [hj]
    · rw [if_neg h1]
      by_cases ha : a = pa
      · subst ha
        simp
      · rw [if_neg (by omega)]
        simp [Ne.symm ha]

/-- Every byte of memory after a run of bytes is written at home. -/
theorem State.readByte_writePhys (s : State) (k pa : Nat) (bs : List Byte) (a : Nat) :
    (s.writePhys k pa bs).readByte a = if pa ≤ a ∧ a < pa + bs.length then bs.getD (a - pa) 0 else s.readByte a := by
  rw [State.writePhys, State.readByte_writeMem, lastWrite_run]
  split
  · rename_i h
    have hj : a - pa < bs.length := by omega
    simp [hj]
  · rfl

/-! ### Translations -/

theorem State.readPhys_congr {s t : State} (h : ∀ a, t.readByte a = s.readByte a) (a n : Nat) : t.readPhys a n = s.readPhys a n := by
  simp only [State.readPhys, funext h]

theorem State.readEntry_congr {s t : State} (h : ∀ a, t.readByte a = s.readByte a) (hp : t.poisoned = s.poisoned) (a : Nat) :
    t.readEntry a = s.readEntry a := by simp only [State.readEntry, State.poisonAt, hp, State.readPhys_congr h]

theorem walkEntry_congr {s t : State} (h : ∀ a, t.readByte a = s.readByte a) (hp : t.poisoned = s.poisoned) (va : Nat) :
    ∀ l e, walkEntry t va l e = walkEntry s va l e := by
  intro l
  induction l with
  | zero => intro e; simp only [walkEntry]
  | succ l ih => intro e; simp only [walkEntry, State.readEntry_congr h hp, ih]

/-- A walk rests on the bytes of memory, the poisoned lines and the job slots alone. -/
theorem State.walk_congr {s t : State} (hm : ∀ a, t.readByte a = s.readByte a) (hp : t.poisoned = s.poisoned) (hs : t.slots = s.slots) (i va : Nat) :
    t.walk i va = s.walk i va := by
  simp only [State.walk, State.jobOf, State.slotOf, hs, State.readEntry_congr hm hp, walkEntry_congr hm hp]

/-- A port is what the firmware wrote, or what the bindings give it. -/
theorem State.portAt_congr {s t : State} (hq : t.ports = s.ports) (hs : t.slots = s.slots) (k : Nat) : t.portAt k = s.portAt k := by
  have hc : t.slotOfCluster = s.slotOfCluster := funext fun c => by
    simp only [State.slotOfCluster, State.slotOf, hs]
    rfl
  have h : ∀ k, t.portStart k = s.portStart k := fun k => by
    simp only [State.portStart, State.portPart, hc, State.slotOf, hs]
  simp only [State.portAt, hq, h]

theorem State.legsCheck_congr {s t : State} (hq : t.ports = s.ports) (hs : t.slots = s.slots) (part : Nat) (ls : List (Nat × Nat)) :
    ∀ inp, t.legsCheck part inp ls = s.legsCheck part inp ls := by
  induction ls with
  | nil => intro inp; rfl
  | cons l r ih => intro inp; simp only [State.legsCheck, State.portCheck, State.portAt_congr hq hs, ih]

/-- A translation rests on the bytes of memory, the poisoned lines, the job slots, the ports, the caches, the cluster of the hart and the count of
free choices alone. -/
theorem State.translate_congr {s t : State} (hm : ∀ a, t.readByte a = s.readByte a) (hp : t.poisoned = s.poisoned) (hs : t.slots = s.slots)
    (hq : t.ports = s.ports) (hx : t.xlat = s.xlat) (hf : t.freeN = s.freeN) (hc : t.hart.caches = s.hart.caches) (hl : t.hart.cl = s.hart.cl)
    (i va perm : Nat) : t.translate i va perm = s.translate i va perm := by
  have hst : t.staleIn t.hart.caches i va = s.staleIn s.hart.caches i va := by
    simp only [State.staleIn, hx, hc, State.walk_congr hm hp hs, funext (walkEntry_congr hm hp va _)]
  have he : t.entryFor i va = s.entryFor i va := by
    simp only [State.entryFor, State.entryIn, hst, State.walk_congr hm hp hs, hf]
  have ha : ∀ part c pa d, t.accessPasses part c pa d = s.accessPasses part c pa d := fun part c pa d => by
    simp only [State.accessPasses, State.legsCheck_congr hq hs]
  have hg : ∀ e, t.pageOf i va perm (fun _ => true) e = s.pageOf i va perm (fun _ => true) e := fun e => by
    cases e with
    | error c => rfl
    | ok e =>
      simp only [State.pageOf, State.secureAt, State.slotOf, hs]
      rfl
  simp only [State.translate, State.translateWith, he, hg, ha, hl, State.slotOf, hs]
  rfl

/-- With no stale entry the translation is that of a fresh walk. -/
theorem State.entryFor_fresh {s : State} {i va : Nat} (h : s.stale i va = []) : s.entryFor i va = s.walk i va := by
  simp only [State.stale] at h
  simp only [State.entryFor, State.entryIn, h]

theorem State.holdEntry_frame (s : State) (c : Cached) : s.holdEntry c = { s with xlat := (s.holdEntry c).xlat, freeN := (s.holdEntry c).freeN } := by
  unfold State.holdEntry
  split
  · rfl
  · dsimp only
    split
    · rfl
    · split <;> rfl

/-- A frame of one step of a fold is a frame of the fold. -/
theorem caches_foldl {α : Type} (f : State → α → State)
    (hf : ∀ s x, f s x = { s with xlat := (f s x).xlat, freeN := (f s x).freeN }) (l : List α) :
    ∀ s, l.foldl f s = { s with xlat := (l.foldl f s).xlat, freeN := (l.foldl f s).freeN } := by
  induction l with
  | nil => intro s; rfl
  | cons x r ih =>
    intro s
    rw [List.foldl_cons]
    have h1 := hf s x
    generalize f s x = t at h1
    have h2 := ih t
    generalize r.foldl f t = u at h2
    rw [h2, h1]

/-- An access that reaches banks at retention voltage posts their waking, and changes nothing else. -/
theorem State.touch_frame (s : State) (pas : List Nat) : s.touch pas = { s with agenda := (s.touch pas).agenda } := by
  unfold State.touch
  split
  · rfl
  · generalize ((pas.map s.bankKey).eraseDups.filter s.twilight.contains) = l
    have h : ∀ (l : List Nat) (s : State), l.foldl (fun s k =>
        let w := Instr.bankWake (k / 512) (k / 8 % 64) (k % 8)
        if s.agenda.contains w then s else s.post w) s = { s with agenda := (l.foldl (fun s k =>
          let w := Instr.bankWake (k / 512) (k / 8 % 64) (k % 8)
          if s.agenda.contains w then s else s.post w) s).agenda } := by
      intro l
      induction l with
      | nil => intro s; rfl
      | cons k r ih =>
        intro s
        rw [List.foldl_cons]
        have h1 : ∀ (s : State) (w : Instr), (if s.agenda.contains w then s else s.post w) =
            { s with agenda := (if s.agenda.contains w then s else s.post w).agenda } := by
          intro s w; split <;> rfl
        have h2 := h1 s (Instr.bankWake (k / 512) (k / 8 % 64) (k % 8))
        dsimp only at h2 ⊢
        generalize (if s.agenda.contains (Instr.bankWake (k / 512) (k / 8 % 64) (k % 8)) then s
          else s.post (Instr.bankWake (k / 512) (k / 8 % 64) (k % 8))) = t at h2 ⊢
        have h3 := ih t
        dsimp only at h3
        rw [h3, h2]
    exact h l s

/-- Noting pages changes the caches, the count of free choices and the banks that are to wake alone. -/
theorem State.fillIn_frame (cs : List Nat) (i : Nat) (vas : List Nat) : ∀ s : State,
    s.fillIn cs i vas = { s with xlat := (s.fillIn cs i vas).xlat, freeN := (s.fillIn cs i vas).freeN, agenda := (s.fillIn cs i vas).agenda } := by
  have step : ∀ (s : State) (va : Nat), s.fillIn cs i [va] =
      { s with xlat := (s.fillIn cs i [va]).xlat, freeN := (s.fillIn cs i [va]).freeN, agenda := (s.fillIn cs i [va]).agenda } := by
    intro s va
    simp only [State.fillIn, List.foldl_cons, List.foldl_nil]
    have h1 : ∀ u : State, u = (if (s.staleIn cs i va).isEmpty then s else { s with freeN := s.freeN + 1 }) → u = { s with freeN := u.freeN } := by
      intro u h
      subst h
      split <;> rfl
    generalize hu : (if (s.staleIn cs i va).isEmpty then s else { s with freeN := s.freeN + 1 }) = u
    have h1 := h1 u hu.symm
    cases s.jobOf i with
    | none => dsimp only; rw [h1]
    | some j =>
      dsimp only
      generalize entryPath s va 4 (rootEntry s va j.pgroot) (entryAddr 4 j.pgroot va) = path
      have h2 := State.touch_frame u (s.readAnew cs i va path)
      generalize u.touch (s.readAnew cs i va path) = v at h2
      cases s.walk i va with
      | error c => dsimp only; rw [h2, h1]
      | ok e =>
        dsimp only
        have h3 := caches_foldl (fun s e => cs.foldl (fun s c => s.holdEntry (cachedAs c i va e)) s)
          (fun s e => caches_foldl (fun s c => s.holdEntry (cachedAs c i va e)) (fun s c => State.holdEntry_frame s _) cs s) path v
        generalize path.foldl (fun s e => cs.foldl (fun s c => s.holdEntry (cachedAs c i va e)) s) v = w at h3
        rw [h3, h2, h1]
  induction vas with
  | nil => intro s; rfl
  | cons va r ih =>
    intro s
    have hc : s.fillIn cs i (va :: r) = (s.fillIn cs i [va]).fillIn cs i r := rfl
    rw [hc]
    have h1 := step s va
    generalize s.fillIn cs i [va] = t at h1
    have h2 := ih t
    generalize t.fillIn cs i r = u at h2
    rw [h2, h1]

theorem State.fill_frame (i : Nat) (vas : List Nat) (s : State) : s.fill i vas =
    { s with xlat := (s.fill i vas).xlat, freeN := (s.fill i vas).freeN, agenda := (s.fill i vas).agenda } :=
  State.fillIn_frame _ i vas s

/-- No bank sleeps: an access posts nothing. -/
theorem State.touch_awake {s : State} (h : s.twilight = []) (pas : List Nat) : s.touch pas = s := by simp [State.touch, h]

theorem State.setHome_frame (s : State) (pa leaf : Nat) : s.setHome pa leaf = { s with homes := (s.setHome pa leaf).homes } := by
  unfold State.setHome; split <;> rfl

/-- What an access leaves behind beside its effect: caches, a draw, the home of a host-window line, banks that are to wake. -/
theorem State.note_frame (s : State) (a : Nat) (t : Target) : s.note a t =
    { s with xlat := (s.note a t).xlat, freeN := (s.note a t).freeN, homes := (s.note a t).homes, agenda := (s.note a t).agenda } := by
  cases t with
  | scratch => rfl
  | phys pa leaf =>
    simp only [State.note]
    have h1 := State.setHome_frame s pa leaf
    generalize s.setHome pa leaf = t1 at h1
    have h2 := State.touch_frame t1 [pa]
    generalize t1.touch [pa] = t2 at h2
    have h3 := State.fill_frame s.hart.slot [a] t2
    generalize t2.fill s.hart.slot [a] = t3 at h3
    rw [h3, h2, h1]

@[simp] theorem State.note_hart (s : State) (a : Nat) (t : Target) : (s.note a t).hart = s.hart := by rw [State.note_frame]
@[simp] theorem State.note_mem (s : State) (a : Nat) (t : Target) : (s.note a t).mem = s.mem := by rw [State.note_frame]
@[simp] theorem State.note_claims (s : State) (a : Nat) (t : Target) : (s.note a t).claims = s.claims := by rw [State.note_frame]
@[simp] theorem State.note_others (s : State) (a : Nat) (t : Target) : (s.note a t).others = s.others := by rw [State.note_frame]
@[simp] theorem State.note_slots (s : State) (a : Nat) (t : Target) : (s.note a t).slots = s.slots := by rw [State.note_frame]
@[simp] theorem State.note_dead (s : State) (a : Nat) (t : Target) : (s.note a t).dead = s.dead := by rw [State.note_frame]
@[simp] theorem State.note_poisoned (s : State) (a : Nat) (t : Target) : (s.note a t).poisoned = s.poisoned := by rw [State.note_frame]

/-! ### What the hart reads -/

/-- What a hart reads of memory rests on its buffer and on memory alone. -/
theorem State.peek_congr {s t : State} (h1 : t.hart.wcb = s.hart.wcb) (h2 : t.mem = s.mem) (h3 : t.dead = s.dead) (a : Nat) : t.peek a = s.peek a := by
  unfold State.peek State.readByte; rw [h1, h2, h3]

theorem State.peek_of_buffer {s : State} (h : s.hart.wcb = []) (a : Nat) : s.peek a = s.readByte a := by simp [State.peek, h]

/-! ### Waits on the engine -/

theorem Hart.waitFor_idle {h : Hart} (he : h.engine = []) (p : EngineOp → Bool) : h.waitFor p = .ok () := by simp [Hart.waitFor, he]
theorem Hart.waitAll_idle {h : Hart} (he : h.engine = []) : h.waitAll = .ok () := Hart.waitFor_idle he _
theorem State.waitBytes_idle {s : State} (he : s.hart.engine = []) (a n : Nat) (w : Bool) : s.waitBytes a n w = .ok () := by simp [State.waitBytes, he]

/-! ### The store buffer -/

theorem State.drainLine_frame (s : State) (l : Nat) : s.drainLine l = { s with
    mem := (s.drainLine l).mem, links := (s.drainLine l).links, poisoned := (s.drainLine l).poisoned, claims := (s.drainLine l).claims
    window := (s.drainLine l).window, dead := (s.drainLine l).dead, agenda := (s.drainLine l).agenda
    hart := { s.hart with wcb := s.hart.wcb.filter (fun b => lineOf b.1 ≠ l), wcbAge := s.hart.wcbAge.filter (· ≠ l) } } := by
  unfold State.drainLine
  dsimp only
  rw [State.writeMem_frame, State.touch_frame]

/-- Draining a line leaves every byte as its hart reads it. -/
theorem State.peek_drainLine (s : State) (l a : Nat) : (s.drainLine l).peek a = s.peek a := by
  have hw : (s.drainLine l).hart.wcb = s.hart.wcb.filter (fun b => lineOf b.1 ≠ l) := by rw [State.drainLine_frame]
  have hm : (s.drainLine l).readByte a = (lastWrite ((s.hart.wcb.filter (fun b => lineOf b.1 = l)).reverse.map (fun b => (b.1, b.2.1))) a).getD
      (s.readByte a) := by
    have h : (s.touch [l]).readByte a = s.readByte a := by rw [State.touch_frame]; rfl
    rw [← h]
    exact State.readByte_writeMem (s.touch [l]) 0 _ a
  have hl : lastWrite ((s.hart.wcb.filter (fun b => lineOf b.1 = l)).reverse.map (fun b => (b.1, b.2.1))) a =
      ((s.hart.wcb.filter (fun b => lineOf b.1 = l)).find? (fun b => b.1 = a)).map (·.2.1) := by
    rw [lastWrite, ← List.map_reverse, List.reverse_reverse, List.find?_map, Option.map_map]
    rfl
  rw [State.peek, hw, hm, hl, State.peek]
  by_cases ha : lineOf a = l
  · have h1 : (s.hart.wcb.filter (fun b => lineOf b.1 ≠ l)).find? (fun b => b.1 = a) = none := by
      rw [List.find?_eq_none]
      intro b hb
      have := (List.mem_filter.mp hb).2
      simp only [decide_eq_true_eq] at this ⊢
      intro e
      exact this (e ▸ ha)
    have h2 : (s.hart.wcb.filter (fun b => lineOf b.1 = l)).find? (fun b => b.1 = a) = s.hart.wcb.find? (fun b => b.1 = a) := by
      rw [List.find?_filter]
      congr 1
      funext b
      by_cases hb : b.1 = a
      · simp [hb, ha]
      · simp [hb]
    rw [h1, h2]
    cases s.hart.wcb.find? (fun b => decide (b.1 = a)) <;> rfl
  · have h1 : (s.hart.wcb.filter (fun b => lineOf b.1 = l)).find? (fun b => b.1 = a) = none := by
      rw [List.find?_eq_none]
      intro b hb
      have := (List.mem_filter.mp hb).2
      simp only [decide_eq_true_eq] at this ⊢
      intro e
      exact ha (e ▸ this)
    have h2 : (s.hart.wcb.filter (fun b => lineOf b.1 ≠ l)).find? (fun b => b.1 = a) = s.hart.wcb.find? (fun b => b.1 = a) := by
      rw [List.find?_filter]
      congr 1
      funext b
      by_cases hb : b.1 = a
      · simp [hb, ha]
      · simp [hb]
    rw [h1, h2]
    rfl

theorem State.peek_drainLines (ls : List Nat) : ∀ (s : State) (a : Nat), (ls.foldl State.drainLine s).peek a = s.peek a := by
  induction ls with
  | nil => intro s a; rfl
  | cons l r ih => intro s a; rw [List.foldl_cons, ih, State.peek_drainLine]

theorem State.wcb_drainLines (ls : List Nat) : ∀ s : State, (ls.foldl State.drainLine s).hart.wcb = s.hart.wcb.filter (fun b => lineOf b.1 ∉ ls) := by
  induction ls with
  | nil => intro s; exact (List.filter_eq_self.mpr (by simp)).symm
  | cons l r ih =>
    intro s
    have hw : (s.drainLine l).hart.wcb = s.hart.wcb.filter (fun b => lineOf b.1 ≠ l) := by rw [State.drainLine_frame]
    rw [List.foldl_cons, ih, hw, List.filter_filter]
    congr 1
    funext b
    simp only [List.mem_cons, not_or, Bool.decide_and, Bool.and_comm]

/-- Draining lines changes memory and what hangs on it, claims, waking banks and the hart's buffer alone. -/
theorem State.drainLines_frame (ls : List Nat) : ∀ s : State, ls.foldl State.drainLine s = { s with
    mem := (ls.foldl State.drainLine s).mem, links := (ls.foldl State.drainLine s).links, poisoned := (ls.foldl State.drainLine s).poisoned
    claims := (ls.foldl State.drainLine s).claims, window := (ls.foldl State.drainLine s).window, dead := (ls.foldl State.drainLine s).dead
    agenda := (ls.foldl State.drainLine s).agenda
    hart := { s.hart with wcb := (ls.foldl State.drainLine s).hart.wcb, wcbAge := (ls.foldl State.drainLine s).hart.wcbAge } } := by
  induction ls with
  | nil => intro s; rfl
  | cons l r ih =>
    intro s
    rw [List.foldl_cons]
    have h1 := State.drainLine_frame s l
    generalize s.drainLine l = t at h1
    have h2 := ih t
    generalize r.foldl State.drainLine t = u at h2
    rw [h2, h1]

/-- A drain changes bytes, links, poison, claims, the hart's buffer and the accesses that are served again alone. -/
theorem State.drain_frame (s : State) : s.drain = { s with
    mem := s.drain.mem, links := s.drain.links, poisoned := s.drain.poisoned, claims := s.drain.claims, agenda := s.drain.agenda
    window := s.drain.window, dead := s.drain.dead
    hart := { s.hart with wcb := s.drain.hart.wcb, wcbAge := s.drain.hart.wcbAge } } := by
  unfold State.drain
  split
  · rfl
  · simp only [State.serveWaits, State.postAll]
    have h1 := State.drainLines_frame s.hart.wcbAge s
    generalize s.hart.wcbAge.foldl State.drainLine s = t at h1
    have h2 := State.drainLines_frame (t.hart.wcb.map (fun b => lineOf b.1)) t
    generalize (t.hart.wcb.map (fun b => lineOf b.1)).foldl State.drainLine t = u at h2
    rw [h2, h1]

/-- After a drain every byte of memory is as the hart read it before, and its buffer is empty. -/
theorem State.drain_spec (s : State) : (∀ a, s.drain.readByte a = s.peek a) ∧ s.drain.hart.wcb = [] := by
  have hw : s.drain.hart.wcb = [] := by
    unfold State.drain
    split
    · rename_i h
      simp only [Bool.and_eq_true, List.isEmpty_iff] at h
      exact h.2
    · simp only [State.serveWaits, State.postAll]
      rw [State.wcb_drainLines, List.filter_eq_nil_iff]
      intro b hb
      simp only [decide_eq_true_eq, Decidable.not_not]
      exact List.mem_map.mpr ⟨b, hb, rfl⟩
  refine ⟨fun a => ?_, hw⟩
  rw [← State.peek_of_buffer hw]
  unfold State.drain
  split
  · rfl
  · have h : ∀ t : State, t.serveWaits.peek a = t.peek a := fun t => rfl
    simp only [h, State.peek_drainLines]

/-- With nothing buffered a drain does nothing. -/
theorem State.drain_empty {s : State} (h1 : s.hart.wcb = []) (h2 : s.hart.wcbAge = []) : s.drain = s := by simp [State.drain, h1, h2]

/-! ### Accesses -/

/-- An access to the hart's own rows passes its checks. -/
theorem State.check_own {s : State} {a n al acc perm off : Nat} {vec : Bool} (ha : a % al = 0) (hp : place a = .ok (.own off))
    (hs : s.hart.scratchOk off n = true) : s.check a n al acc perm vec = .ok (.scratch s.hart.hid off) := by
  simp [State.check, ha, hp, hs]

/-- An access off-core passes its checks: mapped with its permission, and claimed by no other hart. -/
theorem State.check_virt {s : State} {a n al acc perm va pa leaf : Nat} {vec : Bool} (ha : a % al = 0) (hp : place a = .ok (.virt va))
    (ht : s.translate s.hart.slot va perm = .ok (pa, leaf)) (hr : s.raceAt s.hart.hid (upFrom pa n) = none) :
    s.check a n al acc perm vec = .ok (.phys pa leaf) := by
  simp [State.check, ha, hp, ht, hr]

/-- A misaligned access is refused before all else. -/
theorem State.check_misaligned {s : State} {a n al acc perm : Nat} {vec : Bool} (h1 : 1 < al) (ha : a % al ≠ 0) :
    s.check a n al acc perm vec = .error (.trap (.mem 0x08 acc a)) := by
  simp [State.check, h1, ha]

/-- The bytes of a range of the hart's own rows that holds no poison. -/
theorem State.fetch_own {s : State} {a n acc off : Nat} (h : ∀ p ∈ s.hart.poison, p.kind = 2 → overlap (4 * p.elem) 4 off n = false) :
    s.fetchTarget a n acc (.scratch s.hart.hid off) = .ok (s.hart.readScratch off n) := by
  have hh : (s.hartOf s.hart.hid).getD Hart.vacant = s.hart := by simp [State.hartOf]
  have hn : s.hart.poison.find? (fun p => decide (p.kind = 2) && overlap (4 * p.elem) 4 off n) = none := by
    rw [List.find?_eq_none]
    intro p hp
    by_cases hk : p.kind = 2
    · simp [hk, h p hp hk]
    · simp [hk]
  simp only [State.fetchTarget, hh, hn]

/-- The bytes of an unpoisoned range of memory, as the hart reads them. -/
theorem State.fetch_phys {s : State} {a n acc pa leaf : Nat} (h : s.poisonAt pa n = none) :
    s.fetchTarget a n acc (.phys pa leaf) = .ok (leNat ((upFrom pa n).map s.peek)) := by
  simp [State.fetchTarget, h]

/-- Everything that a load which goes through can have done. -/
theorem State.load_ok {s t : State} {a n al acc v : Nat} {vec : Bool} (h : s.load a n al acc vec = .ok (t, v)) :
    ∃ g, s.check a n al acc 1 vec = .ok g ∧ s.fetchTarget a n acc g = .ok v ∧ t = s.note a g := by
  unfold State.load at h
  split at h
  · cases h
  · split at h
    · cases h
    · rename_i g hg
      split at h
      · cases h
      · rename_i w hw
        cases h
        exact ⟨g, hg, hw, rfl⟩

/-- A load whose checks pass goes through. -/
theorem State.load_of {s : State} {a n al acc v : Nat} {vec : Bool} {g : Target} (he : s.hart.engine = [])
    (hc : s.check a n al acc 1 vec = .ok g) (hf : s.fetchTarget a n acc g = .ok v) : s.load a n al acc vec = .ok (s.note a g, v) := by
  simp [State.load, State.waitBytes_idle he, hc, hf]

/-- Everything that a store which goes through can have done. -/
theorem State.store_ok {s t : State} {a al : Nat} {bs : List Byte} {vec : Bool} (h : s.store a al bs vec = .ok t) :
    ∃ g, s.check a bs.length al 2 2 vec = .ok g ∧ (s.note a g).putTarget a bs false g = .ok t := by
  unfold State.store at h
  split at h
  · cases h
  · split at h
    · cases h
    · rename_i g hg
      exact ⟨g, hg, h⟩

/-! ### Issue checks, completion and traps -/

theorem State.gate_none (s : State) (k : State → Host.Outcome State Fault Refusal) : s.gate none k = k s := by
  unfold State.gate; split <;> rfl
theorem State.gate_checked {s : State} (h : s.hart.cur.checked = true) (c : Option Trap) (k : State → Host.Outcome State Fault Refusal) :
    s.gate c k = k s := by simp [State.gate, h]
theorem State.gate_some {s : State} (h : s.hart.cur.checked = false) (t : Trap) (k : State → Host.Outcome State Fault Refusal) :
    s.gate (some t) k = s.trap t := by simp [State.gate, h]

/-- A scalar instruction that completes writes its x register and moves the pc, and nothing else. -/
theorem State.wx_spec (s : State) (d : Nat) (v : Word) : ∃ t, s.wx d v = .next t ∧
    (∀ r, t.hart.getX r = if r = d ∧ d ≠ 0 then v else s.hart.getX r) ∧
    t = { s with hart := { s.hart with x := t.hart.x, pc := s.hart.pc + 4, resumeMid := false } } := by
  refine ⟨_, rfl, fun r => ?_, ?_⟩
  · exact Hart.getX_setX s.hart d r v
  · simp only [State.upd, Hart.step4]
    rw [Hart.setX_frame]

/-- A scalar instruction that completes writes its f register, raises flags and moves the pc, and nothing else. -/
theorem State.wf_spec (s : State) (d : Nat) (v : BitVec 66) (fl : BitVec 5) : ∃ t, s.wf d v fl = .next t ∧
    (∀ r, t.hart.getF r = if r = d then v else s.hart.getF r) ∧ t.hart.vflags = s.hart.vflags ||| fl ∧
    t = { s with hart := { s.hart with f := t.hart.f, vflags := t.hart.vflags, pc := s.hart.pc + 4, resumeMid := false } } :=
  ⟨_, rfl, fun r => Hart.getF_setF s.hart d r v, rfl, rfl⟩

/-- A trap outside a handler, of an instruction that is alone, for a cause other than a race and poison (R331); a page that was
walked has its entries in the caches. -/
theorem State.takeTrap_spec {s : State} {t : Trap} (hi : s.hart.intrap = false) (hc : s.hart.cur = Cursor.alone) (hr : t.race = none)
    (h20 : t.code ≠ 0x20) (h22 : t.code ≠ 0x22) : s.takeTrap t = { s with
      links := s.links.filter (fun l => l.1 ≠ s.hart.hid), xlat := (s.takeTrap t).xlat, freeN := (s.takeTrap t).freeN, agenda := (s.takeTrap t).agenda
      hart := { s.hart with
        links := [], tepc := s.hart.pc &&& (~~~ 3), tcause := causeOf false false 0 t.acc t.code, tval := BitVec.ofNat 64 t.tval
        tstatus := statusOf s.hart.resumeMid true s.hart.ie false, pc := (s.hart.tvec >>> 2) <<< 2, resumeMid := false, cur := Cursor.alone } } := by
  have h1 : s.hart.cur.size = 1 := by rw [hc]; rfl
  have h2 : s.hart.cur.pos = 0 := by rw [hc]; rfl
  have hf : ∀ u : State, u = (if decide (t.acc < 5) then s.dropLinks.noteFault t else s.dropLinks) →
      u = { s.dropLinks with xlat := u.xlat, freeN := u.freeN, agenda := u.agenda } := by
    intro u h
    subst h
    unfold State.noteFault
    split
    · split
      · exact State.fill_frame _ _ _
      · rfl
    · rfl
  simp only [State.takeTrap, hi, hr, h20, h22, h1, h2, if_false, Bool.false_eq_true, gt_iff_lt, Nat.lt_irrefl, decide_false, Bool.and_false,
    Bool.false_and]
  generalize hu : (if decide (t.acc < 5) then s.dropLinks.noteFault t else s.dropLinks) = u
  have hf := hf u hu.symm
  rw [hf]
  simp [State.dropLinks, State.upd, Hart.enterTrap, Hart.ie]

end Sys2Proof.Machine
end

