-- ==== Sys2Proof/Tests/Slice0.lean ====
section
/-! SUPPORT. Our own tests: terms that the form check refuses, words of every family written out from the encoding tables of
spec/10_encoding_tables.md, and for every statement of the certificate a small state that meets its hypotheses. -/

namespace Sys2Proof.Tests

open Sys2Proof.Machine

set_option Elab.async false

/-! ### Small states -/

/-- A hart on core (0, 0), with the default partition word: 2,048 slots, 8 tiles, 4,096 scratchpad rows. -/
def hart1 : Hart := { Hart.vacant with status := .running, hid := 1 }

/-- One hart and no job. -/
def bare : State := { State.reset with hart := hart1, nextHid := 2 }

/-- The hart with these x registers. -/
def State.xs (s : State) (l : List (Nat × Word)) : State := { s with hart := { s.hart with x := l } }

/-- The hart with this `vtype` and `vl`. -/
def State.vec (s : State) (ty : Nat) (n : Nat) : State := { s with hart := { s.hart with vtype := BitVec.ofNat 64 ty, vl := n } }

/-- Page tables at 0x10000: the virtual addresses below 1 GiB are the same physical addresses, those of the next 1 GiB are the host window; every page may
be read, written and fetched, and is non-secure. -/
def tables : List Host.Cell :=
  [(0x10000, 0x01), (0x10001, 0x10), (0x10002, 0x01), (0x11000, 0x01), (0x11001, 0x20), (0x11002, 0x01), (0x12000, 0x0f),
   (0x12008, 0x0f), (0x1200e, 0x08)]

/-- A running phase on cluster 0. -/
def phase1 : Phase := ⟨false, 12, 1, 0, 0, 1, .running, true⟩

/-- The launch block of one hart at 0x1000. -/
def block1 : LaunchBlock := ⟨0x1000, 7, 1, 0, false, false, 0x04008040, [noHandle, noHandle, noHandle, noHandle]⟩

/-- The running launch 0 of one hart, placed. -/
def launch1 : Launch := ⟨0, block1, none, 0, 0, 1, .running, 1, false, 1, [], [], 0, []⟩

/-- A job with one phase and one launch. -/
def job1 : Job := ⟨false, false, 0x10000, 0, 0xffff, 0x2000, 0, [phase1], 0, 1, .running, [launch1], [], []⟩

/-- A job slot with partition 1 on cluster 0, whose memory below 1 GiB is one non-secure region. -/
def slot1 : JobSlot := { JobSlot.empty with st := 2, part := 1, clus := 1, regions := [⟨true, false, 0, 0x3fff⟩], job := some job1 }

/-- One hart of a running job with page tables. -/
def paged : State := { bare with
  mem := tables, readyReg := 0xffff
  slots := [slot1, JobSlot.empty, JobSlot.empty, JobSlot.empty, JobSlot.empty, JobSlot.empty] }

/-- The job of `paged` with other fields. -/
def State.withJob1 (s : State) (j : Job) : State := { s with
  slots := [{ slot1 with job := some j }, JobSlot.empty, JobSlot.empty, JobSlot.empty, JobSlot.empty, JobSlot.empty] }

/-- A second hart of the same launch, with number 1. -/
def hart2 : Hart := { hart1 with hid := 2, lcore := 1, core := 1 }

/-- The launch of `launch1` as a gang of two. -/
def gangLaunch : Launch := { launch1 with block := { block1 with gang := true, harts := 2 }, counter := 2, unplaced := 2 }

/-- Two harts of a gang launch, on two cores of one cluster. -/
def gang : State := { State.withJob1 paged { job1 with launches := [gangLaunch] } with others := [hart2] }

/-- The address of a byte of the hart's own scratchpad as a register value. -/
def own (off : Nat) : Word := BitVec.ofNat 64 (ownAddr off)

/-- The address of a byte of hart 1's scratchpad, as a peer. -/
def peer1 (off : Nat) : Word := BitVec.ofNat 64 (0xffffffffe0200000 + off)

theorem fresh_of_xlat {s : State} (h : s.xlat = []) : s.fresh := by
  intro a
  simp [State.stale, State.staleIn, h]

/-- A translation that the kernel evaluates. -/
def givesPhys (s : State) (va perm pa leaf : Nat) : Bool := match s.translate s.hart.slot va perm with
  | .ok (p, l) => p = pa && l = leaf
  | .error _ => false

theorem translates_of {s : State} {va perm pa leaf : Nat} (h : givesPhys s va perm pa leaf = true) :
    s.translate s.hart.slot va perm = .ok (pa, leaf) := by
  unfold givesPhys at h
  split at h
  · rename_i p l he
    simp only [Bool.and_eq_true, decide_eq_true_eq] at h
    rw [he, h.1, h.2]
  · simp at h

/-! ### Base instructions -/

theorem test_IntegerResults_value :
    intResult (State.xs bare [(5, 0xffffffffffffffff), (6, 2)]).hart (.mulhsu 31 5 6) = some (31, 0xffffffffffffffff) := by decide
theorem test_IntegerResults_x0 : intResult bare.hart (.addi 0 5 (-1)) = some (0, 0xffffffffffffffff) := by decide
theorem test_IntegerResults_division : divisionOf (.remw 0 6 7) = some (0, 6, 7, true, 32, true) := rfl
theorem test_divisionValue_overflow : divisionValue true 64 false 0x8000000000000000 0xffffffffffffffff = 0x8000000000000000 := by decide
theorem test_divisionValue_zero : divisionValue false 32 true 0x180000000 0 = 0xffffffff80000000 := by decide

theorem test_Transfers_taken : transferOf (State.xs bare [(5, 0x101)]).hart (.jalr 1 5 3) = some (1, 0x104) ∧ (0x104 : Word).toNat % 4 = 0 := by decide
theorem test_Transfers_not_taken : branchOf bare.hart (.bne 0 0 8) = some (false, 8) := by decide
theorem test_Transfers_misaligned : transferOf bare.hart (.jal 0 6) = some (0, 6) ∧ (6 : Word).toNat % 4 ≠ 0 ∧ bare.hart.plain :=
  ⟨by decide, by decide, by decide, by decide, by decide⟩

theorem test_LoadResults_own : let s := State.xs bare [(6, own 0xffff8)]
    loadOf s.hart (.ld 0 6 0) = some (0, own 0xffff8, 8, true) ∧ s.hart.engine = [] ∧ s.loads true (own 0xffff8).toNat 8 0 :=
  ⟨by decide, rfl, by decide, .inl ⟨0xffff8, rfl, ⟨by decide, by decide⟩, by decide⟩⟩
theorem test_LoadResults_memory : let s := State.xs paged [(6, 0x10000)]
    loadOf s.hart (.lhu 5 6 0) = some (5, 0x10000, 2, false) ∧ s.hart.engine = [] ∧ s.loads true 0x10000 2 0x1001 :=
  ⟨by decide, rfl, by decide, .inr (.inl ⟨0x10000, ⟨rfl, ⟨15, translates_of (by decide +kernel)⟩, rfl⟩, rfl, by decide +kernel⟩)⟩
theorem test_LoadResults_peer : let s := State.xs gang [(6, peer1 4)]
    loadOf s.hart (.ldaq 5 6 2 1) = some (5, peer1 4, 4, false) ∧ s.hart.engine = [] ∧ s.loads true (peer1 4).toNat 4 0 :=
  ⟨by decide, rfl, by decide, .inr (.inr ⟨rfl, 1, 4, hart2, rfl, by decide +kernel, rfl, ⟨by decide, by decide⟩, by decide⟩)⟩
theorem test_LoadResults_misaligned :
    loadOf bare.hart (.lh 5 0 1) = some (5, 1, 2, true) ∧ 2 ≤ 8 ∧ (1 : Word).toNat % 2 ≠ 0 ∧ bare.hart.engine = [] ∧ bare.hart.plain :=
  ⟨by decide, by decide, by decide, rfl, by decide, by decide, by decide⟩

theorem storable_own {s : State} {ws : List (Nat × List Byte)} (he : s.hart.engine = []) (hf : s.fresh)
    (h : ∀ w ∈ ws, w.1 % w.2.length = 0 ∧ ∃ off, s.storeTarget w.1 = some (true, off) ∧ s.hart.scratchOk off w.2.length = true) : s.storable ws := by
  have hp : s.physStores ws = [] := by
    simp only [State.physStores, List.filterMap_eq_nil_iff]
    intro w hw
    obtain ⟨_, off, ho, _⟩ := h w hw
    simp [ho]
  refine ⟨he, fun _ => hf, fun w hw => (h w hw).1, ?_, ?_, ?_, ?_⟩
  · intro w hw off ho
    obtain ⟨_, off', ho', hs⟩ := h w hw
    rw [ho'] at ho
    cases ho
    exact hs
  · intro w hw pa hpa
    obtain ⟨_, off, ho, _⟩ := h w hw
    simp [ho] at hpa
  · intro w hw hn
    obtain ⟨_, off, ho, _⟩ := h w hw
    simp [ho] at hn
  · left
    simp [hp]

theorem storable_phys {s : State} {a pa : Nat} {bs : List Byte} (he : s.hart.engine = []) (ha : a % bs.length = 0)
    (ht : s.storeTarget a = some (false, pa)) (hr : s.raceAt s.hart.hid (upFrom pa bs.length) = none)
    (hw : s.hart.wcbAge.length < 512) (hc : s.claims = []) : s.storable [(a, bs)] := by
  refine ⟨he, by simp, by simpa using ha, ?_, ?_, ?_, ?_⟩
  · simp [ht]
  · simp [ht]
    exact hr
  · simp [ht]
  · right
    refine ⟨[lineOf pa], ?_, ?_, ?_⟩
    · simp [State.physStores, ht]
    · simp [Config.wcbBytes]; omega
    · simp [State.claimLines, hc, Config.sliceEntries]

theorem test_StoreResults_own : let s := State.xs bare [(6, own 4)]
    storeOf s.hart (.sw 6 0 (-4)) = some (own 0, 4, 0) ∧ s.storable [((own 0).toNat, leBytes (0 : Word).toNat 4)] :=
  ⟨by decide, storable_own rfl (fresh_of_xlat rfl) (by simp; exact ⟨by decide, 0, rfl, rfl⟩)⟩
theorem test_StoreResults_memory : let s := State.xs paged [(6, 0x3fffffff)]
    storeOf s.hart (.sb 6 6 0) = some (0x3fffffff, 1, 0x3fffffff) ∧ s.storable [((0x3fffffff : Word).toNat, leBytes (0x3fffffff : Word).toNat 1)] :=
  ⟨by decide, storable_phys (pa := 0x3fffffff) rfl (by decide) rfl rfl (by decide) rfl⟩
theorem test_StoreResults_peer : let s := State.xs gang [(6, peer1 8)]
    storeOf s.hart (.sd 6 0 0) = some (peer1 8, 8, 0) ∧ s.hart.engine = [] ∧ (peer1 8).toNat % 8 = 0 ∧ place (peer1 8).toNat = .ok (.peer 1 8) ∧
      s.peerTarget 1 (peer1 8).toNat 8 = some hart2 ∧ hart2.hid ≠ s.hart.hid ∧ s.hartOf hart2.hid = some hart2 ∧ hart2.scratchOk 8 8 = true :=
  ⟨by decide, rfl, by decide, rfl, by decide +kernel, by decide, rfl, by decide⟩
theorem test_StoreResults_misaligned :
    storeOf bare.hart (.sh 0 0 1) = some (1, 2, 0) ∧ (1 : Word).toNat % 2 ≠ 0 ∧ bare.hart.engine = [] ∧ bare.hart.plain :=
  ⟨by decide, by decide, rfl, by decide, by decide, by decide⟩

theorem test_CsrResults_writes : csrOf (State.xs bare [(5, 0xff)]) (.csrrw 1 0x843 5) = some (1, 0x843, true, 0xff) ∧ Sys2Proof.csrListed 0x843 := by decide
theorem test_CsrResults_reads : csrOf bare (.csrrsi 0 0x847 0) = some (0, 0x847, false, 0) ∧ Sys2Proof.csrListed 0x847 := by decide

theorem test_TrapEntries_entry : trapOf (.fetchFault 2 0) = some (0x02, 4, 2) ∧ bare.hart.plain ∧ trapPos (.fetchFault 2 0) = 0 :=
  ⟨rfl, ⟨by decide, by decide, by decide⟩, rfl⟩
theorem test_TrapEntries_double : let s : State := { paged with hart := { hart1 with tstatus := 0x40 } }
    trapOf .ebreak = some (0x06, 0, 0) ∧ s.hart.intrap = true ∧ s.record s.hart.slot 0 s.hart.launchid = some (1, .running) :=
  ⟨rfl, by decide, by decide⟩
theorem test_TrapReturn : bare.hart.time = none ∧ bare.hart.engine = [] := ⟨rfl, rfl⟩

theorem test_ScalarFloat_f : floatResult bare.hart (.fmvf 2 31 0) = some (31, ⟨0, 0⟩, 0) := by decide
theorem test_ScalarFloat_sum :
    floatResult { hart1 with f := [(1, 0x3f800000), (2, 0x40000000)] } (.fadd 0 3 1 2) = some (3, ⟨0x40400000, 0⟩, 0) := by decide
theorem test_ScalarFloat_x : floatToX { hart1 with f := [(1, 0x7f800001)] } (.fcmp 0 5 1 0) = some (5, 2, 0x10) := by decide

theorem test_FloatMemory_fld : let s := State.xs bare [(6, own 8)]
    s.hart.engine = [] ∧ s.loads true (s.hart.getX 6 + BitVec.ofInt 64 (-1 * fmtBytes 1)).toNat (fmtBytes 1) 0 :=
  ⟨rfl, by decide, .inl ⟨0, rfl, ⟨by decide, by decide⟩, by decide⟩⟩
theorem test_FloatMemory_ffill : let s := State.xs bare [(6, own 0)]
    s.hart.engine = [] ∧ s.loads true (s.hart.getX 6 + BitVec.ofInt 64 (1 * 16)).toNat 16 0 :=
  ⟨rfl, by decide, .inl ⟨16, rfl, ⟨by decide, by decide⟩, by decide⟩⟩
theorem test_FloatMemory_fst : let s := State.xs paged [(6, 0x20000)]
    s.hart.mode < 6 ∧ s.storable [((s.hart.getX 6 + BitVec.ofInt 64 (0 * fmtBytes 3)).toNat,
      leBytes (finFloat (s.hart.valF 1 3) 3 s.hart.mode s.hart.sat).1 (fmtBytes 3))] :=
  ⟨by decide, storable_phys (pa := 0x20000) rfl (by decide) rfl rfl (by decide) rfl⟩
theorem test_FloatMemory_fspill : let s := State.xs paged [(6, 0x20000)]
    s.storable [((s.hart.getX 6 + BitVec.ofInt 64 (0 * 16)).toNat, leBytes (s.hart.getF 1).toNat 16)] :=
  storable_phys (pa := 0x20000) rfl (by decide) rfl rfl (by decide) rfl

theorem test_RoundingKeepsEncodings : (4 : Nat) ≤ 5 ∧ 0x7e < 2 ^ fmtWidth 4 ∧ (decodeVal 4 0x7e 0).isNan = false := by decide

theorem test_VectorConfiguration_vsett : Instr.wf (.vsett 1 10 1 4 1 13 5 12) = true := by decide
theorem test_VectorConfiguration_strip : bare.hart.vtypeOk = true := by decide
theorem test_LoopControl : (3 : Nat) ≤ 3 := by decide

/-! ### Vector arithmetic -/

/-- Two elements of `s32` in v1: −1 and 5. -/
def ints : State := State.vec { bare with hart := { hart1 with v := [(1, ⟨0xffffffff, 0⟩), (33, ⟨5, 0⟩)] } } 18 2
/-- Two elements of `f32` in v1: 1 and 2. -/
def flts : State := State.vec { bare with hart := { hart1 with v := [(1, ⟨0x3f800000, 0⟩), (33, ⟨0x40000000, 0⟩)] } } 0 2
/-- Two elements of packed `s8`. -/
def bytes4 : State := State.vec bare 0x50 2

theorem test_VectorInteger_vi : vectorOpOf ints.hart (.vaddsVi true 2 1 1 (-1)) = some (.adds, 2, 1, .vec 1, .scalar ⟨0xffffffff, 0⟩) ∧
    ints.hart.vtypeOk = true ∧ fmtInt ints.hart.fmt = true ∧ ints.hart.selects (.scalar ⟨0xffffffff, 0⟩) :=
  ⟨by decide, by decide, by decide, trivial⟩
theorem test_VectorInteger_p : vectorOpOf bytes4.hart (.vmulP false 3 1 2 3) = some (.mul, 0, 3, .vec 1, .sel 2 3) ∧ bytes4.hart.vtypeOk = true ∧
    fmtInt bytes4.hart.fmt = true ∧ bytes4.hart.selects (.sel 2 3) :=
  ⟨by decide, by decide, by decide, by decide, by decide⟩
theorem test_VectorInteger_bitwise : vectorOpOf flts.hart (.vxor false 0 3 1 2) = some (.xor, 0, 3, .vec 1, .vec 2) ∧ flts.hart.vtypeOk = true ∧
    VectorOp.xor.intOnly = false ∧ fmtFloat flts.hart.fmt = true ∧ flts.hart.selects (.vec 2) :=
  ⟨by decide, by decide, by decide, by decide, trivial⟩

theorem test_VectorFloat_two : floatOpOf flts.hart (.vfminVf true 1 3 31 1) =
      some (fun x y => minMaxImage 0 x y false, 1, 3, .vec 1, flts.hart.scalarF 31) ∧
    flts.hart.vtypeOk = true ∧ fmtFloat flts.hart.fmt = true ∧ flts.hart.selects (flts.hart.scalarF 31) :=
  ⟨rfl, by decide, by decide, trivial⟩
theorem test_VectorFloat_fused : fusedOf flts.hart (.vffma false 0 3 1 2) = some (0, 3, .vec 1, .vec 2) ∧
    flts.hart.vtypeOk = true ∧ fmtFloat flts.hart.fmt = true ∧ flts.hart.selects (.vec 2) :=
  ⟨by decide, by decide, by decide, trivial⟩
theorem test_VectorFloat_one : floatFnOf flts.hart (.vfsqrt false 0 3 1) = some (fun x => oddResult 0 (sqrtVal (x.val 0)), 0, 3, 1) ∧
    flts.hart.vtypeOk = true ∧ fmtFloat flts.hart.fmt = true :=
  ⟨rfl, by decide, by decide⟩

theorem test_VectorConversion : ints.hart.vtypeOk = true ∧ ints.hart.converts 23 = true ∧ flts.hart.converts 16 = true ∧ flts.hart.vtypeOk = true ∧
    ints.hart.physV 1 ≠ ints.hart.physV 2 ∧ fmtWide 16 = fmtWide flts.hart.fmt := by decide

theorem test_VectorMoves_move : (moveOf ints.hart (.vslided false 0 3 1 0)).isSome = true ∧ ints.hart.vtypeOk = true := by decide
theorem test_VectorMoves_pack : (moveOf bytes4.hart (.vunpk false 0 3 1 3)).isSome = true ∧ bytes4.hart.vtypeOk = true := by decide

theorem test_MaskResults_mask : (maskOf ints.hart (.vcut false 0 7)).isSome = true := by decide
theorem test_MaskResults_vmvs : maskToX ints.hart (.vmvs false 5 1 0) = some (5, 0xffffffffffffffff) := by decide
theorem test_MaskResults_vffs : maskToX ints.hart (.vffs false 0 5 1) = some (5, 0xffffffffffffffff) := by decide +kernel

theorem test_VectorCompares_ints : compareOf ints.hart (.vicmpVi false 0 1 1 (-16) 3) =
      some (0, 1, 3, .vec 1, .scalar ⟨0xfffffff0, 0⟩, false, false) ∧
    ints.hart.vtypeOk = true ∧ ints.hart.pack = 1 ∧ fmtInt ints.hart.fmt = true := ⟨rfl, by decide⟩
theorem test_VectorCompares_floats : compareOf flts.hart (.vfcmpF false 0 1 1 2 0) = some (0, 1, 0, .vec 1, .vec 2, true, true) ∧
    flts.hart.vtypeOk = true ∧ flts.hart.pack = 1 ∧ fmtFloat flts.hart.fmt = true := ⟨rfl, by decide⟩

theorem test_Reductions_sum : (reduceOf flts.hart (.vredsum false 0 3 1 2)).isSome = true ∧ flts.hart.vtypeOk = true ∧ flts.hart.pack = 1 ∧
    (fmtInt flts.hart.fmt || fmtFloat flts.hart.fmt) = true ∧ flts.hart.vl ≤ 4096 :=
  ⟨rfl, by decide⟩
theorem test_Reductions_red : (reduceOf ints.hart (.vred true 1 3 1 3)).isSome = true ∧ ints.hart.vtypeOk = true ∧ ints.hart.pack = 1 ∧
    (fmtInt ints.hart.fmt || fmtFloat ints.hart.fmt) = true ∧ ints.hart.vl ≤ 4096 :=
  ⟨rfl, by decide⟩

theorem test_Scans : ints.hart.vtypeOk = true ∧ ints.hart.pack = 1 ∧ fmtInt ints.hart.fmt = true ∧
    flts.hart.vtypeOk = true ∧ flts.hart.pack = 1 ∧ 1 < 2 ∧ fmtFloat flts.hart.fmt = true := by decide

theorem test_LongAccumulator : flts.hart.vtypeOk = true ∧ redxFmt flts.hart.fmt = true ∧ flts.hart.engine = [] ∧
    let s := State.vec bare 0x4a 1
    s.hart.vtypeOk = true ∧ redxFmt s.hart.fmt = true ∧ s.hart.engine = [] ∧ fmtScaled s.hart.fmt = true := by decide

theorem test_LongSumIsExact : let l : LongAcc := ⟨1, false, false, false, false⟩
    (-151 : Int) ≤ -151 ∧ 0 < l.int + ((if true then -((3 : Nat) : Int) else (3 : Nat)) * 2 ^ ((-151 : Int) + 151).toNat) + (2 : Int) ^ 383 ∧
      l.int + ((if true then -((3 : Nat) : Int) else (3 : Nat)) * 2 ^ ((-151 : Int) + 151).toNat) < (2 : Int) ^ 383 := by decide +kernel

theorem test_Softmax : (29 : Nat) + 2 < 32 ∧ flts.hart.vtypeOk = true ∧ flts.hart.fmt ≤ 3 ∧ flts.hart.pack = 1 := by decide

/-! ### Vector memory -/

/-- The `n` aligned bytes at `a` are the hart's own, at offset `off`. -/
def onOwn (s : State) (a n off : Nat) : Bool :=
  a % n = 0 && (match place a with
    | .ok (.own o) => o = off
    | _ => false) && s.hart.scratchOk off n && s.hart.poison.isEmpty

theorem place_of_onOwn {s : State} {a n off : Nat} (h : onOwn s a n off = true) :
    a % n = 0 ∧ place a = .ok (.own off) ∧ s.hart.scratchOk off n = true ∧ s.hart.poison = [] := by
  simp only [onOwn, Bool.and_eq_true, decide_eq_true_eq, List.isEmpty_iff] at h
  obtain ⟨⟨⟨ha, hp⟩, hs⟩, hq⟩ := h
  refine ⟨ha, ?_, hs, hq⟩
  split at hp
  · rename_i o ho
    rw [ho, of_decide_eq_true hp]
  · simp at hp

theorem loads_own {s : State} {b : Bool} {a n off : Nat} (h : onOwn s a n off = true) : s.loads b a n (s.hart.readScratch off n) := by
  obtain ⟨ha, hp, hs, hq⟩ := place_of_onOwn h
  exact ⟨ha, .inl ⟨off, hp, ⟨hs, by simp [hq]⟩, rfl⟩⟩

theorem atomic_own {s : State} {a n off perm : Nat} (h : onOwn s a n off = true) : s.atomicAt' a n perm (true, off) := by
  obtain ⟨ha, hp, hs, hq⟩ := place_of_onOwn h
  exact ⟨ha, by simp; exact ⟨hp, hs, by simp [hq]⟩⟩

/-- The `n` aligned bytes at `a` are off-core at `pa`, where no byte is claimed and no line poisoned. -/
def onPhys (s : State) (a n perm pa leaf : Nat) : Bool :=
  a % n = 0 && (match place a with
    | .ok (.virt v) => v = a
    | _ => false) && givesPhys s a perm pa leaf && s.claims.isEmpty && s.poisoned.isEmpty

theorem mapped_of_onPhys {s : State} {a n perm pa leaf : Nat} (h : onPhys s a n perm pa leaf = true) :
    a % n = 0 ∧ s.mapped a n perm pa ∧ s.poisonAt pa n = none := by
  simp only [onPhys, Bool.and_eq_true, decide_eq_true_eq, List.isEmpty_iff] at h
  obtain ⟨⟨⟨⟨ha, hp⟩, ht⟩, hc⟩, hq⟩ := h
  refine ⟨ha, ⟨?_, ⟨leaf, translates_of ht⟩, by simp [State.raceAt, hc]⟩, by simp [State.poisonAt, hq]⟩
  split at hp
  · rename_i o ho
    rw [ho, of_decide_eq_true hp]
  · simp at hp

theorem loads_phys {s : State} {b : Bool} {a n pa leaf : Nat} (h : onPhys s a n 1 pa leaf = true) :
    s.loads b a n (leNat ((upFrom pa n).map s.peek)) := by
  obtain ⟨ha, hm, hp⟩ := mapped_of_onPhys h
  exact ⟨ha, .inr (.inl ⟨pa, hm, hp, rfl⟩)⟩

theorem atomic_phys {s : State} {a n perm pa leaf : Nat} (h : onPhys s a n perm pa leaf = true) : s.atomicAt' a n perm (false, pa) := by
  obtain ⟨ha, hm, hp⟩ := mapped_of_onPhys h
  exact ⟨ha, by simp; exact ⟨hm, hp⟩⟩

/-- Each store of the list is aligned and goes to the hart's own rows. -/
def allOwn (s : State) (ws : List (Nat × List Byte)) : Bool :=
  ws.all (fun w => w.1 % w.2.length = 0 && (match s.storeTarget w.1 with
    | some (true, off) => s.hart.scratchOk off w.2.length
    | _ => false))

theorem storable_all {s : State} {ws : List (Nat × List Byte)} (he : s.hart.engine = []) (hx : s.xlat = []) (h : allOwn s ws = true) : s.storable ws := by
  refine storable_own he (fresh_of_xlat hx) fun w hw => ?_
  simp only [allOwn, List.all_eq_true, Bool.and_eq_true, decide_eq_true_eq] at h
  obtain ⟨h1, h2⟩ := h w hw
  refine ⟨h1, ?_⟩
  split at h2
  · rename_i off ho
    exact ⟨off, ho, h2⟩
  · simp at h2

theorem below_of_acts {h : Hart} {mk e : Nat} (ha : h.acts mk e = true) : e < h.vl := by
  simp only [Hart.acts, Bool.and_eq_true, decide_eq_true_eq] at ha
  exact ha.1.1.2

theorem for_acts {h : Hart} {mk : Nat} {P : Nat → Prop} (hp : ∀ e, e < h.vl → P e) : ∀ e, h.acts mk e = true → P e :=
  fun e he => hp e (below_of_acts he)

/-- Two elements of `f32` in v1, p0 at offset 256 of the hart's own scratchpad and p1 at 0x20000. -/
def vecMem : State := State.vec { paged with hart := { hart1 with
  v := [(1, ⟨0x3f800000, 0⟩), (2, ⟨8, 0⟩), (34, ⟨4, 0⟩)], p := [(0, ⟨own 256, 4⟩), (1, ⟨0x20000, 4⟩)] } } 0 2

theorem test_VectorLoads_own : unitLoadOf vecMem.hart (.vldxf false 0 3 0 2) = some (0, 3, vecMem.hart.indexedAddr 0 2, true) ∧
    vecMem.hart.vtypeOk = true ∧ vecMem.hart.engine = [] ∧ vecMem.fresh ∧
    ∀ e, vecMem.hart.acts 0 e = true →
      vecMem.loads false (vecMem.hart.indexedAddr 0 2 e) vecMem.hart.unitBytes (vecMem.hart.readScratch (264 - 4 * e) 4) :=
  ⟨rfl, by decide, rfl, fresh_of_xlat rfl, for_acts fun e he => loads_own (off := 264 - 4 * e) (by
    have : e < 2 := he
    obtain rfl | rfl : e = 0 ∨ e = 1 := by omega
    all_goals decide +kernel)⟩
theorem test_VectorLoads_memory : unitLoadOf vecMem.hart (.vld true 0 3 1) = some (0, 3, vecMem.hart.plainAddr 1, false) ∧
    ∀ e, vecMem.hart.acts 0 e = true → vecMem.loads false (vecMem.hart.plainAddr 1 e) vecMem.hart.unitBytes
      (leNat ((upFrom (0x20000 + 4 * e) 4).map vecMem.peek)) :=
  ⟨rfl, for_acts fun e he => loads_phys (leaf := 15) (by
    have : e < 2 := he
    obtain rfl | rfl : e = 0 ∨ e = 1 := by omega
    all_goals decide +kernel)⟩

theorem test_VectorStores : unitStoreOf vecMem.hart (.vsts false 0 1 0 0) = some (0, 1, vecMem.hart.stridedAddr 0 0) ∧ vecMem.hart.vtypeOk = true ∧
    vecMem.storable ((vecMem.hart.actors 0).map
      (fun e => (vecMem.hart.stridedAddr 0 0 e, leBytes (vecMem.hart.stBits 1 e).1 vecMem.hart.unitBytes))) :=
  ⟨rfl, by decide, storable_all rfl rfl (by decide +kernel)⟩

/-- A load check that fails with a code. -/
def checkFails (s : State) (a n c : Nat) : Bool := match s.check a n n 1 1 true with
  | .error (.trap t) => t = .mem c 1 a
  | _ => false

theorem check_fails_of {s : State} {a n c : Nat} (h : checkFails s a n c = true) : s.check a n n 1 1 true = .error (.trap (.mem c 1 a)) := by
  unfold checkFails at h
  split at h
  · rename_i t ht
    rw [ht, of_decide_eq_true h]
  · simp at h

/-- `vecMem` with p0 at the last word of the hart's rows. -/
def atEdge : State := { vecMem with hart := { vecMem.hart with p := [(0, ⟨own 0xffffc, 4⟩)] } }

theorem test_VectorLoadFaults : (unitLoadOf atEdge.hart (.vldf false 0 3 0) = some (0, 3, atEdge.hart.plainAddr 0, true) ∧
      unitLoadOf atEdge.hart (.vld false 0 3 0) = some (0, 3, atEdge.hart.plainAddr 0, false)) ∧
    atEdge.hart.vtypeOk = true ∧ atEdge.hart.engine = [] ∧ atEdge.fresh ∧ atEdge.hart.plain ∧ atEdge.hart.acts 0 1 = true ∧
    atEdge.hart.cur.lo = 0 ∧ atEdge.hart.vl ≤ 4096 ∧ atEdge.hart.cur.hi = 4096 ∧
    (∀ k, k < 1 → atEdge.hart.acts 0 k = true →
      atEdge.loads false (atEdge.hart.plainAddr 0 k) atEdge.hart.unitBytes (atEdge.hart.readScratch 0xffffc 4)) ∧
    atEdge.check (atEdge.hart.plainAddr 0 1) atEdge.hart.unitBytes atEdge.hart.unitBytes 1 1 true =
      .error (.trap (.mem 0x0d 1 (atEdge.hart.plainAddr 0 1))) ∧ 0x0d ≤ 0x0d :=
  ⟨⟨rfl, rfl⟩, by decide, rfl, fresh_of_xlat rfl, ⟨by decide, by decide, by decide⟩, by decide +kernel, rfl, by decide, rfl, fun k hk _ => by
    have : k = 0 := by omega
    subst this
    exact loads_own (by decide +kernel), check_fails_of (by decide +kernel), by decide⟩

/-- The hops of R164's own example: nine west, then seven south. -/
theorem test_peer_route : peerRoute 2 13 9 4 = [0x190, 0x270] := by decide

/-- The route block of R170's own example: view port 37, switch port 0x192. -/
theorem test_route_block : routeHops 0x019200250002 = [(0, 0, 37), (0, 0, 0x192)] ∧ routeCode 0x019200250002 = 0 := by decide

theorem test_PeerTransfers_load : let w : Nat → Hart × Nat := fun i => (vecMem.hart, 256 + 4 * i)
    vecMem.hart.vtypeOk = true ∧ vecMem.hart.engine = [] ∧ (vecMem.hart.getP 0).addr.toNat % 256 = 0 ∧
    ∀ i, vecMem.hart.acts 0 (vecMem.hart.elemOf i) = true → vecMem.peerWord (vecMem.hart.getP 0).addr.toNat i = some (w i) ∧
      vecMem.hartOf (w i).1.hid = some (w i).1 ∧ (w i).2 + 4 ≤ 2 ^ 21 ∧ (w i).1.scratchReady (w i).2 4 :=
  ⟨by decide, rfl, by decide +kernel, fun i hi => by
    have : i < 2 := below_of_acts hi
    refine ⟨rfl, rfl, ?_, ?_, ?_⟩
    · simp
      omega
    · obtain rfl | rfl : i = 0 ∨ i = 1 := by omega
      all_goals decide
    · intro p hp
      simp [vecMem, State.vec, hart1, Hart.vacant] at hp⟩
theorem test_PeerTransfers_own : vecMem.hart.vtypeOk = true ∧ vecMem.hart.engine = [] ∧ (vecMem.hart.getP 0).addr.toNat % 256 = 0 ∧
    place (vecMem.hart.getP 0).addr.toNat = .ok (.own 256) ∧
    ∀ i, vecMem.hart.acts 0 (vecMem.hart.elemOf i) = true → 256 + 4 * i + 4 ≤ 2 ^ 21 ∧ vecMem.hart.scratchOk (256 + 4 * i) 4 = true :=
  ⟨by decide, rfl, by decide +kernel, rfl, fun i hi => by
    have : i < 2 := below_of_acts hi
    obtain rfl | rfl : i = 0 ∨ i = 1 := by omega
    all_goals decide⟩

/-- Two harts of a gang, p0 at row 0 of hart 1's scratchpad. -/
def vecGang : State := State.vec { gang with hart := { hart1 with p := [(0, ⟨peer1 0, 4⟩)] } } 0 2

theorem test_PeerTransfers_peer : vecGang.hart.vtypeOk = true ∧ vecGang.hart.engine = [] ∧ (vecGang.hart.getP 0).addr.toNat % 256 = 0 ∧
    place (vecGang.hart.getP 0).addr.toNat = .ok (.peer 1 0) ∧ vecGang.hartOf hart2.hid = some hart2 ∧ hart2.hid ≠ vecGang.hart.hid ∧
    ∀ i, vecGang.hart.acts 0 (vecGang.hart.elemOf i) = true →
      vecGang.peerTarget 1 (((vecGang.hart.getP 0).addr.toNat + 4 * i) % 2 ^ 64) 4 = some hart2 ∧ 0 + 4 * i + 4 ≤ 2 ^ 21 ∧ hart2.scratchOk (0 + 4 * i) 4 = true :=
  ⟨by decide, rfl, by decide +kernel, rfl, rfl, by decide, fun i hi => by
    have : i < 2 := below_of_acts hi
    obtain rfl | rfl : i = 0 ∨ i = 1 := by omega
    all_goals decide +kernel⟩

theorem test_ImageBlocks_spill : vecMem.hart.vtypeOk = true ∧ vecMem.storable (vecMem.hart.spillStores 0 1 (vecMem.hart.getP 0).addr.toNat) :=
  ⟨by decide, storable_all rfl rfl (by decide +kernel)⟩
theorem test_ImageBlocks_reload : vecMem.hart.vtypeOk = true ∧ vecMem.hart.engine = [] ∧ vecMem.fresh ∧
    ∀ i, vecMem.hart.acts 0 (vecMem.hart.elemOf i) = true →
      vecMem.loads false (((vecMem.hart.getP 0).addr.toNat + 4 * i) % 2 ^ 64) 4 (vecMem.hart.readScratch (256 + 4 * i) 4) ∧
      vecMem.loads false (((vecMem.hart.getP 0).addr.toNat + 4 * (vecMem.hart.vl * (if fmtWide vecMem.hart.fmt then 2 else 1)) + i) % 2 ^ 64) 1
        (vecMem.hart.readScratch (264 + i) 1) :=
  ⟨by decide, rfl, fresh_of_xlat rfl, fun i hi => by
    have : i < 2 := below_of_acts hi
    constructor <;> (refine loads_own ?_; obtain rfl | rfl : i = 0 ∨ i = 1 := by omega) <;> decide +kernel⟩

/-- One element of four packed six-bit codes, p0 at offset 256. -/
def packed6 : State := State.vec { bare with hart := { hart1 with p := [(0, ⟨own 256, 1⟩)] } } 0x48 1

theorem test_PackedAndTableLoads_packed : packed6.hart.vtypeOk = true ∧ packed6.hart.fmt = 8 ∧ packed6.hart.engine = [] ∧ packed6.fresh ∧
    ∀ e k, packed6.hart.acts 0 e = true → k < packed6.hart.pack → ∀ b ∈ denseBytes 8 (packed6.hart.getP 0).addr.toNat (e * packed6.hart.pack + k),
      (0 : Nat) < 256 ∧ packed6.loads false (b % 2 ^ 64) 1 0 :=
  ⟨by decide, rfl, rfl, fresh_of_xlat rfl, fun e k he hk b hb => ⟨by decide, by
    have he' : e < 1 := below_of_acts he
    have hk' : k < 4 := hk
    have h0 : e = 0 := by omega
    subst h0
    simp only [denseBytes] at hb
    have hq : k / 4 = 0 := by omega
    have hb' : b = (own 256).toNat ∨ b = (own 256).toNat + 1 ∨ b = (own 256).toNat + 2 := by
      have hp : (packed6.hart.getP 0).addr.toNat = (own 256).toNat := rfl
      simpa [hp, hq] using hb
    obtain rfl | rfl | rfl := hb'
    · exact loads_own (off := 256) (by decide +kernel)
    · exact loads_own (off := 257) (by decide +kernel)
    · exact loads_own (off := 258) (by decide +kernel)⟩⟩

/-- Two elements of packed `n8`, x5 at the start of the hart's own scratchpad. -/
def lookup : State := State.xs bytes4 [(5, own 0)]

theorem test_PackedAndTableLoads_table : lookup.hart.vtypeOk = true ∧ fmtInt lookup.hart.fmt = true ∧ fmtWide lookup.hart.fmt = false ∧
    1 = fmtWidth lookup.hart.fmt / 8 ∧ lookup.hart.engine = [] ∧ place (lookup.hart.getX 5).toNat = .ok (.own 0) ∧ 0 % 1 = 0 ∧
    ∀ e, lookup.hart.acts 0 e = true → ∀ i ∈ lookup.hart.unit 1 e, 0 + (i.enc + 1) * 1 ≤ 2 ^ 21 ∧ lookup.hart.scratchReady (0 + i.enc * 1) 1 :=
  ⟨by decide, by decide, by decide, by decide, rfl, rfl, rfl, fun e he i hi => by
    have he' : e < 2 := below_of_acts he
    have hi' : i = ⟨0, 0⟩ := by
      have hall : ∀ k, k < 2 → (lookup.hart.unit 1 k).all (· = ⟨0, 0⟩) = true := by decide +kernel
      simpa using (List.all_eq_true.mp (hall e he')) i hi
    subst hi'
    exact ⟨by decide, by decide, fun p hp => by simp [lookup, bytes4, State.xs, State.vec, bare, hart1, Hart.vacant] at hp⟩⟩

/-! ### Trees -/

/-- A forest of three elements of `f32`: 0 is a root, 1 links to 0, 2 to itself. -/
def forest : State := State.vec { bare with hart := { hart1 with g := [(9, 0), (17, 2)], m := [(1, BitVec.ofNat 4096 7)] } } 0 3

theorem test_TreeSweeps_gfromv : (7 : Nat) < 8 ∧ forest.hart.vtypeOk = true ∧ forest.hart.pack = 1 ∧ fmtWide forest.hart.fmt = false := by decide
theorem test_TreeSweeps : sweepOf (.tdown true 1 3 1 1 2) = some (2, 1, 3, 1, 1, true) ∧ forest.doubles ∧
    (fmtInt forest.hart.fmt || fmtFloat forest.hart.fmt) = true := ⟨rfl, ⟨by decide, by decide, by decide, by decide, by decide, rfl⟩, by decide⟩

theorem forest_loops : forest.hart.loops 1 2 := by
  have hl : forest.hart.link 1 2 = some 2 := by decide
  have hc : ∀ n, forest.hart.climbs 1 n 2 = some 2 := by
    intro n
    induction n with
    | zero => rfl
    | succ n ih => simp [Hart.climbs, hl, ih]
  intro n
  simp [hc n]

theorem forest_ends : ¬ forest.hart.loops 1 1 := fun h => h 2 (by decide)

theorem test_TreeMeanings_check : forest.doubles ∧ forest.hart.vl ≤ 4096 ∧ forest.hart.loops 1 2 ∧ ¬ forest.hart.loops 1 1 :=
  ⟨⟨by decide, by decide, by decide, by decide, by decide, rfl⟩, by decide, forest_loops, forest_ends⟩
theorem test_TreeMeanings_depth : forest.hart.climbs 1 1 1 ≠ none ∧ forest.hart.climbs 1 2 1 = none := by decide
theorem test_TreeMeanings_nearest : 1 < forest.hart.vl ∧ ¬ forest.hart.loops 1 1 ∧ forest.hart.climbs 1 1 1 = some 0 ∧
    forest.hart.maskBit 2 0 = false ∧ forest.hart.climbs 1 0 1 = some 1 ∧ forest.hart.maskBit 1 1 = true :=
  ⟨by decide, forest_ends, by decide, by decide +kernel, by decide, by decide +kernel⟩
theorem test_TreeMeanings_stops : isDoubling (.tup true 1 3 1 1 0) = true ∧ forest.doubles ∧ forest.hart.vl ≤ 4096 ∧
    (fmtInt forest.hart.fmt || fmtFloat forest.hart.fmt) = true ∧ 0 < 1 ∧ 1 < stepsFor forest.hart.vl :=
  ⟨rfl, ⟨by decide, by decide, by decide, by decide, by decide, rfl⟩, by decide, by decide, by decide, by decide⟩
theorem test_TreeMeanings_contract : (7 : Nat) < 8 ∧ 1 < forest.hart.vl ∧ forest.hart.maskBit 1 1 = true ∧ forest.hart.climbs 1 1 1 = some 0 ∧
    forest.hart.maskBit 1 0 = true ∧ forest.hart.link 1 0 = none ∧ 0 < forest.hart.vl ∧ forest.hart.climbs 1 0 0 = some 0 ∧
    ∀ m q, 1 ≤ m → forest.hart.climbs 1 m 0 = some q → forest.hart.maskBit 1 q = false := by
  refine ⟨by decide, by decide, by decide +kernel, by decide, by decide +kernel, by decide, by decide, rfl, ?_⟩
  intro m q hm hc
  obtain ⟨n, rfl⟩ : ∃ n, m = n + 1 := ⟨m - 1, by omega⟩
  have hl : forest.hart.link 1 0 = none := by decide
  simp [Hart.climbs, hl] at hc

/-! ### Tiles -/

/-- An identifier entry of `f32` elements: two of them at offset 512 of the hart's own scratchpad. -/
def entry1 : BitVec 512 := BitVec.ofNat 512 (ownAddr 512 + 2 ^ 128 * 2 + 2 ^ 256 * 4)

/-- The words of `entry1` at offset 64, x5 pointing at them; at offset 128 an entry with the reserved format 9, x6 pointing at it. -/
def entries : State := State.xs { bare with hart := { hart1 with scratch :=
    [(66, 0xe0), (67, 0xff), (68, 0xff), (69, 0xff), (70, 0xff), (71, 0xff), (65, 0x02), (80, 2), (96, 4), (176, 9)] } } [(5, own 64), (6, own 128)]

/-- Word `k` of an entry at offset `o`. -/
def entryWord (s : State) (o k : Nat) : Nat := s.hart.readScratch (o + 8 * k) 8

theorem words_of {s : State} {a o : Nat} (h : ∀ k, k < 8 → onOwn s ((a + 8 * k) % 2 ^ 64) 8 (o + 8 * k) = true)
    (hb : ∀ k, k < 8 → entryWord s o k < 2 ^ 64) :
    ∀ k, k < 8 → entryWord s o k < 2 ^ 64 ∧ s.loads true ((a + 8 * k) % 2 ^ 64) 8 (entryWord s o k) :=
  fun k hk => ⟨hb k hk, loads_own (h k hk)⟩

theorem test_TileRegisters_taken : entries.hart.engine = [] ∧ (entries.hart.getX 5).toNat % 8 = 0 ∧
    (∀ k, k < 8 → entryWord entries 64 k < 2 ^ 64 ∧ entries.loads true (((entries.hart.getX 5).toNat + 8 * k) % 2 ^ 64) 8 (entryWord entries 64 k)) ∧
    entryRefused (BitVec.ofNat 512 (((List.range 8).map (fun k => entryWord entries 64 k * 2 ^ (64 * k))).sum)) = false :=
  ⟨rfl, by decide +kernel, words_of (by decide +kernel) (by decide +kernel), by decide +kernel⟩
theorem test_TileRegisters_refused : (entries.hart.getX 6).toNat % 8 = 0 ∧
    (∀ k, k < 8 → entryWord entries 128 k < 2 ^ 64 ∧ entries.loads true (((entries.hart.getX 6).toNat + 8 * k) % 2 ^ 64) 8 (entryWord entries 128 k)) ∧
    entryRefused (BitVec.ofNat 512 (((List.range 8).map (fun k => entryWord entries 128 k * 2 ^ (64 * k))).sum)) = true ∧ entries.hart.plain :=
  ⟨by decide +kernel, words_of (by decide +kernel) (by decide +kernel), by decide +kernel, by decide, by decide, by decide⟩
theorem test_TileRegisters_tidget : (entries.hart.getX 5).toNat % 8 = 0 ∧ entries.storable ((List.range 8).map (fun k =>
      (((entries.hart.getX 5).toNat + 8 * k) % 2 ^ 64, leBytes ((entries.hart.getTid 31).toNat / 2 ^ (64 * k)) 8))) :=
  ⟨by decide +kernel, storable_all rfl rfl (by decide +kernel)⟩
theorem test_TileRegisters_wset : (23 < 4 ∨ (16 ≤ 23 ∧ 23 < 24)) ∧ (State.xs bare [(5, 4095), (6, 1)]).hart.engine = [] ∧
    chkWset 23 5 6 (State.xs bare [(5, 4095), (6, 1)]) = none := ⟨by decide, rfl, rfl⟩

/-- A declared feed queue 0 and 1 with 64 slots each, all filled; staging window 16. -/
def queues : State := State.vec { bare with hart := { hart1 with
  fq := [(0, ⟨0, 1, 64, 0⟩), (1, ⟨1, 1, 64, 0⟩)], sw := [(0, ⟨2, 1, 0, 0⟩)], x := [(5, 1)], tid := [(1, (BitVec.ofNat 512 (2 ^ 19 + 10)) <<< 384)] } } 0x22 64

theorem test_EngineIssues_tld : (engineOf queues (.tld true 0 1 5)).isSome = true := by decide +kernel
theorem test_EngineIssues_tst : (engineOf queues (.tst true 0 15 5)).isSome = true ∧ (engineOf queues (.tst true 0 16 5)).isSome = true := by decide +kernel
theorem test_EngineIssues_bcopy : (engineOf queues (.bcopy true 0 7 5 6)).isSome = true ∧ (engineOf queues (.bcopy true 1 16 5 5)).isSome = true ∧
    (engineOf queues (.bcopy true 1 0 5 6)).isSome = true := by decide +kernel
theorem test_EngineIssues_qld : (engineOf queues (.qld true 1 7 5)).isSome = true := by decide +kernel
theorem test_EngineIssues_tdigest : (engineOf queues (.tdigest true 1 6)).isSome = true := by decide +kernel

theorem test_TileCells : 7 < bare.hart.tiles ∧ 7 < 8 ∧ bare.hart.engine = [] ∧ mapWf AccCell.zero bare.hart.acc = true ∧
    (bare.hart.vtypeOk = true ∧ fmtFloat bare.hart.fmt = true) ∧ bare.hart.vl * bare.hart.pack ≤ 4096 := by decide +kernel

theorem own_place {off : Nat} (h : off < 2 ^ 21) : place (ownAddr off) = .ok (.own off) := by
  have h0 : off % 0x200000 = off := Nat.mod_eq_of_lt (by simpa using h)
  have h1 : ownAddr off = 0xffffffffffe00000 + off := by rw [ownAddr, h0]
  have e1 : bits (ownAddr off) 63 56 = 255 := by
    rw [h1]; simp only [bits]; omega
  have e2 : bits (ownAddr off) 28 21 = 255 := by
    rw [h1]; simp only [bits]; omega
  have e3 : bits (ownAddr off) 20 0 = off := by
    rw [h1]; simp only [bits]; omega
  have e4 : inAperture (ownAddr off) = true := by
    rw [h1]; simp only [inAperture, Bool.and_eq_true, decide_eq_true_eq]; omega
  simp [place, canonical, e1, e2, e3, e4]

/-- p0 at the start of the hart's own scratchpad. -/
def tileMem : State := { bare with hart := { hart1 with p := [(0, ⟨own 0, 1⟩)] } }

theorem tile_base : (tileMem.hart.getP 0).addr.toNat = ownAddr 0 := by decide +kernel

theorem tile_words {n i : Nat} (hi : i < 8192) : (ownAddr 0 + 4 * i) % 2 ^ 64 = ownAddr (4 * i) ∧ (ownAddr 0 + 32768 + i) % 2 ^ 64 = ownAddr (32768 + i) ∧
    4 * i < 2 ^ 21 ∧ 32768 + i < 2 ^ 21 ∧ tileMem.hart.scratchOk (4 * i) 4 = true ∧ tileMem.hart.scratchOk (32768 + i) 1 = true ∧ n = n := by
  have hr : tileMem.hart.sprows = 4096 := by decide
  have hq : tileMem.hart.fq = [] := rfl
  refine ⟨?_, ?_, by omega, by omega, ?_, ?_, rfl⟩
  · simp only [ownAddr]; omega
  · simp only [ownAddr]; omega
  · simp [Hart.scratchOk, hr, hq]; omega
  · simp [Hart.scratchOk, hr, hq]; omega

theorem test_TileCells_asave : 7 < tileMem.hart.tiles ∧ (tileMem.hart.getP 0).addr.toNat % tileAlign (tileMem.hart.getP 0).addr.toNat = 0 ∧
    tileMem.storable (tileMem.hart.tileStores 7 (tileMem.hart.getP 0).addr.toNat) := by
  refine ⟨by decide, by decide +kernel, storable_own rfl (fresh_of_xlat rfl) ?_⟩
  rw [tile_base]
  intro w hw
  simp only [Hart.tileStores, List.mem_append, List.mem_map, List.mem_range] at hw
  obtain ⟨i, hi, rfl⟩ | ⟨i, hi, rfl⟩ := hw
  · obtain ⟨h1, _, h3, _, h5, _, _⟩ := tile_words (n := 0) hi
    refine ⟨?_, 4 * i, ?_, h5⟩
    · simp [leBytes, ownAddr]
    · simp only [h1, State.storeTarget, own_place h3]
  · obtain ⟨_, h2, _, h4, _, h6, _⟩ := tile_words (n := 0) hi
    refine ⟨Nat.mod_one _, 32768 + i, ?_, h6⟩
    · simp only [h2, State.storeTarget, own_place h4]

theorem test_TileCells_arestore : 7 < tileMem.hart.tiles ∧ tileMem.hart.engine = [] ∧
    (tileMem.hart.getP 0).addr.toNat % tileAlign (tileMem.hart.getP 0).addr.toNat = 0 ∧ ∀ i, i < 8192 →
    tileMem.loads false (((tileMem.hart.getP 0).addr.toNat + 4 * i) % 2 ^ 64) 4 (tileMem.hart.readScratch (4 * i) 4) ∧
    tileMem.loads false (((tileMem.hart.getP 0).addr.toNat + 32768 + i) % 2 ^ 64) 1 (tileMem.hart.readScratch (32768 + i) 1) := by
  refine ⟨by decide, rfl, by decide +kernel, fun i hi => ?_⟩
  rw [tile_base]
  obtain ⟨h1, h2, h3, h4, h5, h6, _⟩ := tile_words (n := 0) hi
  have hp : tileMem.hart.poison = [] := rfl
  rw [h1, h2]
  exact ⟨⟨by simp only [ownAddr]; omega, .inl ⟨4 * i, own_place h3, ⟨h5, by simp [hp]⟩, rfl⟩⟩,
    ⟨Nat.mod_one _, .inl ⟨32768 + i, own_place h4, ⟨h6, by simp [hp]⟩, rfl⟩⟩⟩

theorem queues_ready (q n : Nat) (hq : q < 4) (hn : (queues.hart.getFq q).used + n ≤ (queues.hart.getFq q).fill) : queues.hart.queued q n :=
  ⟨hq, hn, by simp [Hart.queuePoison, queues, State.vec, hart1, Hart.vacant]⟩

theorem test_OuterProducts : (1 : Nat) ≤ 1 ∧ queues.multiplies 7 (opaQueues 0 1 1 1) ∧
    (∀ q ∈ opaQueues 0 1 1 1, queues.hart.queued q (slotsTaken queues.hart.vl q 0 1 1 1)) ∧ queues.hart.opaPoison 7 0 true true 0 0 = none :=
  ⟨by decide, ⟨by decide, by decide, by decide, rfl⟩, fun q hq => by
    have : q = 0 ∨ q = 1 := by simpa [opaQueues] using hq
    obtain rfl | rfl := this <;> exact queues_ready _ _ (by decide) (by decide), by decide +kernel⟩

/-- Two feed queues of 128 slots, filled, for two steps of a TMM. -/
def steps2 : State := { queues with hart := { queues.hart with fq := [(0, ⟨0, 2, 128, 0⟩), (1, ⟨2, 2, 128, 0⟩)], sw := [], x := [(5, 2)] } }

theorem test_MatrixMultiplies : steps2.multiplies 7 [0, 1] ∧ 0 < 4 ∧ 1 < 4 ∧ steps2.hart.seqstate.getLsbD 63 = false ∧
    steps2.hart.cur.stop = 0 ∧ (steps2.hart.getX 5).toNat < 2 ^ 24 ∧ (∀ k ∈ steps2.hart.poison, k.kind ≠ 2 ∧ k.kind ≠ 3 ∧ k.kind ≠ 5) ∧
    (∀ k, (k = 0 ∨ k = 1) →
      (steps2.hart.getFq k).used + (steps2.hart.getX 5).toNat * slotsTaken steps2.hart.vl k 0 1 1 1 ≤ (steps2.hart.getFq k).fill) ∧
    0 < 1 ∧ 1 < (steps2.hart.getX 5).toNat :=
  ⟨⟨by decide, by decide, by decide, rfl⟩, by decide, by decide, by decide, rfl, by decide, by decide, by
    rintro k (rfl | rfl) <;> decide, by decide, by decide⟩

/-! ### Atomics -/

theorem apart_of_none {s : State} {p : Nat → Prop} (h : ∀ a, ¬ p a) : s.tablesApart p := fun a ha => absurd ha (h a)

theorem peek_of_empty {s : State} (h : s.hart.wcb = []) (a : Nat) : ¬ s.peek a ≠ s.readByte a := by simp [State.peek, h]

theorem paged_byte (a : Nat) : a ∉ [0x10000, 0x10001, 0x10002, 0x11000, 0x11001, 0x11002, 0x12000, 0x12008, 0x1200e] → paged.readByte a = 0 := by
  intro h
  simp only [List.mem_cons, List.not_mem_nil, or_false, not_or] at h
  obtain ⟨h1, h2, h3, h4, h5, h6, h7, h8, h9⟩ := h
  simp [State.readByte, paged, bare, State.reset, tables, mapGet, unlisted, Ne.symm h1, Ne.symm h2, Ne.symm h3, Ne.symm h4, Ne.symm h5, Ne.symm h6, Ne.symm h7,
    Ne.symm h8, Ne.symm h9]

theorem paged_zero (a : Nat) (h : ∀ b, a ≤ b → b < a + 8 → b ∉ [0x10000, 0x10001, 0x10002, 0x11000, 0x11001, 0x11002, 0x12000, 0x12008, 0x1200e]) :
    paged.readPhys a 8 = 0 := by
  have hz : ∀ k, k < 8 → paged.readByte (a + k) = 0 := fun k hk => paged_byte _ (h _ (by omega) (by omega))
  have h0 := hz 0 (by omega)
  simp only [Nat.add_zero] at h0
  simp [State.readPhys, upFrom, h0, hz 1, hz 2, hz 3, hz 4, hz 5, hz 6, hz 7, Nat.add_assoc, leNat]

/-- The entry for address bits `i` of each of the three tables of `paged`. -/
theorem tables_at : (∀ i, i < 512 → paged.readPhys (0x10000 + 8 * i) 8 = if i = 0 then 0x11001 else 0) ∧
    (∀ i, i < 512 → paged.readPhys (0x11000 + 8 * i) 8 = if i = 0 then 0x12001 else 0) ∧
    (∀ i, i < 512 → paged.readPhys (0x12000 + 8 * i) 8 = if i = 0 then 15 else if i = 1 then 0x800000000000f else 0) := by
  refine ⟨fun i hi => ?_, fun i hi => ?_, fun i hi => ?_⟩
  · split
    · rename_i h
      subst h
      decide +kernel
    · exact paged_zero _ (fun b h1 h2 => by simp; omega)
  · split
    · rename_i h
      subst h
      decide +kernel
    · exact paged_zero _ (fun b h1 h2 => by simp; omega)
  · split
    · rename_i h
      subst h
      decide +kernel
    · split
      · rename_i h
        subst h
        decide +kernel
      · exact paged_zero _ (fun b h1 h2 => by simp; omega)

theorem entry_low {l tb va : Nat} : entryAddr l tb va ≤ tb + 8 * 511 := by
  have hb : ∀ x lo, bits x (lo + 8) lo ≤ 511 := by
    intro x lo
    simp only [bits]
    have : lo + 8 + 1 - lo = 9 := by omega
    rw [this]
    omega
  simp only [entryAddr]
  split
  · have : bits va 20 16 ≤ 31 := by simp only [bits]; omega
    omega
  · have := hb va (12 + 9 * l)
    rw [show 20 + 9 * l = 12 + 9 * l + 8 by omega]
    omega

/-- The walk of `paged` reads table entries below 0x20000 only. -/
theorem paged_reads {s : State} (hm : s.mem = paged.mem) (hd : s.dead = []) {va r : Nat}
    (h : r ∈ entryAddr 4 0x10000 va :: walkReads s va 4 (rootEntry s va 0x10000)) : r + 8 ≤ 0x20000 := by
  have hs : ∀ a n, s.readPhys a n = paged.readPhys a n := fun a n => by
    have hq : s.readByte = paged.readByte := by
      funext a
      simp only [State.readByte, hm, hd, show paged.dead = [] from rfl]
    simp only [State.readPhys, hq]
  obtain ⟨t1, t2, t3⟩ := tables_at
  have at_ : ∀ l tb, ∃ i, i < 512 ∧ entryAddr (l + 1) tb va = tb + 8 * i := fun l tb => by
    refine ⟨bits va (20 + 9 * (l + 1)) (12 + 9 * (l + 1)), ?_, by simp [entryAddr]⟩
    simp only [bits]
    have : 20 + 9 * (l + 1) + 1 - (12 + 9 * (l + 1)) = 9 := by omega
    rw [this]
    exact Nat.mod_lt _ (by decide)
  have b4 := @entry_low 4 0x10000 va
  rw [List.mem_cons] at h
  obtain rfl | h := h
  · omega
  obtain ⟨i, hi, e4⟩ := at_ 3 0x10000
  rw [rootEntry, e4, hs, t1 i hi] at h
  split at h
  · have b3 := @entry_low 3 0x11000 va
    obtain ⟨k, hk, e3⟩ := at_ 2 0x11000
    rw [walkReads, if_neg (by decide)] at h
    simp only [show 0x11001 / 2 ^ 8 % 2 ^ 44 * 256 = 0x11000 by decide, List.mem_cons] at h
    obtain rfl | h := h
    · omega
    rw [e3, hs, t2 k hk] at h
    split at h
    · have b2 := @entry_low 2 0x12000 va
      obtain ⟨n, hn, e2⟩ := at_ 1 0x12000
      rw [walkReads, if_neg (by decide)] at h
      simp only [show 0x12001 / 2 ^ 8 % 2 ^ 44 * 256 = 0x12000 by decide, List.mem_cons] at h
      obtain rfl | h := h
      · omega
      rw [e2, hs, t3 n hn] at h
      split at h
      · simp [walkReads] at h
      split at h
      · simp [walkReads] at h
      · simp [walkReads] at h
    · simp [walkReads] at h
  · simp [walkReads] at h

theorem paged_apart {s : State} {p : Nat → Prop} (hm : s.mem = paged.mem) (hd : s.dead = []) (hs : s.slots = paged.slots) (hi : s.hart.slot = 0) (hx : s.xlat = [])
    (h : ∀ a, p a → 0x20000 ≤ a) : s.tablesApart p := by
  rintro a ha ⟨va, r, h1, h2, ⟨j, hj, hr⟩ | ⟨c, hc, _⟩⟩
  · have hj' : j = job1 := by
      simp only [State.jobOf, State.slotOf, hi, hs] at hj
      exact (Option.some.inj hj).symm
    subst hj'
    have := paged_reads hm hd hr
    have := h a ha
    omega
  · rw [hx] at hc
    exact absurd hc (by simp)

/-- x5 at the last doubleword of the hart's rows, x6 at 0x20000. -/
def atomics : State := State.xs paged [(5, own 0xffff8), (6, 0x20000)]

theorem test_ScalarAtomics_own : amoxOf (.amoxMax 7 5 3 3) = some (3, 7, 5, 3, 3) ∧ 8 = (if 3 = 1 then 4 else 8) ∧ atomics.hart.amoxFmt 3 3 = 1 ∧
    chkAmox 3 atomics = none ∧ atomics.hart.engine = [] ∧ mapWf 0 atomics.claims = true ∧
    atomics.atomicAt' (atomics.hart.getX 5).toNat 8 2 (true, 0xffff8) :=
  ⟨rfl, rfl, by decide, rfl, rfl, rfl, atomic_own (by decide +kernel)⟩
theorem test_ScalarAtomics_memory : amoxOf (.amoxAdd 0 6 1 0) = some (0, 0, 6, 1, 0) ∧ chkAmox 0 atomics = none ∧
    atomics.atomicAt' (atomics.hart.getX 6).toNat 4 2 (false, 0x20000) :=
  ⟨rfl, rfl, atomic_phys (leaf := 15) (by decide +kernel)⟩
theorem test_ScalarAtomics_strl : (3 : Nat) ≤ 3 ∧ atomics.storeTarget (atomics.hart.getX 6).toNat = some (false, 0x20000) ∧
    (atomics.hart.getX 6).toNat % 2 ^ 3 = 0 ∧ atomics.raceAt atomics.hart.hid (upFrom 0x20000 (2 ^ 3)) = none :=
  ⟨by decide, rfl, by decide +kernel, rfl⟩

/-- Two elements of `s32`; v2 holds the offsets 8 and 4; p0 is at offset 256 of the hart's own scratchpad, p1 at 0x20000. -/
def vecAtomics : State := { vecMem with hart := { vecMem.hart with vtype := 18 } }

/-- The places of the units of `vecAtomics` over p0 and over p1. -/
def ownUnit (e : Nat) : Bool × Nat := (true, 264 - 4 * e)
/-- The places of the units over p1. -/
def memUnit (e : Nat) : Bool × Nat := (false, 0x20008 - 4 * e)

theorem own_units (perm : Nat) : ∀ e, vecAtomics.hart.acts 0 e = true →
    vecAtomics.atomicAt' (vecAtomics.hart.indexedAddr 0 2 e) vecAtomics.hart.unitBytes perm (ownUnit e) :=
  for_acts fun e he => by
    have : e < 2 := he
    obtain rfl | rfl : e = 0 ∨ e = 1 := by omega
    all_goals exact atomic_own (by decide +kernel)

theorem mem_units : ∀ e, vecAtomics.hart.acts 0 e = true →
    vecAtomics.atomicAt' (vecAtomics.hart.indexedAddr 1 2 e) vecAtomics.hart.unitBytes 2 (memUnit e) ∧
      vecAtomics.atomicAt' (vecAtomics.hart.indexedAddr 1 2 e) vecAtomics.hart.unitBytes 1 (memUnit e) :=
  for_acts fun e he => by
    have : e < 2 := he
    obtain rfl | rfl : e = 0 ∨ e = 1 := by omega
    all_goals exact ⟨atomic_phys (leaf := 15) (by decide +kernel), atomic_phys (leaf := 15) (by decide +kernel)⟩

theorem units_apart : vecAtomics.tablesApart (fun a => vecAtomics.peek a ≠ vecAtomics.readByte a ∨
    ∃ e, vecAtomics.hart.acts 0 e = true ∧ (memUnit e).1 = false ∧ (memUnit e).2 ≤ a ∧ a < (memUnit e).2 + vecAtomics.hart.unitBytes) :=
  paged_apart rfl rfl rfl rfl rfl (fun a ha => by
    obtain hp | ⟨e, he, _, h1, _⟩ := ha
    · exact absurd hp (peek_of_empty rfl a)
    · have : e < 2 := below_of_acts he
      simp only [memUnit] at h1
      omega)

theorem test_VectorAtomics_vamo : vamoOf (.vamoAdd true 0 3 2 3 1) = some (0, true, 0, 3, 2, 3, 1) ∧ vecAtomics.hart.vtypeOk = true ∧
    vecAtomics.hart.pack = 1 ∧ atomicFmt 0 vecAtomics.hart.fmt = true ∧ (0 = 1 → vecAtomics.strict = false) ∧ vecAtomics.hart.engine = [] ∧
    vecAtomics.fresh ∧ mapWf 0 vecAtomics.claims = true ∧ vecAtomics.sided true ((vecAtomics.hart.actors 0).map (vecAtomics.hart.indexedAddr 1 2)) ∧
    (∀ e, vecAtomics.hart.acts 0 e = true →
      vecAtomics.atomicAt' (vecAtomics.hart.indexedAddr 1 2 e) vecAtomics.hart.unitBytes 2 (memUnit e)) ∧
    vecAtomics.tablesApart (fun a => vecAtomics.peek a ≠ vecAtomics.readByte a ∨
    ∃ e, vecAtomics.hart.acts 0 e = true ∧ (memUnit e).1 = false ∧ (memUnit e).2 ≤ a ∧ a < (memUnit e).2 + vecAtomics.hart.unitBytes) :=
  ⟨rfl, by decide, by decide, by decide, by decide, rfl, fresh_of_xlat rfl, rfl, ⟨by decide +kernel, fun _ => ⟨rfl, by decide⟩⟩,
    fun e he => (mem_units e he).1, units_apart⟩
theorem test_VectorAtomics_fas : (vecAtomics.hart.fmt = 18 ∨ vecAtomics.hart.fmt = 19 ∨ vecAtomics.hart.fmt = 22 ∨ vecAtomics.hart.fmt = 23) ∧
    ((vecAtomics.hart.getP 0).addr.toNat < 0xffffffffe0000000 → false = true ∧ vecAtomics.hart.cur.size ≤ 1) ∧
    vecAtomics.atomicAt' (vecAtomics.hart.getP 0).addr.toNat vecAtomics.hart.unitBytes 2 (true, 256) ∧
    (List.range vecAtomics.hart.vl).filter (vecAtomics.hart.maskBit 0) ≠ [] :=
  ⟨by decide, by decide +kernel, atomic_own (by decide +kernel), by decide +kernel⟩

theorem test_LinkedAndOrderedAtomics_vgl : vecAtomics.hart.engine = [] ∧ vecAtomics.fresh ∧ mapWf 0 vecAtomics.claims = true ∧ vecAtomics.hart.cur.lo = 0 ∧
    vecAtomics.sided true ((vecAtomics.hart.actors 0).map (vecAtomics.hart.indexedAddr 1 2)) ∧
    (∀ e, vecAtomics.hart.acts 0 e = true →
      vecAtomics.atomicAt' (vecAtomics.hart.indexedAddr 1 2 e) vecAtomics.hart.unitBytes 1 (memUnit e)) ∧
    vecAtomics.tablesApart (fun a => vecAtomics.peek a ≠ vecAtomics.readByte a) ∧ vecAtomics.links.length + vecAtomics.hart.vl < Config.sliceEntries :=
  ⟨rfl, fresh_of_xlat rfl, rfl, rfl, ⟨by decide +kernel, fun _ => ⟨rfl, by decide⟩⟩, fun e he => (mem_units e he).2,
    apart_of_none (peek_of_empty rfl), by decide⟩
theorem test_LinkedAndOrderedAtomics_vsc : vecAtomics.hart.wcbAge = [] ∧ vecAtomics.hart.wcb = [] ∧ vecAtomics.hart.cur.lo = 0 ∧
    vecAtomics.hart.vl ≤ vecAtomics.hart.cur.hi ∧
    vecAtomics.sided false ((vecAtomics.hart.actors 0).map (vecAtomics.hart.indexedAddr 0 2)) ∧
    (∀ e, vecAtomics.hart.acts 0 e = true →
      vecAtomics.atomicAt' (vecAtomics.hart.indexedAddr 0 2 e) vecAtomics.hart.unitBytes 2 (ownUnit e)) ∧
    vecAtomics.tablesApart (fun a => ∃ e, vecAtomics.hart.acts 0 e = true ∧ (ownUnit e).1 = false ∧ (ownUnit e).2 ≤ a ∧
      a < (ownUnit e).2 + vecAtomics.hart.unitBytes) :=
  ⟨rfl, rfl, rfl, by decide, ⟨by decide +kernel, by decide +kernel⟩, own_units 2, apart_of_none (fun a ha => by
    obtain ⟨e, _, h, _⟩ := ha
    simp [ownUnit] at h)⟩

/-- `vecAtomics` in a gang launch. -/
def gangAtomics : State := { vecAtomics with slots := gang.slots, others := gang.others }

theorem test_LinkedAndOrderedAtomics_ordered : vamooOf (.vamooSwap 0 3 2 1) = some (7, 0, 3, 2, 1) ∧ gangAtomics.hart.vtypeOk = true ∧
    gangAtomics.hart.pack = 1 ∧ atomicFmt 7 gangAtomics.hart.fmt = true ∧ gangAtomics.inGang gangAtomics.hart = true ∧
    gangAtomics.hart.pending.length + (gangAtomics.hart.actors 0).length ≤ 4096 ∧ gangAtomics.fresh ∧
    ∀ e, gangAtomics.hart.acts 0 e = true → gangAtomics.hart.indexedAddr 1 2 e % gangAtomics.hart.unitBytes = 0 ∧
      place (gangAtomics.hart.indexedAddr 1 2 e) = .ok (.virt (gangAtomics.hart.indexedAddr 1 2 e)) ∧
      ∃ leaf, gangAtomics.translate gangAtomics.hart.slot (gangAtomics.hart.indexedAddr 1 2 e) 2 = .ok (0x20008 - 4 * e, leaf) :=
  ⟨rfl, by decide, by decide, by decide, by decide +kernel, by decide +kernel, fresh_of_xlat rfl, for_acts fun e he => by
    have : e < 2 := he
    obtain rfl | rfl : e = 0 ∨ e = 1 := by omega
    all_goals exact ⟨by decide +kernel, rfl, 15, translates_of (by decide +kernel)⟩⟩

theorem test_Fences : bare.hart.engine = [] ∧ mapWf 0 bare.claims = true ∧ gang.inGang gang.hart = true ∧ 2 ≤ 3 ∧
    gang.launchAt gang.hart.slot gang.hart.launchid = some gangLaunch ∧ gang.hart.slot < gang.slots.length ∧ gang.hart.inSegment = false ∧
    ((State.xs gang [(5, 15)]).hart.getX 5).toNat ≤ 15 := ⟨rfl, rfl, by decide, by decide, rfl, by decide, rfl, by decide⟩
/-- A gang's hart at BAR whose engine copies off-core. -/
theorem test_Fences_bar : let o : EngineOp := ⟨.bcopy, 0, 0, 0x20000, 64, 0x30000, 0, 0, 0, false, false, 0, 0, none, []⟩
    let s : State := { gang with hart := { hart1 with x := [(5, 15)], engine := [o] } }
    s.inGang s.hart = true ∧ s.hart.inSegment = false ∧ (s.hart.getX 5).toNat ≤ 15 ∧ (∀ o ∈ s.hart.engine, s.hart.atScratch o = false) ∧
      s.launchAt s.hart.slot s.hart.launchid = some gangLaunch ∧ s.hart.slot < s.slots.length :=
  ⟨by decide, rfl, by decide, by decide +kernel, rfl, by decide⟩

/-- A handler's hart whose engine holds an operation with a deferred fault. -/
def faulted : State := { bare with hart := { hart1 with
  tstatus := 0x40, engine := [⟨.bcopy, 0, 0, 0, 4, 0, 0, 0, 0, false, false, 0, 0, some (0x211, 0), []⟩] } }

theorem test_Fences_fencel : faulted.hart.intrap = true ∧ ∃ o r, faulted.hart.engine = o :: r ∧ o.fault.isSome = true := ⟨by decide, _, _, rfl, rfl⟩

/-! ### Well-formedness: an ill-formed term for each check -/

theorem test_wf_registers : Instr.wf (.add 32 0 0) = false ∧ Instr.wf (.vadd true 8 0 0 0) = false ∧ Instr.wf (.vld true 0 0 8) = false ∧
    Instr.wf (.vgl true 0 0 0 0 4) = false ∧ Instr.wf (.tidset true 256 0) = false ∧ Instr.wf (.tmm true 0 0 4 0) = false ∧
    Instr.wf (.aclr true 8) = false := by decide
theorem test_wf_immediates : Instr.wf (.lui 0 1048576) = false ∧ Instr.wf (.addi 0 0 2048) = false ∧ Instr.wf (.addi 0 0 (-2048)) = true ∧
    Instr.wf (.jal 0 1048576) = false ∧ Instr.wf (.jal 0 3) = false ∧ Instr.wf (.beq 0 0 4096) = false ∧ Instr.wf (.bne 0 0 1) = false ∧
    Instr.wf (.vloop 0 0 512) = false ∧ Instr.wf (.vbany 0 16384) = false ∧ Instr.wf (.vaddVi true 0 0 0 16) = false ∧
    Instr.wf (.vsllVi true 0 0 0 32) = false ∧ Instr.wf (.fld 0 0 0 16) = false ∧ Instr.wf (.csrrwi 0 0x800 32) = false := by decide
theorem test_wf_shifts : Instr.wf (.slli 0 0 64) = false ∧ Instr.wf (.slliw 0 0 32) = false := by decide
theorem test_wf_csr : Instr.wf (.csrrw 0 0x810 0) = false ∧ Instr.wf (.csrrs 0 0x848 0) = false ∧ Instr.wf (.csrrc 0 0x83f 0) = false := by decide
theorem test_wf_configuration : Instr.wf (.strip 0 0x1f) = false ∧ Instr.wf (.pset 0 0 5) = false ∧ Instr.wf (.vsett 0 0 1 0 0 0 0 18) = false ∧
    Instr.wf (.vloop 4 0 0) = false := by decide
theorem test_wf_codes : Instr.wf (.vldt true 0 0 0 9) = false ∧ Instr.wf (.vfcvt true 0 0 0 9) = false ∧ Instr.wf (.fcvt 0 0 0 6) = false ∧
    Instr.wf (.vfrnd true 0 0 0 6) = false ∧ Instr.wf (.frnd 0 0 0 8) = false ∧ Instr.wf (.fadd 6 0 0 0) = false ∧ Instr.wf (.laget true 0 6) = false ∧
    Instr.wf (.tup true 0 0 0 0 3) = false ∧ Instr.wf (.vred true 0 0 0 4) = false ∧ Instr.wf (.vicmp true 0 0 0 0 4) = false ∧
    Instr.wf (.vrng true 0 0 0 4) = false ∧ Instr.wf (.smx true 0 0 0 30) = false := by decide
theorem test_wf_masks : Instr.wf (.vcomp true 0 0 0) = false ∧ Instr.wf (.vexpd true 0 0 0) = false ∧ Instr.wf (.vsc true 0 0 0 0 0) = false ∧
    Instr.wf (.mset true 0 2) = false := by decide
theorem test_wf_tiles : Instr.wf (.wset true 4 0 0) = false ∧ Instr.wf (.tld true 0 8 0) = false ∧ Instr.wf (.tst true 0 0 0) = false ∧
    Instr.wf (.bcopy true 1 24 0 0) = false ∧ Instr.wf (.opa true 0 0 4 0 0 1) = false ∧ Instr.wf (.opa true 0 0 0 4 1 0) = false := by decide
theorem test_wf_sync : Instr.wf (.vgl true 0 0 0 4 0) = false ∧ Instr.wf (.fas true 0 0 0 4 0) = false ∧ Instr.wf (.amoxAdd 0 0 0 4) = false ∧
    Instr.wf (.amoxFadd 0 0 0 0) = false ∧ Instr.wf (.ldaq 0 0 0 7) = false ∧ Instr.wf (.strl 0 0 4 0) = false ∧ Instr.wf (.fencev 7) = false ∧
    Instr.wf (.fencevColl 8) = false ∧ Instr.wf (.cancel 0 4) = false ∧ Instr.wf (.fence 0 0 16 0 0) = false := by decide
theorem test_wf_events : Instr.wf (.blockReady 16 0) = false ∧ Instr.wf (.blockReady 8 5) = false ∧ Instr.wf (.jstart 6 none) = false ∧
    Instr.wf (.hostRead 1 0 8 0) = false ∧ Instr.wf (.laneCountChange 0 0 48) = false ∧ Instr.wf (.clockStretch 0 33) = false := by decide

/-! ### Steps -/

/-- `paged` with the word 0x00100093 (ADDI x1, x0, 1) at 0x20000, where the pc stands. -/
def atWord : State := { paged with
  mem := tables ++ [(0x20000, 0x93), (0x20002, 0x10)], hart := { hart1 with pc := 0x20000 } }

theorem issues_of {s : State} (ha : s.agenda = []) (ht : s.inTurn = true) (hm : s.hart.midConvoy = false) (he : s.hart.engine = [])
    (hh : s.harts.all (fun h => h.held.isEmpty && !h.cancelled && !h.preemptDue && h.status ≠ .halting) = true)
    (hu : s.hart.time = none) (hi : s.hart.ie = false) : s.issues := by
  simp only [List.all_eq_true, Bool.and_eq_true, List.isEmpty_iff, Bool.not_eq_true'] at hh
  refine ⟨ha, ht, fun h hm => (hh h hm).1.1.1, fun h hm hd => ?_, hm, hu, .inr (by simp [he]), .inl hi⟩
  have k := hh h hm
  rcases hd with hd | hd | hd
  · simp [hd] at k
  · simp [hd] at k
  · simp [hd] at k

/-- The word that the hart fetches. -/
def fetches (s : State) (w : Nat) : Bool := match s.fetchWord s.hart.pc.toNat with
  | .ok v => v = w
  | .error _ => false

theorem fetch_of {s : State} {w : Nat} (h : fetches s w = true) : s.fetchWord s.hart.pc.toNat = .ok w := by
  unfold fetches at h
  split at h
  · rename_i v hv
    rw [hv, of_decide_eq_true h]
  · simp at h

theorem test_StepRuns_agenda : ({ bare with agenda := [.dclr, .blockReady 0 0] } : State).agenda = .dclr :: [.blockReady 0 0] := rfl
theorem test_StepRuns_scalar : atWord.issues ∧ atWord.fetchWord atWord.hart.pc.toNat = .ok 0x00100093 ∧
    decodeWord 0x00100093 = .ok (.addi 1 0 1) ∧ isVector 0x00100093 = false :=
  ⟨issues_of rfl (by decide +kernel) rfl rfl (by decide +kernel) rfl rfl, fetch_of (by decide +kernel), rfl, rfl⟩

/-- `atWord` with the word 0x00000007 (LOAD-FP, which is no instruction) at the pc. -/
def atNoWord : State := { atWord with mem := tables ++ [(0x20000, 0x07)] }
/-- `atWord` with the word of LACLR, C bit 1, at the pc, and the same word after it. -/
def atVector : State := { atWord with mem := tables ++
  [(0x20000, 0x2b), (0x20001, 0x70), (0x20003, 0xb0), (0x20004, 0x2b), (0x20005, 0x70), (0x20007, 0xb0)] }

/-- The word at `va`. -/
def fetchesAt (s : State) (va w : Nat) : Bool := match s.fetchWord va with
  | .ok v => v = w
  | .error _ => false

theorem fetch_at {s : State} {va w : Nat} (h : fetchesAt s va w = true) : s.fetchWord va = .ok w := by
  unfold fetchesAt at h
  split at h
  · rename_i v hv
    rw [hv, of_decide_eq_true h]
  · simp at h

theorem test_StepRuns_vector : atVector.issues ∧ atVector.fetchWord atVector.hart.pc.toNat = .ok 0xb000702b ∧
    decodeWord 0xb000702b = .ok (.laclr true) ∧ isVector 0xb000702b = true ∧ continuing 0xb000702b = false ∧
    atVector.fetchWord ((atVector.hart.pc.toNat + 4) % 2 ^ 64) = .ok 0xb000702b ∧ continuing 0xb000702b = false ∧ atVector.hart.poison = [] :=
  ⟨issues_of rfl (by decide +kernel) rfl rfl (by decide +kernel) rfl rfl, fetch_of (by decide +kernel), rfl, rfl, rfl, fetch_at (by decide +kernel), rfl, rfl⟩
theorem test_StepRuns_illegal : atNoWord.issues ∧ atNoWord.fetchWord atNoWord.hart.pc.toNat = .ok 0x00000007 ∧
    (∀ i, decodeWord 0x00000007 ≠ .ok i) ∧ isVector 0x00000007 = false :=
  ⟨issues_of rfl (by decide +kernel) rfl rfl (by decide +kernel) rfl rfl, fetch_of (by decide +kernel), fun i => by simp [show decodeWord 0x00000007 = .error _ from rfl], rfl⟩
/-- A pc that is no multiple of 4. -/
def atOdd : State := { atWord with hart := { hart1 with pc := 2 } }

theorem test_StepRuns_fault : atOdd.issues ∧ atOdd.fetchWord atOdd.hart.pc.toNat = .error (.trap (.mem 0x02 4 2)) ∧ (Trap.mem 0x02 4 2).code = 0x02 :=
  ⟨issues_of rfl (by decide +kernel) rfl rfl (by decide +kernel) rfl rfl, rfl, rfl⟩
theorem test_StepRuns_stops : (atVector.singly 2 0xb000702b (.laclr true)).hart.stopCount (.laclr true) = 0 ∧
    ({ hart1 with vl := 65 } : Hart).stopCount (.vldx false 0 3 0 2) = 1 := ⟨rfl, by decide⟩
theorem test_DecodeOfEncode : Instr.wf (.lui 31 1048575) = true ∧ encode (.lui 31 1048575) = some 0xffffffb7 := by decide
theorem test_EncodeOfDecode : (0xffffffb7 : Nat) < 2 ^ 32 ∧ decodeWord 0xffffffb7 = .ok (.lui 31 1048575) := ⟨by decide, rfl⟩
theorem test_StartingValues : launch1.block.args < 2 ^ 64 := by decide
theorem test_StepKeepsInvariant : State.Inv { bare with agenda := [.dclr] } ∧ step { bare with agenda := [.dclr] } = .next bare :=
  ⟨⟨by decide, by decide, by decide, by decide⟩, rfl⟩
/-- A word that is placed for the first step is the word that the step performs. -/
theorem test_withFetchWord : (match step (State.withFetchWord State.reset 32 0x00500093) with
    | .next t => t.hart.getX 1
    | _ => 0) = 5 := by decide +kernel

/-! ### Decoding: for each row with an encoding, a word written out field by field from the encoding tables of spec/10_encoding.md -/

theorem test_decode_lui :
    decodeWord 0b10011010101111001101_10101_0110111 = .ok (.lui 21 633805) ∧
    decodeWord 0b10011010101111001101_10101_0010111 = .ok (.auipc 21 633805) ∧
    decodeWord 0b11001101111110101011_10101_1101111 = .ok (.jal 21 (-344866)) ∧
    decodeWord 0b110101001101_01100_000_10101_1100111 = .ok (.jalr 21 12 (-691)) ∧
    decodeWord 0b1010100_11011_01100_000_10111_1100011 = .ok (.beq 12 27 (-1386)) ∧
    decodeWord 0b1010100_11011_01100_001_10111_1100011 = .ok (.bne 12 27 (-1386)) ∧
    decodeWord 0b1010100_11011_01100_100_10111_1100011 = .ok (.blt 12 27 (-1386)) ∧
    decodeWord 0b1010100_11011_01100_101_10111_1100011 = .ok (.bge 12 27 (-1386)) ∧
    decodeWord 0b1010100_11011_01100_110_10111_1100011 = .ok (.bltu 12 27 (-1386)) ∧
    decodeWord 0b1010100_11011_01100_111_10111_1100011 = .ok (.bgeu 12 27 (-1386)) ∧
    decodeWord 0b110101001101_01100_000_10101_0000011 = .ok (.lb 21 12 (-691)) ∧
    decodeWord 0b110101001101_01100_001_10101_0000011 = .ok (.lh 21 12 (-691)) :=
  ⟨rfl, rfl, rfl, rfl, rfl, rfl, rfl, rfl, rfl, rfl, rfl, rfl⟩

theorem test_decode_lw :
    decodeWord 0b110101001101_01100_010_10101_0000011 = .ok (.lw 21 12 (-691)) ∧
    decodeWord 0b110101001101_01100_011_10101_0000011 = .ok (.ld 21 12 (-691)) ∧
    decodeWord 0b110101001101_01100_100_10101_0000011 = .ok (.lbu 21 12 (-691)) ∧
    decodeWord 0b110101001101_01100_101_10101_0000011 = .ok (.lhu 21 12 (-691)) ∧
    decodeWord 0b110101001101_01100_110_10101_0000011 = .ok (.lwu 21 12 (-691)) ∧
    decodeWord 0b1101010_11011_01100_000_01101_0100011 = .ok (.sb 12 27 (-691)) ∧
    decodeWord 0b1101010_11011_01100_001_01101_0100011 = .ok (.sh 12 27 (-691)) ∧
    decodeWord 0b1101010_11011_01100_010_01101_0100011 = .ok (.sw 12 27 (-691)) ∧
    decodeWord 0b1101010_11011_01100_011_01101_0100011 = .ok (.sd 12 27 (-691)) ∧
    decodeWord 0b110101001101_01100_000_10101_0010011 = .ok (.addi 21 12 (-691)) ∧
    decodeWord 0b110101001101_01100_010_10101_0010011 = .ok (.slti 21 12 (-691)) ∧
    decodeWord 0b110101001101_01100_011_10101_0010011 = .ok (.sltiu 21 12 (-691)) :=
  ⟨rfl, rfl, rfl, rfl, rfl, rfl, rfl, rfl, rfl, rfl, rfl, rfl⟩

theorem test_decode_xori :
    decodeWord 0b110101001101_01100_100_10101_0010011 = .ok (.xori 21 12 (-691)) ∧
    decodeWord 0b110101001101_01100_110_10101_0010011 = .ok (.ori 21 12 (-691)) ∧
    decodeWord 0b110101001101_01100_111_10101_0010011 = .ok (.andi 21 12 (-691)) ∧
    decodeWord 0b000000_100101_01100_001_10101_0010011 = .ok (.slli 21 12 37) ∧
    decodeWord 0b000000_100101_01100_101_10101_0010011 = .ok (.srli 21 12 37) ∧
    decodeWord 0b010000_100101_01100_101_10101_0010011 = .ok (.srai 21 12 37) ∧
    decodeWord 0b0000000_11011_01100_000_10101_0110011 = .ok (.add 21 12 27) ∧
    decodeWord 0b0100000_11011_01100_000_10101_0110011 = .ok (.sub 21 12 27) ∧
    decodeWord 0b0000000_11011_01100_001_10101_0110011 = .ok (.sll 21 12 27) ∧
    decodeWord 0b0000000_11011_01100_010_10101_0110011 = .ok (.slt 21 12 27) ∧
    decodeWord 0b0000000_11011_01100_011_10101_0110011 = .ok (.sltu 21 12 27) ∧
    decodeWord 0b0000000_11011_01100_100_10101_0110011 = .ok (.xor 21 12 27) :=
  ⟨rfl, rfl, rfl, rfl, rfl, rfl, rfl, rfl, rfl, rfl, rfl, rfl⟩

theorem test_decode_srl :
    decodeWord 0b0000000_11011_01100_101_10101_0110011 = .ok (.srl 21 12 27) ∧
    decodeWord 0b0100000_11011_01100_101_10101_0110011 = .ok (.sra 21 12 27) ∧
    decodeWord 0b0000000_11011_01100_110_10101_0110011 = .ok (.or 21 12 27) ∧
    decodeWord 0b0000000_11011_01100_111_10101_0110011 = .ok (.and 21 12 27) ∧
    decodeWord 0b0000001_11011_01100_000_10101_0110011 = .ok (.mul 21 12 27) ∧
    decodeWord 0b0000001_11011_01100_001_10101_0110011 = .ok (.mulh 21 12 27) ∧
    decodeWord 0b0000001_11011_01100_010_10101_0110011 = .ok (.mulhsu 21 12 27) ∧
    decodeWord 0b0000001_11011_01100_011_10101_0110011 = .ok (.mulhu 21 12 27) ∧
    decodeWord 0b0000001_11011_01100_100_10101_0110011 = .ok (.div 21 12 27) ∧
    decodeWord 0b0000001_11011_01100_101_10101_0110011 = .ok (.divu 21 12 27) ∧
    decodeWord 0b0000001_11011_01100_110_10101_0110011 = .ok (.rem 21 12 27) ∧
    decodeWord 0b0000001_11011_01100_111_10101_0110011 = .ok (.remu 21 12 27) :=
  ⟨rfl, rfl, rfl, rfl, rfl, rfl, rfl, rfl, rfl, rfl, rfl, rfl⟩

theorem test_decode_addiw :
    decodeWord 0b110101001101_01100_000_10101_0011011 = .ok (.addiw 21 12 (-691)) ∧
    decodeWord 0b0000000_10011_01100_001_10101_0011011 = .ok (.slliw 21 12 19) ∧
    decodeWord 0b0000000_10011_01100_101_10101_0011011 = .ok (.srliw 21 12 19) ∧
    decodeWord 0b0100000_10011_01100_101_10101_0011011 = .ok (.sraiw 21 12 19) ∧
    decodeWord 0b0000000_11011_01100_000_10101_0111011 = .ok (.addw 21 12 27) ∧
    decodeWord 0b0100000_11011_01100_000_10101_0111011 = .ok (.subw 21 12 27) ∧
    decodeWord 0b0000000_11011_01100_001_10101_0111011 = .ok (.sllw 21 12 27) ∧
    decodeWord 0b0000000_11011_01100_101_10101_0111011 = .ok (.srlw 21 12 27) ∧
    decodeWord 0b0100000_11011_01100_101_10101_0111011 = .ok (.sraw 21 12 27) ∧
    decodeWord 0b0000001_11011_01100_000_10101_0111011 = .ok (.mulw 21 12 27) ∧
    decodeWord 0b0000001_11011_01100_100_10101_0111011 = .ok (.divw 21 12 27) ∧
    decodeWord 0b0000001_11011_01100_101_10101_0111011 = .ok (.divuw 21 12 27) :=
  ⟨rfl, rfl, rfl, rfl, rfl, rfl, rfl, rfl, rfl, rfl, rfl, rfl⟩

theorem test_decode_remw :
    decodeWord 0b0000001_11011_01100_110_10101_0111011 = .ok (.remw 21 12 27) ∧
    decodeWord 0b0000001_11011_01100_111_10101_0111011 = .ok (.remuw 21 12 27) ∧
    decodeWord 0b0101_1100_0011_01100_000_10101_0001111 = .ok (.fence 21 12 5 12 3) ∧
    decodeWord 0b00000000000000000000000001110011 = .ok (.ecall) ∧
    decodeWord 0b00000000000100000000000001110011 = .ok (.ebreak) ∧
    decodeWord 0b100001000011_01100_001_10101_1110011 = .ok (.csrrw 21 2115 12) ∧
    decodeWord 0b100001000011_01100_010_10101_1110011 = .ok (.csrrs 21 2115 12) ∧
    decodeWord 0b100001000011_01100_011_10101_1110011 = .ok (.csrrc 21 2115 12) ∧
    decodeWord 0b100001000011_10011_101_10101_1110011 = .ok (.csrrwi 21 2115 19) ∧
    decodeWord 0b100001000011_10011_110_10101_1110011 = .ok (.csrrsi 21 2115 19) ∧
    decodeWord 0b100001000011_10011_111_10101_1110011 = .ok (.csrrci 21 2115 19) ∧
    decodeWord 0b0001_10100101_00000000_10101_0001011 = .ok (.strip 21 165) :=
  ⟨rfl, rfl, rfl, rfl, rfl, rfl, rfl, rfl, rfl, rfl, rfl, rfl⟩

theorem test_decode_vsetc :
    decodeWord 0b000100000000_01100_001000000001011 = .ok (.vsetc 12) ∧
    decodeWord 0b000100000_100_01100_01000_110_0001011 = .ok (.pset 6 12 4) ∧
    decodeWord 0b00010000000000_011_011_10101_0001011 = .ok (.pget 21 3) ∧
    decodeWord 0b00010_10_10101_01100_100_10101_0001011 = .ok (.vloop 2 12 (-331)) ∧
    decodeWord 0b0001_101_10101_00001_101_11011_0001011 = .ok (.vbany 5 (-11205)) ∧
    decodeWord 0b0001_101_10101_00001_110_11011_0001011 = .ok (.vbnone 5 (-11205)) ∧
    decodeWord 0b11_0_1_100_1_1101_1_1010_101_10011_0001011 = .ok (.vsett 1 10 0 4 1 13 5 19) ∧
    decodeWord 0b001_1_101_0000000_011_000_10101_0001011 = .ok (.vld true 5 21 3) ∧
    decodeWord 0b001_1_101_11011_00_011_001_10101_0001011 = .ok (.vlds true 5 21 3 27) ∧
    decodeWord 0b001_1_101_11011_00_011_010_10101_0001011 = .ok (.vldx true 5 21 3 27) ∧
    decodeWord 0b001_1_101_0000000_011_011_10101_0001011 = .ok (.vldf true 5 21 3) ∧
    decodeWord 0b001_1_101_11011_00_011_100_10101_0001011 = .ok (.vldxf true 5 21 3 27) :=
  ⟨rfl, rfl, rfl, rfl, rfl, rfl, rfl, rfl, rfl, rfl, rfl, rfl⟩

theorem test_decode_vst :
    decodeWord 0b001_1_101_0000000_011_101_10101_0001011 = .ok (.vst true 5 21 3) ∧
    decodeWord 0b001_1_101_11011_00_011_110_10101_0001011 = .ok (.vsts true 5 21 3 27) ∧
    decodeWord 0b001_1_101_11011_00_011_111_10101_0001011 = .ok (.vstx true 5 21 3 27) ∧
    decodeWord 0b010_1_101_0000000_011_000_10101_0001011 = .ok (.vldp true 5 21 3) ∧
    decodeWord 0b010_1_101_0000000_011_001_10101_0001011 = .ok (.vstp true 5 21 3) ∧
    decodeWord 0b010_1_101_0000000_011_010_10101_0001011 = .ok (.vspill true 5 21 3) ∧
    decodeWord 0b010_1_101_0000000_011_011_10101_0001011 = .ok (.vreload true 5 21 3) ∧
    decodeWord 0b010_1_10110111_01100_10000_110_0001011 = .ok (.qld true 183 6 12) ∧
    decodeWord 0b010_1_101_01100_00_011_101_10101_0001011 = .ok (.vldt true 5 21 3 12) ∧
    decodeWord 0b011_1_101_00000_01100_000_10101_0001011 = .ok (.vmv true 5 21 12) ∧
    decodeWord 0b011_1_101_00000_01100_001_10101_0001011 = .ok (.vmvx true 5 21 12) ∧
    decodeWord 0b011_1_000_11011_01100_010_10101_0001011 = .ok (.vmvs true 21 12 27) :=
  ⟨rfl, rfl, rfl, rfl, rfl, rfl, rfl, rfl, rfl, rfl, rfl, rfl⟩

theorem test_decode_vslideu :
    decodeWord 0b011_1_101_11011_01100_011_10101_0001011 = .ok (.vslideu true 5 21 12 27) ∧
    decodeWord 0b011_1_101_11011_01100_100_10101_0001011 = .ok (.vslided true 5 21 12 27) ∧
    decodeWord 0b011_1_101_11011_01100_101_10101_0001011 = .ok (.vgath true 5 21 12 27) ∧
    decodeWord 0b011_1_101_00000_01100_110_10101_0001011 = .ok (.vcomp true 5 21 12) ∧
    decodeWord 0b011_1_101_00000_01100_111_10101_0001011 = .ok (.vexpd true 5 21 12) ∧
    decodeWord 0b100_1_101_11011_01100_000_10101_0001011 = .ok (.vsel true 5 21 12 27) ∧
    decodeWord 0b100_1_101_11011_01100_001_10101_0001011 = .ok (.vpack true 5 21 12 27) ∧
    decodeWord 0b100_1_101_00_110_01100_010_10101_0001011 = .ok (.vunpk true 5 21 12 6) ∧
    decodeWord 0b100_1_101_0000000_011_011_10101_0001011 = .ok (.viota true 5 21 3) ∧
    decodeWord 0b101_1_00000_001_00_011_00000_110_0001011 = .ok (.mand true 6 3 1) ∧
    decodeWord 0b101_1_00000_001_00_011_00100_110_0001011 = .ok (.mor true 6 3 1) ∧
    decodeWord 0b101_1_00000_001_00_011_01000_110_0001011 = .ok (.mxor true 6 3 1) :=
  ⟨rfl, rfl, rfl, rfl, rfl, rfl, rfl, rfl, rfl, rfl, rfl, rfl⟩

theorem test_decode_mandn :
    decodeWord 0b101_1_00000_001_00_011_01100_110_0001011 = .ok (.mandn true 6 3 1) ∧
    decodeWord 0b101_1_000000000000_1_10000_110_0001011 = .ok (.mset true 6 1) ∧
    decodeWord 0b101_1_0000000000_011_10100_110_0001011 = .ok (.vcut true 6 3) ∧
    decodeWord 0b101_1_0000000000_011_110_10101_0001011 = .ok (.vpopm true 21 3) ∧
    decodeWord 0b000_1_101_11011_01100_000_10101_0101011 = .ok (.vadd true 5 21 12 27) ∧
    decodeWord 0b000_1_101_11011_01100_001_10101_0101011 = .ok (.vsub true 5 21 12 27) ∧
    decodeWord 0b000_1_101_11011_01100_010_10101_0101011 = .ok (.vmul true 5 21 12 27) ∧
    decodeWord 0b000_1_101_11011_01100_011_10101_0101011 = .ok (.vmulh true 5 21 12 27) ∧
    decodeWord 0b000_1_101_11011_01100_100_10101_0101011 = .ok (.vdiv true 5 21 12 27) ∧
    decodeWord 0b000_1_101_11011_01100_101_10101_0101011 = .ok (.vrem true 5 21 12 27) ∧
    decodeWord 0b000_1_101_11011_01100_110_10101_0101011 = .ok (.vmin true 5 21 12 27) ∧
    decodeWord 0b000_1_101_11011_01100_111_10101_0101011 = .ok (.vmax true 5 21 12 27) :=
  ⟨rfl, rfl, rfl, rfl, rfl, rfl, rfl, rfl, rfl, rfl, rfl, rfl⟩

theorem test_decode_vand :
    decodeWord 0b001_1_101_11011_01100_000_10101_0101011 = .ok (.vand true 5 21 12 27) ∧
    decodeWord 0b001_1_101_11011_01100_001_10101_0101011 = .ok (.vor true 5 21 12 27) ∧
    decodeWord 0b001_1_101_11011_01100_010_10101_0101011 = .ok (.vxor true 5 21 12 27) ∧
    decodeWord 0b001_1_101_11011_01100_011_10101_0101011 = .ok (.vsll true 5 21 12 27) ∧
    decodeWord 0b001_1_101_11011_01100_100_10101_0101011 = .ok (.vsrl true 5 21 12 27) ∧
    decodeWord 0b001_1_101_11011_01100_101_10101_0101011 = .ok (.vsra true 5 21 12 27) ∧
    decodeWord 0b001_1_101_11011_01100_110_10101_0101011 = .ok (.vadds true 5 21 12 27) ∧
    decodeWord 0b001_1_101_11011_01100_111_10101_0101011 = .ok (.vaddsSub true 5 21 12 27) ∧
    decodeWord 0b010_1_101_11011_01100_000_10_110_0101011 = .ok (.vicmp true 5 6 12 27 2) ∧
    decodeWord 0b010_1_101_11011_01100_100_10101_0101011 = .ok (.vfadd true 5 21 12 27) ∧
    decodeWord 0b010_1_101_11011_01100_101_10101_0101011 = .ok (.vfsub true 5 21 12 27) ∧
    decodeWord 0b010_1_101_11011_01100_110_10101_0101011 = .ok (.vfmul true 5 21 12 27) :=
  ⟨rfl, rfl, rfl, rfl, rfl, rfl, rfl, rfl, rfl, rfl, rfl, rfl⟩

theorem test_decode_vffma :
    decodeWord 0b010_1_101_11011_01100_111_10101_0101011 = .ok (.vffma true 5 21 12 27) ∧
    decodeWord 0b011_1_101_11011_01100_000_10101_0101011 = .ok (.vfmin true 5 21 12 27) ∧
    decodeWord 0b011_1_101_11011_01100_001_10101_0101011 = .ok (.vfmax true 5 21 12 27) ∧
    decodeWord 0b011_1_101_11011_01100_010_10_110_0101011 = .ok (.vfcmp true 5 6 12 27 2) ∧
    decodeWord 0b011_1_101_11011_01100_011_10_110_0101011 = .ok (.vfcmpF true 5 6 12 27 2) ∧
    decodeWord 0b011_1_101_10111_01100_100_10101_0101011 = .ok (.vfcvt true 5 21 12 23) ∧
    decodeWord 0b011_1_101_00100_01100_101_10101_0101011 = .ok (.vfrnd true 5 21 12 4) ∧
    decodeWord 0b011_1_101_00000_01100_110_10101_0101011 = .ok (.vfcls true 5 21 12) ∧
    decodeWord 0b011_1_101_00000_01100_111_10101_0101011 = .ok (.vfabs true 5 21 12) ∧
    decodeWord 0b100_1_101_11011_01100_000_10101_0101011 = .ok (.vfdiv true 5 21 12 27) ∧
    decodeWord 0b100_1_101_00000_01100_001_10101_0101011 = .ok (.vfsqrt true 5 21 12) ∧
    decodeWord 0b100_1_101_00000_01100_010_10101_0101011 = .ok (.vrsqe true 5 21 12) :=
  ⟨rfl, rfl, rfl, rfl, rfl, rfl, rfl, rfl, rfl, rfl, rfl, rfl⟩

theorem test_decode_vrcpe :
    decodeWord 0b100_1_101_00000_01100_011_10101_0101011 = .ok (.vrcpe true 5 21 12) ∧
    decodeWord 0b100_1_101_00000_01100_100_10101_0101011 = .ok (.vexp true 5 21 12) ∧
    decodeWord 0b100_1_101_00000_01100_101_10101_0101011 = .ok (.vlog true 5 21 12) ∧
    decodeWord 0b100_1_101_00000_01100_110_10101_0101011 = .ok (.vsigm true 5 21 12) ∧
    decodeWord 0b100_1_101_00000_01100_111_10101_0101011 = .ok (.vtanh true 5 21 12) ∧
    decodeWord 0b101_1_101_11011_01100_000_10101_0101011 = .ok (.vredsum true 5 21 12 27) ∧
    decodeWord 0b101_1_101_11011_01100_001_10101_0101011 = .ok (.vredtree true 5 21 12 27) ∧
    decodeWord 0b101_1_101_00_101_01100_010000000101011 = .ok (.vredx true 5 12 5) ∧
    decodeWord 0b101_1_101_000_10_01100_011_10101_0101011 = .ok (.vred true 5 21 12 2) ∧
    decodeWord 0b101_1_101_000_11_01100_100_10101_0101011 = .ok (.vscan true 5 21 12 3) ∧
    decodeWord 0b101_1_101_0000000_011_101_10101_0101011 = .ok (.vffs true 5 21 3) ∧
    decodeWord 0b101_1_000_00101_00000110_10101_0101011 = .ok (.laget true 21 5) :=
  ⟨rfl, rfl, rfl, rfl, rfl, rfl, rfl, rfl, rfl, rfl, rfl, rfl⟩

theorem test_decode_laclr :
    decodeWord 0b101_1_0000000000000111000000101011 = .ok (.laclr true) ∧
    decodeWord 0b110_1_101_11101_01100_000_10101_0101011 = .ok (.smx true 5 21 12 29) ∧
    decodeWord 0b110_1_101_000_10_01100_001_10101_0101011 = .ok (.vrng true 5 21 12 2) ∧
    decodeWord 0b110_1_101_00000_01100_010_10101_0101011 = .ok (.vutf true 5 21 12) ∧
    decodeWord 0b110_1_101_11011_01100_011_10101_0101011 = .ok (.vtbl true 5 21 12 27) ∧
    decodeWord 0b111_1_110_11011_01100_000_10101_0101011 = .ok (.vaddP true 21 12 27 6) ∧
    decodeWord 0b111_1_110_11011_01100_001_10101_0101011 = .ok (.vsubP true 21 12 27 6) ∧
    decodeWord 0b111_1_110_11011_01100_010_10101_0101011 = .ok (.vmulP true 21 12 27 6) ∧
    decodeWord 0b111_1_110_11011_01100_011_10101_0101011 = .ok (.vminP true 21 12 27 6) ∧
    decodeWord 0b111_1_110_11011_01100_100_10101_0101011 = .ok (.vfaddP true 21 12 27 6) ∧
    decodeWord 0b111_1_110_11011_01100_101_10101_0101011 = .ok (.vfsubP true 21 12 27 6) ∧
    decodeWord 0b111_1_110_11011_01100_110_10101_0101011 = .ok (.vfmulP true 21 12 27 6) :=
  ⟨rfl, rfl, rfl, rfl, rfl, rfl, rfl, rfl, rfl, rfl, rfl, rfl⟩

theorem test_decode_vffma_p :
    decodeWord 0b111_1_110_11011_01100_111_10101_0101011 = .ok (.vffmaP true 21 12 27 6) ∧
    decodeWord 0b000_1_101_11011_01100_000_10101_1011011 = .ok (.vaddVx true 5 21 12 27) ∧
    decodeWord 0b000_1_101_11011_01100_001_10101_1011011 = .ok (.vsubVx true 5 21 12 27) ∧
    decodeWord 0b000_1_101_11011_01100_010_10101_1011011 = .ok (.vmulVx true 5 21 12 27) ∧
    decodeWord 0b000_1_101_11011_01100_011_10101_1011011 = .ok (.vmulhVx true 5 21 12 27) ∧
    decodeWord 0b000_1_101_11011_01100_100_10101_1011011 = .ok (.vdivVx true 5 21 12 27) ∧
    decodeWord 0b000_1_101_11011_01100_101_10101_1011011 = .ok (.vremVx true 5 21 12 27) ∧
    decodeWord 0b000_1_101_11011_01100_110_10101_1011011 = .ok (.vminVx true 5 21 12 27) ∧
    decodeWord 0b000_1_101_11011_01100_111_10101_1011011 = .ok (.vmaxVx true 5 21 12 27) ∧
    decodeWord 0b001_1_101_11011_01100_000_10101_1011011 = .ok (.vandVx true 5 21 12 27) ∧
    decodeWord 0b001_1_101_11011_01100_001_10101_1011011 = .ok (.vorVx true 5 21 12 27) ∧
    decodeWord 0b001_1_101_11011_01100_010_10101_1011011 = .ok (.vxorVx true 5 21 12 27) :=
  ⟨rfl, rfl, rfl, rfl, rfl, rfl, rfl, rfl, rfl, rfl, rfl, rfl⟩

theorem test_decode_vsll_vx :
    decodeWord 0b001_1_101_11011_01100_011_10101_1011011 = .ok (.vsllVx true 5 21 12 27) ∧
    decodeWord 0b001_1_101_11011_01100_100_10101_1011011 = .ok (.vsrlVx true 5 21 12 27) ∧
    decodeWord 0b001_1_101_11011_01100_101_10101_1011011 = .ok (.vsraVx true 5 21 12 27) ∧
    decodeWord 0b001_1_101_11011_01100_110_10101_1011011 = .ok (.vaddsVx true 5 21 12 27) ∧
    decodeWord 0b001_1_101_11011_01100_111_10_110_1011011 = .ok (.vicmpVx true 5 6 12 27 2) ∧
    decodeWord 0b010_1_101_11011_10101_000_10101_1011011 = .ok (.vaddVi true 5 21 27 (-11)) ∧
    decodeWord 0b010_1_101_11011_10101_001_10101_1011011 = .ok (.vminVi true 5 21 27 (-11)) ∧
    decodeWord 0b010_1_101_11011_10101_010_10101_1011011 = .ok (.vmaxVi true 5 21 27 (-11)) ∧
    decodeWord 0b010_1_101_11011_10101_011_10101_1011011 = .ok (.vandVi true 5 21 27 (-11)) ∧
    decodeWord 0b010_1_101_11011_10101_100_10101_1011011 = .ok (.vorVi true 5 21 27 (-11)) ∧
    decodeWord 0b010_1_101_11011_10101_101_10101_1011011 = .ok (.vxorVi true 5 21 27 (-11)) ∧
    decodeWord 0b010_1_101_11011_10101_110_10101_1011011 = .ok (.vsllVi true 5 21 27 21) :=
  ⟨rfl, rfl, rfl, rfl, rfl, rfl, rfl, rfl, rfl, rfl, rfl, rfl⟩

theorem test_decode_vsrl_vi :
    decodeWord 0b010_1_101_11011_10101_111_10101_1011011 = .ok (.vsrlVi true 5 21 27 21) ∧
    decodeWord 0b011_1_101_11011_10101_000_10101_1011011 = .ok (.vsraVi true 5 21 27 21) ∧
    decodeWord 0b011_1_101_11011_10101_001_10101_1011011 = .ok (.vaddsVi true 5 21 27 (-11)) ∧
    decodeWord 0b011_1_101_11011_10101_010_10_110_1011011 = .ok (.vicmpVi true 5 6 27 (-11) 2) ∧
    decodeWord 0b011_1_101_11011_01100_100_10101_1011011 = .ok (.vfaddVf true 5 21 12 27) ∧
    decodeWord 0b011_1_101_11011_01100_101_10101_1011011 = .ok (.vfsubVf true 5 21 12 27) ∧
    decodeWord 0b011_1_101_11011_01100_110_10101_1011011 = .ok (.vfmulVf true 5 21 12 27) ∧
    decodeWord 0b011_1_101_11011_01100_111_10101_1011011 = .ok (.vffmaVf true 5 21 12 27) ∧
    decodeWord 0b100_1_101_11011_01100_000_10101_1011011 = .ok (.vfminVf true 5 21 12 27) ∧
    decodeWord 0b100_1_101_11011_01100_001_10101_1011011 = .ok (.vfmaxVf true 5 21 12 27) ∧
    decodeWord 0b100_1_101_11011_01100_010_10_110_1011011 = .ok (.vfcmpVf true 5 6 12 27 2) ∧
    decodeWord 0b100_1_101_11011_01100_011_10_110_1011011 = .ok (.vfcmpFVf true 5 6 12 27 2) :=
  ⟨rfl, rfl, rfl, rfl, rfl, rfl, rfl, rfl, rfl, rfl, rfl, rfl⟩

theorem test_decode_vfdiv_vf :
    decodeWord 0b100_1_101_11011_01100_100_10101_1011011 = .ok (.vfdivVf true 5 21 12 27) ∧
    decodeWord 0b1000_100_11011_01100_101_10101_1011011 = .ok (.fadd 4 21 12 27) ∧
    decodeWord 0b1000_100_11011_01100_110_10101_1011011 = .ok (.fsub 4 21 12 27) ∧
    decodeWord 0b1000_100_11011_01100_111_10101_1011011 = .ok (.fmul 4 21 12 27) ∧
    decodeWord 0b1010_100_11011_01100_000_10101_1011011 = .ok (.ffma 4 21 12 27) ∧
    decodeWord 0b1010_100_11011_01100_001_10101_1011011 = .ok (.fmin 4 21 12 27) ∧
    decodeWord 0b1010_100_11011_01100_010_10101_1011011 = .ok (.fmax 4 21 12 27) ∧
    decodeWord 0b1010_100_11011_01100_011_10101_1011011 = .ok (.fcmp 4 21 12 27) ∧
    decodeWord 0b1010_100_11011_01100_100_10101_1011011 = .ok (.fcmpF 4 21 12 27) ∧
    decodeWord 0b1010_100_10110_01100_101_10101_1011011 = .ok (.fcvt 4 21 12 22) ∧
    decodeWord 0b1010_100_00111_01100_110_10101_1011011 = .ok (.frnd 4 21 12 7) ∧
    decodeWord 0b1010_100_00000_01100_111_10101_1011011 = .ok (.fcls 4 21 12) :=
  ⟨rfl, rfl, rfl, rfl, rfl, rfl, rfl, rfl, rfl, rfl, rfl, rfl⟩

theorem test_decode_fmvx :
    decodeWord 0b1100_100_00000_01100_000_10101_1011011 = .ok (.fmvx 4 21 12) ∧
    decodeWord 0b1100_100_00000_01100_001_10101_1011011 = .ok (.fmvf 4 21 12) ∧
    decodeWord 0b1100_100_10101_01100_010_10101_1011011 = .ok (.fld 4 21 12 (-11)) ∧
    decodeWord 0b1100_100_10101_01100_011_10101_1011011 = .ok (.fst 4 21 12 (-11)) ∧
    decodeWord 0b1100000_10101_01100_100_10101_1011011 = .ok (.fspill 21 12 (-11)) ∧
    decodeWord 0b1100000_10101_01100_101_10101_1011011 = .ok (.ffill 21 12 (-11)) ∧
    decodeWord 0b110_1_101_00000_01100_11000_110_1011011 = .ok (.gfromv true 5 6 12) ∧
    decodeWord 0b110_1_101_0000000_011_111_10101_1011011 = .ok (.gtov true 5 21 3) ∧
    decodeWord 0b111_1_101_01_001_01100_000_10101_1011011 = .ok (.tup true 5 21 12 1 1) ∧
    decodeWord 0b111_1_101_10_001_01100_001_10101_1011011 = .ok (.tdown true 5 21 12 1 2) ∧
    decodeWord 0b111_1_101_00_001_01100_010_10101_1011011 = .ok (.tbcast true 5 21 12 1) ∧
    decodeWord 0b111_1_101_0000000_011_011_10101_1011011 = .ok (.tdepth true 5 21 3) :=
  ⟨rfl, rfl, rfl, rfl, rfl, rfl, rfl, rfl, rfl, rfl, rfl, rfl⟩

theorem test_decode_tanc :
    decodeWord 0b111_1_101_00_001_01100_100_10101_1011011 = .ok (.tanc true 5 21 12 1) ∧
    decodeWord 0b111_1_101_00_001_01100_10100_110_1011011 = .ok (.tisanc true 5 6 12 1) ∧
    decodeWord 0b111_1_00000_001_00_011_11000_110_1011011 = .ok (.tcontract true 6 3 1) ∧
    decodeWord 0b111_1_0000000000_011_11100_110_1011011 = .ok (.tcheck true 6 3) ∧
    decodeWord 0b000_1_10110111_01100_000000001111011 = .ok (.tidset true 183 12) ∧
    decodeWord 0b000_1_10110111_01100_001000001111011 = .ok (.tidget true 183 12) ∧
    decodeWord 0b000_1_000_11011_01100_010_10001_1111011 = .ok (.wset true 17 12 27) ∧
    decodeWord 0b000_1_10110111_01100_011_10011_1111011 = .ok (.tld true 183 19 12) ∧
    decodeWord 0b000_1_10110111_01100_100_01001_1111011 = .ok (.tst true 183 9 12) ∧
    decodeWord 0b000_1_1_00_11011_01100_101_10110_1111011 = .ok (.bcopy true 1 22 12 27) ∧
    decodeWord 0b000_1_101_11011_00010_110_0_1_110_1111011 = .ok (.opa true 5 6 2 27 0 1) ∧
    decodeWord 0b000_1_000000_01_01100_111_10_110_1111011 = .ok (.tmm true 6 12 1 2) :=
  ⟨rfl, rfl, rfl, rfl, rfl, rfl, rfl, rfl, rfl, rfl, rfl, rfl⟩

theorem test_decode_aclr :
    decodeWord 0b001_1_000000000000000000_110_1111011 = .ok (.aclr true 6) ∧
    decodeWord 0b001_1_101_11011_00_011_001_10101_1111011 = .ok (.ardv true 5 21 3 27) ∧
    decodeWord 0b001_1_101_11011_01100_01000_110_1111011 = .ok (.awrv true 5 6 12 27) ∧
    decodeWord 0b001_1_0000000000_011_01100_110_1111011 = .ok (.asave true 6 3) ∧
    decodeWord 0b001_1_0000000000_011_10000_110_1111011 = .ok (.arestore true 6 3) ∧
    decodeWord 0b001_1_10110111_01100_101000001111011 = .ok (.tdigest true 183 12) ∧
    decodeWord 0b001_1_000_11011_01100_11000_110_1111011 = .ok (.qset true 6 12 27) ∧
    decodeWord 0b001_1_101_11011_101_10_111_10101_1111011 = .ok (.vgl true 5 21 27 5 2) ∧
    decodeWord 0b010_1_101_11011_101_10_000_10101_1111011 = .ok (.vamoAdd true 5 21 27 5 2) ∧
    decodeWord 0b010_1_101_11011_101_10_001_10101_1111011 = .ok (.vamoFadd true 5 21 27 5 2) ∧
    decodeWord 0b010_1_101_11011_101_10_010_10101_1111011 = .ok (.vamoMin true 5 21 27 5 2) ∧
    decodeWord 0b010_1_101_11011_101_10_011_10101_1111011 = .ok (.vamoMax true 5 21 27 5 2) :=
  ⟨rfl, rfl, rfl, rfl, rfl, rfl, rfl, rfl, rfl, rfl, rfl, rfl⟩

theorem test_decode_vamo_and :
    decodeWord 0b010_1_101_11011_101_10_100_10101_1111011 = .ok (.vamoAnd true 5 21 27 5 2) ∧
    decodeWord 0b010_1_101_11011_101_10_101_10101_1111011 = .ok (.vamoOr true 5 21 27 5 2) ∧
    decodeWord 0b010_1_101_11011_101_10_110_10101_1111011 = .ok (.vamoXor true 5 21 27 5 2) ∧
    decodeWord 0b010_1_101_11011_101_10_111_10101_1111011 = .ok (.vamoSwap true 5 21 27 5 2) ∧
    decodeWord 0b0111_101_11011_000_10_000_10101_1111011 = .ok (.vamooAdd 5 21 27 2) ∧
    decodeWord 0b0111_101_11011_000_10_001_10101_1111011 = .ok (.vamooFadd 5 21 27 2) ∧
    decodeWord 0b0111_101_11011_000_10_010_10101_1111011 = .ok (.vamooMin 5 21 27 2) ∧
    decodeWord 0b0111_101_11011_000_10_011_10101_1111011 = .ok (.vamooMax 5 21 27 2) ∧
    decodeWord 0b0111_101_11011_000_10_100_10101_1111011 = .ok (.vamooAnd 5 21 27 2) ∧
    decodeWord 0b0111_101_11011_000_10_101_10101_1111011 = .ok (.vamooOr 5 21 27 2) ∧
    decodeWord 0b0111_101_11011_000_10_110_10101_1111011 = .ok (.vamooXor 5 21 27 2) ∧
    decodeWord 0b0111_101_11011_000_10_111_10101_1111011 = .ok (.vamooSwap 5 21 27 2) :=
  ⟨rfl, rfl, rfl, rfl, rfl, rfl, rfl, rfl, rfl, rfl, rfl, rfl⟩

theorem test_decode_vsc :
    decodeWord 0b100_1_101_11011_101_10_000_10101_1111011 = .ok (.vsc true 5 21 27 5 2) ∧
    decodeWord 0b100_1_101_11011_101_10_001_10101_1111011 = .ok (.fas true 5 21 27 5 2) ∧
    decodeWord 0b1001000_1_0_101_01100_010_10101_1111011 = .ok (.amoxAdd 21 12 1 5) ∧
    decodeWord 0b1001001_1_0_101_01100_010_10101_1111011 = .ok (.amoxFadd 21 12 1 5) ∧
    decodeWord 0b1001010_1_0_101_01100_010_10101_1111011 = .ok (.amoxMin 21 12 1 5) ∧
    decodeWord 0b1001011_1_0_101_01100_010_10101_1111011 = .ok (.amoxMax 21 12 1 5) ∧
    decodeWord 0b1001100_1_0_101_01100_010_10101_1111011 = .ok (.amoxAnd 21 12 1 5) ∧
    decodeWord 0b1001101_1_0_101_01100_010_10101_1111011 = .ok (.amoxOr 21 12 1 5) ∧
    decodeWord 0b1001110_1_0_101_01100_010_10101_1111011 = .ok (.amoxXor 21 12 1 5) ∧
    decodeWord 0b1001111_1_0_101_01100_010_10101_1111011 = .ok (.amoxSwap 21 12 1 5) ∧
    decodeWord 0b10010_11_00_101_01100_011_10101_1111011 = .ok (.ldaq 21 12 3 5) ∧
    decodeWord 0b10010_10_00_110_01100_100_10101_1111011 = .ok (.strl 21 12 2 6) :=
  ⟨rfl, rfl, rfl, rfl, rfl, rfl, rfl, rfl, rfl, rfl, rfl, rfl⟩

theorem test_decode_fencev :
    decodeWord 0b100100000_011_00000101000001111011 = .ok (.fencev 3) ∧
    decodeWord 0b100100100_110_00000101000001111011 = .ok (.fencevColl 6) ∧
    decodeWord 0b10010000000000000110000001111011 = .ok (.fencel) ∧
    decodeWord 0b101100000000_01100_000_10101_1111011 = .ok (.launch 21 12) ∧
    decodeWord 0b101100000000_01100_001_10101_1111011 = .ok (.graphrun 21 12) ∧
    decodeWord 0b1011000_11011_01100_010000001111011 = .ok (.ccadd 12 27) ∧
    decodeWord 0b101100000000_01100_011000001111011 = .ok (.ccwait 12) ∧
    decodeWord 0b101100000000_01100_100_10101_1111011 = .ok (.ccread 21 12) ∧
    decodeWord 0b101100000_010_01100_101000001111011 = .ok (.cancel 12 2) ∧
    decodeWord 0b10110000000000000110000001111011 = .ok (.yield) ∧
    decodeWord 0b10110000000000000111000001111011 = .ok (.halt) ∧
    decodeWord 0b110100000000_01100_000000001111011 = .ok (.ttstart 12) :=
  ⟨rfl, rfl, rfl, rfl, rfl, rfl, rfl, rfl, rfl, rfl, rfl, rfl⟩

theorem test_decode_ttsync :
    decodeWord 0b11010000000000000001000001111011 = .ok (.ttsync) ∧
    decodeWord 0b1101000_11011_01100_010_10101_1111011 = .ok (.mput 21 12 27) ∧
    decodeWord 0b1101000_11011_01100_011_10101_1111011 = .ok (.mget 21 12 27) ∧
    decodeWord 0b1101000_11011_01100_100_10101_1111011 = .ok (.msig 21 12 27) ∧
    decodeWord 0b110100000000_01100_101_10101_1111011 = .ok (.mchk 21 12) ∧
    decodeWord 0b1101000_11011_01100_110000001111011 = .ok (.logpub 12 27) ∧
    decodeWord 0b1101000_11011_01100_111000001111011 = .ok (.cprec 12 27) ∧
    decodeWord 0b11110000000000000000000001111011 = .ok (.tret) ∧
    decodeWord 0b11110000000000000001000001111011 = .ok (.wait) ∧
    decodeWord 0b111100000000_01100_010000001111011 = .ok (.ctxsave 12) ∧
    decodeWord 0b111100000000_01100_011000001111011 = .ok (.ctxload 12) ∧
    decodeWord 0b1111000_11011_01100_100000001111011 = .ok (.tinv 12 27) :=
  ⟨rfl, rfl, rfl, rfl, rfl, rfl, rfl, rfl, rfl, rfl, rfl, rfl⟩

theorem test_decode_bar :
    decodeWord 0b111100000000_01100_101000001111011 = .ok (.bar 12) :=
  rfl

/-! ### Work records -/

/-- `n` bytes at `a`, a multiple of `al`, in words of 8, stand in the hart's own rows from `off` on, and hold `v`. -/
def ownBlock (s : State) (al a n off v : Nat) : Bool :=
  a % al = 0 && (blockWords a n).all (fun w => w.2 = 8 && onOwn s (w.1 % 2 ^ 64) 8 (off + (w.1 - a))) &&
    ((blockWords a n).map (fun w => s.hart.readScratch (off + (w.1 - a)) 8 * 2 ^ (8 * (w.1 - a)))).sum = v

theorem blockHolds_own {s : State} {al a n off v : Nat} (h : ownBlock s al a n off v = true) : s.blockHolds al a n v := by
  simp only [ownBlock, Bool.and_eq_true, decide_eq_true_eq, List.all_eq_true] at h
  obtain ⟨⟨ha, hw⟩, hv⟩ := h
  refine ⟨ha, fun x => s.hart.readScratch (off + (x - a)) 8, fun w hk => ?_, hv.symm⟩
  rw [(hw w hk).1]
  exact (loads_own (hw w hk).2).2

theorem block1_legal (b : LaunchBlock) (h : b.entry % 4 = 0 ∧ b.entry < 2 ^ 64 ∧ b.args < 2 ^ 64 ∧ 1 ≤ b.harts ∧ b.harts ≤ 1048576 ∧ b.prio < 8 ∧
    b.part = 0x04008040 ∧ b.waits.length = 4 ∧ ∀ w ∈ b.waits, w < 2 ^ 64) : b.legal := by
  obtain ⟨h1, h2, h3, h4, h5, h6, h7, h8, h9⟩ := h
  exact ⟨⟨h1, h2⟩, h3, ⟨h4, h5⟩, h6, .inr ⟨64, 64, 256, by rw [h7], by decide, by decide, by decide⟩, ⟨h8, h9⟩⟩

/-- `block1` at offset 256 of the hart's own scratchpad; at 384 the same block as a gang of 769 harts; at 512 the block of a graph of the first, whose wait
3 is launch 0. -/
def blocks : List Host.Cell :=
  [(257, 0x10), (264, 7), (272, 1), (280, 0x40), (281, 0x80), (283, 4)] ++ (List.range 32).map (fun i => (288 + i, 0xff)) ++
  [(385, 0x10), (392, 7), (400, 1), (401, 3), (404, 8), (408, 0x40), (409, 0x80), (411, 4)] ++ (List.range 32).map (fun i => (416 + i, 0xff)) ++
  [(512, 1)] ++ (List.range 24).map (fun i => (520 + i, 0xff)) ++ [(553, 1), (554, 0xe0)] ++ (List.range 5).map (fun i => (555 + i, 0xff))

/-- A hart that launches: x5 to x8 name the blocks of `blocks`. -/
def launcher : State := { paged with hart := { hart1 with scratch := blocks, x := [(5, own 256), (6, own 384), (7, own 512), (8, own 576)] } }

/-- The gang of 769. -/
def bigGang : LaunchBlock := { block1 with gang := true, harts := 769 }

theorem test_WorkCreation_launch : launcher.hart.inSegment = false ∧ launcher.hart.engine = [] ∧ mapWf 0 launcher.claims = true ∧
    launcher.blockHolds 8 (launcher.hart.getX 5).toNat 64 block1.word ∧ block1.legal ∧ (block1.gang = true → block1.harts ≤ 768) ∧
    (∀ w ∈ block1.waits, w = noHandle ∨ launcher.handleOk launcher.hart.slot w = true) ∧ launcher.jobOf launcher.hart.slot = some job1 ∧
    job1.launches.length < 2 ^ 24 :=
  ⟨rfl, rfl, rfl, blockHolds_own (off := 256) (by decide +kernel), block1_legal _ (by decide), by decide, by decide, rfl, by decide⟩
theorem test_WorkCreation_gang : launcher.hart.plain ∧ launcher.blockHolds 8 (launcher.hart.getX 6).toNat 64 bigGang.word ∧ bigGang.legal ∧
    bigGang.gang = true ∧ 768 < bigGang.harts :=
  ⟨⟨by decide, by decide, by decide⟩, blockHolds_own (off := 384) (by decide +kernel), block1_legal _ (by decide), rfl, by decide⟩
theorem test_WorkCreation_graph : launcher.fresh ∧
    (∀ w ∈ [noHandle, noHandle, noHandle, 0], w < 2 ^ 64 ∧ (w = noHandle ∨ launcher.handleOk launcher.hart.slot w = true)) ∧ ownAddr 256 < 2 ^ 64 ∧
    launcher.blockHolds 1 (launcher.hart.getX 7).toNat 64 (1 + 2 ^ 32 * 0 + 2 ^ 64 * noHandle + 2 ^ 128 * noHandle + 2 ^ 192 * noHandle +
      2 ^ 256 * 0 + 2 ^ 320 * ownAddr 256) ∧
    (∀ k b, [block1][k]? = some b → launcher.blockHolds 8 ((ownAddr 256 + 64 * k) % 2 ^ 64) 64 b.word ∧ b.legal ∧ (b.gang = true → b.harts ≤ 768) ∧
      ∀ w ∈ b.waits, w = noHandle ∨ launcher.handleOk launcher.hart.slot w = true ∨ ∃ p, p < k ∧ w = 4 * 2 ^ 61 + p) ∧
    job1.launches.length + 1 ≤ 2 ^ 24 ∧ job1.graphs.length < 2 ^ 20 :=
  ⟨fresh_of_xlat rfl, by decide, by decide, blockHolds_own (off := 512) (by decide +kernel), fun k b h => by
    cases k with
    | zero =>
      cases h
      exact ⟨blockHolds_own (off := 256) (by decide +kernel), block1_legal _ (by decide), by decide, fun w hw => .inl (by simpa [block1] using hw)⟩
    | succ k => simp at h, by decide, by decide⟩
theorem test_WorkCreation_empty_graph : launcher.blockHolds 1 (launcher.hart.getX 8).toNat 64 (0 + 2 ^ 32 * 0 + 2 ^ 64 * 0 + 2 ^ 128 * 0 + 2 ^ 192 * 0 +
      2 ^ 256 * 0 + 2 ^ 320 * 0) ∧ (∀ w ∈ [0, 0, 0, 0], w < 2 ^ 64 ∧ (w = noHandle ∨ launcher.handleOk launcher.hart.slot w = true)) :=
  ⟨blockHolds_own (off := 576) (by decide +kernel), by decide⟩

/-- A launch of each state and of another hart: 1 running, 2 complete, 3 cancelled. -/
def others : List Launch := [launch1, { launch1 with id := 1, counter := 2 }, { launch1 with id := 2, counter := 0, state := .complete },
  { launch1 with id := 3, counter := 0, state := .cancelled }]

/-- A hart of launch 0 beside those launches; x5 to x8 hold their handles, x9 1, x10 the largest count. -/
def counted : State := { State.withJob1 paged { job1 with launches := others } with
  hart := { hart1 with x := [(6, 1), (7, 2), (8, 3), (9, 1), (10, 0xffffffff)] } }

theorem names_of {s : State} {h lvl idx c : Nat} {st : RecState} (h1 : h = lvl * 2 ^ 61 + idx) (h2 : lvl ≤ 3) (h3 : idx < 2 ^ 32)
    (h4 : s.record s.hart.slot lvl idx = some (c, st)) : s.names h lvl idx c st := ⟨h1, h2, h3, h4⟩

theorem test_WorkCounters_running : counted.hart.inSegment = false ∧ (counted.hart.getX 6).toNat = 1 ∧ counted.names 1 0 1 2 .running ∧
    2 + (counted.hart.getX 9).toNat % 2 ^ 32 < 2 ^ 32 ∧ 2 ^ 32 ≤ 2 + (counted.hart.getX 10).toNat % 2 ^ 32 ∧ counted.hart.plain ∧
    counted.hart.cur.checked = false ∧ counted.contains 1 = false ∧ counted.contains 0 = true ∧ counted.names 0 0 0 1 .running :=
  ⟨rfl, by decide, names_of rfl (by decide) (by decide) rfl, by decide, by decide, ⟨by decide, by decide, by decide⟩, rfl, by decide, by decide,
    names_of rfl (by decide) (by decide) rfl⟩
theorem test_WorkCounters_ended : (counted.hart.getX 7).toNat = 2 ∧ counted.names 2 0 2 0 .complete ∧ counted.hart.status = .running ∧
    (counted.hart.getX 8).toNat = 3 ∧ counted.names 3 0 3 0 .cancelled :=
  ⟨by decide, names_of rfl (by decide) (by decide) rfl, rfl, by decide, names_of rfl (by decide) (by decide) rfl⟩
theorem test_WorkCounters_job : counted.names (3 * 2 ^ 61) 3 0 1 .running ∧ (1 : Nat) < 2 ^ 32 ∧ counted.contains (3 * 2 ^ 61) = true :=
  ⟨names_of rfl (by decide) (by decide) rfl, by decide, by decide +kernel⟩

/-- `counted` with a phase counter of 2, so that the end of one launch does not end the phase. -/
def twoLeft : State := State.withJob1 counted { job1 with launches := others, phases := [{ phase1 with counter := 2 }] }

theorem test_WorkEvents_countDown : twoLeft.record 0 0 1 = some (2, .running) ∧ 1 < 2 ∧ 0 < 2 ∧ 2 ≤ 2 ∧
    twoLeft.jobOf 0 = some { job1 with launches := others, phases := [{ phase1 with counter := 2 }] } ∧
    ({ job1 with launches := others, phases := [{ phase1 with counter := 2 }] } : Job).parent 0 1 = some (2, 0) ∧
    twoLeft.record 0 2 0 = some (2, .running) := ⟨rfl, by decide, by decide, by decide, rfl, rfl, rfl⟩
theorem test_WorkEvents_excess : twoLeft.record 0 0 2 = some (0, .complete) ∧ twoLeft.hartOf 1 = some twoLeft.hart ∧ twoLeft.hart.status ≠ .vacant ∧
    0 < 1 ∧ 2 < 3 ∧ twoLeft.record 0 0 3 = some (0, .cancelled) := ⟨rfl, rfl, by decide, by decide, by decide, rfl⟩
theorem test_WorkEvents_halt : let s : State := { twoLeft with hart := { twoLeft.hart with status := .halting } }
    s.hartOf 1 = some s.hart ∧ s.hart.status = .halting ∧ 1 ≠ 0 ∧ s.awaited 1 = false ∧ s.hart.launchid < 2 ^ 32 ∧ s.launchAt s.hart.slot s.hart.launchid = some launch1 ∧
      launch1.coll = [] ∧ launch1.pend = [] ∧ s.hart.pending = [] ∧ launch1.state = .running ∧ launch1.counter = 1 ∧ 0 < 1 :=
  ⟨rfl, rfl, by decide, by decide +kernel, by decide, rfl, rfl, rfl, rfl, rfl, rfl, by decide⟩
/-- `hart2` in the middle of a convoy of which a peer access is to reach hart 1. -/
def reaching : Hart := { hart2 with cur := { Cursor.alone with words := [3, 3], reach := [1] } }
theorem test_WorkEvents_awaited : let s : State := { twoLeft with hart := { twoLeft.hart with status := .halting }, others := [reaching] }
    s.hartOf 1 = some s.hart ∧ s.hart.status = .halting ∧ s.awaited 1 = true ∧ s.hart.preempted = false ∧ mapWf 0 s.claims = true :=
  ⟨rfl, rfl, by decide +kernel, rfl, rfl⟩
/-- `hart2` with a plain store and an engine's store in its buffer. -/
def buffered : Hart := { hart2 with wcb := [(0x20000, (1, false)), (0x20080, (2, true))], wcbAge := [0x20000, 0x20080] }

theorem test_WorkEvents_cancel : let s : State := { gang with others := [buffered], claims := [(0x20000, 2), (0x20080, 2)] }
    ∃ x, s.hartOf 2 = some x ∧ x.status ≠ .vacant ∧ 2 ≠ 0 ∧ mapWf 0 s.claims = true ∧ x.cannotStop = false ∧ s.awaited 2 = false ∧
      x.engine = [] ∧
      (s.slotOf x.slot).st ≠ 3 ∧ ∀ w ∈ x.wcb, w.2.2 = true → ∀ v ∈ x.wcb, v.1 = w.1 → v = w :=
  ⟨_, rfl, by decide, by decide, by decide, by decide, by decide +kernel, rfl, by decide, by decide⟩
theorem test_WorkEvents_cannot_stop : let h : Hart := { hart2 with status := .logPub true }
    let s : State := { gang with others := [h] }
    s.hartOf 2 = some h ∧ h.status ≠ .vacant ∧ 2 ≠ 0 ∧ mapWf 0 s.claims = true ∧ h.cannotStop = true ∧ h.preempted = false :=
  ⟨rfl, by decide, by decide, rfl, by decide, rfl⟩
theorem test_WorkEvents_complete : let j : Job := { job1 with launches := [{ launch1 with state := .cancelling }] }
    let s : State := State.withJob1 paged j
    s.jobOf 0 = some j ∧ s.record 0 0 0 = some (1, .cancelling) ∧ s.ended 0 0 0 j = false ∧
      ({ s with hart := Hart.vacant } : State).ended 0 0 0 j = true := ⟨rfl, rfl, by decide +kernel, by decide +kernel⟩

/-! ### Timetables -/

/-- A timetabled phase on cluster 0 whose image is at offset 256 of `timed`'s scratchpad. -/
def timedPhase : Phase := { phase1 with timed := true, tt := ownAddr 256 }

/-- A hart with the image header of a timetable of `n` harts and `lanes` lanes. -/
def timed (n lanes : Byte) : State := { State.withJob1 paged { job1 with phases := [timedPhase] } with
  hart := { hart1 with scratch := [(256, n), (258, lanes), (260, 2)], x := [(5, own 256)] } }

theorem test_Timetables_start : (timed 1 64).hart.inSegment = false ∧ (timed 1 64).hart.engine = [] ∧
    (timed 1 64).phaseImage = some ((timed 1 64).hart.getX 5).toNat ∧
    (timed 1 64).blockHolds 1 ((timed 1 64).hart.getX 5).toNat 32 (timetableWord 1 64 2 0 0) ∧
    ((timed 1 64).coreOf (timed 1 64).hart.cl (timed 1 64).hart.core).retired = [] ∧ (timed 1 64).hart.lcore < 1 :=
  ⟨rfl, rfl, by decide +kernel, blockHolds_own (off := 256) (by decide +kernel), rfl, by decide⟩
theorem test_Timetables_lanes : (timed 1 32).blockHolds 1 ((timed 1 32).hart.getX 5).toNat 32 (timetableWord 1 32 2 0 0) ∧ 32 ≠ 64 ∧ (timed 1 32).hart.plain :=
  ⟨blockHolds_own (off := 256) (by decide +kernel), by decide, by decide, by decide, by decide⟩
theorem test_Timetables_number : let s : State := timed 0 64
    s.blockHolds 1 (s.hart.getX 5).toNat 32 (timetableWord 0 64 2 0 0) ∧ (s.coreOf s.hart.cl s.hart.core).retired = [] ∧ 0 ≤ s.hart.lcore :=
  ⟨blockHolds_own (off := 256) (by decide +kernel), rfl, by decide⟩
theorem test_Timetables_retired : let s : State := { timed 1 64 with cores := [(0, { CoreInfo.start with retired := [3] })] }
    s.blockHolds 1 (s.hart.getX 5).toNat 32 (timetableWord 1 64 2 0 0) ∧ (s.coreOf s.hart.cl s.hart.core).retired ≠ [] ∧ s.hart.plain :=
  ⟨blockHolds_own (off := 256) (by decide +kernel), by decide, by decide, by decide, by decide⟩
theorem test_Timetables_image : bare.hart.inSegment = false ∧ bare.hart.plain ∧ bare.hart.cur.checked = false ∧
    bare.phaseImage ≠ some (bare.hart.getX 5).toNat := ⟨rfl, ⟨by decide, by decide, by decide⟩, rfl, by decide⟩

/-- The core table at 0x30000 gives the hart one entry, at 0x30100, with cycle 9; the segment table at 0x30200 gives segment 0 nine cycles, segment 1 none. -/
def inTable : State := { paged with
  mem := tables ++ [(0x30004, 1), (0x30009, 1), (0x3000a, 3), (0x30100, 9), (0x30200, 9)]
  hart := { hart1 with time := some ⟨0, 1, 2, 0x30000, 0x30200, 0, 0, true, false, none⟩ } }

theorem test_Timetables_sync : let p : TimePos := ⟨0, 1, 2, 0x30000, 0x30200, 0, 0, true, false, none⟩
    inTable.hart.time = some p ∧ p.live = true ∧ inTable.entryAt p p.entry = some 9 ∧
    inTable.tableRead (p.stab + 8 * p.seg) 8 = some (9 % 2 ^ 32) ∧ inTable.hart.engine = [] ∧ inTable.hart.cancelled = false ∧
    inTable.hart.preemptDue = false ∧ (inTable.coreOf inTable.hart.cl inTable.hart.core).due = [] ∧ inTable.hart.ie = false ∧ p.seg + 1 < p.nseg :=
  ⟨rfl, rfl, by decide +kernel, by decide +kernel, rfl, rfl, rfl, rfl, by decide, by decide⟩
theorem test_Timetables_deviates : let p : TimePos := ⟨0, 1, 2, 0x30000, 0x30200, 1, 0, true, false, none⟩
    let s : State := { inTable with hart := { inTable.hart with time := some p } }
    s.entryAt p p.entry = some 9 ∧ s.tableRead (p.stab + 8 * p.seg) 8 ≠ some (9 % 2 ^ 32) ∧ s.hart.plain :=
  ⟨by decide +kernel, by decide +kernel, by decide, by decide, by decide⟩
theorem test_Timetables_last : let p : TimePos := ⟨0, 1, 1, 0x30000, 0x30200, 0, 0, true, false, none⟩
    let s : State := { inTable with hart := { inTable.hart with time := some p } }
    s.entryAt p p.entry = some 9 ∧ s.tableRead (p.stab + 8 * p.seg) 8 = some (9 % 2 ^ 32) ∧ p.ncores ≤ [s.hart.lcore].length ∧ p.nseg ≤ p.seg + 1 :=
  ⟨by decide +kernel, by decide +kernel, by decide, by decide⟩
theorem test_Timetables_daybreak : let s : State := { inTable with
      hart := { inTable.hart with status := .ttStart }, clusters := [(0, { ClusterInfo.start with armed := [0] })] }
    (∃ h ∈ s.harts, h.cl = 0 ∧ (h.status = .ttStart ∨ h.status = .ttSync)) ∧
    (∀ h ∈ s.harts, h.cl = 0 → (h.status = .ttStart ∨ h.status = .ttSync) → ∃ t, h.time = some t ∧ t.ncores = 1) ∧ 1 ≤ (s.clusterOf 0).armed.length := by
  refine ⟨⟨_, List.mem_singleton.mpr rfl, rfl, .inl rfl⟩, fun h hh _ _ => ?_, by decide⟩
  have : h = { inTable.hart with status := .ttStart } := by simpa [State.harts, inTable, paged, bare, State.reset] using hh
  subst this
  exact ⟨_, rfl, rfl⟩
/-- A hart in a live segment of a timetabled phase whose period limit is 5 and whose cluster has counted 4 periods. -/
def inSegment : State := { State.withJob1 inTable { job1 with phases := [{ timedPhase with plim := 5 }] } with clusters := [(0, { ClusterInfo.start with tick := 4 })] }

theorem test_Timetables_stretch : (8 : Nat) ≤ 8 ∧ (32 : Nat) ≤ 32 ∧ inSegment.phaseAt 0 = some (0, { timedPhase with plim := 5 }) ∧
    ({ timedPhase with plim := 5 } : Phase).timed = true ∧ inSegment.health = 0 ∧ paged.phaseAt 0 = some (0, phase1) ∧ phase1.timed = false ∧
    0 < ({ paged with health := 1 } : State).health := by decide +kernel
theorem test_Timetables_period : mapWf 0 inSegment.fixes = true ∧ 5 = ((inSegment.clusterOf 0).tick + 1) % 2 ^ 64 ∧
    inSegment.phaseAt 0 = some (0, { timedPhase with plim := 5 }) ∧ inSegment.phaseAt 1 = none := by decide +kernel
theorem test_Timetables_limit : let j : Job := { job1 with phases := [{ phase1 with plim := 5, counter := 2 }, phase1], launches := others, counter := 2 }
    let s : State := { State.withJob1 paged j with clusters := [(0, { ClusterInfo.start with tick := 5 })] }
    s.jobOf 0 = some j ∧ j.phases[j.cur]? = some { phase1 with plim := 5, counter := 2 } ∧ phase1.begun = true ∧ phase1.state = .running ∧ 0 < 5 ∧
      (s.slotOf 0).st = 2 ∧ j.state = .running ∧ 1 < j.counter ∧ ({ j with counter := 1 } : Job).counter = 1 ∧
      (∃ c, c < 6 ∧ 1 / 2 ^ c % 2 = 1 ∧ 5 ≤ (s.clusterOf c).tick) ∧ s.hart ∈ s.harts ∧ s.hart.slot = 0 ∧ s.hart.preempted = false ∧
      j.cur + 1 < j.phases.length ∧ 0 < j.children j.cur := 
  ⟨rfl, rfl, rfl, rfl, by decide, rfl, rfl, by decide, rfl, ⟨0, by decide, by decide, by decide⟩, by decide, rfl, rfl, by decide, by decide⟩
theorem test_Timetables_last_limit : let j : Job := { job1 with phases := [{ phase1 with plim := 5 }] }
    let s : State := { State.withJob1 paged j with clusters := [(0, { ClusterInfo.start with tick := 5 })] }
    s.jobOf 0 = some j ∧ j.phases[j.cur]? = some { phase1 with plim := 5 } ∧ (s.slotOf 0).st = 2 ∧ j.phases.length ≤ j.cur + 1 ∧
      1 / 2 ^ 0 % 2 = 1 ∧ 5 ≤ (s.clusterOf 0).tick := ⟨rfl, rfl, rfl, by decide, by decide, by decide⟩

/-! ### Messages -/

/-- A hart whose scratchpad holds a route block of this module at offset 256 (all zero), an illegal one at 320, and the message block of 8 bytes to
0x20000 without handles at 288: x5 and x6 name the routes, x7 the block, x8 a local address off-core, x9 3, x10 launch 0's handle with a reserved bit. -/
def sender : State := { paged with hart := { hart1 with
  scratch := [(290, 2), (296, 8)] ++ (List.range 16).map (fun i => (304 + i, 0xff)) ++ [(320, 1)]
  x := [(5, own 256), (6, own 320), (7, own 288), (8, 0x20000), (9, 3)] } }

theorem sender_route : sender.routeHolds (sender.hart.getX 5).toNat 0 :=
  ⟨by decide, .inr ⟨rfl, blockHolds_own (off := 256) (by decide +kernel)⟩⟩
theorem sender_sends : sender.sendable 5 0 :=
  ⟨rfl, by decide +kernel, by decide, rfl, rfl, fresh_of_xlat rfl, sender_route, .inl rfl⟩
theorem sender_block : sender.messageBlock 7 0x20000 8 noHandle noHandle :=
  ⟨by decide, by decide, by decide, by decide, by decide, by decide, .inl rfl, blockHolds_own (off := 288) (by decide +kernel)⟩

theorem test_Messages_mput : sender.hart.inSegment = false ∧ sender.hart.engine = [] ∧ sender.routeHolds (sender.hart.getX 5).toNat 0 ∧
    sender.sendable 5 0 ∧ sender.messageBlock 7 0x20000 8 noHandle noHandle ∧ noHandle = noHandle :=
  ⟨rfl, rfl, sender_route, sender_sends, sender_block, rfl⟩
theorem test_Messages_mget : sender.sendable 5 0 ∧ sender.messageBlock 7 0x20000 8 noHandle noHandle ∧
    inAperture (sender.hart.getX 8).toNat = false ∧
    ∀ o, o < 8 → (o = 0 ∨ ((sender.hart.getX 8).toNat + o) % 65536 = 0) →
      place (((sender.hart.getX 8).toNat + o) % 2 ^ 64) = .ok (.virt (((sender.hart.getX 8).toNat + o) % 2 ^ 64)) ∧
      ∃ leaf, sender.translate sender.hart.slot (((sender.hart.getX 8).toNat + o) % 2 ^ 64) 2 = .ok (0x20000, leaf) := by
  refine ⟨sender_sends, sender_block, by decide, fun o ho h => ?_⟩
  have hx : (sender.hart.getX 8).toNat = 0x20000 := by decide
  rw [hx] at h ⊢
  obtain rfl : o = 0 := by omega
  exact ⟨rfl, _, translates_of (leaf := 0x0f) (by decide +kernel)⟩
theorem test_Messages_msig : sender.sendable 5 0 ∧ formedHandle (sender.hart.getX 1).toNat ∧ (∀ m ∈ sender.messages, m.hid = sender.hart.hid → m.kind ≠ 1 ∧ m.kind ≠ 2) ∧
    (sender.hart.getX 0).toNat % 2 ^ 32 = 0 ∧ 0 < (sender.hart.getX 9).toNat % 2 ^ 32 :=
  ⟨sender_sends, ⟨0, 0, by decide, by decide, by decide⟩, by simp [sender, paged, bare, State.reset], by decide, by decide⟩

/-- An MPUT of hart 1 whose one packet is out. -/
def sentMput : Message := ⟨0, 1, 0, 1, 0, 0, 0, noHandle, 0x20000, noHandle, 0, 8, 1, true, false, [], 0, 0, 0⟩

theorem test_Messages_msig_waits : let s : State := { sender with messages := [sentMput] }
    s.sendable 5 0 ∧ ∃ m ∈ s.messages, m.hid = s.hart.hid ∧ (m.kind = 1 ∨ m.kind = 2) :=
  ⟨⟨rfl, by decide +kernel, by decide, rfl, rfl, fresh_of_xlat rfl, ⟨by decide, .inr ⟨rfl, blockHolds_own (off := 256) (by decide +kernel)⟩⟩, .inl rfl⟩,
    sentMput, by decide, rfl, .inl rfl⟩
theorem test_Messages_route : messageOf (.mput 6 8 7) = some (1, 6, 8, 7) ∧ sender.hart.queueFree = true ∧ sender.hart.held.length < 16 ∧
    sender.routeHolds (sender.hart.getX 6).toNat 1 ∧ 1 < 2 ^ 256 ∧ ¬ legalRoute 1 ∧ sender.hart.plain :=
  ⟨rfl, by decide +kernel, by decide, ⟨by decide, .inr ⟨rfl, blockHolds_own (off := 320) (by decide +kernel)⟩⟩, by decide,
    by rintro (h | ⟨p, c, q, _, _, _, h⟩) <;> omega, by decide, by decide, by decide⟩
/-- A report that is held back. -/
def report1 : Report := ⟨2, 0, 0, 1, 0, 0, 0, 0, []⟩
theorem test_Messages_room : let s : State := { sender with hart := { sender.hart with held := List.replicate 16 report1 } }
    s.hart.queueFree = true ∧ 16 ≤ s.hart.held.length ∧ s.hart.inSegment = false := ⟨by decide +kernel, by decide, rfl⟩
theorem test_Messages_no_queue : let s : State := { sender with hart := { sender.hart with poolpart := 0x40 } }
    messageOf (.msig 1 2 3) = some (4, 1, 2, 3) ∧ s.hart.queueFree = false ∧ s.hart.plain ∧ s.hart.cur.checked = false ∧ s.hart.inSegment = false :=
  ⟨rfl, by decide +kernel, ⟨by decide, by decide, by decide⟩, rfl, rfl⟩

/-! ### Packets -/

/-- A put packet of this module to itself: 8 bytes to 0x20000, no handle, the only one of its message. -/
def putHere : Packet := ⟨0, 0, [], 1, 0, 0, 1, 5, 0x20000, noHandle, [1, 2, 3, 4, 5, 6, 7, 8], none, 1, 0, 0, 0, [], [], 7, 1⟩
/-- The same from module 3 through port 2, with the handle of launch 1. -/
def putThere : Packet := { putHere with hc := 2, hp := 2, hops := [(0, 0, 4), (0, 1, 7)], src := 3, inPort := some (2, 1), k1 := 1 }
/-- A get request for 8 bytes at 0x20000, for the bytes from 0 on of message 0. -/
def getHere : Packet := { putHere with kind := 2, k1 := 8, payload := [] }
/-- Its reply. -/
def replyHere : Packet := { putHere with kind := 3, k0 := 0, k1 := 0 }
/-- A signal to launch 1. -/
def signalHere : Packet := { putHere with kind := 4, k0 := 1, k1 := 1, payload := [] }
/-- The MGET of `replyHere`. -/
def sentMget : Message := { sentMput with kind := 2, left := 8, pas := [(0, 0x20000)] }

theorem comes_here {s : State} {p : Packet} (h : p.hc = 0 ∧ p.hp = 0 ∧ p.dst = s.module_) : s.comes p :=
  ⟨by omega, h.2.2, fun _ _ _ h0 => by omega⟩
theorem stream_none {s : State} {p : Packet} (h : s.hostWait = []) : s.streamFree p := fun w hw => by
  rw [h] at hw
  exact absurd hw (by simp)
theorem reached_here {s : State} {p : Packet} {k i : Nat} (h1 : p.kind = k) (h2 : p.hc = 0 ∧ p.hp = 0 ∧ p.dst = s.module_) (h3 : s.hostWait = [])
    (h4 : s.slotOfPart p.part = some i) (h5 : (s.slotOf i).sink = false ∧ (s.slotOf i).st = 2) (h6 : s.accepted = []) : s.reachedBy p k i :=
  ⟨h1, comes_here h2, stream_none h3, h4, h5, by simp [h6, mapGet]⟩

/-- The port passes the packet that came in so. -/
def passing (s : State) (part vc : Nat) (inp : Option (Nat × Nat)) (o : Port) : Bool :=
  o.up && o.prt = part && part ≠ 0xffff && (match inp with
    | none => true
    | some (i, c) => decide (c < vc) || (c = vc && decide ((s.portAt i).rki < o.rko)))

theorem passes_of {s : State} {part vc : Nat} {inp : Option (Nat × Nat)} {o : Port} : passing s part vc inp o = true ↔ s.passes part vc inp o := by
  cases inp with
  | none => simp [passing, State.passes, and_assoc]
  | some q => obtain ⟨i, c⟩ := q; simp [passing, State.passes, and_assoc]

/-- Every node of the route passes the packet. -/
def travels (s : State) (part : Nat) : Option (Nat × Nat) → List (Nat × Nat) → Bool
  | _, [] => true
  | inp, (vc, k) :: r => passing s part vc inp (s.portAt k) && travels s part (some (farPort k, vc)) r

theorem goes_of {s : State} {part : Nat} {ls : List (Nat × Nat)} : ∀ {inp : Option (Nat × Nat)}, travels s part inp ls = true → s.goes part inp ls := by
  induction ls with
  | nil => intro inp _; trivial
  | cons l r ih =>
    intro inp h
    simp only [travels, Bool.and_eq_true] at h
    exact ⟨passes_of.mp h.1, ih h.2⟩

theorem test_Packets_put : let s := twoLeft
    s.reachedBy putHere 1 0 ∧ s.jobRange 0 putHere.k0 putHere.payload.length 2 = some (upFrom 0x20000 8) ∧ putHere.k1 = noHandle ∧
      (∀ b ∈ upFrom 0x20000 8, s.owner b = 0) ∧ (s.putGot putHere).length = putHere.total ∧ s.putHandle putHere = none ∧
      (s.putGot { putHere with total := 2 }).length ≠ 2 :=
  ⟨reached_here rfl ⟨rfl, rfl, rfl⟩ rfl rfl ⟨rfl, rfl⟩ rfl, by decide +kernel, rfl, by decide, rfl, rfl, by decide⟩
theorem test_Packets_put_counts : let s := twoLeft
    s.reachedBy putThere 1 0 ∧ s.jobRange 0 putThere.k0 putThere.payload.length 2 = some (upFrom 0x20000 8) ∧ s.handleOk 0 putThere.k1 = true ∧
      (s.putGot putThere).length = putThere.total ∧ s.putHandle putThere = some 1 ∧
      s.record 0 (handleLvl putThere.k1) (handleIdx putThere.k1) = some (2, .running) :=
  ⟨⟨rfl, ⟨rfl, rfl, fun v c k _ h hv => by
    cases h
    have : k = 2 := by
      have h2 : twoLeft.viewPort putThere.part 2 = some 2 := rfl
      rw [h2] at hv
      exact (Option.some.inj hv).symm
    subst this
    exact goes_of (by decide +kernel)⟩, stream_none rfl, rfl, ⟨rfl, rfl⟩, by decide⟩, by decide +kernel, by decide +kernel, rfl, rfl, rfl⟩
theorem test_Packets_put_waits : let s : State := { twoLeft with claims := [(0x20003, 1)] }
    s.reachedBy putHere 1 0 ∧ s.jobRange 0 putHere.k0 putHere.payload.length 2 = some (upFrom 0x20000 8) ∧ ∃ b ∈ upFrom 0x20000 8, s.owner b ≠ 0 :=
  ⟨reached_here rfl ⟨rfl, rfl, rfl⟩ rfl rfl ⟨rfl, rfl⟩ rfl, by decide +kernel, 0x20003, by decide, by decide⟩
theorem test_Packets_get : let s := twoLeft
    s.reachedBy getHere 2 0 ∧ s.jobRange 0 getHere.k0 (getHere.k1 % 2 ^ 32) 1 = some (upFrom 0x20000 8) ∧ (∀ b ∈ upFrom 0x20000 8, s.owner b = 0) ∧
      ∀ b ∈ upFrom 0x20000 8, ∀ l ∈ s.poisoned, l.1 ≠ lineOf b :=
  ⟨reached_here rfl ⟨rfl, rfl, rfl⟩ rfl rfl ⟨rfl, rfl⟩ rfl, by decide +kernel, by decide, by decide⟩
theorem test_Packets_get_poisoned : let s : State := { twoLeft with poisoned := [(0x20000, 7)] }
    s.reachedBy getHere 2 0 ∧ s.jobRange 0 getHere.k0 (getHere.k1 % 2 ^ 32) 1 = some (upFrom 0x20000 8) ∧ (∀ b ∈ upFrom 0x20000 8, s.owner b = 0) ∧
      ∃ b ∈ upFrom 0x20000 8, ∃ l ∈ s.poisoned, l.1 = lineOf b :=
  ⟨reached_here rfl ⟨rfl, rfl, rfl⟩ rfl rfl ⟨rfl, rfl⟩ rfl, by decide +kernel, by decide, 0x20001, by decide, by decide⟩
theorem test_Packets_get_waits : let s : State := { twoLeft with claims := [(0x20003, 1)] }
    s.reachedBy getHere 2 0 ∧ s.jobRange 0 getHere.k0 (getHere.k1 % 2 ^ 32) 1 = some (upFrom 0x20000 8) ∧ ∃ b ∈ upFrom 0x20000 8, s.owner b ≠ 0 :=
  ⟨reached_here rfl ⟨rfl, rfl, rfl⟩ rfl rfl ⟨rfl, rfl⟩ rfl, by decide +kernel, 0x20003, by decide, by decide⟩
theorem test_Packets_reply : let s : State := { twoLeft with messages := [sentMget] }
    replyHere.kind = 3 ∧ s.comes replyHere ∧ s.streamFree replyHere ∧
      s.slotOfPart replyHere.part = some 0 ∧ (s.slotOf 0).sink = false ∧ replyHere.seq ∉ mapGet [] s.accepted replyHere.src ∧
      s.messages.find? (fun x => decide (x.mid = replyHere.k0 % 2 ^ 32) && decide (x.kind = 2)) = some sentMget ∧
      ∀ b ∈ (upFrom (replyHere.k0 / 2 ^ 32) replyHere.payload.length).map sentMget.target, s.owner b = 0 :=
  ⟨rfl, comes_here ⟨rfl, rfl, rfl⟩, stream_none rfl, rfl, rfl, by decide, rfl, by decide⟩
theorem test_Packets_reply_waits : let s : State := { twoLeft with messages := [sentMget], claims := [(0x20003, 1)] }
    ∃ b ∈ (upFrom (replyHere.k0 / 2 ^ 32) replyHere.payload.length).map sentMget.target, s.owner b ≠ 0 := ⟨0x20003, by decide, by decide⟩
theorem test_Packets_signal : twoLeft.reachedBy signalHere 4 0 ∧ twoLeft.handleOk 0 signalHere.k0 = true ∧ signalHere.k0 ≠ noHandle ∧
    twoLeft.record 0 (handleLvl signalHere.k0) (handleIdx signalHere.k0) = some (2, .running) :=
  ⟨reached_here rfl ⟨rfl, rfl, rfl⟩ rfl rfl ⟨rfl, rfl⟩ rfl, by decide +kernel, by decide, rfl⟩
theorem test_Packets_astray : (Instr.putPacket, putHere.kind) ∈ [(Instr.putPacket, 1), (Instr.getRequest, 2), (Instr.signalPacket, 4)] ∧
    ({ putHere with dst := 1023 } : Packet).dst ≠ twoLeft.module_ ∧ ({ putThere with hp := 1 } : Packet).hp ≠ 2 := ⟨by simp [putHere], by decide, by decide⟩
theorem test_Packets_last_leg : let s : State := { twoLeft with ports := [(210, ⟨4, 0, 1, false⟩)] }
    putThere.hp = putThere.hc ∧ putThere.dst = s.module_ ∧ 0 < putThere.hc ∧ putThere.inPort = some (2, 1) ∧ s.viewPort putThere.part 2 = some 2 ∧
      s.stopsOn putThere.part 2 0 (some (2, 1)) (s.legsIn putThere 2) := ⟨rfl, rfl, by decide, rfl, rfl, .inl (.inl ⟨rfl, rfl, rfl⟩)⟩
theorem test_Packets_stream : let s : State := { twoLeft with hostWait := [.packet putHere] }
    s.comes putHere ∧ ∃ w ∈ s.hostWait, w.streamOf putHere = true := ⟨comes_here ⟨rfl, rfl, rfl⟩, _, List.mem_singleton.mpr rfl, by decide⟩
theorem test_Packets_endpoint : twoLeft.slotOfPart 9 = none ∧ twoLeft.slotOfPart putHere.part = some 0 ∧
    (let s : State := { twoLeft with slots := twoLeft.slots.map (fun x => { x with sink := true }) }
     s.slotOfPart 1 = some 0 ∧ (s.slotOf 0).sink = true) ∧
    (let s : State := { twoLeft with accepted := [(0, [5])] }
     (s.slotOf 0).sink = false ∧ putHere.seq ∈ mapGet [] s.accepted putHere.src) ∧
    (let s : State := { twoLeft with slots := twoLeft.slots.map (fun x => { x with st := 0 }) }
     s.slotOfPart 1 = some 0 ∧ (s.slotOf 0).sink = false ∧ putHere.seq ∉ mapGet [] s.accepted putHere.src ∧ (s.slotOf 0).st ≠ 2) := by decide +kernel
theorem test_Packets_unmapped : let p : Packet := { putHere with k0 := 2 ^ 40 }
    let q : Packet := { getHere with k0 := 2 ^ 40 }
    twoLeft.reachedBy p 1 0 ∧ twoLeft.jobRange 0 p.k0 p.payload.length 2 = none ∧ twoLeft.reachedBy q 2 0 ∧
      twoLeft.jobRange 0 q.k0 (q.k1 % 2 ^ 32) 1 = none :=
  ⟨reached_here rfl ⟨rfl, rfl, rfl⟩ rfl rfl ⟨rfl, rfl⟩ rfl, by decide +kernel, reached_here rfl ⟨rfl, rfl, rfl⟩ rfl rfl ⟨rfl, rfl⟩ rfl, by decide +kernel⟩
theorem test_Packets_handle : let p : Packet := { putHere with k1 := 9 }
    let q : Packet := { signalHere with k0 := 9 }
    twoLeft.reachedBy p 1 0 ∧ twoLeft.jobRange 0 p.k0 p.payload.length 2 = some (upFrom 0x20000 8) ∧ p.k1 ≠ noHandle ∧ twoLeft.handleOk 0 p.k1 = false ∧
      twoLeft.reachedBy q 4 0 ∧ q.k0 ≠ noHandle ∧ twoLeft.handleOk 0 q.k0 = false :=
  ⟨reached_here rfl ⟨rfl, rfl, rfl⟩ rfl rfl ⟨rfl, rfl⟩ rfl, by decide +kernel, by decide, by decide +kernel,
    reached_here rfl ⟨rfl, rfl, rfl⟩ rfl rfl ⟨rfl, rfl⟩ rfl, by decide, by decide +kernel⟩

/-- `sender` with its MPUT, the packet of it that is held, and a fault queue. -/
def waiting : State := { sender with
  hart := { sender.hart with sends := true }, messages := [sentMput], unacked := [⟨0, 5, 3, 0, 0, putHere⟩] }

theorem test_Packets_ack : let u : Unacked := ⟨0, 5, 3, 0, 0, putHere⟩
    waiting.unacked.find? (fun x => x.dst = 0 && x.seq = 5) = some u ∧ (waiting.slotOf u.slot).sink = false ∧ u.pkt.kind = 1 ∧
      waiting.messages.find? (fun x => x.mid = u.mid) = some sentMput ∧ u.tries < 4 ∧ u.pkt.kind ≠ 3 ∧ 0 < 1 ∧
      waiting.hartOf u.pkt.sender = some waiting.hart ∧ waiting.hart.status ≠ .vacant :=
  ⟨rfl, rfl, rfl, rfl, by decide, by decide, by decide, rfl, by decide⟩
theorem test_Packets_ack_sink : let s : State := { waiting with slots := waiting.slots.map (fun x => { x with sink := true }) }
    s.unacked.find? (fun x => x.dst = 0 && x.seq = 5) = some ⟨0, 5, 3, 0, 0, putHere⟩ ∧ (s.slotOf 0).sink = true := ⟨rfl, rfl⟩
theorem test_Packets_ack_reply : let u : Unacked := ⟨0, 5, 4, 0, 0, { replyHere with hc := 2 }⟩
    let s : State := { sender with unacked := [u] }
    s.unacked.find? (fun x => x.dst = 0 && x.seq = 5) = some u ∧ (s.slotOf u.slot).sink = false ∧ u.pkt.kind ≠ 1 ∧ u.pkt.kind ≠ 4 ∧
      4 ≤ u.tries ∧ u.pkt.kind = 3 ∧ u.pkt.hc ≠ 0 :=
  ⟨rfl, rfl, by decide, by decide, by decide, rfl, by decide⟩
theorem test_Packets_lost : let u : Unacked := ⟨0, 5, 4, 0, 0, putHere⟩
    let s : State := { waiting with unacked := [u] }
    s.unacked.find? (fun x => x.dst = 0 && x.seq = 5) = some u ∧ 4 ≤ u.tries ∧ u.pkt.kind ≠ 3 ∧
      s.reported u.pkt.sender (reportOn u.pkt 3 0 0) = some u := ⟨rfl, by decide, by decide, by decide +kernel⟩
theorem test_Packets_report : waiting.hartOf 1 = some waiting.hart ∧ waiting.hart.status ≠ .vacant ∧ waiting.hart.cancelled = false ∧
    waiting.hart.preempted = false ∧ (waiting.slotOf waiting.hart.slot).sink = false ∧ waiting.hart.sends = true ∧ waiting.hart.held = [] ∧
    0 < waiting.hart.sprows ∧ waiting.hart.fqNext < 8 ∧ reportFits report1 ∧
    waiting.reported 1 report1 = none ∧ waiting.hart.fqFull waiting.hart.fqNext = false :=
  ⟨rfl, by decide, rfl, rfl, rfl, rfl, rfl, by decide, by decide, by simp [reportFits, report1], by decide +kernel, by decide +kernel⟩
theorem test_Packets_report_on_message : let u : Unacked := ⟨0, 5, 3, 0, 0, putHere⟩
    let m : Message := { sentMput with left := 2 }
    let s : State := { waiting with messages := [m] }
    s.reported 1 (reportOn putHere 4 0 2) = some u ∧ (s.slotOf u.slot).sink = false ∧ s.messages.find? (fun n => n.mid = u.mid) = some m ∧
      m.kind ≠ 2 ∧ 1 < m.left ∧ reportFits (reportOn putHere 4 0 2) :=
  ⟨by decide +kernel, rfl, rfl, by decide, by decide, by simp [reportFits, reportOn, putHere]⟩
theorem test_Packets_full : let s : State := { waiting with hart := { waiting.hart with scratch := [(256 * 4096 - 512, 1)] } }
    s.hart.fqNext < 8 ∧ s.hart.fqFull s.hart.fqNext = true := by decide +kernel
theorem test_Packets_claim : let s : State := { twoLeft with claims := [(0x20003, 1)], hostWait := [.packet putHere] }
    s.hostWait[0]? = some (.packet putHere) ∧ s.waitClaimed (.packet putHere) = true ∧ putHere.kind ≠ 3 := ⟨rfl, by decide +kernel, by decide⟩

/-- A packet at its first hop, at the fabric port of view port 2. -/
def going : Packet := { putHere with hc := 2, hops := [(0, 0, 2), (0, 1, 5)] }

theorem test_Packets_links : let p : Packet := { going with hp := 1, inPort := some (2, 0) }
    onLink 2 (.packetHop p) = some p ∧ p.kind ≠ 3 ∧ p.kind ≠ 5 ∧ (15 : Nat) < 16 ∧ (16 : Nat) ≤ 16 ∧ (95 : Nat) < 96 ∧
      102 = 96 + 6 * 1 + 0 ∧ (0 : Nat) < 1 := by decide
theorem test_Packets_arrived : putHere.legs = [] ∧ putHere.hc ≤ putHere.hp ∧
    (Instr.signalPacket, signalHere.kind) ∈ [(Instr.putPacket, 1), (Instr.getRequest, 2), (Instr.getReply, 3), (Instr.signalPacket, 4)] ∧
    ({ putHere with kind := 5 } : Packet).kind = 5 := ⟨rfl, by decide, by simp [signalHere], rfl⟩
theorem test_Packets_leg : twoLeft.passes 1 0 none (twoLeft.portAt 210) ∧
    (let s : State := { twoLeft with ports := [(210, ⟨4, 0, 1, false⟩)] }; s.stopsAt 1 0 none (s.portAt 210) 2 0) ∧
    (let s : State := { twoLeft with ports := [(210, ⟨4, 0, 2, true⟩)] }; s.stopsAt 1 0 none (s.portAt 210) 1 3) ∧
    twoLeft.stopsAt 1 0 (some (500, 1)) (twoLeft.portAt 210) 1 4 :=
  ⟨passes_of.mp (by decide +kernel), .inl ⟨rfl, rfl, rfl⟩, .inr (.inl ⟨rfl, .inl (by decide +kernel), rfl, rfl⟩),
    .inr (.inr ⟨rfl, rfl, by decide, fun h => absurd (passes_of.mpr h) (by decide +kernel), rfl, rfl⟩)⟩
theorem test_Packets_hop : going.legs = [] ∧ going.hp = 0 ∧ 0 < going.hc ∧ going.hops[0]? = some (0, 0, 2) ∧ going.kind ≠ 3 ∧ going.kind ≠ 5 ∧
    twoLeft.viewPort going.part 2 = some 2 ∧ twoLeft.passes going.part 0 (some (302, 0)) (twoLeft.portAt 2) ∧ (1 : Nat) ≠ 0 ∧
    twoLeft.viewPort going.part 15 = some 15 ∧ twoLeft.viewPort going.part 16 = none :=
  ⟨rfl, rfl, by decide, rfl, by decide, by decide, rfl, passes_of.mp (by decide +kernel), by decide, rfl, rfl⟩
theorem test_Packets_leaves : let p : Packet := { going with hp := 1, inPort := some (2, 0) }
    p.legs = [] ∧ 0 < p.hp ∧ p.hp < p.hc ∧ p.inPort = some (2, 0) ∧ ∀ e ∈ twoLeft.topo, ¬ (e.mod = twoLeft.module_ ∧ e.port = 2) :=
  ⟨rfl, by decide, by decide, rfl, fun e he => absurd he (by simp [twoLeft, counted, State.withJob1, paged, bare, State.reset])⟩
theorem test_Packets_flit : going.part < 2 ^ 16 ∧ going.src < 1024 ∧ going.dst < 1024 ∧ going.kind < 2 ^ 8 ∧ going.payload.length ≤ 4096 ∧
    going.seq < 2 ^ 32 ∧ going.k0 < 2 ^ 64 ∧ going.k1 < 2 ^ 64 ∧ signalHere.k1 < 2 ^ 32 ∧ (1 : Nat) < 15 ∧ going.hops[1]? = some (0, 1, 5) := by decide
/-! ### Token output -/

/-- The `n` bytes at `a`, in words of 8, are off-core at `pa` on, and hold `v`. -/
def physBlock (s : State) (a n pa leaf v : Nat) : Bool :=
  (blockWords a n).all (fun w => w.2 = 8 && onPhys s (w.1 % 2 ^ 64) 8 1 (pa + (w.1 - a)) leaf) &&
    ((blockWords a n).map (fun w => leNat ((upFrom (pa + (w.1 - a)) 8).map s.peek) * 2 ^ (8 * (w.1 - a)))).sum = v

theorem blockHolds_phys {s : State} {a n pa leaf v : Nat} (h : physBlock s a n pa leaf v = true) : s.blockHolds 1 a n v := by
  simp only [physBlock, Bool.and_eq_true, decide_eq_true_eq, List.all_eq_true] at h
  obtain ⟨hw, hv⟩ := h
  refine ⟨Nat.mod_one a, fun x => leNat ((upFrom (pa + (x - a)) 8).map s.peek), fun w hk => ?_, hv.symm⟩
  rw [(hw w hk).1]
  exact (loads_phys (hw w hk).2).2

/-- The bytes `bs` stand in the hart's scratchpad from `off` on, checked 64 at a time. -/
def ownBytes (s : State) (off : Nat) (bs : List Byte) : Bool :=
  (List.range (bs.length / 64 + 1)).all (fun j =>
    ((upFrom (off + 64 * j) (min 64 (bs.length - 64 * j))).map (mapGet 0 s.hart.scratch)) = (bs.drop (64 * j)).take 64)

theorem upFrom_get (n : Nat) : ∀ a k, k < n → (upFrom a n)[k]? = some (a + k) := by
  induction n with
  | zero => intro a k h; omega
  | succ n ih =>
    intro a k h
    cases k with
    | zero => rfl
    | succ k => simp [upFrom, ih (a + 1) k (by omega)]; omega

theorem bytes_own {s : State} {off : Nat} {bs : List Byte} (h : ownBytes s off bs = true) (k : Nat) (hk : k < bs.length) :
    mapGet 0 s.hart.scratch (off + k) = bs[k] := by
  simp only [ownBytes, List.all_eq_true, List.mem_range, decide_eq_true_eq] at h
  have hj := congrArg (fun l : List Byte => l[k % 64]?) (h (k / 64) (by omega))
  rw [List.getElem?_map, upFrom_get _ _ _ (by omega), List.getElem?_take_of_lt (by omega), List.getElem?_drop] at hj
  have e1 : off + 64 * (k / 64) + k % 64 = off + k := by omega
  have e2 : 64 * (k / 64) + k % 64 = k := by omega
  rw [e1, e2, List.getElem?_eq_getElem hk, Option.map_some, Option.some.injEq] at hj
  exact hj

theorem mapGet_past {m : List Host.Cell} {k : Nat} (h : ∀ c ∈ m, c.1 < k) : mapGet 0 m k = 0 := by
  induction m with
  | nil => rfl
  | cons c r ih =>
    have := h c (List.mem_cons_self ..)
    rw [mapGet, if_neg (by omega), if_neg (by omega)]
    exact ih fun d hd => h d (List.mem_cons_of_mem _ hd)

theorem bytes_zeros {s : State} {off n : Nat} {xs : List Byte} (h : ownBytes s off xs = true) (hz : ∀ c ∈ s.hart.scratch, c.1 < off + xs.length)
    (k : Nat) (hk : k < (xs ++ List.replicate n 0).length) : mapGet 0 s.hart.scratch (off + k) = (xs ++ List.replicate n (0 : Byte))[k] := by
  by_cases hx : k < xs.length
  · rw [bytes_own h k hx, List.getElem_append_left hx]
  · rw [List.getElem_append_right (by omega), List.getElem_replicate]
    exact mapGet_past fun c hc => by have := hz c hc; omega

theorem engineHolds_of {s : State} {off : Nat} {bs : List Byte} (hf : s.hart.fq = []) (hp : s.hart.poison = [])
    (hl : off + bs.length ≤ 256 * s.hart.sprows) (hr : s.hart.sprows ≤ 8192 - 1)
    (h : ∀ k (hk : k < bs.length), mapGet 0 s.hart.scratch (off + k) = bs[k]) : s.engineHolds (ownAddr off) bs := by
  intro k b hb
  obtain ⟨hk, rfl⟩ := List.getElem?_eq_some_iff.mp hb
  have ha : (ownAddr off + k) % 2 ^ 64 = ownAddr (off + k) := by
    simp only [ownAddr]
    omega
  rw [ha]
  refine ⟨Nat.mod_one _, .inl ⟨off + k, own_place (by omega), ⟨?_, by simp [hp]⟩, ?_⟩⟩
  · simp [Hart.scratchOk, hf]
    omega
  · simp only [Hart.readScratch, upFrom, List.map_cons, List.map_nil, leNat]
    exact (congrArg BitVec.toNat (h k hk)).symm.trans (by simp)

theorem engineHolds_own {s : State} {off : Nat} {bs : List Byte} (hf : s.hart.fq = []) (hp : s.hart.poison = [])
    (hl : off + bs.length ≤ 256 * s.hart.sprows) (hr : s.hart.sprows ≤ 8192 - 1) (h : ownBytes s off bs = true) : s.engineHolds (ownAddr off) bs :=
  engineHolds_of hf hp hl hr (bytes_own h)

/-- An address is virtual, under its own name. -/
def isVirt (a : Nat) : Bool := match place a with
  | .ok (.virt v) => v = a
  | _ => false

theorem virt_of {a : Nat} (h : isVirt a = true) : place a = .ok (.virt a) := by
  unfold isVirt at h
  generalize place a = q at h ⊢
  cases q with
  | error x => simp at h
  | ok y => cases y with
    | virt v => simp only [decide_eq_true_eq] at h; rw [h]
    | _ => simp at h

/-- The `n` bytes at `a` are writable, at `p` on in the host window. -/
def onRing (s : State) (a n p leaf : Nat) : Bool :=
  (List.range n).all (fun k => isVirt ((a + k) % 2 ^ 64) && givesPhys s ((a + k) % 2 ^ 64) 2 (p + k) leaf) && s.claims.isEmpty &&
    decide (Config.hostBase ≤ leaf / 2 ^ 8 % 2 ^ 44 * 256) && leaf / 16 % 2 = 0

theorem ringAt_of {s : State} {a n p leaf : Nat} (h : onRing s a n p leaf = true) : s.ringAt a ((List.range n).map (p + ·)) := by
  intro k q hq
  simp only [onRing, Bool.and_eq_true, decide_eq_true_eq, List.all_eq_true, List.mem_range, List.isEmpty_iff] at h
  obtain ⟨⟨⟨hw, hc⟩, hb⟩, hs⟩ := h
  simp only [List.getElem?_map, Option.map_eq_some_iff] at hq
  obtain ⟨i, hi, rfl⟩ := hq
  obtain ⟨hk, rfl⟩ := List.getElem?_eq_some_iff.mp hi
  rw [List.getElem_range]
  simp only [List.length_range] at hk
  obtain ⟨hp, ht⟩ := hw k hk
  exact ⟨virt_of hp, by simp [State.raceAt, hc], leaf, translates_of ht, hb, hs⟩

/-- The nonzero bytes of a list as cells from `base` on. -/
def cells (base : Nat) (bs : List Byte) : List Host.Cell := ((upFrom base bs.length).zip bs).filter (fun c => c.2 ≠ 0)

/-- The channel of `logger`, with its tail and head. -/
def channel (chan tail head : Nat) : Descriptor := ⟨0x40001000, 4096, 0x40000000, tail, head, chan, 2, 7, 3⟩

theorem channel_legal {chan tail head : Nat} (hc : chan < 2 ^ 16) (ht : tail % 64 = 0 ∧ tail < 2 ^ 63) (hh : head < 2 ^ 64) :
    (channel chan tail head).legal where
  ring := ⟨(by decide : 0x40001000 % 4096 = 0), (by decide : 0x40001000 < 2 ^ 64)⟩
  size := ⟨12, by decide, by decide, by simp [channel]⟩
  tailp := ⟨(by decide : 0x40000000 % 8 = 0), (by decide : 0x40000000 < 2 ^ 64)⟩
  tail := by simp only [channel]; omega
  head := by simpa [channel] using hh
  rest := by simp only [channel]; omega

/-- A hart with channel `c` at 0x40000 and these bytes in its scratchpad; x5 names the descriptor, x6 the record. -/
def logger (c : Descriptor) (record : List Host.Cell) : State := { State.withJob1 paged { job1 with chmask := 1 } with
  mem := tables ++ cells 0x40000 (leBytes c.word 64)
  hart := { hart1 with scratch := record, x := [(5, 0x40000), (6, own 256)] } }

theorem logger_opens {s : State} {c : Descriptor} (hc : c.legal) (hx : (s.hart.getX 5).toNat = 0x40000)
    (h : (s.readPhys 0x40000 64 = c.word && physBlock s 0x40000 64 0x40000 0x0f c.word && givesPhys s 0x40000 1 0x40000 0x0f) = true) :
    s.opens 5 0x40000 c := by
  simp only [Bool.and_eq_true, decide_eq_true_eq] at h
  obtain ⟨⟨h1, h2⟩, h3⟩ := h
  rw [State.opens, hx]
  exact ⟨⟨hc, by decide, h1⟩, blockHolds_phys h2, rfl, _, translates_of h3, by decide⟩

/-- A LOGPUB header of `text` bytes of text. -/
def header (text : Nat) : List Byte := List.replicate 20 0 ++ leBytes text 4 ++ List.replicate 8 0

theorem quiet_of {s : State} (h : s.hart.inSegment = false) (he : s.hart.engine = []) (hw : s.hart.wcb = []) (ha : s.hart.wcbAge = [])
    (hx : s.xlat = []) : s.quiet := ⟨h, he, ⟨hw, ha⟩, fresh_of_xlat hx⟩

theorem test_TokenOutput_log : let c := channel 0xffff 0 0
    let s := logger c []
    (s.hart.getX 6).toNat = ownAddr 256 ∧ s.quiet ∧ s.opens 5 0x40000 c ∧ c.chan = 0xffff ∧ (s.chanAt 0x40000).queue = [] ∧ (header 0).length = 32 ∧
      s.engineHolds (ownAddr 256) (header 0 ++ []) ∧ recordSize 32 ≤ c.size ∧
      (∃ pas tp, s.ringAt c.tailp tp ∧ tp.length = 8 ∧ s.ringAt (c.ring + c.tail % c.size) pas ∧ pas.length = 64 ∧ c.head ≤ c.tail + 64 ∧
        c.tail + 64 ≤ c.head + c.size) :=
  ⟨by decide, quiet_of rfl rfl rfl rfl rfl, logger_opens (channel_legal (by decide) (by decide) (by decide)) rfl (by decide +kernel), rfl, rfl, rfl,
    engineHolds_own rfl rfl (by decide +kernel) (by decide) (by decide +kernel), by decide,
    _, _, ringAt_of (n := 8) (p := 2 ^ 51) (leaf := 0x0f + 2 ^ 51) (by decide +kernel), by simp,
    ringAt_of (n := 64) (p := 2 ^ 51 + 0x1000) (leaf := 0x0f + 2 ^ 51) (by decide +kernel), by simp, by decide, by decide⟩
theorem test_TokenOutput_full : let c := channel 0xffff 4096 0
    (logger c []).opens 5 0x40000 c ∧ c.head + c.size < c.tail + 64 :=
  ⟨logger_opens (channel_legal (by decide) (by decide) (by decide)) rfl (by decide +kernel), by decide⟩
theorem test_TokenOutput_pad : let c := channel 0xffff 4032 0
    let s := logger c [(276, 40)]
    s.opens 5 0x40000 c ∧ s.engineHolds (ownAddr 256) (header 40 ++ List.replicate 40 0) ∧ recordSize (32 + 40) = 128 ∧
      (∃ pas, s.ringAt (c.ring + c.tail % c.size) pas ∧ pas.length = 64) ∧ (∃ more, s.ringAt c.ring more ∧ more.length = 128) ∧
      c.head ≤ c.tail + 64 ∧ c.tail + 64 ≤ c.head + c.size ∧ c.head + c.size < c.tail + 64 + 128 :=
  ⟨logger_opens (channel_legal (by decide) (by decide) (by decide)) rfl (by decide +kernel), engineHolds_own rfl rfl (by decide +kernel) (by decide) (by decide +kernel), by decide,
    ⟨_, ringAt_of (n := 64) (p := 2 ^ 51 + 0x1fc0) (leaf := 0x0f + 2 ^ 51) (by decide +kernel), by simp⟩,
    ⟨_, ringAt_of (n := 128) (p := 2 ^ 51 + 0x1000) (leaf := 0x0f + 2 ^ 51) (by decide +kernel), by simp⟩, by decide, by decide, by decide⟩
theorem test_TokenOutput_long : let c := channel 0xffff 0 0
    let s := logger c [(277, 16)]
    s.quiet ∧ s.opens 5 0x40000 c ∧ s.engineHolds (ownAddr 256) (header 4096 ++ List.replicate 4096 0) ∧ fieldOf (header 4096) 20 4 = 4096 ∧
      c.size < recordSize (32 + 4096) ∧ s.hart.plain :=
  ⟨quiet_of rfl rfl rfl rfl rfl, logger_opens (channel_legal (by decide) (by decide) (by decide)) rfl (by decide +kernel),
    engineHolds_of rfl rfl (by rw [List.length_append, List.length_replicate, show (header 4096).length = 32 from rfl]; decide) (by decide) (bytes_zeros (by decide +kernel) (by decide)), by decide, by decide, by decide, by decide, by decide⟩
theorem test_TokenOutput_completion : let c := channel 0 0 0
    let s := logger c []
    s.opens 5 0x40000 c ∧ s.jobOf s.hart.slot = some { job1 with chmask := 1 } ∧ c.chan < 16 ∧ (1 : Nat).testBit c.chan = true ∧
      ([] : List Byte).length = entriesSize (fieldOf (header 0) 4 4) [] :=
  ⟨logger_opens (channel_legal (by decide) (by decide) (by decide)) rfl (by decide +kernel), rfl, by decide, by decide, by decide⟩
/-- A completion record's header of one entry, and an entry of 1,024 tokens. -/
def longEntry : List Byte × List Byte := ([0, 0, 0, 0, 1] ++ List.replicate 27 0, [0, 0, 0, 0, 0, 4] ++ List.replicate 4098 0)
theorem longEntry_length : longEntry.2.length = 4104 := by
  simp only [longEntry, List.length_append, List.length_replicate, List.length_cons, List.length_nil]

theorem test_TokenOutput_long_completion : let c := channel 0 0 0
    let s := logger c [(260, 1), (293, 4)]
    longEntry.1.length = 32 ∧ s.engineHolds (ownAddr 256) (longEntry.1 ++ longEntry.2) ∧
      longEntry.2.length = entriesSize (fieldOf longEntry.1 4 4) longEntry.2 ∧ c.size < recordSize (32 + longEntry.2.length) :=
  ⟨by decide, engineHolds_of rfl rfl (by rw [List.length_append, longEntry_length]; decide) (by decide) (by
    rw [show longEntry.1 ++ longEntry.2 = ([0, 0, 0, 0, 1] ++ List.replicate 27 0 ++ [0, 0, 0, 0, 0, 4]) ++ List.replicate 4098 0 from (List.append_assoc ..).symm]
    exact bytes_zeros (by decide +kernel) (by decide)), by rw [longEntry_length]; decide +kernel, by rw [longEntry_length]; decide⟩

/-- A record of the hart that waits in the channel at 0x40000. -/
def waits1 : LogReq := ⟨1, List.replicate 64 0, 0, true, upFrom Config.hostBase 64, upFrom (Config.hostBase + 4096) 8⟩
/-- `logger` with that record waiting. -/
def logWaiting (acc : Bool) : State := { logger (channel 0 0 0) [] with
  chans := [⟨0x40000, 1, [waits1]⟩], hart := { hart1 with status := .logPub acc } }
theorem test_TokenOutput_write (acc : Bool) : let s := logWaiting acc
    s.channelAt 0x40000 (channel 0 0 0) ∧ s.chanAt 0x40000 = ⟨0x40000, (s.chanAt 0x40000).count, [waits1]⟩ ∧
      s.chans.find? (fun x => x.queue.any (fun r => r.hid = waits1.hid)) = some (s.chanAt 0x40000) ∧ waits1.hid = s.hart.hid ∧
      s.hart.status = .logPub acc ∧ waits1.bytes.length ≤ (channel 0 0 0).size ∧ (s.chanAt 0x40000).count ≠ 0 ∧ (channel 0 0 0).mtimer ≠ 0 ∧
      (∀ b ∈ waits1.pas ++ waits1.tp, Config.hostBase ≤ b) ∧ (channel 0 0 0).head ≤ (channel 0 0 0).tail + waits1.bytes.length ∧
      (channel 0 0 0).tail + waits1.bytes.length ≤ (channel 0 0 0).head + (channel 0 0 0).size :=
  ⟨⟨channel_legal (by decide) (by decide) (by decide), by decide, by cases acc <;> decide +kernel⟩, rfl, rfl, rfl, rfl, by decide, by cases acc <;> decide,
    by decide, by decide +kernel, by decide, by decide⟩
theorem test_TokenOutput_no_timer : (logger (channel 0 0 0) []).channelAt 0x40000 (channel 0 0 0) ∧
    ((logger (channel 0 0 0) []).chanAt 0x40000).count = 0 :=
  ⟨⟨channel_legal (by decide) (by decide) (by decide), by decide, by decide +kernel⟩, rfl⟩


/-! ### Context areas -/

/-- A hart with 64 slots, no tile and no scratchpad, and x5 0x20000, x6 5, x7 an aperture address. -/
def saver : State := { paged with hart := { hart1 with poolpart := 2, x := [(5, 0x20000), (6, 5), (7, 0xffffffffe0200000), (8, 64)] } }

theorem bits_zero {x h l : Nat} (hx : x < 2 ^ l) : bits x h l = 0 := by
  simp [bits, Nat.div_eq_of_lt hx]

theorem walk_table {s : State} {va l e : Nat} (hp : s.poisoned = [])
    (he : e % 2 ≠ 0 ∧ bits e 3 1 = 0 ∧ bits e 63 52 = 0 ∧ bits e 11 8 = 0 ∧ bits e 7 5 = 0 ∧ bits e 51 8 * 256 < Config.mainBytes) :
    walkEntry s va (l + 1) e = walkEntry s va l (s.readPhys (entryAddr l (bits e 51 8 * 256) va) 8) := by
  obtain ⟨h1, h2, h3, h4, h5, h6⟩ := he
  rw [walkEntry]
  simp [h1, h2, h3, h4, h5, Nat.not_le.mpr h6, State.readEntry, State.poisonAt, hp]

theorem entry_first {l t va : Nat} (h : bits va (20 + 9 * (l + 1)) (12 + 9 * (l + 1)) = 0) : entryAddr (l + 1) t va = t := by
  simp [entryAddr, h]

/-- Below 1 GiB, the job's tables give each address itself. -/
theorem low_translate {s : State} (hs : s.hart.slot = 0) (hl : s.slots = paged.slots) (hx : s.xlat = [])
    (hn : s.poisoned = []) (hq : s.ports = []) (hc : s.hart.cl = 0)
    (h : (s.readPhys 0x10000 8 = 0x11001 && s.readPhys 0x11000 8 = 0x12001 && s.readPhys 0x12000 8 = 0x0f) = true) {va perm : Nat}
    (hv : va < 2 ^ 30) (hp : bits 0x0f perm perm = 1) : s.translate s.hart.slot va perm = .ok (va, 0x0f) := by
  simp only [Bool.and_eq_true, decide_eq_true_eq] at h
  obtain ⟨⟨h0, h1⟩, h2⟩ := h
  have hj : s.jobOf 0 = some job1 := by simp only [State.jobOf, State.slotOf, hl]; rfl
  have ha : leafPa 30 0x0f va = va := by
    have : bits 0x0f 51 8 = 0 := by decide
    simp only [leafPa, this]
    omega
  have hm : va < Config.mainBytes := by simp only [Config.mainBytes]; omega
  have hw : s.walk 0 va = .ok (30, 0x0f) := by
    have b3 : bits va 56 48 = 0 := bits_zero (by omega)
    have b2 : bits va 47 39 = 0 := bits_zero (by omega)
    have b1 : bits va 38 30 = 0 := bits_zero (by omega)
    have hr : ∀ a, s.readEntry a = .ok (s.readPhys a 8) := fun a => by simp [State.readEntry, State.poisonAt, hn]
    simp only [State.walk, hj, hr]
    rw [show job1.pgroot = 0x10000 from rfl, entry_first (l := 3) b3, h0, walk_table hn (l := 3) (by decide), entry_first (l := 2) b2,
      show bits 0x11001 51 8 * 256 = 0x11000 by decide, h1, walk_table hn (l := 2) (by decide), entry_first (l := 1) b1,
      show bits 0x12001 51 8 * 256 = 0x12000 by decide, h2, walkEntry, if_neg (by decide), if_pos (by decide), leafEntry,
      show levelBits (1 + 1) = 30 from rfl, ha]
    simp [physExists, hm, show checkLeaf 2 0x0f = .ok () from rfl]
  have hg : s.accessPasses (s.slotOf 0).part s.hart.cl va (bits 0x0f 7 5) = true := by
    have hl' : s.legsCheck (s.slotOf 0).part none (hubLegs 0 0 0) = none := by
      rw [State.legsCheck_congr (s := paged) hq hl, show (s.slotOf 0).part = (paged.slotOf 0).part by simp only [State.slotOf, hl]]
      decide +kernel
    have hb : va < Config.hostBase := by simp only [Config.hostBase]; omega
    rw [hc, show bits 0x0f 7 5 = 0 by decide]
    simp [State.accessPasses, hl', hb]
  have hq : s.secureAt 0 va = false := by
    have hd : va / 65536 ≤ 0x3fff := by omega
    have hr : (s.slotOf 0).regions = [⟨true, false, 0, 0x3fff⟩] := by simp only [State.slotOf, hl]; rfl
    simp [State.secureAt, hr, hd]
  have hb : bits 0x0f 4 4 = 0 := by decide
  rw [hs]
  simp only [State.translate, State.translateWith, State.pageOf, State.entryFor, State.entryIn, State.staleIn, hx, List.isEmpty_nil, if_true, hw, ha, hq, hb]
  simp [hp, hm, hg]

theorem areaAt_of {s : State} {a n perm : Nat} (hs : s.hart.slot = 0) (hl : s.slots = paged.slots) (hx : s.xlat = []) (hc : s.claims = [])
    (hn : s.poisoned = []) (hq : s.ports = []) (hk : s.hart.cl = 0)
    (h : (s.readPhys 0x10000 8 = 0x11001 && s.readPhys 0x11000 8 = 0x12001 && s.readPhys 0x12000 8 = 0x0f) = true)
    (hv : a < 2 ^ 30) (hp : bits 0x0f perm perm = 1) : s.areaAt (a % 2 ^ 64) n perm a := by
  have h1 : a % 2 ^ 64 = a := by omega
  have h2 : bits a 63 56 = 0 := bits_zero (by omega)
  have hj : s.jobOf 0 = some job1 := by simp only [State.jobOf, State.slotOf, hl]; rfl
  rw [h1]
  refine ⟨?_, ⟨_, low_translate hs hl hx hn hq hk h hv hp, fun j e => ?_⟩, by simp [State.raceAt, hc]⟩
  · have hc : canonical a = true := by simp [canonical, h2]
    have hi : inAperture a = false := by simp [inAperture]; omega
    simp [place, hc, hi]
  · rw [hs, hj] at e
    cases e
    rfl

/-- The area that `saver` writes. -/
def area : List Byte := saver.areaBytes (saver.hart.pc.toNat + 4) false

theorem saver_length : area.length = 22176 := by decide +kernel

theorem test_ContextInstructions_save : saver.quiet ∧ saver.hart.held = [] ∧ (saver.hart.getX 5).toNat % 4096 = 0 ∧
    inAperture (saver.hart.getX 5).toNat = false ∧
    ∀ k, 8 * k < area.length →
      saver.areaAt (((saver.hart.getX 5).toNat + 8 * k) % 2 ^ 64) (min 8 (area.length - 8 * k)) 2 (0x20000 + 8 * k) := by
  refine ⟨quiet_of rfl rfl rfl rfl rfl, rfl, by decide, by decide, fun k hk => ?_⟩
  have hx : (saver.hart.getX 5).toNat = 0x20000 := by decide
  rw [hx]
  rw [saver_length] at hk
  exact areaAt_of rfl rfl rfl rfl rfl rfl rfl (by decide +kernel) (by omega) (by decide)

/-- `saver` with its own area at 0x20000. -/
def loader : State := { saver with mem := tables ++ cells 0x20000 area }

theorem mapGet_above {m : List Host.Cell} {k : Nat} (h : ∀ c ∈ m, k < c.1) : mapGet 0 m k = 0 := by
  cases m with
  | nil => rfl
  | cons c r =>
    have := h c (List.mem_cons_self ..)
    rw [mapGet, if_neg (by omega), if_pos (by omega)]

theorem cells_above (bs : List Byte) : ∀ base, ∀ c ∈ cells base bs, base ≤ c.1 := by
  intro base c hc
  simp only [cells, List.mem_filter] at hc
  have h := (List.of_mem_zip hc.1).1
  generalize bs.length = n at h
  clear hc
  induction n generalizing base with
  | zero => simp [upFrom] at h
  | succ n ih =>
    rcases List.mem_cons.mp h with h | h
    · omega
    · have := ih _ h
      omega

theorem mapGet_cells (bs : List Byte) : ∀ base i, mapGet 0 (cells base bs) (base + i) = bs.getD i 0 := by
  induction bs with
  | nil => intro base i; rfl
  | cons b bs ih =>
    intro base i
    have e : cells base (b :: bs) = if b = 0 then cells (base + 1) bs else (base, b) :: cells (base + 1) bs := by
      by_cases hb : b = 0
      · simp [cells, upFrom, hb]
      · rw [if_neg hb]
        simp only [cells, upFrom, List.length_cons, List.zip_cons_cons]
        rw [List.filter_cons_of_pos (by simpa using hb)]
    rw [e]
    cases i with
    | zero =>
      split
      · rename_i hb
        rw [mapGet_above (fun c hc => by have := cells_above bs _ c hc; omega)]
        simp [hb]
      · simp [mapGet]
    | succ i =>
      have h := ih (base + 1) i
      have e2 : base + (i + 1) = base + 1 + i := by omega
      rw [e2]
      split
      · simpa using h
      · rw [mapGet, if_neg (by omega), if_neg (by omega)]
        simpa using h

theorem mapGet_after {l r : List Host.Cell} {k : Nat} (h : ∀ c ∈ l, c.1 < k) : mapGet 0 (l ++ r) k = mapGet 0 r k := by
  induction l with
  | nil => rfl
  | cons c l ih =>
    have := h c (List.mem_cons_self ..)
    rw [List.cons_append, mapGet, if_neg (by omega), if_neg (by omega)]
    exact ih fun d hd => h d (List.mem_cons_of_mem _ hd)

theorem upFrom_length (n : Nat) : ∀ a, (upFrom a n).length = n := by
  induction n with
  | zero => intro a; rfl
  | succ n ih => intro a; simp [upFrom, ih]

theorem loader_byte (i : Nat) : loader.readByte (0x20000 + i) = area.getD i 0 := by
  have h : ∀ c ∈ tables, c.1 < 0x20000 + i := by
    intro c hc
    have : c.1 < 0x20000 := (by decide : ∀ c ∈ tables, c.1 < 0x20000) c hc
    omega
  have hd : loader.readByte (0x20000 + i) = mapGet 0 loader.mem (0x20000 + i) := rfl
  rw [hd]
  exact (mapGet_after h).trans (mapGet_cells ..)

theorem test_ContextInstructions_load : loader.quiet ∧ 64 ≤ area.length ∧ area.length ≤ 4194304 ∧
    fieldOf area 8 8 = area.length ∧ loader.hart.acceptArea area ≠ none ∧
    ∀ k, 8 * k < area.length → loader.areaAt (((loader.hart.getX 5).toNat + 8 * k) % 2 ^ 64) (min 8 (area.length - 8 * k)) 1
        (0x20000 + 8 * k) ∧ loader.poisonAt (0x20000 + 8 * k) (min 8 (area.length - 8 * k)) = none ∧
      (upFrom (0x20000 + 8 * k) (min 8 (area.length - 8 * k))).map loader.readByte = (area.drop (8 * k)).take 8 := by
  have hx : (loader.hart.getX 5).toNat = 0x20000 := by decide
  refine ⟨quiet_of rfl rfl rfl rfl rfl, by rw [saver_length]; decide, by rw [saver_length]; decide, by rw [saver_length]; decide +kernel, by decide +kernel,
    fun k hk => ⟨?_, by simp [State.poisonAt, loader, saver, paged, bare, State.reset], ?_⟩⟩
  · rw [hx]
    rw [saver_length] at hk
    exact areaAt_of rfl rfl rfl rfl rfl rfl rfl (by decide +kernel) (by omega) (by decide)
  · rw [saver_length] at hk ⊢
    apply List.ext_getElem?
    intro i
    by_cases hi : i < 8
    · rw [List.getElem?_map, upFrom_get _ _ _ (by omega), List.getElem?_take_of_lt hi, List.getElem?_drop, Option.map_some, Nat.add_assoc, loader_byte]
      have hl : 8 * k + i < area.length := by rw [saver_length]; omega
      simp [hl]
    · have h1 : ((upFrom (0x20000 + 8 * k) (min 8 (22176 - 8 * k))).map loader.readByte).length ≤ i := by
        rw [List.length_map, upFrom_length]; omega
      rw [List.getElem?_eq_none h1, List.getElem?_eq_none (by simp; omega)]
theorem test_ContextInstructions_refused : saver.hart.inSegment = false ∧ saver.hart.plain ∧ (saver.hart.getX 6).toNat % 4096 ≠ 0 ∧
    (saver.hart.getX 7).toNat % 4096 = 0 ∧ inAperture (saver.hart.getX 7).toNat = true ∧ saver.hart.engine = [] ∧ mapWf 0 saver.claims = true :=
  ⟨rfl, ⟨by decide, by decide, by decide⟩, by decide, by decide, by decide, rfl, rfl⟩

/-! ### Jobs -/

/-- A job descriptor: tables at 0x10000, its phase list at 0x50100, its launch block at 0x50200. -/
def desc1 : JobDesc := ⟨false, false, 0x10000, 0x50400, 0x50100, 1, 0, 0x50200, 0, 0x50300⟩
/-- Its phase, on cluster 0. -/
def begins : Phase := ⟨false, 12, 1, 0, 0, 0, .running, false⟩
/-- A module that is ready, whose slot 0 has a partition and no job; the descriptor stands at 0x50000. -/
def idle : State := { bare with
  mem := tables ++ cells 0x50000 (leBytes desc1.word 64) ++ cells 0x50100 (leBytes (phaseWord begins) 16) ++ cells 0x50200 (leBytes block1.word 64)
  readyReg := 0xffff
  slots := [{ slot1 with st := 0, job := none }, JobSlot.empty, JobSlot.empty, JobSlot.empty, JobSlot.empty, JobSlot.empty] }

/-- `idle` with the start of that descriptor begun in slot 0. -/
def started : State := { idle with
  slots := [{ slot1 with st := 1, desc := 0x50000, job := none }, JobSlot.empty, JobSlot.empty, JobSlot.empty, JobSlot.empty, JobSlot.empty] }

theorem started_low (k : Nat) (hk : k < 64) : 0x50000 + k < Config.mainBytes ∧ started.secureAt 0 (0x50000 + k) = false :=
  ⟨by simp only [Config.mainBytes]; omega, (by decide +kernel : ∀ k, k < 64 → started.secureAt 0 (0x50000 + k) = false) k hk⟩

theorem test_JobControl_start : started.startable 0 0x50000 desc1 [begins] where
  begun := ⟨by decide, rfl, rfl⟩
  bound := by decide
  ready := by
    rintro b (⟨h, _⟩ | h | h | h)
    · exact (by decide : ∀ b, b < 6 → (0xffff : Word).getLsbD b = true) b h
    all_goals subst h; decide
  place := ⟨by decide, started_low⟩
  holds := by decide +kernel
  legal := ⟨by decide, by decide, .inl (by decide), by decide, by decide, by decide, by decide, by decide⟩
  number := rfl
  phases := fun k p h => by
    cases k with
    | zero =>
      cases h
      exact ⟨by decide +kernel, ⟨by decide, by decide, ⟨by decide, fun h => absurd h (by decide)⟩, by decide, by decide⟩⟩
    | succ k => simp at h
  secure := fun h => by simp [desc1] at h
theorem test_JobControl_block : let j := desc1.job [begins] ((upFrom 0x50000 64).map started.readByte ++ [begins].flatMap (fun p => leBytes (phaseWord p) 16))
    (started.updSlot 0 (fun sl => { sl with job := some j })).jobRange 0 desc1.lb 64 1 = some (upFrom 0x50200 64) ∧
      (∀ q ∈ upFrom 0x50200 64, ∀ l ∈ started.poisoned, l.1 ≠ lineOf q) ∧ leNat ((upFrom 0x50200 64).map started.readByte) = block1.word ∧
      block1.legal ∧ (block1.gang = true → block1.harts ≤ 768) ∧ block1.waits = [noHandle, noHandle, noHandle, noHandle] ∧ begins.clus.testBit 0 = true :=
  ⟨by decide +kernel, by decide +kernel, by decide +kernel, block1_legal _ (by decide), by decide, rfl, by decide⟩
theorem test_JobControl_refused : (idle.slots.length = 6 ∧ (idle.slotOf 0).st = 0) ∧
    (let s : State := { started with slots := started.slots.map (fun x => { x with st := 1, clus := 0, desc := 64 }) }
     (s.slotOf 5).st = 1 ∧ (s.slotOf 5).desc = 64 ∧ (s.slotOf 5).clus = 0) ∧
    (let s : State := { started with readyReg := 0 }
     0 < (s.slotOf 0).clus ∧ (s.slotOf 0).st = 1 ∧ (s.slotOf 0).desc = 0x50000 ∧ s.readyReg.getLsbD 6 = false) ∧
    (paged.slotOf 0).st = 2 ∧ paged.slots.length = 6 ∧ (paged.slotOf 0).st ≠ 0 ∧ (paged.slotOf 0).st ≠ 4 ∧ (paged.slotOf 0).st ≠ 1 ∧
    (started.slotOf 0).st ≠ 0 ∧ (started.slotOf 0).st ≠ 4 := by decide +kernel
theorem test_JobControl_binding : idle.mayBind 1 2 2 ∧ idle.mayBind 0 0 0 ∧ ¬ idle.mayBind 1 0xffff 2 ∧ ¬ idle.mayBind 1 2 1 ∧
    (2 : Nat) < 65536 ∧ (2 : Nat) < 64 ∧ (paged.slotOf 0).st ≠ 0 ∧ (paged.slotOf 0).st ≠ 4 := by
  refine ⟨⟨by decide, by decide, .inr ⟨by decide, by decide +kernel⟩⟩, ⟨by decide, by decide, .inl rfl⟩, ?_, ?_, by decide, by decide, by decide, by decide⟩
  · rintro ⟨_, _, h | ⟨h, _⟩⟩
    · exact absurd h (by decide)
    · exact h rfl
  · rintro ⟨_, _, h | ⟨_, h⟩⟩
    · exact absurd h (by decide)
    · exact absurd (h 0 (by decide) (by decide) (by decide)).1 (by decide)
theorem test_JobControl_link : (∀ i, i < 6 → ∀ j, paged.jobOf i = some j → j.sec = false) ∧
    (let s : State := { paged with slots := [{ slot1 with job := some { job1 with sec := true } }] }
     s.jobOf 0 = some { job1 with sec := true } ∧ (s.slotOf 0).tdisp = false ∧ s.record 0 3 0 = some (1, .running)) := by
  refine ⟨fun i hi j hj => ?_, rfl, rfl, rfl⟩
  obtain rfl | rfl | rfl | rfl | rfl | rfl : i = 0 ∨ i = 1 ∨ i = 2 ∨ i = 3 ∨ i = 4 ∨ i = 5 := by omega
  all_goals cases hj
  rfl
theorem test_JobControl_control : (paged.slotOf 0).st = 2 ∧ paged.record 0 3 0 = some (1, .running) ∧ (idle.slotOf 0).st ≠ 1 ∧ (idle.slotOf 0).st ≠ 2 ∧
    (let s : State := { idle with slots := [{ slot1 with st := 1, job := none }] }
     (s.slotOf 0).st = 1) ∧ (idle.slotOf 0).tdisp = false ∧ (paged.slotOf 0).st ≠ 1 ∧
    (let s : State := { paged with slots := [{ slot1 with tdisp := true }] }
     (s.slotOf 0).tdisp = true ∧ s.record 0 3 0 = some (1, .running)) := by decide +kernel
theorem test_JobControl_drain : let s : State := { paged with slots := [{ slot1 with sink := true, why := 1 }, JobSlot.empty, JobSlot.empty,
      JobSlot.empty, JobSlot.empty, JobSlot.empty] }
    s.slots.length = 6 ∧ 0 < 6 ∧ (s.slotOf 0).sink = true ∧ (paged.slotOf 0).sink = false ∧ (95 : Nat) < 96 := by decide +kernel

/-! ### The host -/

theorem of_range {p : Nat → Prop} {a n : Nat} (h : ∀ k, k < n → p (a + k)) (b : Nat) (h1 : a ≤ b) (h2 : b < a + n) : p b := by
  have := h (b - a) (by omega)
  rwa [Nat.add_sub_cancel' h1] at this

/-- `paged` with byte 0x20002 claimed. -/
def claimedByte : State := { paged with claims := [(0x20002, 1)] }
theorem claimedByte_first : claimedByte.firstClaimed 0x20000 4 0x20002 :=
  ⟨by decide, by decide, by decide, fun c h1 h2 => by
    obtain rfl | rfl : c = 0x20000 ∨ c = 0x20001 := by omega
    all_goals decide⟩
theorem paged_unclaimed (a n : Nat) : paged.unclaimed a n := fun _ _ _ => rfl

theorem test_HostAccess_registers : paged.bar0 0 0xffff ∧ paged.bar0 0x1008 2 ∧ paged.bar0 0x2008 (0x3fff + 2 ^ 63) :=
  ⟨.inl ⟨rfl, by decide⟩, .inr (.inr (.inr (.inr ⟨0, by decide, .inl ⟨rfl, rfl⟩⟩))),
    .inr (.inr (.inr (.inr ⟨0, by decide, .inr (.inr (.inr ⟨0, _, by decide, rfl, .inr ⟨rfl, by decide⟩⟩))⟩)))⟩
theorem test_HostAccess_dusk : let e : DuskEvent := ⟨0, 0, 11, 7, 0, 0, 9⟩
    let s : State := { bare with dusk := [e], dcnt := 1 }
    s.dsel.toNat < s.dcnt ∧ s.dcnt ≤ s.dsel.toNat + 8192 ∧ s.dusk.find? (fun x => x.n = s.dsel.toNat) = some e ∧ bare.dcnt ≤ bare.dsel.toNat := by
  decide +kernel
theorem test_HostAccess_read : (1 : Nat) ≠ 0 ∧ (∀ b, 0x20000 ≤ b → b < 0x20000 + 4 → paged.reachable b = true) ∧ paged.unclaimed 0x20000 4 ∧
    noWrite paged.hostWait ∧ paged.poisonAt 0x20000 4 = none ∧ paged.reachable (2 ^ 31) = false ∧ paged.chans = [] :=
  ⟨by decide, of_range (by decide +kernel), paged_unclaimed _ _, by simp [noWrite, paged, bare, State.reset], rfl, by decide +kernel, rfl⟩
theorem test_HostAccess_poison : let s : State := { paged with poisoned := [(0x20000, 7)] }
    s.poisonAt 0x20000 4 ≠ none ∧ s.unclaimed 0x20000 4 ∧ (∀ b, 0x20000 ≤ b → b < 0x20000 + 4 → s.reachable b = true) :=
  ⟨by decide, fun _ _ _ => rfl, of_range (by decide +kernel)⟩
theorem test_HostAccess_claimed : (∀ b, 0x20000 ≤ b → b < 0x20000 + 4 → claimedByte.reachable b = true) ∧ claimedByte.firstClaimed 0x20000 4 0x20002 :=
  ⟨of_range (by decide +kernel), claimedByte_first⟩
theorem test_HostAccess_order : let s : State := { paged with hostWait := [.write 0x20000 [1] false] }
    ¬ noWrite s.hostWait ∧ ∀ b, 0x20000 ≤ b → b < 0x20000 + 4 → s.reachable b = true :=
  ⟨fun h => absurd (h _ (List.mem_singleton.mpr rfl)) (by decide), of_range (by decide +kernel)⟩
theorem test_HostAccess_later : let s : State := { paged with
      hostWait := [.read 0x20000 4 1, .write 0x20000 [1] true, .register 8 8 2, .packet putHere, .write 0x20000 [1] false] }
    s.hostWait[0]? = some (.read 0x20000 4 1) ∧ s.unclaimed 0x20000 4 ∧ noWrite (s.hostWait.take 0) ∧ s.poisonAt 0x20000 4 = none ∧
      s.hostWait[1]? = some (.write 0x20000 [1] true) ∧ s.chans = [] ∧ s.hostWait[3]? = some (.packet putHere) ∧ putHere.kind = 1 ∧
      s.waitClaimed (.packet putHere) = false ∧ s.comes putHere ∧ (∀ w ∈ s.hostWait.eraseIdx 3, w.streamOf putHere = false) ∧ s.hostWait.length ≤ 5 :=
  ⟨rfl, fun _ _ _ => rfl, by simp [noWrite], rfl, rfl, rfl, rfl, rfl, by decide +kernel, comes_here ⟨rfl, rfl, rfl⟩, by decide, by decide⟩
theorem test_HostAccess_later_register : let s : State := { paged with hostWait := [.register 8 8 2] }
    s.hostWait[0]? = some (.register 8 8 2) ∧ noWrite (s.hostWait.take 0) ∧ s.bar0 8 0 := ⟨rfl, by simp [noWrite], .inr (.inl ⟨rfl, rfl⟩)⟩
theorem test_HostAccess_timeout : let s : State := { claimedByte with hostWait := [.read 0x20000 4 1, .write 0x20000 [1, 2, 3, 4] false] }
    s.hostWait[0]? = some (.read 0x20000 4 1) ∧ s.hostWait[1]? = some (.write 0x20000 [1, 2, 3, 4] false) ∧ s.firstClaimed 0x20000 4 0x20002 :=
  ⟨rfl, rfl, claimedByte_first⟩
theorem test_HostAccess_window : (0 < Config.hostBase ∨ Config.physEnd < 0 + 4) ∧ Config.hostBase ≤ Config.hostBase ∧
    Config.hostBase + 4 ≤ Config.physEnd ∧ (1 : Nat) ≠ 0 ∧ 0 < 4 ∧ lineOf (Config.hostBase + 4 - 1) = lineOf Config.hostBase := by decide
theorem test_HostAccess_dropped : let s : State := { paged with window := [(Config.hostBase + 1, [7, 1])] }
    (Config.hostBase + 1, [7, 1]) ∈ s.window ∧ ∀ v : List Byte, (Config.hostBase + 1, v) ∈ s.window → v = [7, 1] := ⟨List.mem_singleton.mpr rfl, by simp⟩

/-! ### The security processor, the module -/

/-- A ready security processor with a session and a job whose report area is at 0x20000. -/
def talking : State := { State.withJob1 paged { job1 with rpt := 0x20000 } with
  spdm := ⟨3, [], some (0, List.replicate 64 7), 1⟩ }
theorem test_SpdmResponder : talking.readyReg.getLsbD 8 = true ∧ 3 ≤ talking.spdm.stage ∧ (2 : Nat).testBit 1 = true ∧ (0 : Nat) ≤ 1 ∧
    talking.spdm.session = some (0, List.replicate 64 7) ∧ talking.jobOf 0 = some { job1 with rpt := 0x20000 } ∧
    ({ job1 with rpt := 0x20000 } : Job).rpt ≠ 0 ∧ (talking.slotOf 0).st = 2 ∧ talking.viewRange 0 0x20000 64 = some (upFrom 0x20000 64) :=
  ⟨by decide, by decide, by decide, by decide, rfl, rfl, by decide, rfl, by decide +kernel⟩
theorem test_SpdmResponder_measures : (∃ bs, talking.measures 0 1 bs) ∧ (∃ bs, talking.measures 0 4 bs) ∧ (∃ bs, talking.measures 0 5 bs) ∧
    (∃ bs, talking.measures 0 0 bs) ∧ (∃ bs, talking.measures 0 6 bs) ∧ (∃ bs, talking.measures 0 7 bs) ∧ (idle.slotOf 0).st ≠ 2 :=
  ⟨⟨_, .inl ⟨by decide, by decide, rfl⟩⟩, ⟨_, .inl ⟨by decide, by decide, rfl⟩⟩, ⟨_, .inr (.inl ⟨rfl, rfl⟩)⟩, ⟨_, .inr (.inr (.inl ⟨rfl, rfl⟩))⟩,
    ⟨_, .inr (.inr (.inr (.inl ⟨_, rfl, rfl, rfl⟩)))⟩, ⟨_, .inr (.inr (.inr (.inr ⟨rfl, by decide, rfl⟩)))⟩, by decide⟩
theorem test_SpdmResponder_order : (Instr.finish 0, 3) = (Instr.finish 0, 3) ∧ bare.spdm.stage < 3 := ⟨rfl, by decide⟩

/-- A core whose hart is in a timetable segment. -/
def inSegment1 : State := { inTable with hart := { inTable.hart with time := some ⟨0, 1, 2, 0x30000, 0x30200, 0, 0, true, false, none⟩ } }
theorem test_ModuleEvents_simple : bare.keys = [] ∧ (3 : Nat) < 16 ∧ (3 : Nat) ≠ 8 ∧ (1 : Nat) ≠ 0 ∧ bare.health < 2 ∧ (2 : Nat) ≤ 2 ∧
    (let s : State := { bare with health := 2 }; 1 < s.health) ∧ paged.jobOf 0 = some job1 ∧ bare.jobOf 0 = none := by decide +kernel
theorem test_ModuleEvents_reset : let s : State := { paged with
      keys := [0], slots := [{ slot1 with regions := [⟨true, true, 0, 0x3fff⟩] }] }
    0 ∈ s.keys ∧ (0, 0x40000000) ∈ s.secureMemory 0 ∧ 0 ≤ 0x20000 ∧ 0x20000 < 0x40000000 := by decide +kernel
theorem test_ModuleEvents_scrub : physExists (lineOf 0x20001) = true ∧ paged.homeCluster (lineOf 0x20001) = 0 ∧
    physExists (lineOf Config.hostBase) = true ∧ lineOf Config.hostBase ≥ Config.mainBytes ∧ (lineOf 0x20001) < Config.mainBytes := by decide +kernel
/-- A cable from module port 15 to port 3 of the switch of plane 2. -/
def cable : SwitchPort := ⟨2, 3, 0, 15, 0, 7, 1, true⟩
theorem test_ModuleEvents_view : let s : State := { paged with topo := [] }
    s.jobOf 0 = some job1 ∧ (([cable].foldl mapPort s.topo) ≠ []) ∧ bare.jobOf 0 = none ∧ s.topo = [] ∧
      (let w : State := { s with topo := [cable] }
       w.module_ < 65536 ∧ (w.slotOf 0).part < 65536 ∧ (w.partitionPorts 0)[15]? = some 15 ∧ w.cableOf 15 = some cable ∧ cable.plane < 256 ∧
        cable.sw < 65536 ∧ (w.portAt 15).rko < 256 ∧ (w.portAt 15).rki < 256) := by decide +kernel
theorem test_ModuleEvents_level : let s : State := State.withJob1 paged { job1 with phases := [timedPhase] }
    s.health < 2 ∧ s.slotOfCluster 0 = some 0 ∧ s.timedIn 0 = true ∧ s.hart ∈ s.harts ∧ s.hart.slot < 6 ∧ s.hart.preempted = false :=
  ⟨by decide, rfl, rfl, List.mem_cons_self .., by decide, rfl⟩
theorem inSegment1_resident : ∃ h ∈ inSegment1.harts, h.resident 0 0 = true ∧ h.inSegment = true := ⟨_, List.mem_cons_self .., rfl, rfl⟩
theorem test_ModuleEvents_lanes : (inSegment1.coreOf 0 0) = CoreInfo.start ∧ (64 : Nat) ≤ 64 ∧ (16 : Nat) ≤ 16 ∧ (16 : Nat) < 17 ∧ 63 < 64 ∧ 63 ∉ CoreInfo.start.retired ∧ 5 < 64 ∧ 5 ∉ CoreInfo.start.retired ∧
    (∃ h ∈ inSegment1.harts, h.resident 0 0 = true ∧ h.inSegment = true) ∧
    (∀ h ∈ paged.harts, h.resident 0 0 = true → h.inSegment = false) ∧ 48 < ({ CoreInfo.start with retired := List.range 48 } : CoreInfo).retired.length + 1 := by
  refine ⟨rfl, by decide, by decide, by decide, by decide, by decide, by decide, by decide, inSegment1_resident, fun h hh _ => ?_, by decide⟩
  have : h = hart1 := (by simpa [State.harts, paged, bare, State.reset] using hh : h = hart1 ∧ _).1
  subst this
  rfl
theorem test_ModuleEvents_legacy : let s : State := State.withJob1 paged { job1 with launches := [{ launch1 with block := { block1 with legacy := true } }] }
    s.hart ∈ s.harts ∧ s.hart.resident 0 0 = true ∧ s.legacyOf s.hart = true ∧ s.hart.preempted = false := ⟨List.mem_cons_self .., rfl, rfl, rfl⟩
theorem test_ModuleEvents_lane_count : (∀ h ∈ paged.harts, h.resident 0 0 = true → paged.legacyOf h = false ∧ paged.timedIn h.slot = false ∧
      h.midConvoy = false) ∧ paged.timedCluster 0 = false ∧ 16 ≤ (paged.coreOf 0 0).lmax ∧ (paged.coreOf 0 0).lmax < 65 ∧
    (let s : State := State.withJob1 paged { job1 with phases := [timedPhase] }
     s.timedCluster 0 = true ∧ ∃ h ∈ s.harts, h.resident 0 0 = true ∧ s.timedIn h.slot = true ∧ s.legacyOf h = false) := by
  refine ⟨fun h hh _ => ?_, by decide +kernel, by decide, by decide, by decide +kernel, _, List.mem_cons_self .., rfl, rfl, rfl⟩
  have : h = hart1 := (by simpa [State.harts, paged, bare, State.reset] using hh : h = hart1 ∧ _).1
  subst this
  exact ⟨rfl, rfl, rfl⟩

/-! ### Harts -/

/-- The job of `paged` with its launch still to place, on an empty module. -/
def toPlace : State := { State.withJob1 paged { job1 with launches := [{ launch1 with unplaced := 0, queued := true }] } with hart := Hart.vacant }
theorem test_HartEvents_placement : toPlace.candidate 0 = some (0, { launch1 with unplaced := 0, queued := true }, none) ∧ launch1.block.gang = false ∧
    (0 : Nat) < launch1.block.harts ∧ toPlace.findCore 0 0 launch1.block.part 5 0 0 = some 5 ∧ bare.candidate 0 = none ∧ launch1.block.legacy = false :=
  ⟨rfl, rfl, by decide, by decide +kernel, rfl, rfl⟩
theorem test_HartEvents_resumed : let h : Hart := { hart1 with preempted := true }
    let s : State := { paged with hart := Hart.vacant, others := [h] }
    s.candidate 0 = some (0, launch1, some h) ∧ launch1.block.gang = false ∧ s.findCore h.slot 0 h.poolpart.toNat 191 h.lcore h.launchid = some 191 :=
  ⟨by decide +kernel, rfl, by decide +kernel⟩
/-- A timetabled phase whose image at 0x30300 puts logical core 0 on mesh position (11, 15). -/
def onMesh : State := { State.withJob1 paged { job1 with phases := [{ timedPhase with tt := 0x30300 }] } with
  mem := tables ++ [(0x30300, 1), (0x30309, 4), (0x3030a, 3), (0x30400, 11), (0x30402, 15)], hart := Hart.vacant }
theorem test_HartEvents_mesh : onMesh.findCore 0 0 0x04008040 5 0 0 = some 191 ∧ onMesh.timedCore 0 0 = some 191 := by decide +kernel
theorem test_HartEvents_preemption : (∀ h ∈ gang.others, h.status ≠ .vacant) ∧ ((gang.hart :: gang.others).map (·.hid)).Nodup ∧
    gang.hartOf 2 = some hart2 ∧ hart2.status ≠ .vacant ∧ hart2.preempted = false ∧ hart2.midConvoy = false ∧ hart2.inSegment = false ∧
    hart2.status ≠ .logPub true ∧ gang.awaited 2 = false ∧ hart2.engine = [] ∧ hart2.poison = [] ∧ inTable.hart.inSegment = true ∧ inTable.hartOf 1 = some inTable.hart ∧
    inTable.others = [] ∧ inTable.hart.status ≠ .vacant ∧ inTable.hart.preempted = false :=
  ⟨by decide, by decide, rfl, by decide, rfl, rfl, rfl, by decide, by decide +kernel, rfl, rfl, rfl, rfl, rfl, by decide, rfl⟩
/-- Two ready harts on one core, none in its turn. -/
def twoReady : State := { bare with hart := { hart1 with turnOver := true }, others := [{ hart1 with hid := 2, turnOver := true, order := 1 }] }
theorem test_HartEvents_turn : twoReady.inTurn = false ∧ twoReady.distinct ∧ (∃ h ∈ twoReady.harts, h.ready = true ∧ h.resident 0 0 = true) ∧
    (∀ h ∈ twoReady.harts, ¬ (h.ready = true ∧ h.resident 1 0 = true)) := by
  refine ⟨rfl, ⟨?_, by decide⟩, ⟨_, List.mem_cons_self .., rfl, rfl⟩, fun h hh => ?_⟩
  · simp [twoReady, hart1]
  · have hc : h = { hart1 with turnOver := true } ∨ h = { hart1 with hid := 2, turnOver := true, order := 1 } := by
      have := hh
      simp only [State.harts, twoReady, bare, State.reset, List.mem_filter, List.mem_cons, List.not_mem_nil, or_false] at this
      exact this.1
    rcases hc with rfl | rfl <;> simp [Hart.resident, hart1, Hart.vacant]
/-- An error in the last slot of v31, found on lane 63. -/
def error1 : SoftError := ⟨1, 31, 4095, true, 63⟩
theorem test_HartEvents_errors : ((1 ≤ error1.kind ∧ error1.kind ≤ 5) ∨ error1.kind = 8) ∧ error1.lane < 64 ∧ error1.hard = true ∧
    ({ error1 with kind := 8, hard := false } : SoftError).kind = 8 := by decide
theorem test_HartEvents_async : let s : State := { bare with hart := { hart1 with underflows := [5] } }
    s.hart.midConvoy = false ∧ s.hart.inSegment = false ∧ s.hart.status ≠ .logPub true ∧ s.hart.asyncSource = some (2, 5) ∧ s.hart.ie = false ∧
      ({ s.hart with tstatus := 0x10 } : Hart).ie = true ∧
      ({ s.hart with tstatus := 0x10 } : Hart).asyncSource = some (2, 5) := by decide +kernel
theorem test_HartEvents_claim : paged.hart.preempted = false ∧ 0 < 4 ∧ paged.mapped 0x20000 4 2 0x20000 ∧ lineOf (0x20000 + 4 - 1) = lineOf 0x20000 ∧ paged.claims.length < Config.sliceEntries ∧
    (let s : State := { paged with hart := { hart1 with wcbAge := [0x20000] } }; lineOf 0x20000 ∈ s.hart.wcbAge) :=
  ⟨rfl, by decide, (mapped_of_onPhys (by decide +kernel : onPhys paged 0x20000 4 2 0x20000 0x0f = true)).2.1, by decide, by decide, by decide⟩
theorem test_HartEvents_atomic : paged.hart.preempted = false ∧ paged.hart.engine = [] ∧ mapWf 0 paged.claims = true ∧ paged.atomicAt' 0x20000 4 2 (false, 0x20000) ∧
    paged.atomicAt' (ownAddr 8) 8 2 (true, 8) :=
  ⟨rfl, rfl, rfl, atomic_phys (by decide +kernel : onPhys paged 0x20000 4 2 0x20000 0x0f = true), atomic_own (by decide +kernel)⟩
/-- The engine's copy of 64 bytes from offset 64 to offset 512 of the hart's rows. -/
def copy1 : EngineOp := ⟨.bcopy, 0, 0, ownAddr 64, 64, ownAddr 512, 0, 0, 0, false, true, 0, 0, none, []⟩
theorem test_HartEvents_engine : let h : Hart := { hart1 with engine := [copy1], status := .stalled }
    h.engine = [copy1] ∧ copy1.kind = .bcopy ∧ copy1.fault = none ∧ copy1.done = 0 ∧ copy1.a = ownAddr 64 ∧ copy1.d = ownAddr 512 ∧
      h.scratchReady 64 copy1.b ∧ h.scratchOk 512 copy1.b = true ∧ copy1.desc = decide (64 < 512) ∧ h.status = .stalled :=
  ⟨rfl, rfl, rfl, rfl, rfl, rfl, ⟨by decide, by simp [hart1, Hart.vacant]⟩, by decide, by decide, rfl⟩
theorem test_HartEvents_lines : copy1.kind = .bcopy ∧ copy1.done = 0 ∧ copy1.a = ownAddr 64 ∧ copy1.d = ownAddr 512 ∧ 64 + copy1.b ≤ 2 ^ 21 ∧
    512 + copy1.b ≤ 2 ^ 21 ∧ 575 < 2 ^ 21 ∧ 512 ≤ 575 ∧ 575 < 512 + copy1.b ∧ hart1.linesLeft copy1 ≠ [] := by decide +kernel
theorem test_HartEvents_fill : (∃ o ∈ ({ hart1 with engine := [{ copy1 with kind := .tld, tcode := 2 }] } : Hart).engine, hart1.fills o 2 = true) ∧
    ∀ o ∈ paged.hart.engine, paged.hart.fills o 2 = false :=
  ⟨⟨_, List.mem_singleton.mpr rfl, rfl⟩, fun o h => by simp [paged, bare, hart1, Hart.vacant] at h⟩
/-- `gang`, whose harts all wait in the collective FENCEV, hart 2 with these ordered atomics pending. -/
def fenced (ps : List PendingAtomic) : State := { State.withJob1 paged { job1 with launches := [{ gangLaunch with coll := [0, 1], bars := [(3, [0, 1])] }] } with
  hart := { hart1 with status := .atColl }, others := [{ hart2 with status := .atColl, pending := ps }] }
/-- An ordered addition of 1 at 0x20000. -/
def pend1 : PendingAtomic := ⟨0x20000, 0x20000, 0, 1, 0, 1, 0, false⟩
theorem fenced_harts {ps : List PendingAtomic} {x : Hart} (h : x ∈ (fenced ps).harts) :
    x = { hart1 with status := .atColl } ∨ x = { hart2 with status := .atColl, pending := ps } := by
  simp only [State.harts, fenced, List.mem_filter, List.mem_cons, List.not_mem_nil, or_false] at h
  exact h.1
theorem fenced_distinct (ps : List PendingAtomic) : (fenced ps).distinct := ⟨by simp [fenced], by simp [fenced, hart1, hart2]⟩
theorem test_HartEvents_collective : let k : Launch := { gangLaunch with coll := [0, 1], bars := [(3, [0, 1])] }
    (fenced []).distinct ∧ (fenced []).launchAt 0 0 = some k ∧ k.coll.length = k.live ∧ k.pend = [] ∧
      (∀ x ∈ (fenced []).harts, x.slot = 0 → x.launchid = 0 → x.lcore < 768 ∧
        ∀ y ∈ (fenced []).harts, y.slot = 0 → y.launchid = 0 → y.lcore = x.lcore → y = x) ∧
      (∀ x ∈ (fenced []).harts, x.slot = 0 → x.launchid = 0 → x.pending = []) ∧
      (mapGet [] k.bars 3).length = k.live ∧ 0 < k.live ∧ (mapGet [] k.bars 4).length ≠ k.live := by
  refine ⟨fenced_distinct _, rfl, rfl, rfl, fun x hx _ _ => ⟨?_, fun y hy _ _ e => ?_⟩, fun x hx _ _ => ?_, rfl, by decide, by decide⟩
  · rcases fenced_harts hx with rfl | rfl <;> decide
  · rcases fenced_harts hx with rfl | rfl <;> rcases fenced_harts hy with rfl | rfl <;> first | rfl | exact absurd e (by decide)
  · rcases fenced_harts hx with rfl | rfl <;> rfl
theorem test_HartEvents_ordered : let x : Hart := { hart2 with status := .atColl, pending := [pend1] }
    x ∈ (fenced [pend1]).harts ∧ x.slot = 0 ∧ x.launchid = 0 ∧ (fenced [pend1]).unclaimed pend1.pa (fmtWidth pend1.fmt / 8) ∧
      (fenced [pend1]).poisonAt pend1.pa (fmtWidth pend1.fmt / 8) = none ∧
      ∀ y ∈ (fenced [pend1]).harts, y.slot = 0 → y.launchid = 0 → y ≠ x → y.pending = [] := by
  refine ⟨by simp [State.harts, fenced, hart1], rfl, rfl, fun _ _ _ => rfl, rfl, fun y hy _ _ hn => ?_⟩
  rcases fenced_harts hy with rfl | rfl
  · rfl
  · exact absurd rfl hn
end Sys2Proof.Tests
end

section
/-! PROOFS. What the module's own updates leave: the dusk record, cores, clusters, job slots, banks, and bytes that the controller writes. -/

namespace Sys2Proof.Machine

/-! ### The dusk record -/

/-- An event changes the record alone. -/
theorem State.log_frame (s : State) (etype blk inst a b : Nat) : s.log etype blk inst a b =
    { s with dusk := (s.log etype blk inst a b).dusk, dcnt := (s.log etype blk inst a b).dcnt } := by
  simp only [State.log]

/-- The new event stands last in the record, which drops none but older ones (R397). -/
theorem State.log_last (s : State) (etype blk inst a b : Nat) : (s.log etype blk inst a b).dusk.getLast? =
    some ⟨s.dcnt, BitVec.ofNat 64 (s.boots % 65536 * 2 ^ 48 + (Config.duskMicros s.dcnt).toNat), etype, blk, inst, BitVec.ofNat 32 a,
      BitVec.ofNat 64 b⟩ := by
  have kept : ¬ s.dusk.length + 1 ≤ s.dusk.length + 1 - Config.duskEvents := by
    have : 0 < Config.duskEvents := by decide
    omega
  simp only [State.log, List.getLast?_drop, List.length_append, List.length_cons, List.length_nil, Nat.zero_add, if_neg kept,
    List.getLast?_append, List.getLast?_singleton, Option.some_or]

/-- What an event says rests on the count of events before it alone. -/
theorem State.logged_of_dcnt {s r t : State} {etype blk inst a b : Nat} (h : r.dcnt = s.dcnt) (e : r.logged t etype blk inst a b) :
    s.logged t etype blk inst a b := by
  rw [State.logged, h] at e
  exact e

/-- Logging writes one event with its fields (R397, R398). -/
theorem State.log_logged (s : State) (etype blk inst a b : Nat) : s.logged (s.log etype blk inst a b) etype blk inst a b :=
  ⟨rfl, _, s.log_last etype blk inst a b, rfl, rfl, rfl, rfl, rfl, rfl⟩

theorem State.postAll_nil (s : State) : s.postAll [] = s := by rw [State.postAll, List.append_nil]

/-- An event as an opaque state: what it writes, and what it leaves. -/
theorem State.log_spec (s : State) (etype blk inst a b : Nat) : ∃ u, s.log etype blk inst a b = u ∧ s.logged u etype blk inst a b ∧
    u = { s with dusk := u.dusk, dcnt := u.dcnt } :=
  ⟨_, rfl, s.log_logged .., s.log_frame ..⟩

/-! ### Cores -/

/-- A core is named by its cluster and its number in the cluster, through one key. -/
theorem State.coreOf_key (s : State) {k l cl core : Nat} (h : Config.cores * k + l = Config.cores * cl + core) : s.coreOf k l = s.coreOf cl core := by
  rw [State.coreOf, State.coreOf, h]

theorem State.coreOf_congr {s t : State} (h : t.cores = s.cores) (k l : Nat) : t.coreOf k l = s.coreOf k l := by
  rw [State.coreOf, State.coreOf, h]

theorem State.coreOf_postAll (s : State) (is : List Instr) (k l : Nat) : (s.postAll is).coreOf k l = s.coreOf k l := rfl

theorem State.coreOf_setCore (s : State) (cl core k l : Nat) (c : CoreInfo) :
    (s.setCore cl core c).coreOf k l = if Config.cores * k + l = Config.cores * cl + core then c else s.coreOf k l :=
  mapGet_mapSet ..

/-- A change of a core changes that core alone. -/
theorem State.setCore_onlyCore (s : State) (cl core : Nat) (c : CoreInfo) : s.onlyCore (s.setCore cl core c) cl core c :=
  fun k l => s.coreOf_setCore cl core k l c

/-- Lane counts are fields of the cores alone. -/
theorem State.setLanes_frame (n : Nat) (cs : List (Nat × Nat)) : ∀ s : State, s.setLanes n cs = { s with cores := (s.setLanes n cs).cores } := by
  induction cs with
  | nil => intro s; rfl
  | cons c r ih => intro s; exact ih _

/-- Setting lane counts gives the listed cores the count, and leaves the others. -/
theorem State.coreOf_setLanes (n k l : Nat) (cs : List (Nat × Nat)) : ∀ s : State, (s.setLanes n cs).coreOf k l =
    if ∃ c ∈ cs, Config.cores * k + l = Config.cores * c.1 + c.2 then { s.coreOf k l with lanes := n } else s.coreOf k l := by
  induction cs with
  | nil => intro s; simp [State.setLanes]
  | cons c r ih =>
    intro s
    have step : s.setLanes n (c :: r) = (s.setCore c.1 c.2 { s.coreOf c.1 c.2 with lanes := n }).setLanes n r := rfl
    rw [step, ih, State.coreOf_setCore]
    by_cases hc : Config.cores * k + l = Config.cores * c.1 + c.2
    · simp [hc, s.coreOf_key hc]
    · rw [if_neg hc]
      by_cases hr : ∃ d ∈ r, Config.cores * k + l = Config.cores * d.1 + d.2
      · obtain ⟨d, hd, e⟩ := hr
        rw [if_pos ⟨d, hd, e⟩, if_pos ⟨d, List.mem_cons_of_mem _ hd, e⟩]
      · rw [if_neg hr, if_neg]
        rintro ⟨d, hd, e⟩
        rcases List.mem_cons.mp hd with rfl | hd
        · exact hc e
        · exact hr ⟨d, hd, e⟩

theorem State.setLanes_nil (s : State) (n : Nat) : s.setLanes n [] = s := rfl

/-- One core at a lane count is a change of that core alone. -/
theorem State.setLanes_one (s : State) (n cl core : Nat) : s.setLanes n [(cl, core)] = s.setCore cl core { s.coreOf cl core with lanes := n } := rfl

/-! ### Job slots -/

theorem modAt_getElem? {α : Type} (f : α → α) : ∀ (l : List α) (i k : Nat), (modAt f l i)[k]? = if k = i then (l[k]?).map f else l[k]?
  | [], i, k => by simp [modAt]
  | a :: l, 0, 0 => by simp [modAt]
  | a :: l, 0, k + 1 => by simp [modAt]
  | a :: l, i + 1, 0 => by simp [modAt]
  | a :: l, i + 1, k + 1 => by simp [modAt, modAt_getElem? f l i k]

/-- A slot that holds a job exists. -/
theorem State.slot_lt_of_jobOf {s : State} {i : Nat} {j : Job} (h : s.jobOf i = some j) : i < s.slots.length := by
  rcases Nat.lt_or_ge i s.slots.length with inside | outside
  · exact inside
  · have absent : s.slotOf i = JobSlot.empty := by
      rw [State.slotOf, List.getD_eq_getElem?_getD, List.getElem?_eq_none outside]
      rfl
    rw [State.jobOf, absent] at h
    cases h

/-- A change of an existing job slot changes that slot alone. -/
theorem State.updSlot_onlySlot {s : State} {i : Nat} (h : i < s.slots.length) (f : JobSlot → JobSlot) :
    s.onlySlot (s.updSlot i f) i (f (s.slotOf i)) := by
  intro k
  simp only [State.slotOf, State.updSlot, List.getD_eq_getElem?_getD, modAt_getElem?]
  by_cases hk : k = i
  · simp [hk, h]
  · simp [hk]

/-! ### Banks -/

theorem mem_insertOnce {a b : Nat} {l : List Nat} : b ∈ insertOnce a l ↔ b ∈ l ∨ b = a := by
  unfold insertOnce
  split
  · next h =>
    have : a ∈ l := by simpa using h
    constructor
    · exact .inl
    · rintro (h | rfl) <;> assumption
  · simp

/-- Steps that wake banks, after steps that wake banks. -/
theorem Wakes.trans {s t u : State} (h : Wakes s t) (k : Wakes t u) : Wakes s u := by
  obtain ⟨ws, hw, ha⟩ := h
  obtain ⟨vs, hv, hb⟩ := k
  refine ⟨ws ++ vs, by rw [hv, hw, List.append_assoc], fun i hi => ?_⟩
  rcases List.mem_append.mp hi with hi | hi
  · exact ha i hi
  · exact hb i hi

theorem Wakes.refl (s : State) : Wakes s s := ⟨[], (List.append_nil _).symm, by simp⟩

/-- An access posts nothing but the waking of banks (R22). -/
theorem State.touch_wakes (s : State) (pas : List Nat) : Wakes s (s.touch pas) := by
  unfold State.touch
  split
  · exact Wakes.refl s
  · rename_i awake
    clear awake
    generalize ((pas.map s.bankKey).eraseDups.filter s.twilight.contains) = ks
    induction ks generalizing s with
    | nil => exact Wakes.refl s
    | cons k r ih =>
      rw [List.foldl_cons]
      refine Wakes.trans ?_ (ih _)
      dsimp only
      split
      · exact Wakes.refl s
      · exact ⟨[_], rfl, fun i hi => ⟨_, _, _, List.mem_singleton.mp hi⟩⟩

/-! ### Bytes written at home -/

/-- The first write of a list decides where no later one does. -/
theorem lastWrite_cons (q : Nat × Byte) (r : List (Nat × Byte)) (a : Nat) :
    lastWrite (q :: r) a = (lastWrite r a).or (if q.1 = a then some q.2 else none) := by
  rw [lastWrite, lastWrite, List.reverse_cons, List.find?_append, Option.map_or]
  by_cases h : q.1 = a <;> simp [h]

/-- One-byte stores on top of what earlier stores left in a byte. -/
theorem lastByte_from (a : Nat) (ws : List (Nat × Byte)) : ∀ o : Option Byte, (ws.map (fun q => (q.1, [q.2]))).foldl
    (fun r (w : Nat × List Byte) => if w.1 ≤ a ∧ a < w.1 + w.2.length then some (w.2.getD (a - w.1) 0) else r) o = (lastWrite ws a).or o := by
  induction ws with
  | nil => intro o; rfl
  | cons q r ih =>
    intro o
    rw [List.map_cons, List.foldl_cons, ih, lastWrite_cons, Option.or_assoc]
    congr 1
    by_cases h : q.1 = a
    · have here : q.1 ≤ a ∧ a < q.1 + [q.2].length := by rw [List.length_singleton]; omega
      rw [if_pos here, if_pos h, h, Nat.sub_self]
      rfl
    · have away : ¬ (q.1 ≤ a ∧ a < q.1 + [q.2].length) := by rw [List.length_singleton]; omega
      rw [if_neg away, if_neg h]
      rfl

/-- A list of one-byte stores leaves in a byte what the last write to it leaves. -/
theorem lastByte_single (ws : List (Nat × Byte)) (a : Nat) : lastByte (ws.map (fun q => (q.1, [q.2]))) a = lastWrite ws a :=
  (lastByte_from a ws none).trans Option.or_none

/-- A write at home, seen byte by byte. -/
theorem State.writeMem_wrote (s : State) (k : Nat) (ws : List (Nat × Byte)) : s.wrote (s.writeMem k ws) ws := by
  intro b
  rw [State.readByte_writeMem, lastByte_single]

@[simp] theorem State.readByte_touch (s : State) (pas : List Nat) (a : Nat) : (s.touch pas).readByte a = s.readByte a := by
  rw [State.touch_frame]; rfl

/-! ### Fields of byte strings -/

/-- A field behind a byte string is a field of what follows it. -/
theorem fieldOf_append_right (a b : List Byte) (o n : Nat) : fieldOf (a ++ b) (a.length + o) n = fieldOf b o n := by
  rw [fieldOf, fieldOf, List.drop_append, List.drop_eq_nil_of_le (by omega), Nat.add_sub_cancel_left, List.nil_append]

/-- A field within the first of two byte strings. -/
theorem fieldOf_append_left (a b : List Byte) {o n : Nat} (h : o + n ≤ a.length) : fieldOf (a ++ b) o n = fieldOf a o n := by
  rw [fieldOf, fieldOf, List.drop_append_of_le_length (by omega), List.take_append_of_le_length (by rw [List.length_drop]; omega)]

/-- A number at the start of a byte string. -/
theorem fieldOf_leBytes (v n : Nat) (r : List Byte) : fieldOf (leBytes v n ++ r) 0 n = v % 256 ^ n := by
  rw [fieldOf_append_left _ _ (by simp)]
  simp [fieldOf, leNat_leBytes, List.take_of_length_le]

/-- A field behind a number at the start of a byte string. -/
theorem fieldOf_leBytes_skip (v : Nat) {n o : Nat} (r : List Byte) (m : Nat) (h : n ≤ o) :
    fieldOf (leBytes v n ++ r) o m = fieldOf r (o - n) m := by
  have := fieldOf_append_right (leBytes v n) r (o - n) m
  rwa [leBytes_length, Nat.add_sub_cancel' h] at this

/-- A field of entry `p` of a table whose entries all have `w` bytes. -/
theorem fieldOf_table {α : Type} {f : α → List Byte} {w : Nat} (hf : ∀ k, (f k).length = w) (r : List Byte) {n j : Nat} (h : j + n ≤ w) :
    ∀ (ks : List α) (p : Nat) (k : α), ks[p]? = some k → fieldOf (ks.flatMap f ++ r) (w * p + j) n = fieldOf (f k) j n
  | [], _, _, hk => by simp at hk
  | a :: ks, 0, k, hk => by
    have e : a = k := by simpa using hk
    rw [List.flatMap_cons, List.append_assoc, Nat.mul_zero, Nat.zero_add, fieldOf_append_left _ _ (by rw [hf]; exact h), e]
  | a :: ks, p + 1, k, hk => by
    have e : w * (p + 1) + j = (f a).length + (w * p + j) := by rw [hf, Nat.mul_succ]; omega
    rw [List.flatMap_cons, List.append_assoc, e, fieldOf_append_right]
    exact fieldOf_table hf r h ks p k (by simpa using hk)

end Sys2Proof.Machine
end

section
/-! PROOFS. The state after reset, and a hart where a launch places it (R5, R34, R352, R355). -/

namespace Sys2Proof.Machine

/-! ### Starting values (R34) -/

/-- A new hart's x registers: x10 holds the argument block's address, the others 0. -/
theorem Launch.newHart_getX (l : Launch) (i tvec lc cl core grant hid order r : Nat) :
    (l.newHart i tvec lc cl core grant hid order).getX r = if r = 10 then BitVec.ofNat 64 l.block.args else 0 := by
  show (if r = 0 then 0 else mapGet 0 (mapSet 0 [] 10 (BitVec.ofNat 64 l.block.args)) r) = _
  rw [mapGet_mapSet]
  by_cases h0 : r = 0
  · simp [h0]
  · simp [h0, mapGet]

/-- A new hart's writable masks are clear. -/
theorem Launch.newHart_maskBit (l : Launch) (i tvec lc cl core grant hid order e : Nat) {n : Nat} (hn : 1 ≤ n) :
    (l.newHart i tvec lc cl core grant hid order).maskBit n e = false := by
  have written : n ≠ 0 := by omega
  simp [Hart.maskBit, written, Launch.newHart, Hart.vacant, mapGet]

/-- A job slot after reset. -/
theorem State.reset_slotOf (p : Nat) : State.reset.slotOf p = JobSlot.empty := by
  show (List.replicate 6 JobSlot.empty).getD p JobSlot.empty = JobSlot.empty
  rw [List.getD_eq_getElem?_getD, List.getElem?_replicate]
  split <;> rfl

/-- Settles O45: every register file of a new hart but x is empty, so that it reads its default. -/
theorem startingValues : Obligations.StartingValues := by
  refine ⟨⟨rfl, rfl, rfl, rfl, fun p o _ => ?_, fun p _ => ?_⟩, fun l i tvec lc cl core grant hid order ha => ?_⟩
  · rw [State.reset_slotOf p]
    simp [JobSlot.reg, JobSlot.empty]
  · rw [State.reset_slotOf p]
    rfl
  · have args (r : Nat) : ((l.newHart i tvec lc cl core grant hid order).getX r).toNat = if r = 10 then l.block.args else 0 := by
      rw [Launch.newHart_getX]
      split
      · exact Nat.mod_eq_of_lt ha
      · rfl
    have handler : (l.newHart i tvec lc cl core grant hid order).tvec.toNat = tvec / 4 * 4 % 2 ^ 64 := BitVec.toNat_ofNat ..
    exact ⟨args, fun _ => rfl, fun _ _ => rfl, fun _ => rfl, fun n e hn => l.newHart_maskBit i tvec lc cl core grant hid order e hn,
      fun _ _ => rfl, fun _ => rfl, fun _ _ => rfl, fun _ => ⟨rfl, rfl⟩, fun _ _ => rfl, fun _ => rfl, fun _ => rfl, rfl, rfl, rfl, handler,
      rfl, rfl, rfl, rfl, rfl, rfl, rfl, rfl, rfl, rfl, rfl, rfl, rfl, rfl, rfl, rfl, rfl, rfl, rfl, rfl, rfl⟩

end Sys2Proof.Machine
end

section
/-! PROOFS. The module's own events: reset, readiness, levels, scrub, banks (R5, R22, R358, R384, R395 to R398). -/

namespace Sys2Proof.Machine

/-! ### Module reset (R5, R356) -/

/-- Sealing the memory of jobs changes memory, the dead ranges and the count of draws alone. -/
theorem State.sealAll_frame (ks : List Nat) : ∀ s : State, ks.foldl State.sealMemory s =
    { s with mem := (ks.foldl State.sealMemory s).mem, dead := (ks.foldl State.sealMemory s).dead, freeN := (ks.foldl State.sealMemory s).freeN } := by
  induction ks with
  | nil => intro s; rfl
  | cons k r ih => intro s; exact ih _

/-- A dead range stays dead while further memory is sealed. -/
theorem State.mem_dead_sealAll {r : Nat × Nat × Nat} (ks : List Nat) : ∀ s : State, r ∈ s.dead → r ∈ (ks.foldl State.sealMemory s).dead := by
  induction ks with
  | nil => intro s h; exact h
  | cons k ks ih => intro s h; exact ih _ (List.mem_append_right _ h)

/-- The secure memory of every sealed job is dead (R356). -/
theorem State.sealAll_dead {i pa : Nat} {r : Nat × Nat} (hr : r.1 ≤ pa ∧ pa < r.2) (ks : List Nat) : ∀ s : State, i ∈ ks → r ∈ s.secureMemory i →
    ∃ q ∈ (ks.foldl State.sealMemory s).dead, covered pa q = true := by
  induction ks with
  | nil => intro s hi; simp at hi
  | cons k ks ih =>
    intro s hi hm
    rcases List.mem_cons.mp hi with rfl | hi
    · have sealed : (r.1, r.2, s.freeN) ∈ (s.sealMemory i).dead :=
        List.mem_append_left _ (List.mem_map.mpr ⟨r, hm, rfl⟩)
      exact ⟨_, State.mem_dead_sealAll ks _ sealed, by simp [covered, hr]⟩
    · exact ih _ hi hm

/-- Module reset, but for what a trip before it writes. -/
theorem moduleReset_spec (s : State) : ∃ t, exec .moduleReset s = .next t ∧ (s.keys = [] → t.mem = s.mem ∧ t.dead = s.dead ∧ t.freeN = s.freeN) ∧
    (∀ i pa, i ∈ s.keys → (∃ r ∈ s.secureMemory i, r.1 ≤ pa ∧ pa < r.2) → ∃ r ∈ t.dead, covered pa r = true) ∧
    t = { State.reset with
      dusk := s.dusk, dcnt := s.dcnt, boots := s.boots + 1, mem := t.mem, dead := t.dead, poisoned := s.poisoned, toHost := s.toHost, freeN := t.freeN,
      nextHid := s.nextHid } := by
  refine ⟨s.restart, rfl, fun hk => ?_, fun i pa hi ⟨r, hm, hr⟩ => State.sealAll_dead hr _ _ hi hm, ?_⟩
  · simp [State.restart, hk]
  · have poisoned : (s.keys.foldl State.sealMemory s).poisoned = s.poisoned := by rw [State.sealAll_frame]
    simp [State.restart, poisoned]

/-- A trip is its dusk event, then a module reset (R396). -/
theorem thermalTrip_spec (s : State) (why reading : Nat) : ∃ u v, s.logged u 13 9 0 (3 + 4 * (why % 64)) reading ∧
    u = { s with dusk := u.dusk, dcnt := u.dcnt } ∧ exec .moduleReset u = .next v ∧ exec (.thermalTrip why reading) s = .next v :=
  ⟨_, _, s.log_logged .., s.log_frame .., rfl, rfl⟩

/-! ### Readiness (R358, R395) -/

/-- A block that is ready sets its bit and no other. -/
theorem blockReady_ready (s : State) {bit failed : Nat} (hb : bit < 16) (h : bit ≠ 8 ∨ failed = 0) : ∃ t, exec (.blockReady bit failed) s = .next t ∧
    t = { s with readyReg := t.readyReg } ∧ ∀ k, k < 16 → t.readyReg.getLsbD k = (decide (k = bit) || s.readyReg.getLsbD k) := by
  have passes : (decide (bit = 8) && decide (failed ≠ 0)) = false := by
    rcases h with h | h <;> simp [h]
  have runs : exec (.blockReady bit failed) s = .next { s with readyReg := s.readyReg ||| BitVec.ofNat 16 (2 ^ bit) } := by
    show execBlockReady bit failed s = _
    simp only [execBlockReady, passes, hb, Bool.false_eq_true, if_false, if_true]
  refine ⟨_, runs, rfl, fun k hk => ?_⟩
  simp only [BitVec.getLsbD_or, BitVec.getLsbD_ofNat, hk, decide_true, Bool.true_and, Nat.testBit_two_pow, Bool.or_comm, eq_comm]

/-- A boot stage that fails its check leaves the security processor unready, with an event. -/
theorem blockReady_failed (s : State) {failed : Nat} (h : failed ≠ 0) : ∃ t, exec (.blockReady 8 failed) s = .next t ∧
    s.logged t 12 8 0 (1 + 256 * failed) 0 ∧ t = { s with dusk := t.dusk, dcnt := t.dcnt } := by
  have runs : exec (.blockReady 8 failed) s = .next (s.log 12 8 0 (1 + 256 * failed) 0) := by
    show execBlockReady 8 failed s = _
    simp [execBlockReady, h]
  exact ⟨_, runs, s.log_logged .., s.log_frame ..⟩

/-- A host's write of a register: `dsel` alone keeps it (R350, R397). -/
theorem hostRegisterWrite_spec (s : State) (off val : Nat) :
    exec (.hostRegisterWrite off val) s = .next (if off = 0x800 then { s with dsel := BitVec.ofNat 64 val } else s) := by
  show execHostRegisterWrite off val s = _
  unfold execHostRegisterWrite
  split <;> rfl

/-! ### Levels (R74, R396) -/

/-- Cluster `c` runs a timetabled phase. -/
def State.runsTimed (s : State) (c : Nat) : Prop := ∃ i, s.slotOfCluster c = some i ∧ s.timedIn i = true

/-- One cluster as a throttle leaves it: `n` = 32 from its next boundary on, where its phase is timetabled. -/
def State.stretchOne (s : State) (c : Nat) : State := match s.slotOfCluster c with
  | none => s
  | some i => if s.timedIn i then s.setCluster c { s.clusterOf c with next := 32 } else s

theorem State.stretchAll_eq (s : State) : s.stretchAll = (upFrom 0 Config.clusters).foldl State.stretchOne s := rfl

theorem State.stretchOne_of_timed {s : State} {c : Nat} (h : s.runsTimed c) : s.stretchOne c = s.setCluster c { s.clusterOf c with next := 32 } := by
  obtain ⟨i, hi, ht⟩ := h
  simp [State.stretchOne, hi, ht]

theorem State.stretchOne_of_untimed {s : State} {c : Nat} (h : ¬ s.runsTimed c) : s.stretchOne c = s := by
  unfold State.stretchOne
  split
  · rfl
  · next i hi => exact if_neg fun ht => h ⟨i, hi, ht⟩

theorem State.stretchOne_frame (s : State) (c : Nat) : s.stretchOne c = { s with clusters := (s.stretchOne c).clusters } := by
  by_cases h : s.runsTimed c
  · rw [State.stretchOne_of_timed h]; rfl
  · rw [State.stretchOne_of_untimed h]

/-- The clusters' own fields say nothing of the jobs that they run. -/
theorem State.runsTimed_stretchOne (s : State) (k c : Nat) : (s.stretchOne k).runsTimed c ↔ s.runsTimed c := by
  rw [State.stretchOne_frame]; rfl

theorem State.clusterOf_setCluster (s : State) (c k : Nat) (x : ClusterInfo) : (s.setCluster c x).clusterOf k = if k = c then x else s.clusterOf k :=
  mapGet_mapSet ..

theorem State.clusterOf_stretchOne_timed {s : State} {c : Nat} (h : s.runsTimed c) : (s.stretchOne c).clusterOf c = { s.clusterOf c with next := 32 } := by
  rw [State.stretchOne_of_timed h, State.clusterOf_setCluster, if_pos rfl]

theorem State.clusterOf_stretchOne_other {s : State} {c k : Nat} (h : ¬ (k = c ∧ s.runsTimed k)) : (s.stretchOne c).clusterOf k = s.clusterOf k := by
  by_cases hc : s.runsTimed c
  · rw [State.stretchOne_of_timed hc, State.clusterOf_setCluster, if_neg]
    rintro rfl
    exact h ⟨rfl, hc⟩
  · rw [State.stretchOne_of_untimed hc]

theorem State.stretches_frame (cs : List Nat) : ∀ s : State, cs.foldl State.stretchOne s = { s with clusters := (cs.foldl State.stretchOne s).clusters } := by
  induction cs with
  | nil => intro s; rfl
  | cons c r ih =>
    intro s
    rw [List.foldl_cons]
    have first := s.stretchOne_frame c
    generalize s.stretchOne c = t at first
    have rest := ih t
    generalize r.foldl State.stretchOne t = u at rest
    rw [rest, first]

theorem State.clusterOf_stretches_other {k : Nat} (cs : List Nat) : ∀ s : State, ¬ (k ∈ cs ∧ s.runsTimed k) →
    (cs.foldl State.stretchOne s).clusterOf k = s.clusterOf k := by
  induction cs with
  | nil => intro s _; rfl
  | cons c r ih =>
    intro s h
    rw [List.foldl_cons, ih _ (by rw [State.runsTimed_stretchOne]; exact fun hk => h ⟨List.mem_cons_of_mem _ hk.1, hk.2⟩)]
    exact State.clusterOf_stretchOne_other fun hk => h ⟨hk.1 ▸ List.mem_cons_self, hk.2⟩

theorem State.clusterOf_stretches_timed {k : Nat} (cs : List Nat) : ∀ s : State, k ∈ cs → s.runsTimed k →
    (cs.foldl State.stretchOne s).clusterOf k = { s.clusterOf k with next := 32 } := by
  induction cs with
  | nil => intro s h; cases h
  | cons c r ih =>
    intro s h ht
    have again := (s.runsTimed_stretchOne c k).mpr ht
    rw [List.foldl_cons]
    by_cases hk : k = c
    · subst hk
      by_cases hr : k ∈ r
      · rw [ih _ hr again, State.clusterOf_stretchOne_timed ht]
      · rw [State.clusterOf_stretches_other r _ (fun x => hr x.1), State.clusterOf_stretchOne_timed ht]
    · rw [ih _ (List.mem_of_ne_of_mem hk h) again, State.clusterOf_stretchOne_other (fun x => hk x.1)]

/-- A throttle changes the clusters alone: those of timetabled phases run at n = 32 from their next boundary on. -/
theorem State.stretchAll_spec (s : State) : s.stretchAll = { s with clusters := s.stretchAll.clusters } ∧
    (∀ c, c < 6 ∧ s.runsTimed c → s.stretchAll.clusterOf c = { s.clusterOf c with next := 32 }) ∧
    (∀ c, ¬ (c < 6 ∧ s.runsTimed c) → s.stretchAll.clusterOf c = s.clusterOf c) := by
  have all (c : Nat) : c ∈ upFrom 0 Config.clusters ↔ c < 6 := by
    rw [mem_upFrom, Nat.zero_add]
    exact ⟨fun h => h.2, fun h => ⟨Nat.zero_le _, h⟩⟩
  refine ⟨State.stretches_frame _ s, fun c hc => State.clusterOf_stretches_timed _ s ((all c).mpr hc.1) hc.2, fun c hc => ?_⟩
  exact State.clusterOf_stretches_other _ s fun x => hc ⟨(all c).mp x.1, x.2⟩

/-- The pre-emptions of the harts of job slot `i`. -/
def State.jobPreemptions (s : State) (i : Nat) : List Instr := (s.harts.filter (fun h => h.slot = i && !h.preempted)).map (fun h => .preemption h.hid)

/-- Pre-empting jobs one after the other posts the pre-emptions of each. -/
theorem State.preemptJobs_eq (is : List Nat) : ∀ s : State, is.foldl State.preemptJob s = s.postAll (is.flatMap s.jobPreemptions) := by
  induction is with
  | nil => intro s; simp [State.postAll]
  | cons i r ih =>
    intro s
    rw [List.foldl_cons, ih]
    show State.postAll (s.preemptJob i) (r.flatMap s.jobPreemptions) = _
    simp [State.preemptJob, State.postAll, State.jobPreemptions]

/-- What a rise to a level posts: at level 2 every hart leaves its core. -/
def State.levelPosts (s : State) (lvl : Nat) : List Instr := if lvl = 2 then (upFrom 0 6).flatMap s.jobPreemptions else []

theorem State.mem_levelPosts {s : State} {x : Hart} (hx : x ∈ s.harts) (hs : x.slot < 6) (hp : x.preempted = false) :
    Instr.preemption x.hid ∈ s.levelPosts 2 := by
  have listed : x ∈ s.harts.filter (fun h => h.slot = x.slot && !h.preempted) := by simp [hx, hp]
  exact List.mem_flatMap.mpr ⟨x.slot, mem_upFrom.mpr ⟨Nat.zero_le _, by omega⟩, List.mem_map.mpr ⟨x, listed, rfl⟩⟩

/-- A rise of the level (R396): its event, the clocks of timetabled clusters, and what it posts. -/
theorem thermalLevelChange_eq {s : State} {lvl : Nat} (why reading : Nat) (h1 : s.health < lvl) (h2 : lvl ≤ 2) :
    exec (.thermalLevelChange lvl why reading) s =
      .next ((({ s with health := lvl } : State).log 13 9 0 (lvl + 4 * (why % 64)) reading).stretchAll.postAll (s.levelPosts lvl)) := by
  show execThermalLevelChange lvl why reading s = _
  simp only [execThermalLevelChange, h1, h2, decide_true, Bool.and_self, if_true]
  obtain ⟨frame, -, -⟩ := (({ s with health := lvl } : State).log 13 9 0 (lvl + 4 * (why % 64)) reading).stretchAll_spec
  rw [frame]
  by_cases top : lvl = 2
  · rw [if_pos top, State.preemptJobs_eq, State.levelPosts, if_pos top]
    rfl
  · rw [if_neg top, State.levelPosts, if_neg top, State.postAll_nil]

/-- What a rise of the level leaves. -/
theorem thermalLevelChange_spec (s : State) (lvl why reading : Nat) (h1 : s.health < lvl) (h2 : lvl ≤ 2) :
    ∃ t, exec (.thermalLevelChange lvl why reading) s = .next t ∧ s.logged t 13 9 0 (lvl + 4 * (why % 64)) reading ∧ t.health = lvl ∧
      (∀ c, c < 6 ∧ s.runsTimed c → t.clusterOf c = { s.clusterOf c with next := 32 }) ∧
      (∀ c, ¬ (c < 6 ∧ s.runsTimed c) → t.clusterOf c = s.clusterOf c) ∧
      (lvl = 2 → ∀ x ∈ s.harts, x.slot < 6 → x.preempted = false → Instr.preemption x.hid ∈ t.agenda) ∧ (lvl ≠ 2 → t.agenda = s.agenda) ∧
      t = { s with health := lvl, dusk := t.dusk, dcnt := t.dcnt, clusters := t.clusters, agenda := t.agenda } := by
  obtain ⟨r, hr, event, logs⟩ := ({ s with health := lvl } : State).log_spec 13 9 0 (lvl + 4 * (why % 64)) reading
  have same (c : Nat) : (r.runsTimed c ↔ s.runsTimed c) ∧ r.clusterOf c = s.clusterOf c := by rw [logs]; exact ⟨Iff.rfl, rfl⟩
  obtain ⟨frame, timed, other⟩ := r.stretchAll_spec
  obtain ⟨u, hu⟩ : ∃ u, r.stretchAll = u := ⟨_, rfl⟩
  rw [hu] at frame timed other
  rw [thermalLevelChange_eq why reading h1 h2, hr, hu]
  refine ⟨_, rfl, ?_, ?_, fun c hc => ?_, fun c hc => ?_, fun top x hx hs hp => ?_, fun top => ?_, ?_⟩
  · rw [frame]; exact State.logged_of_dcnt (s := s) rfl event
  · rw [frame, logs]; rfl
  · rw [← (same c).2]; exact timed c ⟨hc.1, (same c).1.mpr hc.2⟩
  · rw [← (same c).2]; exact other c fun x => hc ⟨x.1, (same c).1.mp x.2⟩
  · subst top
    exact List.mem_append_right _ (State.mem_levelPosts hx hs hp)
  · have quiet : s.levelPosts lvl = [] := if_neg top
    rw [frame, logs, quiet]
    exact List.append_nil _
  · rw [frame, logs]; rfl

/-- A fall of the level (R396). -/
theorem levelFall_spec {s : State} {lvl : Nat} (why reading : Nat) (h : lvl < s.health) : ∃ t, exec (.levelFall lvl why reading) s = .next t ∧
    s.logged t 13 9 0 (lvl + 4 * (why % 64)) reading ∧ t = { s with health := lvl, dusk := t.dusk, dcnt := t.dcnt } := by
  have runs : exec (.levelFall lvl why reading) s = .next (({ s with health := lvl } : State).log 13 9 0 (lvl + 4 * (why % 64)) reading) :=
    if_pos h
  exact ⟨_, runs, State.log_logged .., ({ s with health := lvl } : State).log_frame ..⟩

/-! ### Scrub and banks (R22, R384) -/

/-- A scrub of a slice in which nothing errs counts, and does nothing else. -/
theorem scrub_clean (s : State) (cl slice : Nat) : ∃ t, exec (.scrub cl ⟨slice, []⟩) s = .next t ∧
    (∀ k, mapGet 0 t.scrubs k = mapGet 0 s.scrubs k + (if k = 64 * cl + slice then 1 else 0)) ∧ t = { s with scrubs := t.scrubs } := by
  refine ⟨_, rfl, fun k => ?_, rfl⟩
  show mapGet 0 (mapSet 0 s.scrubs (64 * cl + slice) (mapGet 0 s.scrubs (64 * cl + slice) + 1)) k = _
  rw [mapGet_mapSet]
  split
  · next h => rw [h]
  · rfl

/-- The state in which a scrub has been counted. -/
def State.scrubbed (s : State) (cl slice : Nat) : State :=
  { s with scrubs := mapSet 0 s.scrubs (64 * cl + slice) (mapGet 0 s.scrubs (64 * cl + slice) + 1) }

theorem scrub_line (s : State) (cl slice a : Nat) (hard : Bool) :
    exec (.scrub cl ⟨slice, [(a, hard)]⟩) s = .next (State.scrubLine cl slice (s.scrubbed cl slice) (a, hard)) := rfl

/-- The structure of R379 of a line: 7 in main memory, 6 in the host window as a slice holds it. -/
def lineKind (line : Nat) : Nat := if line < Config.mainBytes then 7 else 6
/-- The block of R398 of a line's home. -/
def lineBlock (line : Nat) : Nat := if line < Config.mainBytes then 3 else 2

/-- An error that cannot be corrected poisons its line. -/
theorem State.scrubLine_hard {s : State} {cl slice a : Nat} (he : physExists (lineOf a) = true) (hc : s.homeCluster (lineOf a) = cl)
    (hs : homeSlice (lineOf a) = slice) : State.scrubLine cl slice s (a, true) =
      (s.markPoison (lineOf a) (lineKind (lineOf a))).log 6 (lineBlock (lineOf a)) cl (lineKind (lineOf a) + 256 * slice) (lineOf a) := by
  simp [State.scrubLine, he, hc, hs, lineKind, lineBlock]

/-- A corrected error counts, and leaves its line. -/
theorem State.scrubLine_soft {s : State} {cl slice a : Nat} (he : physExists (lineOf a) = true) (hc : s.homeCluster (lineOf a) = cl)
    (hs : homeSlice (lineOf a) = slice) : State.scrubLine cl slice s (a, false) =
      ({ s with fixes := mapSet 0 s.fixes (64 * cl + slice) (mapGet 0 s.fixes (64 * cl + slice) + 1) } : State).log 5 (lineBlock (lineOf a)) cl
        (lineKind (lineOf a) + 256 * slice + 65536 * ((mapGet 0 s.fixes (64 * cl + slice) + 1) % 65536)) (lineOf a) := by
  simp [State.scrubLine, he, hc, hs, lineKind, lineBlock]

theorem State.mem_markPoison (s : State) (line k : Nat) (l : Nat × Nat) :
    l ∈ (s.markPoison line k).poisoned ↔ (l ∈ s.poisoned ∧ l.1 ≠ line) ∨ l = (line, k) := by
  simp [State.markPoison]

/-- A scrub that meets one error: poison and an event of type 6, or a count and an event of type 5. -/
theorem scrub_error (s : State) {cl slice a : Nat} (hard : Bool) (he : physExists (lineOf a) = true) (hc : s.homeCluster (lineOf a) = cl)
    (hs : homeSlice (lineOf a) = slice) :
    let kind := if lineOf a < Config.mainBytes then 7 else 6
    let blk := if lineOf a < Config.mainBytes then 3 else 2
    let n := mapGet 0 s.fixes (64 * cl + slice) + 1
    ∃ t, exec (.scrub cl ⟨slice, [(a, hard)]⟩) s = .next t ∧
      t = { s with scrubs := t.scrubs, fixes := t.fixes, poisoned := t.poisoned, dusk := t.dusk, dcnt := t.dcnt } ∧
      (hard = true → t.fixes = s.fixes ∧ (∀ l, l ∈ t.poisoned ↔ (l ∈ s.poisoned ∧ l.1 ≠ lineOf a) ∨ l = (lineOf a, kind)) ∧
        s.logged t 6 blk cl (kind + 256 * slice) (lineOf a)) ∧
      (hard = false → t.poisoned = s.poisoned ∧ (∀ k, mapGet 0 t.fixes k = if k = 64 * cl + slice then n else mapGet 0 s.fixes k) ∧
        s.logged t 5 blk cl (kind + 256 * slice + 65536 * (n % 65536)) (lineOf a)) := by
  intro kind blk n
  refine ⟨_, scrub_line s cl slice a hard, ?_⟩
  have home : (s.scrubbed cl slice).homeCluster (lineOf a) = cl := hc
  cases hard with
  | true =>
    rw [State.scrubLine_hard he home hs]
    exact ⟨State.log_frame .., fun _ => ⟨rfl, State.mem_markPoison s _ _, State.log_logged ..⟩, nofun⟩
  | false =>
    rw [State.scrubLine_soft he home hs]
    refine ⟨State.log_frame .., nofun, fun _ => ⟨rfl, fun k => ?_, State.log_logged ..⟩⟩
    exact mapGet_mapSet s.fixes (64 * cl + slice) k n

/-- A bank at retention voltage (R22). -/
theorem bankTwilight_spec (s : State) (cl slice bank : Nat) : ∃ t, exec (.bankTwilight cl slice bank) s = .next t ∧
    (∀ k, k ∈ t.twilight ↔ k ∈ s.twilight ∨ k = 512 * cl + 8 * slice + bank) ∧ t = { s with twilight := t.twilight } :=
  ⟨_, rfl, fun _ => mem_insertOnce, rfl⟩

/-- A bank awake again (R22). -/
theorem bankWake_spec (s : State) (cl slice bank : Nat) : ∃ t, exec (.bankWake cl slice bank) s = .next t ∧
    (∀ k, k ∈ t.twilight ↔ k ∈ s.twilight ∧ k ≠ 512 * cl + 8 * slice + bank) ∧ t = { s with twilight := t.twilight } :=
  ⟨_, rfl, fun k => by simp, rfl⟩

end Sys2Proof.Machine
end

section
/-! PROOFS. Lanes of cores: retirement and lane counts, alone and of the cores that legacy launches link (R65, R68, R381 to R383). -/

namespace Sys2Proof.Machine

/-! ### The cores that change together (R68) -/

/-- No resident hart of the core is of a legacy launch. -/
def State.unlinked (s : State) (cl core : Nat) : Prop := ∀ h ∈ s.harts, h.resident cl core = true → s.legacyOf h = false

theorem Hart.resident_iff {h : Hart} {cl core : Nat} : h.resident cl core = true ↔ h.cl = cl ∧ h.core = core ∧ h.preempted = false := by
  simp [Hart.resident, and_assoc]

/-- A round keeps the cores that it starts from. -/
theorem State.mem_growCores {s : State} {cs : List (Nat × Nat)} {c : Nat × Nat} (h : c ∈ cs) : c ∈ s.growCores cs := by
  rw [State.growCores, List.mem_eraseDups]
  exact List.mem_append_left _ h

/-- A round takes in every core of a legacy launch that has a hart on one of the cores. -/
theorem State.mem_growCores_of_launch {s : State} {cs : List (Nat × Nat)} {x y : Hart} (hx : x ∈ s.harts) (xp : x.preempted = false)
    (xl : s.legacyOf x = true) (xc : (x.cl, x.core) ∈ cs) (hy : y ∈ s.harts) (yp : y.preempted = false) (hs : y.slot = x.slot)
    (hl : y.launchid = x.launchid) : (y.cl, y.core) ∈ s.growCores cs := by
  rw [State.growCores, List.mem_eraseDups]
  refine List.mem_append_right _ (List.mem_map.mpr ⟨y, List.mem_filter.mpr ⟨hy, ?_⟩, rfl⟩)
  have linked : (y.slot, y.launchid) ∈
      (s.harts.filter (fun h => !h.preempted && s.legacyOf h && cs.contains (h.cl, h.core))).map (fun h => (h.slot, h.launchid)) := by
    refine List.mem_map.mpr ⟨x, List.mem_filter.mpr ⟨hx, ?_⟩, by rw [hs, hl]⟩
    simp [xp, xl, xc]
  exact Bool.and_eq_true_iff.mpr ⟨by rw [yp]; rfl, List.contains_iff_mem.mpr linked⟩

/-- With no legacy launch on it a core grows by nothing. -/
theorem State.growCores_unlinked {s : State} {cl core : Nat} (h : s.unlinked cl core) : s.growCores [(cl, core)] = [(cl, core)] := by
  have alone : s.harts.filter (fun h => !h.preempted && s.legacyOf h && [(cl, core)].contains (h.cl, h.core)) = [] := by
    refine List.filter_eq_nil_iff.mpr fun x hx on => ?_
    simp only [Bool.and_eq_true, Bool.not_eq_true', List.contains_eq_mem, List.mem_singleton, Prod.mk.injEq, decide_eq_true_eq] at on
    obtain ⟨⟨xp, xl⟩, xcl, xcore⟩ := on
    rw [h x hx (Hart.resident_iff.mpr ⟨xcl, xcore, xp⟩)] at xl
    cases xl
  have nothing : s.harts.filter (fun h => !h.preempted && ([] : List (Nat × Nat)).contains (h.slot, h.launchid)) = [] :=
    List.filter_eq_nil_iff.mpr fun x _ on => Bool.false_ne_true ((Bool.and_eq_true_iff.mp on).2)
  rw [State.growCores, alone, List.map_nil, nothing]
  rfl

/-- Further rounds keep what a round has taken in. -/
theorem State.mem_changeSet {s : State} {c : Nat × Nat} (n : Nat) : ∀ cs : List (Nat × Nat), c ∈ cs → c ∈ s.changeSet n cs := by
  induction n with
  | zero => intro cs h; exact h
  | succ n ih =>
    intro cs h
    rw [State.changeSet]
    split
    · exact h
    · exact ih _ (State.mem_growCores h)

/-- A core changes alone where no legacy launch has a hart on it. -/
theorem State.changeWith_unlinked {s : State} {cl core : Nat} (h : s.unlinked cl core) : s.changeWith cl core = [(cl, core)] := by
  rw [State.changeWith, State.changeSet, State.growCores_unlinked h, if_pos rfl]

/-- A core changes with itself. -/
theorem State.mem_changeWith_self (s : State) (cl core : Nat) : (cl, core) ∈ s.changeWith cl core :=
  State.mem_changeSet _ _ List.mem_cons_self

/-- What the first round takes in changes with the core: a round that adds no core leaves the core alone. -/
theorem State.mem_changeWith_of_growCores {s : State} {cl core : Nat} {c : Nat × Nat} (h : c ∈ s.growCores [(cl, core)]) : c ∈ s.changeWith cl core := by
  rw [State.changeWith, State.changeSet]
  split
  · next still =>
    obtain ⟨a, ha⟩ := List.length_eq_one_iff.mp still
    have self : (cl, core) ∈ s.growCores [(cl, core)] := State.mem_growCores List.mem_cons_self
    rw [ha, List.mem_singleton] at h self
    rw [h, ← self]
    exact List.mem_cons_self
  · exact State.mem_changeSet _ _ h

/-- The cores of a legacy launch change with each of them. -/
theorem State.mem_changeWith_of_launch {s : State} {cl core : Nat} {x y : Hart} (hx : x ∈ s.harts) (xr : x.resident cl core = true)
    (xl : s.legacyOf x = true) (hy : y ∈ s.harts) (yp : y.preempted = false) (hs : y.slot = x.slot) (hl : y.launchid = x.launchid) :
    (y.cl, y.core) ∈ s.changeWith cl core := by
  obtain ⟨xcl, xcore, xp⟩ := Hart.resident_iff.mp xr
  exact State.mem_changeWith_of_growCores
    (State.mem_growCores_of_launch hx xp xl (by rw [xcl, xcore]; exact List.mem_cons_self) hy yp hs hl)

/-! ### A change of the lane count (R65, R68) -/

/-- A listed core has the lane count that was set. -/
theorem State.setLanes_lanes {s : State} {n k l : Nat} {cs : List (Nat × Nat)} (h : (k, l) ∈ cs) : ((s.setLanes n cs).coreOf k l).lanes = n := by
  rw [State.coreOf_setLanes, if_pos ⟨(k, l), h, rfl⟩]

/-- The cores that change together may run at `n` lanes. -/
def State.maySetLanes (s : State) (cl core n : Nat) : Bool :=
  (n = 64 || n = 32 || n = 16) && (s.changeWith cl core).all (fun c => s.lanesFree c.1 c.2 && decide (n ≤ (s.coreOf c.1 c.2).lmax))

theorem laneCountChange_eq (s : State) (cl core n : Nat) :
    exec (.laneCountChange cl core n) s = .next (if s.maySetLanes cl core n then s.setLanes n (s.changeWith cl core) else s) := by
  show execLaneCountChange cl core n s = _
  simp only [execLaneCountChange, State.maySetLanes]
  exact (apply_ite _ _ _ _).symm

/-- A lane-count change does nothing, or gives the core and every core of its legacy launches the count. -/
theorem laneCountChange_together (s : State) (cl core n : Nat) : ∃ t, exec (.laneCountChange cl core n) s = .next t ∧ t = { s with cores := t.cores } ∧
    (t = s ∨ (t.coreOf cl core).lanes = n ∧ ∀ x ∈ s.harts, ∀ y ∈ s.harts, x.resident cl core = true → s.legacyOf x = true → y.preempted = false →
      y.slot = x.slot → y.launchid = x.launchid → (t.coreOf y.cl y.core).lanes = n) := by
  rw [laneCountChange_eq]
  by_cases h : s.maySetLanes cl core n = true
  · rw [if_pos h]
    refine ⟨_, rfl, State.setLanes_frame .., .inr ⟨State.setLanes_lanes (s.mem_changeWith_self cl core), fun x hx y hy xr xl yp hs hl => ?_⟩⟩
    exact State.setLanes_lanes (State.mem_changeWith_of_launch hx xr xl hy yp hs hl)
  · rw [if_neg h]
    exact ⟨s, rfl, rfl, .inl rfl⟩

/-- The residents of a core without legacy launches let its lane count change at convoy boundaries of dispatched phases. -/
theorem State.lanesFree_unlinked {s : State} {cl core : Nat} (hu : s.unlinked cl core) : s.lanesFree cl core = true ↔
    s.timedCluster cl = false ∧ ∀ h ∈ s.harts, h.resident cl core = true → s.timedIn h.slot = false ∧ h.midConvoy = false := by
  simp only [State.lanesFree, Bool.and_eq_true, Bool.not_eq_true', List.all_eq_true, List.mem_filter]
  constructor
  · rintro ⟨ht, ha⟩
    exact ⟨ht, fun h hm hr => (ha h ⟨hm, hr⟩).1⟩
  · rintro ⟨ht, ha⟩
    refine ⟨ht, fun h ⟨hm, hr⟩ => ⟨ha h hm hr, ?_⟩⟩
    have modern := hu h hm hr
    unfold State.legacyOf at modern
    split
    · rfl
    · next l hl =>
      rw [hl] at modern
      dsimp only at modern
      rw [modern]
      rfl

/-- When a core without legacy launches may run at `n` lanes. -/
theorem State.maySetLanes_unlinked {s : State} {cl core n : Nat} (hu : s.unlinked cl core) : s.maySetLanes cl core n = true ↔
    (n = 16 ∨ n = 32 ∨ n = 64) ∧ s.lanesFree cl core = true ∧ n ≤ (s.coreOf cl core).lmax := by
  simp only [State.maySetLanes, State.changeWith_unlinked hu, List.all_cons, List.all_nil, Bool.and_true, Bool.and_eq_true, Bool.or_eq_true,
    decide_eq_true_eq]
  exact and_congr_left fun _ => by omega

/-- The lane count of a core without legacy launches changes where nothing forbids it. -/
theorem laneCountChange_alone {s : State} {cl core n : Nat} (hu : s.unlinked cl core) (ht : s.timedCluster cl = false)
    (hf : ∀ h ∈ s.harts, h.resident cl core = true → s.timedIn h.slot = false ∧ h.midConvoy = false) (hm : n ≤ (s.coreOf cl core).lmax)
    (hn : n = 16 ∨ n = 32 ∨ n = 64) : ∃ t, exec (.laneCountChange cl core n) s = .next t ∧ s.onlyCore t cl core { s.coreOf cl core with lanes := n } ∧
      t = { s with cores := t.cores } := by
  have may := (State.maySetLanes_unlinked hu).mpr ⟨hn, (State.lanesFree_unlinked hu).mpr ⟨ht, hf⟩, hm⟩
  rw [laneCountChange_eq, if_pos may, State.changeWith_unlinked hu, State.setLanes_one]
  exact ⟨_, rfl, s.setCore_onlyCore _ _ _, rfl⟩

/-- A timetabled phase, a hart inside a convoy or too few healthy lanes keep the lane count. -/
theorem laneCountChange_refused {s : State} {cl core n : Nat} (hu : s.unlinked cl core)
    (h : s.timedCluster cl = true ∨ (∃ h ∈ s.harts, h.resident cl core = true ∧ (s.timedIn h.slot = true ∨ h.midConvoy = true)) ∨
      (s.coreOf cl core).lmax < n) : exec (.laneCountChange cl core n) s = .next s := by
  rw [laneCountChange_eq, if_neg]
  intro may
  obtain ⟨-, free, most⟩ := (State.maySetLanes_unlinked hu).mp may
  obtain ⟨untimed, still⟩ := (State.lanesFree_unlinked hu).mp free
  rcases h with h | ⟨x, hx, xr, h⟩ | h
  · rw [h] at untimed; cases untimed
  · obtain ⟨xt, xm⟩ := still x hx xr
    rw [xt, xm] at h
    simp at h
  · omega

/-! ### Retirement of a lane (R381 to R383) -/

/-- The lanes that a core with one more retired lane may run at. -/
theorem lmaxOf_retired (r : Nat) : lmaxOf (64 - (r + 1)) = if r + 1 ≤ 32 then 32 else 16 := by
  unfold lmaxOf
  rw [if_neg (by omega)]
  by_cases h : r + 1 ≤ 32
  · rw [if_pos h, if_pos (by omega)]
  · rw [if_neg h, if_neg (by omega)]

/-- The core after a further lane of it is retired. -/
def CoreInfo.retire (c : CoreInfo) (lane : Nat) : CoreInfo :=
  { c with retired := c.retired ++ [lane], lmax := if c.retired.length + 1 ≤ 32 then 32 else 16,
           lanes := min c.lanes (if c.retired.length + 1 ≤ 32 then 32 else 16) }

/-- The cores of legacy launches that run at more lanes than the core that lost one. -/
def State.tooWide (s : State) (cl core n : Nat) : List (Nat × Nat) := (s.changeWith cl core).filter (fun k => decide (n < (s.coreOf k.1 k.2).lanes))

/-- The cores after a lane is retired. -/
def State.afterRetirement (s : State) (cl core lane : Nat) : State :=
  let c := (s.coreOf cl core).retire lane
  let t := s.setCore cl core c
  t.setLanes c.lanes (t.tooWide cl core c.lanes)

theorem State.retireLane_eq (s : State) (cl core lane n : Nat) : s.retireLane cl core lane n = (s.afterRetirement cl core lane).log 14 1 cl
    (core % 256 + 256 * lane + 65536 * ((s.coreOf cl core).retire lane).lmax) n := by
  unfold State.retireLane
  dsimp only
  rw [List.length_append, List.length_singleton, lmaxOf_retired]
  rfl

theorem State.afterRetirement_frame (s : State) (cl core lane : Nat) :
    s.afterRetirement cl core lane = { s with cores := (s.afterRetirement cl core lane).cores } :=
  State.setLanes_frame ..

/-- The core itself: the lane is retired, and its own lane count is not too wide. -/
theorem State.coreOf_afterRetirement_self (s : State) (cl core lane : Nat) :
    (s.afterRetirement cl core lane).coreOf cl core = (s.coreOf cl core).retire lane := by
  have self : (s.setCore cl core ((s.coreOf cl core).retire lane)).coreOf cl core = (s.coreOf cl core).retire lane := by
    rw [State.coreOf_setCore, if_pos rfl]
  unfold State.afterRetirement
  dsimp only
  rw [State.coreOf_setLanes, if_neg, self]
  rintro ⟨k, hk, same⟩
  have wide := (List.mem_filter.mp hk).2
  rw [State.coreOf_key _ same.symm, self] at wide
  simp at wide

/-- Any other core: as it stood, or at the lane count of the core that lost a lane. -/
theorem State.coreOf_afterRetirement_other (s : State) {cl core k l : Nat} (lane : Nat) (h : Config.cores * k + l ≠ Config.cores * cl + core) :
    (s.afterRetirement cl core lane).coreOf k l = s.coreOf k l ∨
    (s.afterRetirement cl core lane).coreOf k l = { s.coreOf k l with lanes := ((s.coreOf cl core).retire lane).lanes } := by
  unfold State.afterRetirement
  dsimp only
  rw [State.coreOf_setLanes, State.coreOf_setCore, if_neg h]
  split
  · exact .inr rfl
  · exact .inl rfl

/-- With no legacy launch on the core no other core changes. -/
theorem State.afterRetirement_unlinked {s : State} {cl core : Nat} (hu : s.unlinked cl core) (lane : Nat) :
    s.onlyCore (s.afterRetirement cl core lane) cl core ((s.coreOf cl core).retire lane) := by
  have alone : (s.setCore cl core ((s.coreOf cl core).retire lane)).changeWith cl core = [(cl, core)] := State.changeWith_unlinked hu
  have narrow : (s.setCore cl core ((s.coreOf cl core).retire lane)).tooWide cl core ((s.coreOf cl core).retire lane).lanes = [] := by
    rw [State.tooWide, alone]
    simp [State.coreOf_setCore]
  have only : s.afterRetirement cl core lane = s.setCore cl core ((s.coreOf cl core).retire lane) := by
    unfold State.afterRetirement
    dsimp only
    rw [narrow, State.setLanes_nil]
  rw [only]
  exact s.setCore_onlyCore _ _ _

/-- What a retirement posts: a core with fewer than 16 healthy lanes loses its harts, each with its gang (R382). -/
def State.retirementPosts (s : State) (cl core : Nat) : List Instr :=
  if (s.coreOf cl core).retired.length < 48 then []
  else (((s.harts.filter (Hart.resident cl core)).flatMap s.unitOf).map (·.hid)).eraseDups.map .preemption

/-- A resident hart is of its own unit. -/
theorem State.self_mem_unitOf {s : State} {h : Hart} (hm : h ∈ s.harts) (hp : h.preempted = false) : h ∈ s.unitOf h := by
  unfold State.unitOf
  split
  · simp [hm, hp]
  · exact List.mem_cons_self

theorem State.mem_retirementPosts {s : State} {cl core : Nat} (few : 48 ≤ (s.coreOf cl core).retired.length) {h k : Hart} (hm : h ∈ s.harts)
    (hr : h.resident cl core = true) (hk : k ∈ h :: s.unitOf h) : Instr.preemption k.hid ∈ s.retirementPosts cl core := by
  have unit : k ∈ s.unitOf h := by
    rcases List.mem_cons.mp hk with rfl | hk
    · exact State.self_mem_unitOf hm (Hart.resident_iff.mp hr).2.2
    · exact hk
  rw [State.retirementPosts, if_neg (by omega)]
  refine List.mem_map.mpr ⟨k.hid, ?_, rfl⟩
  rw [List.mem_eraseDups]
  exact List.mem_map.mpr ⟨k, List.mem_flatMap.mpr ⟨h, List.mem_filter.mpr ⟨hm, hr⟩, unit⟩, rfl⟩

/-- A lane that is retired already, that does not exist, or that has had no more than 16 corrections stands. -/
theorem laneRetirement_refused (s : State) {cl core lane : Nat} {corrections : Option Nat}
    (h : lane ∈ (s.coreOf cl core).retired ∨ 64 ≤ lane ∨ ∃ n, corrections = some n ∧ n ≤ 16) :
    exec (.laneRetirement cl core lane corrections) s = .next s := by
  refine if_pos ?_
  rcases h with h | h | ⟨n, rfl, h⟩ <;> simp [h]

section
variable {s : State} {cl core lane : Nat} {corrections : Option Nat}

/-- A lane to be retired: it exists, it is not retired, and it failed its self-test or had more than 16 corrections (R381). -/
structure State.retires (s : State) (cl core lane : Nat) (corrections : Option Nat) : Prop where
  small : lane < 64
  fresh : lane ∉ (s.coreOf cl core).retired
  cause : ∀ n, corrections = some n → 16 < n

theorem State.retires.passes (h : s.retires cl core lane corrections) :
    ((s.coreOf cl core).retired.contains lane || decide (lane ≥ 64) || !(corrections.isNone || decide (16 < corrections.getD 0))) = false := by
  obtain ⟨small, fresh, cause⟩ := h
  have caused : (corrections.isNone || decide (16 < corrections.getD 0)) = true := by
    cases corrections with
    | none => rfl
    | some n => simpa using cause n rfl
  rw [caused]
  simp [small, fresh]

/-- A core in a segment notes the lane for its next TTSYNC (R383). -/
theorem laneRetirement_deferred (h : s.retires cl core lane corrections) (seg : ∃ h ∈ s.harts, h.resident cl core = true ∧ h.inSegment = true) :
    exec (.laneRetirement cl core lane corrections) s =
      .next (s.setCore cl core { s.coreOf cl core with due := (s.coreOf cl core).due ++ [(lane, corrections.getD 0)] }) := by
  have timed : (s.harts.filter (Hart.resident cl core)).any Hart.inSegment = true := by
    obtain ⟨x, hx, xr, xs⟩ := seg
    exact List.any_eq_true.mpr ⟨x, List.mem_filter.mpr ⟨hx, xr⟩, xs⟩
  show execLaneRetirement cl core lane corrections s = _
  simp only [execLaneRetirement, h.passes, timed, Bool.false_eq_true, if_false, if_true]

/-- A core in no segment loses the lane at once. -/
theorem laneRetirement_now (h : s.retires cl core lane corrections) (idle : ∀ h ∈ s.harts, h.resident cl core = true → h.inSegment = false) :
    exec (.laneRetirement cl core lane corrections) s =
      .next ((s.retireLane cl core lane (corrections.getD 0)).postAll (s.retirementPosts cl core)) := by
  have untimed : (s.harts.filter (Hart.resident cl core)).any Hart.inSegment = false := by
    refine List.any_eq_false.mpr fun x hx => ?_
    obtain ⟨hm, hr⟩ := List.mem_filter.mp hx
    rw [idle x hm hr]
    exact Bool.false_ne_true
  show execLaneRetirement cl core lane corrections s = _
  simp only [execLaneRetirement, h.passes, untimed, Bool.false_eq_true, if_false, State.retirementPosts]
  by_cases enough : (s.coreOf cl core).retired.length < 48
  · rw [if_pos enough, if_pos enough, State.postAll_nil]
  · rw [if_neg enough, if_neg enough]

/-- A lane retired: the cores, and the event. -/
theorem State.retireLane_spec (s : State) (cl core lane n : Nat) : ∃ u, s.retireLane cl core lane n = u ∧
    (∀ k l, u.coreOf k l = (s.afterRetirement cl core lane).coreOf k l) ∧
    s.logged u 14 1 cl (core % 256 + 256 * lane + 65536 * ((s.coreOf cl core).retire lane).lmax) n ∧
    u = { s with cores := u.cores, dusk := u.dusk, dcnt := u.dcnt } := by
  rw [State.retireLane_eq]
  have frame := s.afterRetirement_frame cl core lane
  obtain ⟨r, hr⟩ : ∃ r, s.afterRetirement cl core lane = r := ⟨_, rfl⟩
  rw [hr] at frame ⊢
  obtain ⟨u, hu, event, logs⟩ := r.log_spec 14 1 cl (core % 256 + 256 * lane + 65536 * ((s.coreOf cl core).retire lane).lmax) n
  refine ⟨u, hu, fun k l => State.coreOf_congr (by rw [logs]) k l, State.logged_of_dcnt (by rw [frame]) event, ?_⟩
  rw [logs, frame]

/-- A lane retired at once: the core, the cores of its legacy launches, the event and the pre-emptions. -/
theorem laneRetirement_now_spec (h : s.retires cl core lane corrections) (idle : ∀ h ∈ s.harts, h.resident cl core = true → h.inSegment = false) :
    ∃ t, exec (.laneRetirement cl core lane corrections) s = .next t ∧
      t.coreOf cl core = (s.coreOf cl core).retire lane ∧
      (∀ k l, Config.cores * k + l ≠ Config.cores * cl + core → t.coreOf k l = s.coreOf k l ∨
        t.coreOf k l = { s.coreOf k l with lanes := ((s.coreOf cl core).retire lane).lanes }) ∧
      (s.unlinked cl core → s.onlyCore t cl core ((s.coreOf cl core).retire lane)) ∧
      s.logged t 14 1 cl (core % 256 + 256 * lane + 65536 * ((s.coreOf cl core).retire lane).lmax) (corrections.getD 0) ∧
      (48 < (s.coreOf cl core).retired.length + 1 → ∀ h ∈ s.harts, h.resident cl core = true → ∀ k ∈ h :: s.unitOf h,
        Instr.preemption k.hid ∈ t.agenda) ∧
      t = { s with cores := t.cores, dusk := t.dusk, dcnt := t.dcnt, agenda := t.agenda } := by
  obtain ⟨u, hu, cores, event, frame⟩ := s.retireLane_spec cl core lane (corrections.getD 0)
  rw [laneRetirement_now h idle, hu]
  refine ⟨_, rfl, ?_, fun k l hk => ?_, fun free k l => ?_, event, fun few x hx xr k hk => ?_, ?_⟩
  · rw [State.coreOf_postAll, cores]
    exact s.coreOf_afterRetirement_self cl core lane
  · rw [State.coreOf_postAll, cores]
    exact s.coreOf_afterRetirement_other lane hk
  · rw [State.coreOf_postAll, cores]
    exact State.afterRetirement_unlinked free lane k l
  · exact List.mem_append_right _ (State.mem_retirementPosts (by omega) hx xr hk)
  · rw [frame]
    rfl

end

end Sys2Proof.Machine
end

section
/-! PROOFS. The partition view: how the controller writes it, and what its fields are (R171 to R173). -/

namespace Sys2Proof.Machine

/-! ### Writing the view (R173) -/

/-- An access and a write at home change memory, what hangs on it, and what is due alone. -/
theorem State.touch_writeMem_frame (s : State) (pas : List Nat) (k : Nat) (ws : List (Nat × Byte)) : ∃ t, (s.touch pas).writeMem k ws = t ∧
    s.wrote t ws ∧ Wakes s t ∧ t = { s with mem := t.mem, links := t.links, poisoned := t.poisoned, window := t.window, dead := t.dead, agenda := t.agenda } := by
  have wakes := s.touch_wakes pas
  have bytes := s.readByte_touch pas
  have touched := s.touch_frame pas
  generalize s.touch pas = u at wakes bytes touched ⊢
  have wrote := u.writeMem_wrote k ws
  have frame := u.writeMem_frame k ws
  generalize u.writeMem k ws = t at wrote frame ⊢
  refine ⟨t, rfl, fun b => ?_, ?_, ?_⟩
  · rw [wrote b, bytes]
  · rw [frame]; exact wakes
  · rw [frame, touched]

/-- Bytes written into the mapped range of a view, all of them or those that change. -/
theorem State.viewWrote_mapped {s : State} {i view off : Nat} {bs : List Byte} {all : Bool} {pas : List Nat} {ws : List (Nat × Byte)}
    (h : s.viewRange i (view + off) bs.length = some pas) (hw : ws = (pas.zip bs).filter (fun q => all || s.readByte q.1 != q.2)) :
    s.viewWrote ((s.touch pas).writeMem 0 ws) i view off bs all := by
  obtain ⟨t, ht, wrote, wakes, frame⟩ := s.touch_writeMem_frame pas 0 ws
  rw [ht]
  refine ⟨fun qas hq => ?_, fun hn => ?_, wakes, frame⟩
  · rw [h] at hq
    cases hq
    rw [← hw]
    exact wrote
  · rw [h] at hn
    cases hn

/-- A view whose range is not mapped takes no bytes. -/
theorem State.viewWrote_unmapped {s : State} {i view off : Nat} {bs : List Byte} {all : Bool} (h : s.viewRange i (view + off) bs.length = none) :
    s.viewWrote s i view off bs all := by
  refine ⟨fun qas hq => ?_, fun _ => rfl, Wakes.refl s, rfl⟩
  rw [h] at hq
  cases hq

/-- Bytes of the view written whole. -/
theorem State.viewWrite_wrote (s : State) (i view off : Nat) (bs : List Byte) : s.viewWrote (State.viewWrite i view s (off, bs)) i view off bs true := by
  unfold State.viewWrite
  split
  · next h => exact State.viewWrote_unmapped h
  · next pas h => exact State.viewWrote_mapped h (List.filter_eq_self.mpr fun _ _ => rfl).symm

/-- The changed bytes of the view written. -/
theorem State.viewChanges_wrote (s : State) (i view : Nat) (bs : List Byte) : s.viewWrote (s.viewChanges i view bs) i view 4 bs false := by
  unfold State.viewChanges
  split
  · next h => exact State.viewWrote_unmapped h
  · next pas h => exact State.viewWrote_mapped h (List.filter_congr fun _ _ => decide_not)

/-- A write into a view leaves the job slots. -/
theorem State.viewWrote_slots {s t : State} {i view off : Nat} {bs : List Byte} {all : Bool} (h : s.viewWrote t i view off bs all) : t.slots = s.slots := by
  obtain ⟨-, -, -, frame⟩ := h
  rw [frame]

/-- The view written anew, in three writes: `gen` odd, the changed entries, `gen` even (R173). -/
theorem State.writeView_spec {w : State} {i : Nat} {j : Job} (h : w.jobOf i = some j) : ∃ u v x,
    w.viewWrote u i j.view 0 (leBytes (w.viewField i 0 4 + 1) 4) true ∧ u.viewWrote v i j.view 4 (w.viewImage i) false ∧
    v.viewWrote x i j.view 0 (leBytes (w.viewField i 0 4 + 2) 4) true ∧
    x.onlySlot (w.writeView i j.view) i { x.slotOf i with view := leBytes (w.viewField i 0 4 + 2) 4 ++ w.viewImage i } ∧
    w.writeView i j.view = { x with slots := (w.writeView i j.view).slots } := by
  have first := w.viewWrite_wrote i j.view 0 (leBytes (w.viewField i 0 4 + 1) 4)
  have second := (State.viewWrite i j.view w (0, leBytes (w.viewField i 0 4 + 1) 4)).viewChanges_wrote i j.view (w.viewImage i)
  have third := ((State.viewWrite i j.view w (0, leBytes (w.viewField i 0 4 + 1) 4)).viewChanges i j.view (w.viewImage i)).viewWrite_wrote i j.view 0
    (leBytes (w.viewField i 0 4 + 2) 4)
  refine ⟨_, _, _, first, second, third, State.updSlot_onlySlot ?_ _, rfl⟩
  rw [State.viewWrote_slots third, State.viewWrote_slots second, State.viewWrote_slots first]
  exact State.slot_lt_of_jobOf h

/-! ### The topology map (R171, R173) -/

/-- The state in which the controller has taken the changes of the map, and the views of the other jobs are due. -/
theorem State.mapChanged_eq (s : State) (i : Nat) (changes : List SwitchPort) : s.mapChanged i changes =
    { s with topo := changes.foldl mapPort s.topo, agenda := s.agenda ++ (if changes = [] then [] else
      ((List.range 6).filter (fun k => decide (k ≠ i) && (s.jobOf k).isSome)).map (fun k => Instr.viewUpdate k [])) } := by
  have six : upFrom 0 6 = List.range 6 := rfl
  cases changes with
  | nil => simp [State.mapChanged]
  | cons c r => simp [State.mapChanged, six]

/-- A view update writes the view of a slot with a job, once the map has a port. -/
theorem viewUpdate_written {s w : State} {i : Nat} {changes : List SwitchPort} {j : Job} (hw : s.mapChanged i changes = w) (hj : w.jobOf i = some j)
    (ht : w.topo ≠ []) : exec (.viewUpdate i changes) s = .next (w.writeView i j.view) := by
  have mapped : w.topo.isEmpty = false := by simpa using ht
  show execViewUpdate i changes s = _
  simp only [execViewUpdate, hw, hj, mapped, Bool.false_eq_true, if_false]

/-- With no job, or while the map is empty, nothing is written. -/
theorem viewUpdate_unwritten {s w : State} {i : Nat} {changes : List SwitchPort} (hw : s.mapChanged i changes = w)
    (h : w.jobOf i = none ∨ w.topo = []) : exec (.viewUpdate i changes) s = .next w := by
  show execViewUpdate i changes s = _
  simp only [execViewUpdate, hw]
  rcases h with h | h
  · rw [h]
  · rw [h]
    cases w.jobOf i <;> rfl

/-- A port listed anew replaces that of its plane and switch port (R171). -/
theorem mem_mapPort (m : List SwitchPort) (e f : SwitchPort) : f ∈ mapPort m e ↔ f = e ∨ (f ∈ m ∧ ¬ (f.plane = e.plane ∧ f.sw = e.sw)) := by
  simp only [mapPort, List.mem_append, List.mem_filter, List.mem_singleton, ← Bool.decide_and, ← decide_not, decide_eq_true_eq]
  exact or_comm

/-! ### The fields of the view (R172) -/

/-- The fabric ports of cluster `c` are those of a partition exactly when the partition has the cluster. -/
theorem clusterPorts_filter (clus c : Nat) : (upFrom (16 * c) 16).filter (fun k => clus.testBit (k / 16)) =
    if clus / 2 ^ c % 2 = 1 then upFrom (16 * c) 16 else [] := by
  have here (k : Nat) (hk : k ∈ upFrom (16 * c) 16) : k / 16 = c := by
    have := mem_upFrom.mp hk
    omega
  by_cases h : clus / 2 ^ c % 2 = 1
  · rw [if_pos h, List.filter_eq_self]
    intro k hk
    rw [here k hk, Nat.testBit_eq_decide_div_mod_eq, decide_eq_true h]
  · rw [if_neg h, List.filter_eq_nil_iff]
    intro k hk
    rw [here k hk, Nat.testBit_eq_decide_div_mod_eq, decide_eq_true_iff]
    exact h

/-- The ports of the clusters of a partition, cluster by cluster or port by port. -/
theorem State.fabricPorts_eq (s : State) (i : Nat) : s.fabricPorts i = s.partitionPorts i := by
  have all : List.range 96 = (upFrom 0 6).flatMap (fun c => upFrom (16 * c) 16) := rfl
  have listed (p : Nat → Bool) (f : Nat → List Nat) (cs : List Nat) : (cs.filter p).flatMap f = cs.flatMap (fun c => if p c then f c else []) := by
    induction cs with
    | nil => rfl
    | cons c r ih => by_cases h : p c <;> simp [h, ih]
  rw [State.partitionPorts, all, List.filter_flatMap, State.fabricPorts, clustersOf, listed]
  refine congrArg (List.flatMap · _) (funext fun c => ?_)
  rw [clusterPorts_filter]
  simp

/-- The 60 bytes of a view between `gen` and the port table. -/
def State.viewHeader (s : State) (i : Nat) : List Byte :=
  leBytes s.module_ 2 ++ (leBytes (s.slotOf i).part 2 ++ (leBytes (s.partitionPorts i).length 2 ++
    (leBytes (s.viewModules (s.slotOf i).part (s.partitionPorts i)).length 2 ++ (leBytes 0 4 ++ (leBytes 64 8 ++
      (leBytes (64 + 8 * (s.partitionPorts i).length) 8 ++ leBytes 0 32))))))

theorem State.viewHeader_length (s : State) (i : Nat) : (s.viewHeader i).length = 60 := by
  simp [State.viewHeader]

/-- A view is its header, its port table and its module table. -/
theorem State.viewImage_eq (s : State) (i : Nat) : s.viewImage i = s.viewHeader i ++ ((s.partitionPorts i).flatMap s.portEntry ++
    (s.viewModules (s.slotOf i).part (s.partitionPorts i)).flatMap (s.moduleEntry (s.slotOf i).part (s.partitionPorts i))) := by
  simp only [State.viewImage, State.fabricPorts_eq, State.viewHeader, List.append_assoc]

/-- The fields of the header, where module, partition and the count of ports fit. -/
theorem State.viewHeader_fields (s : State) (i : Nat) (hm : s.module_ < 65536) (hp : (s.slotOf i).part < 65536) (r : List Byte) :
    let bs := s.viewHeader i ++ r
    fieldOf bs 0 2 = s.module_ ∧ fieldOf bs 2 2 = (s.slotOf i).part ∧ fieldOf bs 4 2 = (s.partitionPorts i).length ∧ fieldOf bs 12 8 = 64 ∧
    fieldOf bs 20 8 = 64 + 8 * (s.partitionPorts i).length := by
  have few : (s.partitionPorts i).length ≤ 96 := by
    have := List.length_filter_le (fun k => (s.slotOf i).clus.testBit (k / 16)) (List.range 96)
    rwa [List.length_range] at this
  simp (disch := omega) only [State.viewHeader, List.append_assoc, fieldOf_leBytes, fieldOf_leBytes_skip, Nat.reduceSub, Nat.reducePow, Nat.mod_eq_of_lt,
    and_self]

/-- Every port entry has eight bytes. -/
theorem State.portEntry_length (s : State) (k : Nat) : (s.portEntry k).length = 8 := by
  unfold State.portEntry
  split <;> simp

/-- A field of port entry `p`. -/
theorem State.viewImage_port (s : State) {i p k : Nat} (hk : (s.partitionPorts i)[p]? = some k) {j n : Nat} (h : j + n ≤ 8) :
    fieldOf (s.viewImage i) (60 + 8 * p + j) n = fieldOf (s.portEntry k) j n := by
  have place : 60 + 8 * p + j = (s.viewHeader i).length + (8 * p + j) := by rw [State.viewHeader_length]; omega
  rw [State.viewImage_eq, place, fieldOf_append_right, fieldOf_table s.portEntry_length _ h _ p k hk]

/-- The fields of the entry of a cabled port, where they fit. -/
theorem State.portEntry_fields {s : State} {k : Nat} {e : SwitchPort} (he : s.cableOf k = some e) (h1 : e.plane < 256) (h2 : e.sw < 65536)
    (h3 : (s.portAt k).rko < 256) (h4 : (s.portAt k).rki < 256) :
    fieldOf (s.portEntry k) 0 1 = e.plane ∧ fieldOf (s.portEntry k) 1 1 = ((s.portAt k).up && e.up).toNat ∧ fieldOf (s.portEntry k) 2 2 = e.sw ∧
    fieldOf (s.portEntry k) 4 1 = (s.portAt k).rko ∧ fieldOf (s.portEntry k) 5 1 = (s.portAt k).rki := by
  have bit := Bool.toNat_lt ((s.portAt k).up && e.up)
  simp (disch := omega) only [State.portEntry, he, List.append_assoc, fieldOf_leBytes, fieldOf_leBytes_skip, Nat.reduceSub, Nat.reducePow,
    Nat.mod_eq_of_lt, and_self]

/-- The fields of a view: its header, and the entries of its cabled ports. -/
theorem State.viewImage_fields (s : State) (i : Nat) (hm : s.module_ < 65536) (hp : (s.slotOf i).part < 65536) :
    let bs := s.viewImage i
    let ks := s.partitionPorts i
    fieldOf bs 0 2 = s.module_ ∧ fieldOf bs 2 2 = (s.slotOf i).part ∧ fieldOf bs 4 2 = ks.length ∧ fieldOf bs 12 8 = 64 ∧
    fieldOf bs 20 8 = 64 + 8 * ks.length ∧
    ∀ p k e, ks[p]? = some k → s.cableOf k = some e → e.plane < 256 → e.sw < 65536 → (s.portAt k).rko < 256 → (s.portAt k).rki < 256 →
      fieldOf bs (60 + 8 * p) 1 = e.plane ∧ fieldOf bs (61 + 8 * p) 1 = ((s.portAt k).up && e.up).toNat ∧ fieldOf bs (62 + 8 * p) 2 = e.sw ∧
      fieldOf bs (64 + 8 * p) 1 = (s.portAt k).rko ∧ fieldOf bs (65 + 8 * p) 1 = (s.portAt k).rki := by
  have header := s.viewHeader_fields i hm hp ((s.partitionPorts i).flatMap s.portEntry ++
    (s.viewModules (s.slotOf i).part (s.partitionPorts i)).flatMap (s.moduleEntry (s.slotOf i).part (s.partitionPorts i)))
  rw [← State.viewImage_eq] at header
  obtain ⟨f0, f2, f4, f12, f20⟩ := header
  refine ⟨f0, f2, f4, f12, f20, fun p k e hk he h1 h2 h3 h4 => ?_⟩
  have entry (o j n : Nat) (ho : o = 60 + j) (h : j + n ≤ 8) : fieldOf (s.viewImage i) (o + 8 * p) n = fieldOf (s.portEntry k) j n := by
    have place : o + 8 * p = 60 + 8 * p + j := by omega
    rw [place, s.viewImage_port hk h]
  rw [entry 60 0 1 rfl (by omega), entry 61 1 1 rfl (by omega), entry 62 2 2 rfl (by omega), entry 64 4 1 rfl (by omega), entry 65 5 1 rfl (by omega)]
  exact State.portEntry_fields he h1 h2 h3 h4

end Sys2Proof.Machine
end

section
/-! PROOFS. The obligation of the module's own events. -/

namespace Sys2Proof.Machine

/-- Settles O59: event by event, each from what its step leaves and what frames it. -/
theorem moduleEvents : Obligations.ModuleEvents := by
  refine ⟨fun s => ?_, fun s bit failed => ⟨fun hb h => blockReady_ready s hb h, fun h => blockReady_failed s h⟩, fun s => rfl, hostRegisterWrite_spec,
    fun s lvl why reading => ⟨fun h1 h2 => ?_, fun h => levelFall_spec why reading h⟩,
    fun s cl slice bank => ⟨scrub_clean s cl slice, fun a hard he hc hs => scrub_error s hard he hc hs, bankTwilight_spec s cl slice bank,
      bankWake_spec s cl slice bank⟩,
    fun s w i changes hw => ⟨fun j hj ht => ?_, fun h => ?_⟩, mem_mapPort, State.viewImage_fields,
    fun s cl core lane corrections c hc => ?_, fun s cl core n => ?_⟩
  · obtain ⟨t, runs, keyless, dead, frame⟩ := moduleReset_spec s
    exact ⟨t, runs, keyless, dead, frame, thermalTrip_spec s⟩
  · obtain ⟨t, runs, event, level, timed, other, hold, quiet, frame⟩ := thermalLevelChange_spec s lvl why reading h1 h2
    refine ⟨t, runs, event, level, fun c => ?_, hold, quiet, frame⟩
    split
    · next h => exact timed c h
    · next h => exact other c h
  · have map := (s.mapChanged_eq i changes).trans hw.symm
    have job : w.jobOf i = some j := by rw [hw]; exact hj
    obtain ⟨u, v, x, first, second, third, slot, frame⟩ := State.writeView_spec job
    exact ⟨u, v, x, _, viewUpdate_written map job ht, first, second, third, slot, frame⟩
  · have map := (s.mapChanged_eq i changes).trans hw.symm
    exact viewUpdate_unwritten map (h.imp_left fun none => by rw [hw]; exact none)
  · subst hc
    refine ⟨laneRetirement_refused s, fun small fresh cause => ?_⟩
    have retires : s.retires cl core lane corrections := ⟨small, fresh, cause⟩
    refine ⟨fun seg => ⟨_, laneRetirement_deferred retires seg, s.setCore_onlyCore _ _ _, rfl⟩, fun idle => ?_⟩
    obtain ⟨t, runs, self, other, only, event, few, frame⟩ := laneRetirement_now_spec retires idle
    refine ⟨t, runs, fun m hm => ?_, few, frame⟩
    subst hm
    exact ⟨self, other, only, event⟩
  · exact ⟨laneCountChange_together s cl core n, fun unlinked =>
      ⟨fun ht hf hm hn => laneCountChange_alone unlinked ht hf hm hn, laneCountChange_refused unlinked⟩⟩

end Sys2Proof.Machine
end

section
/-! PROOFS. The branches of the vector loops: masks as sets of elements, the turn of the rotating masks, VLOOP, VBANY and VBNONE (R14, R44, R225,
R226). -/

namespace Sys2Proof.Machine

/-! ### Elements of a mask below a bound -/

/-- A run of ones from 0 on holds the elements below its length, as far as a mask has them. -/
theorem getLsbD_onesTo (n k : Nat) : (onesTo n).getLsbD k = decide (k < 4096 ∧ k < n) := by
  rw [onesTo, BitVec.getLsbD_ofNat, Nat.testBit_two_pow_sub_one, Bool.decide_and]

/-- The test of the loop branches: a mask has a bit under a run of ones exactly when it has an element below the run's length (R225, R226). -/
theorem Hart.getMask_and_onesTo_ne_zero (h : Hart) (m n : Nat) : (h.getMask m &&& onesTo n) ≠ 0 ↔ h.anyBelow m n = true := by
  have bit (k : Nat) : (h.getMask m &&& onesTo n).getLsbD k = true ↔ k < min n 4096 ∧ h.maskBit m k = true := by
    rw [BitVec.getLsbD_and, getLsbD_onesTo, Bool.and_eq_true, decide_eq_true_eq, Nat.lt_min, and_comm, and_comm (a := k < 4096)]
    exact and_congr_right fun ⟨_, hk⟩ => by rw [h.maskBit_eq m hk]
  rw [Hart.anyBelow, List.any_eq_true]
  constructor
  · refine fun nonzero => Decidable.byContradiction fun empty => nonzero (BitVec.eq_of_getLsbD_eq fun k _ => ?_)
    rw [Bool.eq_false_iff.mpr fun set => empty ⟨k, List.mem_range.mpr ((bit k).mp set).1, ((bit k).mp set).2⟩]
    exact BitVec.getLsbD_zero.symm
  · rintro ⟨k, below, set⟩ zero
    have := (bit k).mpr ⟨List.mem_range.mp below, set⟩
    rw [zero] at this
    exact absurd this (by simp)

/-! ### The branch -/

/-- A vector loop branch changes the pc and ends the stay inside a convoy; nothing else. -/
theorem State.vbranch_eq (s : State) (c : Bool) (off : Int) : s.vbranch c off = .next { s with hart := { s.hart with
    resumeMid := false, pc := if c then s.hart.pc + BitVec.ofInt 64 (4 * off) else s.hart.pc + 4 } } := by
  cases c <;> rfl

/-- VBANY branches when its mask has an element below `vl` (R226). -/
theorem execVbany_eq (k : Nat) (off : Int) (s : State) : execVbany k off s = .next { s with hart := { s.hart with
    resumeMid := false, pc := if s.hart.anyBelow k s.hart.vl then s.hart.pc + BitVec.ofInt 64 (4 * off) else s.hart.pc + 4 } } := by
  rw [execVbany, State.vbranch_eq]
  simp only [Hart.getMask_and_onesTo_ne_zero, decide_eq_true_eq]

/-- VBNONE branches when its mask has no element below `vl` (R226). -/
theorem execVbnone_eq (k : Nat) (off : Int) (s : State) : execVbnone k off s = .next { s with hart := { s.hart with
    resumeMid := false, pc := if s.hart.anyBelow k s.hart.vl then s.hart.pc + 4 else s.hart.pc + BitVec.ofInt 64 (4 * off) } } := by
  have clear : (s.hart.getMask k &&& onesTo s.hart.vl) = 0 ↔ ¬ s.hart.anyBelow k s.hart.vl = true := by
    rw [← Hart.getMask_and_onesTo_ne_zero, Decidable.not_not]
  rw [execVbnone, State.vbranch_eq]
  simp only [clear, decide_eq_true_eq, ite_not]

/-! ### The turn of the rotating masks -/

/-- A decrement of `vrot` renames every rotating mask but the last as the next one (R14, R44). -/
theorem Hart.physM_turned {h k : Hart} (turn : k.vrot = h.vrot - 1) {n : Nat} (h5 : 5 ≤ n) (h8 : n < 8) : k.physM n = h.physM (n - 1) := by
  rw [Hart.physM, Hart.physM, turn, if_neg (by omega), if_neg (by omega)]
  have := h.vrot.isLt
  have : (h.vrot - 1).toNat = (h.vrot.toNat + 7) % 8 := by rw [BitVec.toNat_sub]; simp; omega
  omega

/-- The masks m0 to m3 do not turn. -/
theorem Hart.getMask_fixed {h k : Hart} (masks : k.m = h.m) {n : Nat} (h4 : n < 4) : k.getMask n = h.getMask n := by
  rw [Hart.getMask, Hart.getMask, Hart.physM, Hart.physM, if_pos h4, if_pos h4, masks]

/-- After a decrement of `vrot` each of m5 to m7 reads the mask named one lower before. -/
theorem Hart.getMask_turned {h k : Hart} (masks : k.m = h.m) (turn : k.vrot = h.vrot - 1) {n : Nat} (h5 : 5 ≤ n) (h8 : n < 8) :
    k.getMask n = h.getMask (n - 1) := by
  rw [Hart.getMask, Hart.getMask, if_neg (by omega), if_neg (by omega), masks, Hart.physM_turned turn h5 h8]

/-! ### VLOOP -/

/-- The hart of a VLOOP once xa has counted down and the registers have turned, before m4 is written (R14). -/
def Hart.turned (h : Hart) (a : Nat) : Hart := { h.setX a (BitVec.ofNat 64 ((h.getX a).toNat - 1)) with vrot := h.vrot - 1 }

/-- The hart of a VLOOP before its branch: m4 is all-ones while the count goes on (R14). -/
def Hart.looped (h : Hart) (a : Nat) : Hart :=
  (h.turned a).setMask 4 (if (h.getX a).toNat - 1 ≠ 0 then onesTo h.vlmax else 0) (upFrom 0 h.vlmax)

theorem Hart.turned_frame (h : Hart) (a : Nat) : h.turned a = { h with x := (h.turned a).x, vrot := h.vrot - 1 } := by
  rw [Hart.turned, Hart.setX_frame]

theorem Hart.turned_vlmax (h : Hart) (a : Nat) : (h.turned a).vlmax = h.vlmax := by
  rw [h.turned_frame]; rfl

/-- Before its branch a VLOOP changes x, the masks with their marks and poison, and `vrot`. -/
theorem Hart.looped_frame (h : Hart) (a : Nat) : h.looped a = { h with
    x := (h.looped a).x, m := (h.looped a).m, vrot := h.vrot - 1, vdirty := (h.looped a).vdirty, poison := (h.looped a).poison } := by
  rw [Hart.looped, Hart.setMask_frame, h.turned_frame]

theorem Hart.looped_pc (h : Hart) (a : Nat) : (h.looped a).pc = h.pc := by rw [h.looped_frame]
theorem Hart.looped_vrot (h : Hart) (a : Nat) : (h.looped a).vrot = h.vrot - 1 := by rw [h.looped_frame]
theorem Hart.looped_wcb (h : Hart) (a : Nat) : (h.looped a).wcb = h.wcb := by rw [h.looped_frame]
theorem Hart.looped_scratch (h : Hart) (a : Nat) : (h.looped a).scratch = h.scratch := by rw [h.looped_frame]
theorem Hart.looped_vlmax (h : Hart) (a : Nat) : (h.looped a).vlmax = h.vlmax := by rw [h.looped_frame]; rfl

/-- VLOOP counts xa down to 0 and no further; x0 stays 0. -/
theorem Hart.getX_looped (h : Hart) (a r : Nat) :
    (h.looped a).getX r = if r = a then BitVec.ofNat 64 ((h.getX a).toNat - 1) else h.getX r := by
  have x : (h.looped a).x = (h.setX a (BitVec.ofNat 64 ((h.getX a).toNat - 1))).x := Hart.setMask_x ..
  rw [Hart.getX, x, ← Hart.getX, Hart.getX_setX]
  by_cases ha : a = 0
  · subst ha
    by_cases hr : r = 0 <;> simp [hr]
  · simp only [ne_eq, ha, not_false_eq_true, and_true]

/-- The masks after a VLOOP, before its branch: m4 is new, m1 to m3 stand, each other one is the mask named one lower before (R14, R44). -/
theorem Hart.getMask_looped (h : Hart) (a : Nat) {n : Nat} (h8 : n < 8) : (h.looped a).getMask n =
    if n < 4 then h.getMask n else if n = 4 then (if (h.getX a).toNat - 1 ≠ 0 then onesTo h.vlmax else 0) else h.getMask (n - 1) := by
  have masks : (h.turned a).m = h.m := by rw [h.turned_frame]
  rw [Hart.looped, Hart.getMask_setMask _ _ _ (by omega) h8]
  by_cases h4 : n < 4
  · rw [if_neg (by omega), if_pos h4, Hart.getMask_fixed masks h4]
  · by_cases hn : n = 4
    · rw [if_pos ⟨hn, by omega⟩, if_neg h4, if_pos hn]
    · rw [if_neg (by omega), if_neg h4, if_neg hn, Hart.getMask_turned masks rfl (by omega) h8]

/-- The new m4 has every element of [0, VLMAX) while the count goes on, and none after it (R14). -/
theorem Hart.maskBit_looped (h : Hart) (a : Nat) {k : Nat} (hk : k < 4096) :
    (h.looped a).maskBit 4 k = decide (1 < (h.getX a).toNat ∧ k < h.vlmax) := by
  rw [Hart.maskBit_eq _ _ hk, h.getMask_looped a (by omega), if_neg (by omega), if_pos rfl]
  by_cases more : 1 < (h.getX a).toNat
  · rw [if_pos (by omega), getLsbD_onesTo]
    simp only [hk, more, true_and]
  · rw [if_neg (by omega)]
    simp [more]

/-- VLOOP is its change of the hart, and then a branch while one of its masks has an element (R14, R225). -/
theorem execVloop_eq (e a : Nat) (off : Int) (s : State) : execVloop e a off s = .next { s with hart := { s.hart.looped a with
    resumeMid := false,
    pc := if (List.range (e + 1)).any (fun n => (s.hart.looped a).anyBelow (4 + n) s.hart.vlmax) then s.hart.pc + BitVec.ofInt 64 (4 * off)
      else s.hart.pc + 4 } } := by
  have runs : execVloop e a off s = { s with hart := s.hart.looped a }.vbranch
      ((upFrom 4 (e + 1)).any (fun m => ((s.hart.looped a).getMask m &&& onesTo (s.hart.looped a).vlmax) ≠ 0)) off := by
    rw [Hart.looped, ← s.hart.turned_vlmax a]
    rfl
  rw [runs, State.vbranch_eq, upFrom_map_add, List.any_map]
  simp only [Function.comp_def, Hart.getMask_and_onesTo_ne_zero, Bool.decide_eq_true, Hart.looped_vlmax, Hart.looped_pc]

/-- Settles O12: VLOOP from the hart it leaves before its branch, VBANY and VBNONE from their branches. -/
theorem loopControl : Obligations.LoopControl := by
  refine ⟨fun s e a off _ => ⟨_, execVloop_eq e a off s, s.hart.getX_looped a, s.hart.looped_vrot a, fun k hk => s.hart.maskBit_looped a hk,
    fun n _ h4 => ?_, fun n h5 h8 => ?_, rfl, ⟨fun _ => rfl, State.peek_congr (s.hart.looped_wcb a) rfl rfl, fun o => ?_⟩, ?_⟩,
    fun s k off => ⟨execVbany_eq k off s, execVbnone_eq k off s⟩⟩
  · exact (s.hart.getMask_looped a (by omega)).trans (if_pos h4)
  · exact (s.hart.getMask_looped a h8).trans (by rw [if_neg (by omega), if_neg (by omega)])
  · exact congrArg (mapGet 0 · o) (s.hart.looped_scratch a)
  · rw [s.hart.looped_frame a]

end Sys2Proof.Machine
end
